-- ==== Sys2Proof/Word.lean ====
section
/-! DEFINITION. The word types of the machine (R5) and their plainest arithmetic. -/
namespace Sys2Proof

/-- A byte of memory. -/
abbrev Byte := BitVec 8
/-- A 32-bit word: an instruction word, a G or K register. -/
abbrev Word := BitVec 32
/-- A 64-bit word: an A register, a G or K pair. -/
abbrev DWord := BitVec 64

/-- The doubleword with the given low and high words. -/
def pairOf (lo hi : Word) : DWord := hi ++ lo

/-- Low word of a doubleword. -/
def lowWord (v : DWord) : Word := v.setWidth 32

/-- High word of a doubleword. -/
def highWord (v : DWord) : Word := (v >>> 32).setWidth 32

/-- Sign extension of a word to 64 bits. -/
def sext32 (v : Word) : DWord := v.signExtend 64

/-- Zero extension of a word to 64 bits. -/
def zext32 (v : Word) : DWord := v.setWidth 64

end Sys2Proof
end

