-- ==== Sys2Proof/Config.lean ====
section
/-! DEFINITION. What one part fixes (R1, R2, R342) and the free values: values that the manual leaves
open. A free value has no body, so nothing can be proved about which value it is (log entry 4). -/
namespace Sys2Proof.Config

/-- Compute dies, sockets 0 to 7 (R342). -/
def computeDies : Nat := 8
/-- Bays of a compute die (R2). -/
def baysPerDie : Nat := 12
/-- Lane cores of a bay; core 4 is the joiner core (R2, R44). -/
def coresPerBay : Nat := 4
/-- Lanes of a weave (R2). -/
def lanesPerWeave : Nat := 64
/-- Resident weaves of a core (R30). -/
def weavesPerCore : Nat := 32
/-- Group slots of a core (R30). -/
def groupSlots : Nat := 16
/-- Bytes of a core's A-store (R30). -/
def aStoreBytes : Nat := 524288
/-- Bytes of a bay's W-store (R165). -/
def wStoreBytes : Nat := 4194304
/-- Bytes of a bay's C-store (R165). -/
def cStoreBytes : Nat := 1048576
/-- Bytes of one memory die: two stacks of 96 GB (R2, R342). -/
def memoryDieBytes : Nat := 192000000000
/-- Records of a die's launch pool (R241). -/
def launchPool : Nat := 4096
/-- Deepest launch (R241). -/
def depthLimit : Nat := 24
/-- Entries of a bay's lapidary queue, and how many it works on at once (R70). -/
def lapidaryQueue : Nat := 64
/-- Requests the lapidary works on at once (R70). -/
def lapidaryActive : Nat := 8
/-- Entries of a bay's matrix command queue (R180). -/
def matrixQueue : Nat := 32
/-- Kicks a kick register holds (R173). -/
def kickDepth : Nat := 16
/-- TOPK claims of a bay (R260). -/
def topkClaims : Nat := 64
/-- Tokens of a group's cut set (R283). -/
def cutSetSize : Nat := 64
/-- Lines of a sealed version (R248). -/
def sealedLines : Nat := 2048
/-- Slots of a fibre table (R22). -/
def fibreSlots : Nat := 8

/-- A byte the manual leaves undefined: contents of a store taken over from the same domain (R36),
the destination of a failed drive read (R265). Applied to a counter of State. Log entry 4. -/
opaque freeByte : Nat → Nat → Byte
/-- A 64-bit value the manual leaves undefined, applied to a counter of State. Log entry 4. -/
opaque freeDWord : Nat → DWord
/-- The certificate chain (R352): its bytes are the vendor's. Log entry 12. -/
opaque certificate : Nat → Byte
/-- Length of the certificate chain in bytes. Log entry 12. -/
opaque certificateLength : Nat
/-- SHA-512 of a byte string (R351, R352), a standard outside the manual. Log entry 12. -/
opaque sha512 : List Byte → BitVec 512
/-- Ed25519 verification (RFC 8032) under the fused key of an index (R351). Log entry 12. -/
opaque signatureValid : Nat → BitVec 512 → List Byte → Bool
/-- The digests of the images the part is delivered with (R352): boot firmware in slots A and B, runtime image in slots A
and B. Log entry 12. -/
opaque imageDigest : Nat → BitVec 512
/-- The Ed25519 signature the device makes over a message (R352). Log entry 12. -/
opaque deviceSign : List Byte → BitVec 512
/-- A reading of a PCIe device's own registers (region 0x3, R344). Log entry 4. -/
opaque deviceByte : Nat → Nat → Byte

end Sys2Proof.Config
end

