-- ==== Sys2Proof/Syntax.lean ====
section
/-! DEFINITION. The instructions and events of spec/opcode_table.json, one constructor per row. Words are decoded once
(Decode.lean); the machine sees operands, never raw fields. An event row has no words: it is a step
of an engine or of the outside world, and its constructor carries what the manual leaves open about it. -/
namespace Sys2Proof

/-- The four encoding forms of an instruction (R101, Table 41). -/
inductive Form where
  | base | ext | extLit | baseLit
deriving DecidableEq, Repr

/-- An operand slot (R113, Table 19): unused, an immediate (R116), or a register of one class. -/
inductive Opnd where
  | none
  | imm
  | g (i : BitVec 6)
  | x (i : BitVec 5)
  | a (i : BitVec 4)
  | p (i : BitVec 3)
  | q (i : BitVec 3)
  | k (i : BitVec 7)
deriving DecidableEq, Repr

/-- The operands of an instruction, whatever its form. `mod` holds the modifier bits of Table 43 (a base FN
stands at the bits the same modifier has in MOD, Table 52); `imm22` is IMM22, a base immediate or
displacement; `lit` is the literal of R111 and R116. -/
structure Op where
  form  : Form := .ext
  un    : Bool := false
  mod   : BitVec 16 := 0
  d     : Opnd := .none
  a     : Opnd := .none
  b     : Opnd := .none
  c     : Opnd := .none
  imm22 : BitVec 22 := 0
  lit   : Option DWord := none
  scope : BitVec 4 := 0
  neg   : Bool := false
  pred  : BitVec 3 := 7
deriving DecidableEq, Repr

/-- A fibre by its group, weave and identifier (R17). -/
structure FibreRef where
  gid   : Nat
  weave : Nat
  fid   : Nat
deriving DecidableEq, Repr

/-- Where a group of a bent is put (R30, R36): the core in the bay, the base of its A-store region. -/
structure Place where
  core : Nat
  base : Nat
deriving DecidableEq, Repr

/-- The package straps (R346, R349): populated sockets; enabled ports, PCIe ports 0 and 1, then the sixteen Rhaut ports;
one host per port. -/
structure Straps where
  sockets : BitVec 18 := 0
  ports   : BitVec 18 := 0
  split   : Bool := false
deriving DecidableEq, Repr

/-- What one start of the package meets (R349, R350): the straps; whether the boot firmware and the runtime image of slots
A and B verify; the sockets whose links train, at full and at half rate; the memory and compute dies that pass; the
ports that train, PCIe ports also at the next lower rate; the offsets of the dies' cycle counters, of which what exceeds the
256 cycles of R44 is cut off; the PCIe addresses at which the host places the notify aperture of each PCIe port (R231,
R346). -/
structure BootInput where
  straps       : Straps
  firmwareOk   : BitVec 2
  runtimeOk    : BitVec 2
  linksPass    : BitVec 18
  linksHalf    : BitVec 18
  memoryPass   : BitVec 8
  computePass  : BitVec 8
  portsPass    : BitVec 18
  portsLow     : BitVec 2
  clockOffsets : List Nat
  notifyAt     : List Nat := []
deriving DecidableEq, Repr

/-- An access of a host thread, a peer or a system core to a physical address (R197, R198, R347): the size
in bytes, the value stored if it is a store, or a fence. `lane` is a lane's store to a device register or to the notify
aperture, on its way there (R199), with its place in the memory order. -/
inductive BusAccess where
  | load (pa size : Nat)
  | store (pa size value : Nat)
  | lane (pa size value place : Nat)
  | fence
deriving DecidableEq, Repr

/-- A host thread and the PCIe port that it comes over (R197, R346). -/
structure HostThread where
  port   : Nat
  thread : Nat
deriving DecidableEq, Repr

/-- The 147 major forms (R118, R119), TOPK taken as its three operations. -/
inductive Major where
  | nop | bra | call | ret | quit | exit | bar | yield | iadd | isub | imul | imulh | idiv | irem | imin
  | imax | iabs | and | or | xor | andn | shl | shr | sar | rol | popc | clz | brev | bfx | iset | mov | movi
  | plop | mfs | iaddw | fadd | fsub | fmul | fmin | fmax | fdiv | fsqrt | frcp | frsq | fexp2 | flog2 | fsin
  | fcos | xmov | xadd | xsub | xmul | ld | st | brx | calli | fork | barb | span | loop | vote | shfl | imad
  | bfi | sel | lea | imadw | ffma | fset | fclass | dadd | dmul | dfma | ddiv | dset | hadd2 | hmul2 | hfma2
  | xdiv | xsqrt | xmin | xmax | xsgn | xcmp | xbnd | sever | snap | xref | cvt | cvtf | ldx | ldv | stv
  | ldb | stb | atom | cas | fence | mon | mwait | sbind | sxp | sxu | aset | await | kick | padv | pwait
  | mma | mmas | mconv | mzero | mldc | mstc | guard | gset | dist | topkClr | topkIns | topkRd | stload
  | task | tnext | launch | tryOpen | fail | mark | cut | steal | trail | trap | sysc | eret | mfsr | mtsr
  | tlbi | cflush | cinv | waiti | acct | gauge | hread | hwrite | hstep | hrun | hstat | sample | trace
  | cntr
deriving DecidableEq, Repr

/-- The rows of the table: instructions with their operands, then the events. -/
inductive Instr where
  | nop (o : Op)
  | nopExt (o : Op)
  | bra (o : Op)
  | braExt (o : Op)
  | call (o : Op)
  | callExt (o : Op)
  | ret (o : Op)
  | retExt (o : Op)
  | quit (o : Op)
  | quitExt (o : Op)
  | exit (o : Op)
  | exitExt (o : Op)
  | bar (o : Op)
  | barExt (o : Op)
  | yield (o : Op)
  | yieldExt (o : Op)
  | iadd (o : Op)
  | iaddExt (o : Op)
  | isub (o : Op)
  | isubExt (o : Op)
  | imul (o : Op)
  | imulExt (o : Op)
  | imulh (o : Op)
  | imulhExt (o : Op)
  | idiv (o : Op)
  | idivExt (o : Op)
  | irem (o : Op)
  | iremExt (o : Op)
  | imin (o : Op)
  | iminExt (o : Op)
  | imax (o : Op)
  | imaxExt (o : Op)
  | iabs (o : Op)
  | iabsExt (o : Op)
  | and (o : Op)
  | andExt (o : Op)
  | or (o : Op)
  | orExt (o : Op)
  | xor (o : Op)
  | xorExt (o : Op)
  | andn (o : Op)
  | andnExt (o : Op)
  | shl (o : Op)
  | shlExt (o : Op)
  | shr (o : Op)
  | shrExt (o : Op)
  | sar (o : Op)
  | sarExt (o : Op)
  | rol (o : Op)
  | rolExt (o : Op)
  | popc (o : Op)
  | popcExt (o : Op)
  | clz (o : Op)
  | clzExt (o : Op)
  | brev (o : Op)
  | brevExt (o : Op)
  | bfx (o : Op)
  | bfxExt (o : Op)
  | iset (o : Op)
  | isetExt (o : Op)
  | mov (o : Op)
  | movExt (o : Op)
  | movi (o : Op)
  | moviExt (o : Op)
  | plop (o : Op)
  | plopExt (o : Op)
  | mfs (o : Op)
  | mfsExt (o : Op)
  | iaddw (o : Op)
  | iaddwExt (o : Op)
  | fadd (o : Op)
  | faddExt (o : Op)
  | fsub (o : Op)
  | fsubExt (o : Op)
  | fmul (o : Op)
  | fmulExt (o : Op)
  | fmin (o : Op)
  | fminExt (o : Op)
  | fmax (o : Op)
  | fmaxExt (o : Op)
  | fdiv (o : Op)
  | fdivExt (o : Op)
  | fsqrt (o : Op)
  | fsqrtExt (o : Op)
  | frcp (o : Op)
  | frcpExt (o : Op)
  | frsq (o : Op)
  | frsqExt (o : Op)
  | fexp2 (o : Op)
  | fexp2Ext (o : Op)
  | flog2 (o : Op)
  | flog2Ext (o : Op)
  | fsin (o : Op)
  | fsinExt (o : Op)
  | fcos (o : Op)
  | fcosExt (o : Op)
  | xmov (o : Op)
  | xmovExt (o : Op)
  | xadd (o : Op)
  | xaddExt (o : Op)
  | xsub (o : Op)
  | xsubExt (o : Op)
  | xmul (o : Op)
  | xmulExt (o : Op)
  | ld (o : Op)
  | ldExt (o : Op)
  | st (o : Op)
  | stExt (o : Op)
  | brx (o : Op)
  | calli (o : Op)
  | fork (o : Op)
  | barb (o : Op)
  | span (o : Op)
  | loop (o : Op)
  | vote (o : Op)
  | shfl (o : Op)
  | imad (o : Op)
  | bfi (o : Op)
  | sel (o : Op)
  | lea (o : Op)
  | imadw (o : Op)
  | ffma (o : Op)
  | fset (o : Op)
  | fclass (o : Op)
  | dadd (o : Op)
  | dmul (o : Op)
  | dfma (o : Op)
  | ddiv (o : Op)
  | dset (o : Op)
  | hadd2 (o : Op)
  | hmul2 (o : Op)
  | hfma2 (o : Op)
  | xdiv (o : Op)
  | xsqrt (o : Op)
  | xmin (o : Op)
  | xmax (o : Op)
  | xsgn (o : Op)
  | xcmp (o : Op)
  | xbnd (o : Op)
  | sever (o : Op)
  | snap (o : Op)
  | xref (o : Op)
  | cvt (o : Op)
  | cvtf (o : Op)
  | ldx (o : Op)
  | ldv (o : Op)
  | stv (o : Op)
  | ldb (o : Op)
  | stb (o : Op)
  | atom (o : Op)
  | cas (o : Op)
  | fence (o : Op)
  | mon (o : Op)
  | mwait (o : Op)
  | sbind (o : Op)
  | sxp (o : Op)
  | sxu (o : Op)
  | aset (o : Op)
  | await (o : Op)
  | kick (o : Op)
  | padv (o : Op)
  | pwait (o : Op)
  | mma (o : Op)
  | mmas (o : Op)
  | mconv (o : Op)
  | mzero (o : Op)
  | mldc (o : Op)
  | mstc (o : Op)
  | guard (o : Op)
  | gset (o : Op)
  | dist (o : Op)
  | topkClr (o : Op)
  | topkIns (o : Op)
  | topkRd (o : Op)
  | stload (o : Op)
  | task (o : Op)
  | tnext (o : Op)
  | launch (o : Op)
  | tryOpen (o : Op)
  | fail (o : Op)
  | mark (o : Op)
  | cut (o : Op)
  | steal (o : Op)
  | trail (o : Op)
  | trap (o : Op)
  | sysc (o : Op)
  | eret (o : Op)
  | mfsr (o : Op)
  | mtsr (o : Op)
  | tlbi (o : Op)
  | cflush (o : Op)
  | cinv (o : Op)
  | waiti (o : Op)
  | acct (o : Op)
  | gauge (o : Op)
  | hread (o : Op)
  | hwrite (o : Op)
  | hstep (o : Op)
  | hrun (o : Op)
  | hstat (o : Op)
  | sample (o : Op)
  | trace (o : Op)
  | cntr (o : Op)
  | issueChoice (core port dt : Nat)
  | bartime (ofBent : Bool) (owner barrier : Nat)
  | lapidaryRequestEnter (bay idx : Nat)
  | lapidaryAnswer (bay : Nat) (idxs : List Nat)
  | xrefAnswer (bay idx : Nat)
  | lapidaryTranslationFault (bay idx : Nat)
  | logReclaim (gid : Nat)
  | copyRecordStart (bay core : Nat)
  | copyRecordComplete (bay idx : Nat)
  | matrixCommandHead (bay steps : Nat)
  | matrixCommandRetire (bay : Nat)
  | stloadCompletion (idx : Nat) (status : BitVec 16) (data : List Byte)
  | pwaitComplete (f : FibreRef)
  | awaitComplete (f : FibreRef)
  | mwaitWake (f : FibreRef)
  | waitiExpire (f : FibreRef)
  | groupRetire (gid : Nat)
  | bentRetire (bent : Nat)
  | bentPlacement (bent bay : Nat) (places : List Place)
  | preemption (bent : Nat)
  | restore (bent bay : Nat) (places : List Place)
  | queueAdmission (queue : Nat)
  | ringEntryNop (queue : Nat)
  | ringEntryLaunch (queue : Nat)
  | ringEntryWait (queue : Nat)
  | ringEntryAdvance (queue : Nat)
  | queueWaitDone (queue idx : Nat)
  | launchStart (launch : Nat)
  | launchComplete (launch : Nat)
  | taskReady (task : Nat)
  | taskSplit (core : Nat) (place : Place)
  | haltReport (f : FibreRef)
  | stepComplete (f : FibreRef)
  | sampleTick (socket : Nat)
  | powerOn (b : BootInput)
  | systemCoreAccess (a : Nat × BusAccess)
  | effectiveClassReaches7 (bent bay : Nat)
  | faultQueueConsumerUpdate (socket : Nat) (value : Word)
  | serviceQueueConsumerUpdate (socket : Nat) (value : Word)
  | resolveRetry (socket : Nat) (seq : Word)
  | resolveAbort (socket : Nat) (seq : Word)
  | syscAnswer (socket : Nat) (seq value : Word)
  | preemptRegister (socket : Nat) (gid : Word)
  | killRegister (socket : Nat) (gid : Word)
  | sysregWrite (socket index : Nat) (value : DWord)
  | debugWindowGo (socket window : Nat)
  | notifyStore (queue : Nat) (value : DWord) (host : HostThread)
  | firmwareUpdate (slotB : Bool) (image : List Byte)
  | clearTopologyRecord
  | getVersion
  | getCapabilities
  | negotiateAlgorithms (asym hash : Nat)
  | getDigests
  | getCertificate (offset length : Nat)
  | challenge (nonce : List Byte)
  | getMeasurements (index : Nat)
  | linkCrcRetry (link : Nat)
  | linkRetrain (link : Nat)
  | rhautPortFailure (port : Nat)
  | warmReset (socket : Nat)
  | hostAccess (a : HostThread × BusAccess)
  | peerAccess (a : Nat × BusAccess)
deriving DecidableEq, Repr

/-- The major form of an instruction, and whether it is the base row; none for an event. -/
def Instr.major : Instr → Option (Major × Bool)
  | .nop _ => some (.nop, true)
  | .nopExt _ => some (.nop, false)
  | .bra _ => some (.bra, true)
  | .braExt _ => some (.bra, false)
  | .call _ => some (.call, true)
  | .callExt _ => some (.call, false)
  | .ret _ => some (.ret, true)
  | .retExt _ => some (.ret, false)
  | .quit _ => some (.quit, true)
  | .quitExt _ => some (.quit, false)
  | .exit _ => some (.exit, true)
  | .exitExt _ => some (.exit, false)
  | .bar _ => some (.bar, true)
  | .barExt _ => some (.bar, false)
  | .yield _ => some (.yield, true)
  | .yieldExt _ => some (.yield, false)
  | .iadd _ => some (.iadd, true)
  | .iaddExt _ => some (.iadd, false)
  | .isub _ => some (.isub, true)
  | .isubExt _ => some (.isub, false)
  | .imul _ => some (.imul, true)
  | .imulExt _ => some (.imul, false)
  | .imulh _ => some (.imulh, true)
  | .imulhExt _ => some (.imulh, false)
  | .idiv _ => some (.idiv, true)
  | .idivExt _ => some (.idiv, false)
  | .irem _ => some (.irem, true)
  | .iremExt _ => some (.irem, false)
  | .imin _ => some (.imin, true)
  | .iminExt _ => some (.imin, false)
  | .imax _ => some (.imax, true)
  | .imaxExt _ => some (.imax, false)
  | .iabs _ => some (.iabs, true)
  | .iabsExt _ => some (.iabs, false)
  | .and _ => some (.and, true)
  | .andExt _ => some (.and, false)
  | .or _ => some (.or, true)
  | .orExt _ => some (.or, false)
  | .xor _ => some (.xor, true)
  | .xorExt _ => some (.xor, false)
  | .andn _ => some (.andn, true)
  | .andnExt _ => some (.andn, false)
  | .shl _ => some (.shl, true)
  | .shlExt _ => some (.shl, false)
  | .shr _ => some (.shr, true)
  | .shrExt _ => some (.shr, false)
  | .sar _ => some (.sar, true)
  | .sarExt _ => some (.sar, false)
  | .rol _ => some (.rol, true)
  | .rolExt _ => some (.rol, false)
  | .popc _ => some (.popc, true)
  | .popcExt _ => some (.popc, false)
  | .clz _ => some (.clz, true)
  | .clzExt _ => some (.clz, false)
  | .brev _ => some (.brev, true)
  | .brevExt _ => some (.brev, false)
  | .bfx _ => some (.bfx, true)
  | .bfxExt _ => some (.bfx, false)
  | .iset _ => some (.iset, true)
  | .isetExt _ => some (.iset, false)
  | .mov _ => some (.mov, true)
  | .movExt _ => some (.mov, false)
  | .movi _ => some (.movi, true)
  | .moviExt _ => some (.movi, false)
  | .plop _ => some (.plop, true)
  | .plopExt _ => some (.plop, false)
  | .mfs _ => some (.mfs, true)
  | .mfsExt _ => some (.mfs, false)
  | .iaddw _ => some (.iaddw, true)
  | .iaddwExt _ => some (.iaddw, false)
  | .fadd _ => some (.fadd, true)
  | .faddExt _ => some (.fadd, false)
  | .fsub _ => some (.fsub, true)
  | .fsubExt _ => some (.fsub, false)
  | .fmul _ => some (.fmul, true)
  | .fmulExt _ => some (.fmul, false)
  | .fmin _ => some (.fmin, true)
  | .fminExt _ => some (.fmin, false)
  | .fmax _ => some (.fmax, true)
  | .fmaxExt _ => some (.fmax, false)
  | .fdiv _ => some (.fdiv, true)
  | .fdivExt _ => some (.fdiv, false)
  | .fsqrt _ => some (.fsqrt, true)
  | .fsqrtExt _ => some (.fsqrt, false)
  | .frcp _ => some (.frcp, true)
  | .frcpExt _ => some (.frcp, false)
  | .frsq _ => some (.frsq, true)
  | .frsqExt _ => some (.frsq, false)
  | .fexp2 _ => some (.fexp2, true)
  | .fexp2Ext _ => some (.fexp2, false)
  | .flog2 _ => some (.flog2, true)
  | .flog2Ext _ => some (.flog2, false)
  | .fsin _ => some (.fsin, true)
  | .fsinExt _ => some (.fsin, false)
  | .fcos _ => some (.fcos, true)
  | .fcosExt _ => some (.fcos, false)
  | .xmov _ => some (.xmov, true)
  | .xmovExt _ => some (.xmov, false)
  | .xadd _ => some (.xadd, true)
  | .xaddExt _ => some (.xadd, false)
  | .xsub _ => some (.xsub, true)
  | .xsubExt _ => some (.xsub, false)
  | .xmul _ => some (.xmul, true)
  | .xmulExt _ => some (.xmul, false)
  | .ld _ => some (.ld, true)
  | .ldExt _ => some (.ld, false)
  | .st _ => some (.st, true)
  | .stExt _ => some (.st, false)
  | .brx _ => some (.brx, false)
  | .calli _ => some (.calli, false)
  | .fork _ => some (.fork, false)
  | .barb _ => some (.barb, false)
  | .span _ => some (.span, false)
  | .loop _ => some (.loop, false)
  | .vote _ => some (.vote, false)
  | .shfl _ => some (.shfl, false)
  | .imad _ => some (.imad, false)
  | .bfi _ => some (.bfi, false)
  | .sel _ => some (.sel, false)
  | .lea _ => some (.lea, false)
  | .imadw _ => some (.imadw, false)
  | .ffma _ => some (.ffma, false)
  | .fset _ => some (.fset, false)
  | .fclass _ => some (.fclass, false)
  | .dadd _ => some (.dadd, false)
  | .dmul _ => some (.dmul, false)
  | .dfma _ => some (.dfma, false)
  | .ddiv _ => some (.ddiv, false)
  | .dset _ => some (.dset, false)
  | .hadd2 _ => some (.hadd2, false)
  | .hmul2 _ => some (.hmul2, false)
  | .hfma2 _ => some (.hfma2, false)
  | .xdiv _ => some (.xdiv, false)
  | .xsqrt _ => some (.xsqrt, false)
  | .xmin _ => some (.xmin, false)
  | .xmax _ => some (.xmax, false)
  | .xsgn _ => some (.xsgn, false)
  | .xcmp _ => some (.xcmp, false)
  | .xbnd _ => some (.xbnd, false)
  | .sever _ => some (.sever, false)
  | .snap _ => some (.snap, false)
  | .xref _ => some (.xref, false)
  | .cvt _ => some (.cvt, false)
  | .cvtf _ => some (.cvtf, false)
  | .ldx _ => some (.ldx, false)
  | .ldv _ => some (.ldv, false)
  | .stv _ => some (.stv, false)
  | .ldb _ => some (.ldb, false)
  | .stb _ => some (.stb, false)
  | .atom _ => some (.atom, false)
  | .cas _ => some (.cas, false)
  | .fence _ => some (.fence, false)
  | .mon _ => some (.mon, false)
  | .mwait _ => some (.mwait, false)
  | .sbind _ => some (.sbind, false)
  | .sxp _ => some (.sxp, false)
  | .sxu _ => some (.sxu, false)
  | .aset _ => some (.aset, false)
  | .await _ => some (.await, false)
  | .kick _ => some (.kick, false)
  | .padv _ => some (.padv, false)
  | .pwait _ => some (.pwait, false)
  | .mma _ => some (.mma, false)
  | .mmas _ => some (.mmas, false)
  | .mconv _ => some (.mconv, false)
  | .mzero _ => some (.mzero, false)
  | .mldc _ => some (.mldc, false)
  | .mstc _ => some (.mstc, false)
  | .guard _ => some (.guard, false)
  | .gset _ => some (.gset, false)
  | .dist _ => some (.dist, false)
  | .topkClr _ => some (.topkClr, false)
  | .topkIns _ => some (.topkIns, false)
  | .topkRd _ => some (.topkRd, false)
  | .stload _ => some (.stload, false)
  | .task _ => some (.task, false)
  | .tnext _ => some (.tnext, false)
  | .launch _ => some (.launch, false)
  | .tryOpen _ => some (.tryOpen, false)
  | .fail _ => some (.fail, false)
  | .mark _ => some (.mark, false)
  | .cut _ => some (.cut, false)
  | .steal _ => some (.steal, false)
  | .trail _ => some (.trail, false)
  | .trap _ => some (.trap, false)
  | .sysc _ => some (.sysc, false)
  | .eret _ => some (.eret, false)
  | .mfsr _ => some (.mfsr, false)
  | .mtsr _ => some (.mtsr, false)
  | .tlbi _ => some (.tlbi, false)
  | .cflush _ => some (.cflush, false)
  | .cinv _ => some (.cinv, false)
  | .waiti _ => some (.waiti, false)
  | .acct _ => some (.acct, false)
  | .gauge _ => some (.gauge, false)
  | .hread _ => some (.hread, false)
  | .hwrite _ => some (.hwrite, false)
  | .hstep _ => some (.hstep, false)
  | .hrun _ => some (.hrun, false)
  | .hstat _ => some (.hstat, false)
  | .sample _ => some (.sample, false)
  | .trace _ => some (.trace, false)
  | .cntr _ => some (.cntr, false)
  | .issueChoice _ _ _ => none
  | .bartime _ _ _ => none
  | .lapidaryRequestEnter _ _ => none
  | .lapidaryAnswer _ _ => none
  | .xrefAnswer _ _ => none
  | .lapidaryTranslationFault _ _ => none
  | .logReclaim _ => none
  | .copyRecordStart _ _ => none
  | .copyRecordComplete _ _ => none
  | .matrixCommandHead _ _ => none
  | .matrixCommandRetire _ => none
  | .stloadCompletion _ _ _ => none
  | .pwaitComplete _ => none
  | .awaitComplete _ => none
  | .mwaitWake _ => none
  | .waitiExpire _ => none
  | .groupRetire _ => none
  | .bentRetire _ => none
  | .bentPlacement _ _ _ => none
  | .preemption _ => none
  | .restore _ _ _ => none
  | .queueAdmission _ => none
  | .ringEntryNop _ => none
  | .ringEntryLaunch _ => none
  | .ringEntryWait _ => none
  | .ringEntryAdvance _ => none
  | .queueWaitDone _ _ => none
  | .launchStart _ => none
  | .launchComplete _ => none
  | .taskReady _ => none
  | .taskSplit _ _ => none
  | .haltReport _ => none
  | .stepComplete _ => none
  | .sampleTick _ => none
  | .powerOn _ => none
  | .systemCoreAccess _ => none
  | .effectiveClassReaches7 _ _ => none
  | .faultQueueConsumerUpdate _ _ => none
  | .serviceQueueConsumerUpdate _ _ => none
  | .resolveRetry _ _ => none
  | .resolveAbort _ _ => none
  | .syscAnswer _ _ _ => none
  | .preemptRegister _ _ => none
  | .killRegister _ _ => none
  | .sysregWrite _ _ _ => none
  | .debugWindowGo _ _ => none
  | .notifyStore _ _ _ => none
  | .firmwareUpdate _ _ => none
  | .clearTopologyRecord => none
  | .getVersion => none
  | .getCapabilities => none
  | .negotiateAlgorithms _ _ => none
  | .getDigests => none
  | .getCertificate _ _ => none
  | .challenge _ => none
  | .getMeasurements _ => none
  | .linkCrcRetry _ => none
  | .linkRetrain _ => none
  | .rhautPortFailure _ => none
  | .warmReset _ => none
  | .hostAccess _ => none
  | .peerAccess _ => none

/-- The operands of an instruction; none for an event. -/
def Instr.op : Instr → Option Op
  | .nop o => some o
  | .nopExt o => some o
  | .bra o => some o
  | .braExt o => some o
  | .call o => some o
  | .callExt o => some o
  | .ret o => some o
  | .retExt o => some o
  | .quit o => some o
  | .quitExt o => some o
  | .exit o => some o
  | .exitExt o => some o
  | .bar o => some o
  | .barExt o => some o
  | .yield o => some o
  | .yieldExt o => some o
  | .iadd o => some o
  | .iaddExt o => some o
  | .isub o => some o
  | .isubExt o => some o
  | .imul o => some o
  | .imulExt o => some o
  | .imulh o => some o
  | .imulhExt o => some o
  | .idiv o => some o
  | .idivExt o => some o
  | .irem o => some o
  | .iremExt o => some o
  | .imin o => some o
  | .iminExt o => some o
  | .imax o => some o
  | .imaxExt o => some o
  | .iabs o => some o
  | .iabsExt o => some o
  | .and o => some o
  | .andExt o => some o
  | .or o => some o
  | .orExt o => some o
  | .xor o => some o
  | .xorExt o => some o
  | .andn o => some o
  | .andnExt o => some o
  | .shl o => some o
  | .shlExt o => some o
  | .shr o => some o
  | .shrExt o => some o
  | .sar o => some o
  | .sarExt o => some o
  | .rol o => some o
  | .rolExt o => some o
  | .popc o => some o
  | .popcExt o => some o
  | .clz o => some o
  | .clzExt o => some o
  | .brev o => some o
  | .brevExt o => some o
  | .bfx o => some o
  | .bfxExt o => some o
  | .iset o => some o
  | .isetExt o => some o
  | .mov o => some o
  | .movExt o => some o
  | .movi o => some o
  | .moviExt o => some o
  | .plop o => some o
  | .plopExt o => some o
  | .mfs o => some o
  | .mfsExt o => some o
  | .iaddw o => some o
  | .iaddwExt o => some o
  | .fadd o => some o
  | .faddExt o => some o
  | .fsub o => some o
  | .fsubExt o => some o
  | .fmul o => some o
  | .fmulExt o => some o
  | .fmin o => some o
  | .fminExt o => some o
  | .fmax o => some o
  | .fmaxExt o => some o
  | .fdiv o => some o
  | .fdivExt o => some o
  | .fsqrt o => some o
  | .fsqrtExt o => some o
  | .frcp o => some o
  | .frcpExt o => some o
  | .frsq o => some o
  | .frsqExt o => some o
  | .fexp2 o => some o
  | .fexp2Ext o => some o
  | .flog2 o => some o
  | .flog2Ext o => some o
  | .fsin o => some o
  | .fsinExt o => some o
  | .fcos o => some o
  | .fcosExt o => some o
  | .xmov o => some o
  | .xmovExt o => some o
  | .xadd o => some o
  | .xaddExt o => some o
  | .xsub o => some o
  | .xsubExt o => some o
  | .xmul o => some o
  | .xmulExt o => some o
  | .ld o => some o
  | .ldExt o => some o
  | .st o => some o
  | .stExt o => some o
  | .brx o => some o
  | .calli o => some o
  | .fork o => some o
  | .barb o => some o
  | .span o => some o
  | .loop o => some o
  | .vote o => some o
  | .shfl o => some o
  | .imad o => some o
  | .bfi o => some o
  | .sel o => some o
  | .lea o => some o
  | .imadw o => some o
  | .ffma o => some o
  | .fset o => some o
  | .fclass o => some o
  | .dadd o => some o
  | .dmul o => some o
  | .dfma o => some o
  | .ddiv o => some o
  | .dset o => some o
  | .hadd2 o => some o
  | .hmul2 o => some o
  | .hfma2 o => some o
  | .xdiv o => some o
  | .xsqrt o => some o
  | .xmin o => some o
  | .xmax o => some o
  | .xsgn o => some o
  | .xcmp o => some o
  | .xbnd o => some o
  | .sever o => some o
  | .snap o => some o
  | .xref o => some o
  | .cvt o => some o
  | .cvtf o => some o
  | .ldx o => some o
  | .ldv o => some o
  | .stv o => some o
  | .ldb o => some o
  | .stb o => some o
  | .atom o => some o
  | .cas o => some o
  | .fence o => some o
  | .mon o => some o
  | .mwait o => some o
  | .sbind o => some o
  | .sxp o => some o
  | .sxu o => some o
  | .aset o => some o
  | .await o => some o
  | .kick o => some o
  | .padv o => some o
  | .pwait o => some o
  | .mma o => some o
  | .mmas o => some o
  | .mconv o => some o
  | .mzero o => some o
  | .mldc o => some o
  | .mstc o => some o
  | .guard o => some o
  | .gset o => some o
  | .dist o => some o
  | .topkClr o => some o
  | .topkIns o => some o
  | .topkRd o => some o
  | .stload o => some o
  | .task o => some o
  | .tnext o => some o
  | .launch o => some o
  | .tryOpen o => some o
  | .fail o => some o
  | .mark o => some o
  | .cut o => some o
  | .steal o => some o
  | .trail o => some o
  | .trap o => some o
  | .sysc o => some o
  | .eret o => some o
  | .mfsr o => some o
  | .mtsr o => some o
  | .tlbi o => some o
  | .cflush o => some o
  | .cinv o => some o
  | .waiti o => some o
  | .acct o => some o
  | .gauge o => some o
  | .hread o => some o
  | .hwrite o => some o
  | .hstep o => some o
  | .hrun o => some o
  | .hstat o => some o
  | .sample o => some o
  | .trace o => some o
  | .cntr o => some o
  | .issueChoice _ _ _ => none
  | .bartime _ _ _ => none
  | .lapidaryRequestEnter _ _ => none
  | .lapidaryAnswer _ _ => none
  | .xrefAnswer _ _ => none
  | .lapidaryTranslationFault _ _ => none
  | .logReclaim _ => none
  | .copyRecordStart _ _ => none
  | .copyRecordComplete _ _ => none
  | .matrixCommandHead _ _ => none
  | .matrixCommandRetire _ => none
  | .stloadCompletion _ _ _ => none
  | .pwaitComplete _ => none
  | .awaitComplete _ => none
  | .mwaitWake _ => none
  | .waitiExpire _ => none
  | .groupRetire _ => none
  | .bentRetire _ => none
  | .bentPlacement _ _ _ => none
  | .preemption _ => none
  | .restore _ _ _ => none
  | .queueAdmission _ => none
  | .ringEntryNop _ => none
  | .ringEntryLaunch _ => none
  | .ringEntryWait _ => none
  | .ringEntryAdvance _ => none
  | .queueWaitDone _ _ => none
  | .launchStart _ => none
  | .launchComplete _ => none
  | .taskReady _ => none
  | .taskSplit _ _ => none
  | .haltReport _ => none
  | .stepComplete _ => none
  | .sampleTick _ => none
  | .powerOn _ => none
  | .systemCoreAccess _ => none
  | .effectiveClassReaches7 _ _ => none
  | .faultQueueConsumerUpdate _ _ => none
  | .serviceQueueConsumerUpdate _ _ => none
  | .resolveRetry _ _ => none
  | .resolveAbort _ _ => none
  | .syscAnswer _ _ _ => none
  | .preemptRegister _ _ => none
  | .killRegister _ _ => none
  | .sysregWrite _ _ _ => none
  | .debugWindowGo _ _ => none
  | .notifyStore _ _ _ => none
  | .firmwareUpdate _ _ => none
  | .clearTopologyRecord => none
  | .getVersion => none
  | .getCapabilities => none
  | .negotiateAlgorithms _ _ => none
  | .getDigests => none
  | .getCertificate _ _ => none
  | .challenge _ => none
  | .getMeasurements _ => none
  | .linkCrcRetry _ => none
  | .linkRetrain _ => none
  | .rhautPortFailure _ => none
  | .warmReset _ => none
  | .hostAccess _ => none
  | .peerAccess _ => none

/-- The base row of a major form, where it has one (Table 45). -/
def Instr.ofBase : Major → Op → Option Instr
  | .nop, o => some (.nop o)
  | .bra, o => some (.bra o)
  | .call, o => some (.call o)
  | .ret, o => some (.ret o)
  | .quit, o => some (.quit o)
  | .exit, o => some (.exit o)
  | .bar, o => some (.bar o)
  | .yield, o => some (.yield o)
  | .iadd, o => some (.iadd o)
  | .isub, o => some (.isub o)
  | .imul, o => some (.imul o)
  | .imulh, o => some (.imulh o)
  | .idiv, o => some (.idiv o)
  | .irem, o => some (.irem o)
  | .imin, o => some (.imin o)
  | .imax, o => some (.imax o)
  | .iabs, o => some (.iabs o)
  | .and, o => some (.and o)
  | .or, o => some (.or o)
  | .xor, o => some (.xor o)
  | .andn, o => some (.andn o)
  | .shl, o => some (.shl o)
  | .shr, o => some (.shr o)
  | .sar, o => some (.sar o)
  | .rol, o => some (.rol o)
  | .popc, o => some (.popc o)
  | .clz, o => some (.clz o)
  | .brev, o => some (.brev o)
  | .bfx, o => some (.bfx o)
  | .iset, o => some (.iset o)
  | .mov, o => some (.mov o)
  | .movi, o => some (.movi o)
  | .plop, o => some (.plop o)
  | .mfs, o => some (.mfs o)
  | .iaddw, o => some (.iaddw o)
  | .fadd, o => some (.fadd o)
  | .fsub, o => some (.fsub o)
  | .fmul, o => some (.fmul o)
  | .fmin, o => some (.fmin o)
  | .fmax, o => some (.fmax o)
  | .fdiv, o => some (.fdiv o)
  | .fsqrt, o => some (.fsqrt o)
  | .frcp, o => some (.frcp o)
  | .frsq, o => some (.frsq o)
  | .fexp2, o => some (.fexp2 o)
  | .flog2, o => some (.flog2 o)
  | .fsin, o => some (.fsin o)
  | .fcos, o => some (.fcos o)
  | .xmov, o => some (.xmov o)
  | .xadd, o => some (.xadd o)
  | .xsub, o => some (.xsub o)
  | .xmul, o => some (.xmul o)
  | .ld, o => some (.ld o)
  | .st, o => some (.st o)
  | .brx, _ => none
  | .calli, _ => none
  | .fork, _ => none
  | .barb, _ => none
  | .span, _ => none
  | .loop, _ => none
  | .vote, _ => none
  | .shfl, _ => none
  | .imad, _ => none
  | .bfi, _ => none
  | .sel, _ => none
  | .lea, _ => none
  | .imadw, _ => none
  | .ffma, _ => none
  | .fset, _ => none
  | .fclass, _ => none
  | .dadd, _ => none
  | .dmul, _ => none
  | .dfma, _ => none
  | .ddiv, _ => none
  | .dset, _ => none
  | .hadd2, _ => none
  | .hmul2, _ => none
  | .hfma2, _ => none
  | .xdiv, _ => none
  | .xsqrt, _ => none
  | .xmin, _ => none
  | .xmax, _ => none
  | .xsgn, _ => none
  | .xcmp, _ => none
  | .xbnd, _ => none
  | .sever, _ => none
  | .snap, _ => none
  | .xref, _ => none
  | .cvt, _ => none
  | .cvtf, _ => none
  | .ldx, _ => none
  | .ldv, _ => none
  | .stv, _ => none
  | .ldb, _ => none
  | .stb, _ => none
  | .atom, _ => none
  | .cas, _ => none
  | .fence, _ => none
  | .mon, _ => none
  | .mwait, _ => none
  | .sbind, _ => none
  | .sxp, _ => none
  | .sxu, _ => none
  | .aset, _ => none
  | .await, _ => none
  | .kick, _ => none
  | .padv, _ => none
  | .pwait, _ => none
  | .mma, _ => none
  | .mmas, _ => none
  | .mconv, _ => none
  | .mzero, _ => none
  | .mldc, _ => none
  | .mstc, _ => none
  | .guard, _ => none
  | .gset, _ => none
  | .dist, _ => none
  | .topkClr, _ => none
  | .topkIns, _ => none
  | .topkRd, _ => none
  | .stload, _ => none
  | .task, _ => none
  | .tnext, _ => none
  | .launch, _ => none
  | .tryOpen, _ => none
  | .fail, _ => none
  | .mark, _ => none
  | .cut, _ => none
  | .steal, _ => none
  | .trail, _ => none
  | .trap, _ => none
  | .sysc, _ => none
  | .eret, _ => none
  | .mfsr, _ => none
  | .mtsr, _ => none
  | .tlbi, _ => none
  | .cflush, _ => none
  | .cinv, _ => none
  | .waiti, _ => none
  | .acct, _ => none
  | .gauge, _ => none
  | .hread, _ => none
  | .hwrite, _ => none
  | .hstep, _ => none
  | .hrun, _ => none
  | .hstat, _ => none
  | .sample, _ => none
  | .trace, _ => none
  | .cntr, _ => none

/-- The extended row of a major form (every opcode has an extended form, R118). -/
def Instr.ofExt : Major → Op → Instr
  | .nop, o => .nopExt o
  | .bra, o => .braExt o
  | .call, o => .callExt o
  | .ret, o => .retExt o
  | .quit, o => .quitExt o
  | .exit, o => .exitExt o
  | .bar, o => .barExt o
  | .yield, o => .yieldExt o
  | .iadd, o => .iaddExt o
  | .isub, o => .isubExt o
  | .imul, o => .imulExt o
  | .imulh, o => .imulhExt o
  | .idiv, o => .idivExt o
  | .irem, o => .iremExt o
  | .imin, o => .iminExt o
  | .imax, o => .imaxExt o
  | .iabs, o => .iabsExt o
  | .and, o => .andExt o
  | .or, o => .orExt o
  | .xor, o => .xorExt o
  | .andn, o => .andnExt o
  | .shl, o => .shlExt o
  | .shr, o => .shrExt o
  | .sar, o => .sarExt o
  | .rol, o => .rolExt o
  | .popc, o => .popcExt o
  | .clz, o => .clzExt o
  | .brev, o => .brevExt o
  | .bfx, o => .bfxExt o
  | .iset, o => .isetExt o
  | .mov, o => .movExt o
  | .movi, o => .moviExt o
  | .plop, o => .plopExt o
  | .mfs, o => .mfsExt o
  | .iaddw, o => .iaddwExt o
  | .fadd, o => .faddExt o
  | .fsub, o => .fsubExt o
  | .fmul, o => .fmulExt o
  | .fmin, o => .fminExt o
  | .fmax, o => .fmaxExt o
  | .fdiv, o => .fdivExt o
  | .fsqrt, o => .fsqrtExt o
  | .frcp, o => .frcpExt o
  | .frsq, o => .frsqExt o
  | .fexp2, o => .fexp2Ext o
  | .flog2, o => .flog2Ext o
  | .fsin, o => .fsinExt o
  | .fcos, o => .fcosExt o
  | .xmov, o => .xmovExt o
  | .xadd, o => .xaddExt o
  | .xsub, o => .xsubExt o
  | .xmul, o => .xmulExt o
  | .ld, o => .ldExt o
  | .st, o => .stExt o
  | .brx, o => .brx o
  | .calli, o => .calli o
  | .fork, o => .fork o
  | .barb, o => .barb o
  | .span, o => .span o
  | .loop, o => .loop o
  | .vote, o => .vote o
  | .shfl, o => .shfl o
  | .imad, o => .imad o
  | .bfi, o => .bfi o
  | .sel, o => .sel o
  | .lea, o => .lea o
  | .imadw, o => .imadw o
  | .ffma, o => .ffma o
  | .fset, o => .fset o
  | .fclass, o => .fclass o
  | .dadd, o => .dadd o
  | .dmul, o => .dmul o
  | .dfma, o => .dfma o
  | .ddiv, o => .ddiv o
  | .dset, o => .dset o
  | .hadd2, o => .hadd2 o
  | .hmul2, o => .hmul2 o
  | .hfma2, o => .hfma2 o
  | .xdiv, o => .xdiv o
  | .xsqrt, o => .xsqrt o
  | .xmin, o => .xmin o
  | .xmax, o => .xmax o
  | .xsgn, o => .xsgn o
  | .xcmp, o => .xcmp o
  | .xbnd, o => .xbnd o
  | .sever, o => .sever o
  | .snap, o => .snap o
  | .xref, o => .xref o
  | .cvt, o => .cvt o
  | .cvtf, o => .cvtf o
  | .ldx, o => .ldx o
  | .ldv, o => .ldv o
  | .stv, o => .stv o
  | .ldb, o => .ldb o
  | .stb, o => .stb o
  | .atom, o => .atom o
  | .cas, o => .cas o
  | .fence, o => .fence o
  | .mon, o => .mon o
  | .mwait, o => .mwait o
  | .sbind, o => .sbind o
  | .sxp, o => .sxp o
  | .sxu, o => .sxu o
  | .aset, o => .aset o
  | .await, o => .await o
  | .kick, o => .kick o
  | .padv, o => .padv o
  | .pwait, o => .pwait o
  | .mma, o => .mma o
  | .mmas, o => .mmas o
  | .mconv, o => .mconv o
  | .mzero, o => .mzero o
  | .mldc, o => .mldc o
  | .mstc, o => .mstc o
  | .guard, o => .guard o
  | .gset, o => .gset o
  | .dist, o => .dist o
  | .topkClr, o => .topkClr o
  | .topkIns, o => .topkIns o
  | .topkRd, o => .topkRd o
  | .stload, o => .stload o
  | .task, o => .task o
  | .tnext, o => .tnext o
  | .launch, o => .launch o
  | .tryOpen, o => .tryOpen o
  | .fail, o => .fail o
  | .mark, o => .mark o
  | .cut, o => .cut o
  | .steal, o => .steal o
  | .trail, o => .trail o
  | .trap, o => .trap o
  | .sysc, o => .sysc o
  | .eret, o => .eret o
  | .mfsr, o => .mfsr o
  | .mtsr, o => .mtsr o
  | .tlbi, o => .tlbi o
  | .cflush, o => .cflush o
  | .cinv, o => .cinv o
  | .waiti, o => .waiti o
  | .acct, o => .acct o
  | .gauge, o => .gauge o
  | .hread, o => .hread o
  | .hwrite, o => .hwrite o
  | .hstep, o => .hstep o
  | .hrun, o => .hrun o
  | .hstat, o => .hstat o
  | .sample, o => .sample o
  | .trace, o => .trace o
  | .cntr, o => .cntr o

end Sys2Proof
end

