-- ==== Sys2Proof/Machine/Formats.lean ====
section
/-! DEFINITION. The encoding tables of the manual as functions (Tables 40 to 48, 52, 53, 56, 59, 62, 92 to 99,
117, 133, 174, 175): opcodes, slot classes, modifier bits, what IMM22 is used for, and the checks of ILLEGAL
causes 4 to 8. Decode.lean and WellFormed.lean read them. -/
namespace Sys2Proof

/-- Base layouts (Table 47). -/
inductive Layout where
  | b3 | bj | bm
deriving DecidableEq, Repr

/-- Classes a slot accepts (R129). `g2` and `k2` are even-odd pairs, `gv` a run of G registers. -/
inductive Cls where
  | g | g2 | gv | x | a | p | q | k | k2 | imm
deriving DecidableEq, Repr

/-- What an opcode uses IMM22 for (Table 44): nothing, a word displacement, a signed number, or bits. -/
inductive Own where
  | none | disp | signed | bits
deriving DecidableEq, Repr

/-- OPC and SUB of a major form (Tables 45 and 46). -/
def Major.code : Major → Nat × Nat
  | .nop => (0x00, 0) | .bra => (0x01, 0) | .brx => (0x02, 0) | .call => (0x03, 0) | .calli => (0x04, 0)
  | .ret => (0x05, 0) | .fork => (0x06, 0) | .quit => (0x07, 0) | .exit => (0x08, 0) | .bar => (0x09, 0)
  | .barb => (0x0A, 0) | .span => (0x0B, 0) | .loop => (0x0C, 0) | .yield => (0x0D, 0) | .vote => (0x0E, 0)
  | .shfl => (0x0F, 0) | .iadd => (0x10, 0) | .isub => (0x11, 0) | .imul => (0x12, 0) | .imad => (0x13, 0)
  | .imulh => (0x14, 0) | .idiv => (0x15, 0) | .irem => (0x16, 0) | .imin => (0x17, 0) | .imax => (0x18, 0)
  | .iabs => (0x19, 0) | .and => (0x1A, 0) | .or => (0x1B, 0) | .xor => (0x1C, 0) | .andn => (0x1D, 0)
  | .shl => (0x1E, 0) | .shr => (0x1F, 0) | .sar => (0x20, 0) | .rol => (0x21, 0) | .popc => (0x22, 0)
  | .clz => (0x23, 0) | .brev => (0x24, 0) | .bfx => (0x25, 0) | .bfi => (0x26, 0) | .iset => (0x27, 0)
  | .sel => (0x28, 0) | .mov => (0x29, 0) | .movi => (0x2A, 0) | .lea => (0x2B, 0) | .plop => (0x2C, 0)
  | .mfs => (0x2D, 0) | .iaddw => (0x2E, 0) | .imadw => (0x2F, 0) | .fadd => (0x30, 0) | .fsub => (0x31, 0)
  | .fmul => (0x32, 0) | .ffma => (0x33, 0) | .fmin => (0x34, 0) | .fmax => (0x35, 0) | .fdiv => (0x36, 0)
  | .fsqrt => (0x37, 0) | .frcp => (0x38, 0) | .frsq => (0x39, 0) | .fexp2 => (0x3A, 0) | .flog2 => (0x3B, 0)
  | .fsin => (0x3C, 0) | .fcos => (0x3D, 0) | .fset => (0x3E, 0) | .fclass => (0x3F, 0) | .dadd => (0x40, 0)
  | .dmul => (0x41, 0) | .dfma => (0x42, 0) | .ddiv => (0x43, 0) | .dset => (0x44, 0) | .hadd2 => (0x45, 0)
  | .hmul2 => (0x46, 0) | .hfma2 => (0x47, 0) | .xmov => (0x48, 0) | .xadd => (0x49, 0) | .xsub => (0x4A, 0)
  | .xmul => (0x4B, 0) | .xdiv => (0x4C, 0) | .xsqrt => (0x4D, 0) | .xmin => (0x4E, 0) | .xmax => (0x4F, 0)
  | .xsgn => (0x50, 0) | .xcmp => (0x51, 0) | .xbnd => (0x52, 0) | .sever => (0x53, 0) | .snap => (0x54, 0)
  | .xref => (0x55, 0) | .cvt => (0x56, 0) | .cvtf => (0x57, 0) | .ld => (0x58, 0) | .st => (0x59, 0)
  | .ldx => (0x5A, 0) | .ldv => (0x5B, 0) | .stv => (0x5C, 0) | .ldb => (0x5D, 0) | .stb => (0x5E, 0)
  | .atom => (0x5F, 0) | .cas => (0x60, 0) | .fence => (0x61, 0) | .mon => (0x62, 0) | .mwait => (0x63, 0)
  | .sbind => (0x64, 0) | .sxp => (0x65, 0) | .sxu => (0x66, 0) | .aset => (0x67, 0) | .await => (0x68, 0)
  | .kick => (0x69, 0) | .padv => (0x6A, 0) | .pwait => (0x6B, 0) | .mma => (0x6C, 0) | .mmas => (0x6D, 0)
  | .mconv => (0x6E, 0) | .mzero => (0x6F, 0) | .mldc => (0x70, 0) | .mstc => (0x71, 0) | .guard => (0x72, 0)
  | .gset => (0x73, 0) | .dist => (0x74, 0) | .topkClr => (0x75, 0) | .topkIns => (0x75, 0)
  | .topkRd => (0x75, 0) | .stload => (0x76, 0) | .task => (0x77, 0) | .tnext => (0x78, 0)
  | .launch => (0x79, 0) | .tryOpen => (0x7A, 0) | .fail => (0x7B, 0) | .mark => (0x7C, 0) | .cut => (0x7C, 1)
  | .steal => (0x7C, 2) | .trail => (0x7C, 3) | .trap => (0x7D, 0) | .sysc => (0x7D, 1) | .eret => (0x7D, 2)
  | .mfsr => (0x7D, 3) | .mtsr => (0x7D, 4) | .tlbi => (0x7D, 5) | .cflush => (0x7D, 6) | .cinv => (0x7D, 7)
  | .waiti => (0x7D, 8) | .acct => (0x7D, 9) | .gauge => (0x7E, 0) | .hread => (0x7E, 1) | .hwrite => (0x7E, 2)
  | .hstep => (0x7E, 3) | .hrun => (0x7E, 4) | .hstat => (0x7E, 5) | .sample => (0x7E, 6) | .trace => (0x7E, 7)
  | .cntr => (0x7E, 8)

/-- The major form of an opcode outside the groups (Table 45); TOPK by its OP (Table 117). -/
def majorOfOpc (opc op : Nat) : Option Major :=
  match opc with
  | 0x00 => some .nop | 0x01 => some .bra | 0x02 => some .brx | 0x03 => some .call | 0x04 => some .calli
  | 0x05 => some .ret | 0x06 => some .fork | 0x07 => some .quit | 0x08 => some .exit | 0x09 => some .bar
  | 0x0A => some .barb | 0x0B => some .span | 0x0C => some .loop | 0x0D => some .yield | 0x0E => some .vote
  | 0x0F => some .shfl | 0x10 => some .iadd | 0x11 => some .isub | 0x12 => some .imul | 0x13 => some .imad
  | 0x14 => some .imulh | 0x15 => some .idiv | 0x16 => some .irem | 0x17 => some .imin | 0x18 => some .imax
  | 0x19 => some .iabs | 0x1A => some .and | 0x1B => some .or | 0x1C => some .xor | 0x1D => some .andn
  | 0x1E => some .shl | 0x1F => some .shr | 0x20 => some .sar | 0x21 => some .rol | 0x22 => some .popc
  | 0x23 => some .clz | 0x24 => some .brev | 0x25 => some .bfx | 0x26 => some .bfi | 0x27 => some .iset
  | 0x28 => some .sel | 0x29 => some .mov | 0x2A => some .movi | 0x2B => some .lea | 0x2C => some .plop
  | 0x2D => some .mfs | 0x2E => some .iaddw | 0x2F => some .imadw | 0x30 => some .fadd | 0x31 => some .fsub
  | 0x32 => some .fmul | 0x33 => some .ffma | 0x34 => some .fmin | 0x35 => some .fmax | 0x36 => some .fdiv
  | 0x37 => some .fsqrt | 0x38 => some .frcp | 0x39 => some .frsq | 0x3A => some .fexp2 | 0x3B => some .flog2
  | 0x3C => some .fsin | 0x3D => some .fcos | 0x3E => some .fset | 0x3F => some .fclass | 0x40 => some .dadd
  | 0x41 => some .dmul | 0x42 => some .dfma | 0x43 => some .ddiv | 0x44 => some .dset | 0x45 => some .hadd2
  | 0x46 => some .hmul2 | 0x47 => some .hfma2 | 0x48 => some .xmov | 0x49 => some .xadd | 0x4A => some .xsub
  | 0x4B => some .xmul | 0x4C => some .xdiv | 0x4D => some .xsqrt | 0x4E => some .xmin | 0x4F => some .xmax
  | 0x50 => some .xsgn | 0x51 => some .xcmp | 0x52 => some .xbnd | 0x53 => some .sever | 0x54 => some .snap
  | 0x55 => some .xref | 0x56 => some .cvt | 0x57 => some .cvtf | 0x58 => some .ld | 0x59 => some .st
  | 0x5A => some .ldx | 0x5B => some .ldv | 0x5C => some .stv | 0x5D => some .ldb | 0x5E => some .stb
  | 0x5F => some .atom | 0x60 => some .cas | 0x61 => some .fence | 0x62 => some .mon | 0x63 => some .mwait
  | 0x64 => some .sbind | 0x65 => some .sxp | 0x66 => some .sxu | 0x67 => some .aset | 0x68 => some .await
  | 0x69 => some .kick | 0x6A => some .padv | 0x6B => some .pwait | 0x6C => some .mma | 0x6D => some .mmas
  | 0x6E => some .mconv | 0x6F => some .mzero | 0x70 => some .mldc | 0x71 => some .mstc | 0x72 => some .guard
  | 0x73 => some .gset | 0x74 => some .dist
  | 0x75 => some (match op with
    | 1 => .topkIns
    | 2 => .topkRd
    | _ => .topkClr)
  | 0x76 => some .stload | 0x77 => some .task | 0x78 => some .tnext | 0x79 => some .launch
  | 0x7A => some .tryOpen | 0x7B => some .fail
  | _ => none

/-- The major form of a group opcode and SUB (Table 46). -/
def majorOfGroup (opc sub : Nat) : Option Major :=
  match opc, sub with
  | 0x7C, 0 => some .mark | 0x7C, 1 => some .cut | 0x7C, 2 => some .steal | 0x7C, 3 => some .trail
  | 0x7D, 0 => some .trap | 0x7D, 1 => some .sysc | 0x7D, 2 => some .eret | 0x7D, 3 => some .mfsr
  | 0x7D, 4 => some .mtsr | 0x7D, 5 => some .tlbi | 0x7D, 6 => some .cflush | 0x7D, 7 => some .cinv
  | 0x7D, 8 => some .waiti | 0x7D, 9 => some .acct
  | 0x7E, 0 => some .gauge | 0x7E, 1 => some .hread | 0x7E, 2 => some .hwrite | 0x7E, 3 => some .hstep
  | 0x7E, 4 => some .hrun | 0x7E, 5 => some .hstat | 0x7E, 6 => some .sample | 0x7E, 7 => some .trace
  | 0x7E, 8 => some .cntr
  | _, _ => none

/-- Whether an opcode takes its instruction from SUB (R119). -/
def isGroupOpc (opc : Nat) : Bool := opc == 0x7C || opc == 0x7D || opc == 0x7E

/-- Base layout of the 54 opcodes that have a base form (Table 47). -/
def Major.layout : Major → Option Layout
  | .bra | .call | .ret => some .bj
  | .ld | .st => some .bm
  | .nop | .quit | .exit | .bar | .yield
  | .iadd | .isub | .imul | .imulh | .idiv | .irem | .imin | .imax | .iabs | .and | .or | .xor | .andn
  | .shl | .shr | .sar | .rol | .popc | .clz | .brev | .bfx | .iset | .mov | .movi | .plop | .mfs | .iaddw
  | .fadd | .fsub | .fmul | .fmin | .fmax | .fdiv | .fsqrt | .frcp | .frsq | .fexp2 | .flog2 | .fsin | .fcos
  | .xmov | .xadd | .xsub | .xmul => some .b3
  | _ => none

/-- A field of a word: `n` bits from bit `lo`. -/
def bitsAt {w : Nat} (v : BitVec w) (lo n : Nat) : Nat := (v.toNat >>> lo) % 2 ^ n

/-- G, K or Q: the slots that take a 32-bit G or K value (R41, R212). -/
def gk : List Cls := [.g, .k, .q]
/-- As `gk`, or an immediate. -/
def gki : List Cls := [.g, .k, .q, .imm]
/-- A G, K or immediate that only names an address: no stream is accepted (R212). -/
def adr : List Cls := [.g, .k, .imm]
/-- A destination G, or a write stream. -/
def g1 : List Cls := [.g, .q]
/-- FP64 operands (R149). -/
def pr : List Cls := [.g2, .k2]
/-- FP64 operands or an immediate. -/
def pri : List Cls := [.g2, .k2, .imm]

/-- D of a load or store of an access type (Table 94). -/
def typeSlot (ty : Nat) : List Cls :=
  if ty == 5 || ty == 7 then pr else gk

/-- The slot classes of an opcode under its modifier bits; an empty list is an unused slot. In order D, A, B, C
(the encoding tables; R212 for Q). A and B of LEA, BRX, CALLI, ASET, AWAIT, TOPK, DIST and the other instructions whose
classes here name no Q take none, which R212 leaves open for operands that are no memory operand of R200 (DESIGN CHOICE, log
entry 29). -/
def Major.slots (m : Major) (mod : BitVec 16) : List Cls × List Cls × List Cls × List Cls :=
  let ty := bitsAt mod 0 4
  let space := bitsAt mod 4 2
  let ix := bitsAt mod 12 1 == 1
  let memA : List Cls := if space == 0 then [.a] else adr
  let memB : List Cls := if ix then [.g, .k] else []
  let sa := bitsAt mod 10 2
  let sb := bitsAt mod 12 2
  let opA (s : Nat) : List Cls := if s == 0 then [.a] else if s == 3 then [] else [.g, .k]
  match m with
  | .nop | .bra | .call | .ret | .quit | .exit | .bar | .barb | .span | .yield | .fence | .mwait | .mzero
  | .guard | .fail | .trail | .trap | .acct => ([], [], [], [])
  | .brx | .calli => ([], [.a], adr, [])
  | .fork => ([], [.k2, .a], [], [])
  | .loop => (gk, [], [], [])
  | .vote => (if ty == 3 then [.g2] else [.p], [.p], [], [])
  | .shfl => (g1, g1, gki, [.p])
  | .iadd | .isub | .imul | .imulh | .idiv | .irem | .imin | .imax | .and | .or | .xor | .andn
  | .shl | .shr | .sar | .rol | .bfx
  | .fadd | .fsub | .fmul | .fmin | .fmax | .fdiv | .hadd2 | .hmul2 => (gk, gk, gki, [])
  | .imad | .bfi | .ffma | .hfma2 => (gk, gk, gki, gki)
  | .iabs | .popc | .clz | .brev
  | .fsqrt | .frcp | .frsq | .fexp2 | .flog2 | .fsin | .fcos => (gk, gk, [], [])
  | .iset | .fset => ([.p], gk, gki, [])
  | .sel => (gk, gki, gki, [.p])
  | .mov => ([.g, .k, .a, .q], [.g, .k, .a, .q], [], [])
  | .movi | .mfs => ([.g, .k, .a, .q], [], [.imm], [])
  | .lea => ([.g, .a, .q], [.a], [.g, .k], [])
  | .plop => ([.p], [.p], [.p], [.p])
  | .iaddw => ([.g2], [.g2], gki, [])
  | .imadw => ([.g2], gk, gki, [.g2])
  | .fclass => (gk, if bitsAt mod 0 1 == 1 then pr else gk, [], [])
  | .dadd | .dmul | .ddiv => (pr, pr, pri, [])
  | .dfma => (pr, pr, pri, pri)
  | .dset => ([.p], pr, pri, [])
  | .xmov => ([.x], [.x, .g, .k, .q, .imm], [], [])
  | .xadd | .xsub | .xmul | .xdiv | .xmin | .xmax => ([.x], [.x], [.x], [])
  | .xsqrt | .sever | .snap | .xref => ([.x], [.x], [], [])
  | .xsgn => ([.p], [.x], [.p], [])
  | .xcmp => ([.p], [.x], [.x], [])
  | .xbnd => (g1, [.x], [], [])
  | .cvt => (if bitsAt mod 2 4 == 14 then [.g2] else if bitsAt mod 2 4 == 15 then [.x] else g1,
      if bitsAt mod 6 4 == 14 then pri else gki, [], [])
  | .cvtf => (g1, gki, [], [])
  | .ld => (if ty == 6 || ty == 7 then .x :: typeSlot ty else typeSlot ty, memA, memB, [])
  | .st => (typeSlot ty, memA, memB, [])
  | .ldx => (typeSlot ty, [.a], memB, [])
  | .ldv | .stv => ([.gv], memA, memB, [])
  | .ldb | .stb => (typeSlot ty, [.k], gki, [.p])
  | .atom =>
    let w64 := bitsAt mod 3 1 == 1
    (if bitsAt mod 7 1 == 1 then [] else if w64 then [.g2] else g1, memA, memB, if w64 then pri else gki)
  | .cas =>
    let w64 := bitsAt mod 3 1 == 1
    (if w64 then [.g2] else g1, memA, memB, if w64 then pri else gki)
  | .mon => ([], memA, memB, [])
  | .sbind => ([.q], if bitsAt mod 0 1 == 1 then [] else gk, [], [])
  | .sxp | .sxu => (g1, g1, [], [])
  | .aset | .await | .kick => ([], adr, gki, [])
  | .padv | .pwait => ([], [], if bitsAt mod 6 1 == 1 then pri else gki, [])
  | .mma => ([], opA sa, opA sb, gki)
  | .mmas => (gk, opA sa, opA sb, gki)
  | .mconv => ([], if sa == 0 then [.a] else [.g, .k], opA sb, gki)
  | .mldc | .mstc => ([], opA sa, [], gki)
  | .gset => ([], gki, [.p], [])
  | .dist => ([.x], g1, adr, [.k])
  | .topkClr => ([], adr, gki, [])
  | .topkIns => ([], adr, [.x], gki)
  | .topkRd => (g1, adr, gki, [.x])
  | .stload => ([], [.a], [], [])
  | .task | .launch => (g1, [.a], [], [])
  | .tnext => ([.k], [], [], [])
  | .tryOpen => ([.g], [], gki, [])
  | .mark => (g1, [], [], [])
  | .cut => ([], gki, [], [])
  | .steal => ([.g], [], [], [])
  | .sysc => ([.k], [.k2], [], [])
  | .eret | .hstep | .hrun => ([], pr, [], [.p])
  | .mfsr | .mtsr => (pr, [], if ix then gk else [], [])
  | .tlbi => ([], if bitsAt mod 0 2 == 2 then [.a] else [], if bitsAt mod 0 2 == 0 then [] else gki, [])
  | .cflush | .cinv => ([], [.a], gki, [])
  | .waiti => ([], gki, [], [])
  | .gauge => ([.g2], [.a], gki, gki)
  | .hread | .hwrite => (gk, pr, gki, [.p])
  | .hstat => ([.g2], pr, [], [])
  | .sample => ([], [.a], gki, [])
  | .trace => ([], pr, [], [])
  | .cntr => ([.g2], gki, gki, [])

/-- Which slots an opcode writes, in order D, A, B, C. -/
def Major.dests : Major → Bool × Bool × Bool × Bool
  | .xsgn => (true, false, true, false)
  | .shfl | .ldb | .hread | .topkRd => (true, false, false, true)
  | .stb | .hwrite | .hstep | .hrun | .eret => (false, false, false, true)
  | .st | .stv | .mtsr | .mmas | .kick | .sbind => (false, false, false, false)
  | _ => (true, false, false, false)

/-- Which slots an opcode reads, in order D, A, B, C. -/
def Major.srcs : Major → Bool × Bool × Bool × Bool
  | .xsgn => (false, true, false, false)
  | .shfl | .ldb | .hread | .topkRd => (false, true, true, false)
  | .stb | .hwrite => (true, true, true, false)
  | .hstep | .hrun | .eret => (false, true, false, false)
  | .st | .stv | .mtsr | .mmas | .loop | .cas => (true, true, true, true)
  | _ => (false, true, true, true)

/-- What IMM22 is used for (the encoding tables). -/
def Major.own : Major → Own
  | .bra | .call | .fork | .loop | .tnext | .fail | .steal => .disp
  | .brx | .calli | .lea | .ld | .st | .ldx | .ldv | .stv | .atom | .cas | .mon | .aset | .await | .kick
  | .dist | .topkClr | .topkIns | .topkRd | .stload | .task | .launch | .trap | .sysc
  | .tlbi | .cflush | .cinv | .gauge | .sample => .signed
  | .bar | .barb | .span | .plop | .xref | .sbind | .mma | .mmas | .mconv | .mzero | .mldc | .mstc | .guard
  | .mfsr | .mtsr | .trace => .bits
  | _ => .none

/-- Whether SCOPED and SCOPE are used (R114). -/
def Major.scopes : Major → Bool
  | .ld | .st | .ldx | .ldv | .stv | .ldb | .stb | .atom | .cas | .fence | .tlbi | .cflush | .cinv => true
  | _ => false

/-- Modifier bits an opcode defines (the encoding tables; MOD bits not listed are reserved). -/
def Major.modMask : Major → BitVec 16
  | .vote | .shfl | .xbnd => 0x3
  | .iadd | .isub => 0x3
  | .imulh | .idiv | .irem | .imin | .imax | .bfx | .iaddw | .imadw => 0x1
  | .iabs => 0x2
  | .iset => 0xE1
  | .lea => 0x7
  | .fadd | .fsub | .fmul | .fdiv | .dadd | .dmul | .ddiv | .hadd2 | .hmul2 => 0xF
  | .ffma | .dfma | .hfma2 => 0x1F
  | .fmin | .fmax => 0xC
  | .fsqrt | .frcp | .frsq | .fexp2 | .flog2 | .fsin | .fcos => 0x7
  | .fset | .dset | .xcmp => 0xE0
  | .fclass => 0x1
  | .xmov => 0x3
  | .cvt => 0x3FF
  | .cvtf => 0x7F
  | .ld | .st => 0x9FFF
  | .ldx => 0xFFFF
  | .ldv | .stv => 0x9EF3
  | .ldb | .stb => 0x80CF
  | .atom => 0x9EFF
  | .cas => 0x9E38
  | .fence => 0x8000
  | .mon => 0x1E30
  | .sbind => 0x1
  | .sxp => 0xFF
  | .sxu => 0xF
  | .padv | .pwait => 0x7F
  | .mma | .mconv => 0x3FFF
  | .mmas => 0x7FFF
  | .mzero => 0x300
  | .mldc => 0xF01
  | .mstc => 0xF1F
  | .dist => 0x3FF
  | .topkClr | .topkIns | .topkRd => 0x7
  | .stload => 0x7F
  | .tryOpen => 0xFFFF
  | .trail | .acct | .hstep => 0x1
  | .mfsr | .mtsr => 0x1000
  | .tlbi => 0x8003
  | .cflush | .cinv => 0x8000
  | .gauge | .sample | .cntr => 0x3
  | _ => 0

/-- Elements of a K step by format code (Table 39); 0 for the reserved codes. -/
def stepElems (fmt : Nat) : Nat :=
  match fmt with
  | 0 => 24 | 1 => 48 | 2 => 48 | 3 => 96 | 4 => 96 | 5 => 96 | 6 => 144 | 7 => 256
  | 8 => 96 | 9 => 96 | 10 => 192 | 11 => 192
  | _ => 0

/-- The cell of Table 39 that a format stands in; two formats pair when they share one (R218). -/
def formatCell (fmt : Nat) : Nat :=
  match fmt with
  | 0 => 1 | 1 => 2 | 2 => 2 | 3 => 3 | 4 => 3 | 5 => 3 | 6 => 4 | 7 => 5
  | 8 => 6 | 9 => 6 | 10 => 7 | 11 => 7
  | _ => 0

/-- Whether the defined modifier bits hold defined values, in an extended form (the entries of the
instructions, ILLEGAL cause 4). -/
def Major.modOk (m : Major) (mod : BitVec 16) (aIsX : Bool) : Bool :=
  let f := bitsAt mod
  let pol := f 6 2
  let memOk := f 9 3 < 5
  let polOk := pol < 3 && (f 4 2 == 0 || pol == 0)
  mod &&& ~~~ m.modMask == 0 &&
  match m with
  | .iset => f 5 3 < 6
  | .lea => f 0 3 < 5
  | .xmov => f 0 2 < 3 && (aIsX || f 0 2 == 0)
  | .xcmp => f 5 3 < 6
  | .cvt =>
    let dst := f 2 4
    let src := f 6 4
    let code (n : Nat) := n < 5 || 7 < n
    code dst && code src && src != 15 &&
      (dst != 15 || ((src == 0 || src == 14 || src == 12 || src == 13) && f 0 2 == 0))
  | .cvtf => (1 ≤ f 0 4 && f 0 4 ≤ 4) || (8 ≤ f 0 4 && f 0 4 ≤ 11)
  | .ld => f 0 4 < 8 && polOk && memOk && f 8 1 == 0
  | .st => f 0 4 < 8 && polOk && memOk
  | .ldx => f 0 4 < 8 && f 4 8 != 0
  | .ldv | .stv => polOk && memOk
  | .ldb | .stb => f 0 4 < 8 && pol < 3
  | .atom => memOk && (f 6 1 == 0 || f 0 3 == 4 || f 0 3 == 5)
  | .cas | .mon => memOk
  | .fence => f 15 1 == 1
  | .sxp => 5 ≤ f 0 4 && f 0 4 ≤ 7 && (f 7 1 == 0 || f 6 1 == 1)
  | .sxu => 5 ≤ f 0 4 && f 0 4 ≤ 7
  | .mma | .mmas => formatCell (f 0 4) != 0 && formatCell (f 0 4) == formatCell (f 4 4) && f 12 2 != 3
  | .mconv => formatCell (f 0 4) != 0 && formatCell (f 0 4) == formatCell (f 4 4) && f 12 2 != 3 &&
      (f 10 2 == 0 || f 10 2 == 2) && (f 0 4 < 5 || f 0 4 == 8 || f 0 4 == 9)
  | .mstc => f 0 4 < 12
  | .dist => f 0 4 < 5 || (8 ≤ f 0 4 && f 0 4 < 12)
  | .topkClr => f 0 2 == 0
  | .topkIns => f 0 2 == 1 && f 2 1 == 0
  | .topkRd => f 0 2 == 2 && f 2 1 == 0
  | .stload => f 0 6 == 0 || f 6 1 == 1
  | .tlbi | .gauge | .cntr => f 0 2 < 3
  | _ => true

/-- Whether a slot accepts an operand (R113). -/
def Opnd.fits (l : List Cls) : Opnd → Bool
  | .none => l.isEmpty
  | .imm => l.contains .imm
  | .g _ => l.contains .g || l.contains .g2 || l.contains .gv
  | .x _ => l.contains .x
  | .a _ => l.contains .a
  | .p _ => l.contains .p
  | .q _ => l.contains .q
  | .k _ => l.contains .k || l.contains .k2

/-- The slot that holds the immediate, if any (R116). -/
def Op.immSlot (o : Op) : Nat :=
  if o.a == .imm then 1 else if o.b == .imm then 2 else if o.c == .imm then 3 else 0

/-- The value in IMM22's own use, sign-extended (Table 44). -/
def Op.own (o : Op) : DWord :=
  match o.lit with
  | some v => if o.immSlot == 0 then v else o.imm22.signExtend 64
  | none => if o.immSlot == 0 then o.imm22.signExtend 64 else 0

/-- The value in IMM22's own use where it is bits and not a number: zero-extended (Table 44). -/
def Op.ownBits (o : Op) : DWord :=
  match o.lit with
  | some v => if o.immSlot == 0 then v else o.imm22.setWidth 64
  | none => if o.immSlot == 0 then o.imm22.setWidth 64 else 0

/-- The immediate operand (Table 44, R107). -/
def Op.immVal (o : Op) : DWord :=
  match o.lit with
  | some v => v
  | none => o.imm22.signExtend 64

/-- Whether a 64-bit literal stands for a 64-bit operand in the immediate slot (R111, R146, R149, R215). -/
def Major.wideImm (m : Major) (mod : BitVec 16) (d : Opnd) : Bool :=
  match m with
  | .dadd | .dmul | .ddiv | .dfma | .dset => true
  | .atom | .cas => bitsAt mod 3 1 == 1
  | .padv | .pwait => bitsAt mod 6 1 == 1
  | .cvt => bitsAt mod 6 4 == 14
  | .movi => match d with
    | .a _ => true
    | _ => false
  | _ => false

/-- Whether the immediate slot is an FP64 slot, which needs a literal (R149), or the shape word of a matrix
command, which takes a register or a literal only (R218). -/
def Major.literalOnly (m : Major) (mod : BitVec 16) : Bool :=
  match m with
  | .dadd | .dmul | .ddiv | .dfma | .dset => true
  | .cvt => bitsAt mod 6 4 == 14
  | .mma | .mmas | .mconv => true
  | _ => false

/-- Bits [63:32] of a literal for a 32-bit operand: all zero or all equal to bit 31 (R111). -/
def lit32Ok (v : DWord) : Bool := highWord v == 0 || v == sext32 (lowWord v)

/-- Fields of IMM22 that an entry reserves (ILLEGAL cause 4): true where they are as they must be. -/
def Major.ownOk (m : Major) (o : Op) : Bool :=
  let v := o.ownBits
  let f := bitsAt o.mod
  match m with
  | .bar => v.toNat < 16
  | .barb => v.toNat < 4
  | .plop => v.toNat < 256
  | .xref => v.toNat < 6
  | .sbind => f 0 1 == 0 || v == 0
  | .trace => v.toNat < 16
  | .mfsr | .mtsr => if f 12 1 == 1 then v == 0 else v.toNat < 4096
  | .mma | .mmas | .mconv | .mzero | .mldc | .mstc =>
    v.toNat < 2 ^ 22 && (f 9 1 == 1 || bitsAt v 6 6 == 0) && (f 8 1 == 1 || bitsAt v 12 4 == 0) &&
      (bitsAt v 16 6 == 0 || (m != .mzero && m != .mconv && f 10 2 == 3))
  | _ => true

/-- Scopes an entry accepts, SCOPED being set (R114, R184, R201, R209, R368 to R370): typed operands up to
BAY (5), TLBI and CFLUSH at DIE and DEVICE, CINV up to DEVICE. -/
def Major.scopeOk (m : Major) (mod : BitVec 16) (scope : Nat) : Bool :=
  match m with
  | .tlbi | .cflush => scope == 6 || scope == 7
  | .cinv => scope < 8
  | .ldx | .ldb | .stb | .fence => scope < 11
  | _ => scope < 11 && (bitsAt mod 4 2 == 0 || scope < 6)

/-- Whether an operand is a lane source (R117). -/
def Opnd.isLane : Opnd → Bool
  | .g _ | .x _ | .q _ => true
  | .p i => i != 7
  | _ => false

/-- Whether an operand is a K or A register. -/
def Opnd.isKA : Opnd → Bool
  | .k _ | .a _ => true
  | _ => false

/-- Whether an instruction appends log nodes (R153). -/
def Major.appends (m : Major) (o : Op) : Bool :=
  let isX : Opnd → Bool := fun
    | .x _ => true
    | _ => false
  match m with
  | .xadd | .xsub | .xmul | .xdiv | .xsqrt | .xmin | .xmax | .sever | .snap | .dist => true
  | .xmov => !isX o.a || bitsAt o.mod 0 2 != 0
  | .ld | .cvt => isX o.d
  | _ => false

/-- Whether an instruction is one of the six choice instructions (R287). -/
def Major.isChoice : Major → Bool
  | .tryOpen | .fail | .mark | .cut | .steal | .trail => true
  | _ => false

/-- Whether a flag of the four slots is set for one that satisfies a test. -/
def anySlot (f : Bool × Bool × Bool × Bool) (o : Op) (t : Opnd → Bool) : Bool :=
  (f.1 && t o.d) || (f.2.1 && t o.a) || (f.2.2.1 && t o.b) || (f.2.2.2 && t o.c)

/-- ILLEGAL cause 7 (R117, R43, R37, R153, R146): UN = 1 with a lane source or on an instruction that appends
nodes, outside a joiner stream; UN = 0 with a K or A destination; in every stream, MOV of a lane source to K or A, LEA to A
without a K index, MFS of a lane value with UN = 1 or to K or A (log entry 14). The spec does not say whether the registers
G0 and G1 that RET reads without naming them are lane sources of R117: the model takes the sources to be those of the slots,
so that RET with UN = 1 runs (log entry 51). -/
def Major.cause7 (m : Major) (joiner : Bool) (o : Op) : Bool :=
  let mfsLane := m == .mfs && o.b == .imm && (o.immVal == 0 || o.immVal == 6 || o.immVal == 7 || o.immVal == 8)
  (!o.un && anySlot m.dests o Opnd.isKA) ||
  (o.un && !joiner && (anySlot m.srcs o Opnd.isLane || o.pred != 7 || m.appends o)) ||
  (mfsLane && (o.un || o.d.isKA)) || (m == .mov && o.d.isKA && o.a.isLane) || (m == .lea && o.d.isKA && o.b.isLane)

/-- The causes 4 to 8 that an extended form shows beyond its slots' classes. -/
def Major.lateCauses (m : Major) (joiner : Bool) (o : Op) : List Nat :=
  (if o.pred == 7 && o.neg then [4] else []) ++
  (if m.ownOk o then [] else [4]) ++
  (if m == .mfs && o.b == .imm && 14 ≤ o.immVal.toNat then [4] else []) ++
  (if m.isChoice && o.un then [4] else []) ++
  (if m == .tnext && (!o.un || o.pred != 7) then [4] else []) ++
  (if (m == .bar || m == .barb) && o.pred != 7 then [4] else []) ++
  (if m.cause7 joiner o then [7] else []) ++
  (match o.lit with
    | some v => if o.immSlot != 0 && !m.wideImm o.mod o.d && !lit32Ok v then [8] else []
    | none => if o.immSlot != 0 && m.literalOnly o.mod then [8] else [])

/-- Slot checks: class (cause 5), an unused slot that is not 0x00 (cause 4), an immediate where none may
stand (cause 8). -/
def slotCause (l : List Cls) (x : Opnd) (raw : Nat) : List Nat :=
  match x with
  | .imm => (if l.contains .imm then [] else [8]) ++ (if raw == 0 then [] else [4])
  | .none => if raw == 0 then [] else [4]
  | _ => if x.fits l then [] else [5]

/-- The lowest cause of a list. -/
def lowestCause (l : List Nat) : Option Nat :=
  match l with
  | [] => none
  | c :: t => match lowestCause t with
    | none => some c
    | some d => some (min c d)

/-- An optional literal stands exactly in the forms that carry one (Table 41). -/
def Op.litShape (o : Op) : Bool :=
  match o.form with
  | .base | .ext => o.lit == none
  | .extLit | .baseLit => o.lit != none

/-- At most one slot holds an immediate, and D never does (R116). -/
def Op.oneImm (o : Op) : Bool :=
  o.d != .imm && !(o.a == .imm && (o.b == .imm || o.c == .imm)) && !(o.b == .imm && o.c == .imm)

/-- A slot holds an operand of a class it accepts, or nothing where it is unused (R113). -/
def slotOk (l : List Cls) (x : Opnd) : Bool :=
  match x with
  | .none => l.isEmpty
  | _ => x.fits l

/-- The shape of an extended form: slots, modifiers, scope and IMM22 as the entry has them (R112 to R116). -/
def Major.extShape (m : Major) (o : Op) : Bool :=
  let s := m.slots o.mod
  let isScoped := bitsAt o.mod 15 1 == 1
  o.oneImm && slotOk s.1 o.d && slotOk s.2.1 o.a && slotOk s.2.2.1 o.b && slotOk s.2.2.2 o.c &&
  m.modOk o.mod (match o.a with
    | .x _ => true
    | _ => false) &&
  (if m.scopes then (isScoped && m.scopeOk o.mod o.scope.toNat) || (!isScoped && o.scope == 0) else o.scope == 0) &&
  (m.own != .none || (o.form == .ext && o.immSlot != 0) || o.imm22 == 0) &&
  !(o.form == .extLit && ((o.immSlot == 0 && m.own == .none) || m == .trap || m == .sysc)) &&
  !(m == .dist && o.c == .k 127)

/-- A base field holds a register of the class it names (R106). -/
def baseSlotOk (l : List Cls) (x : Opnd) : Bool :=
  match x with
  | .none => l.isEmpty
  | .x _ => l.contains .x
  | .g _ => !l.contains .x && (l.contains .g || l.contains .g2)
  | .p _ => !l.contains .x && !l.contains .g && !l.contains .g2 && l.contains .p
  | _ => false

/-- The modifier bits that a base FN gives (Table 52, R107, R110, R147). -/
def Major.fnMod (m : Major) (fn : Nat) : Option (BitVec 16) :=
  let v := BitVec.ofNat 16 fn
  match m with
  | .iadd | .isub => if fn < 4 then some v else none
  | .imulh | .idiv | .irem | .imin | .imax | .bfx | .iaddw => if fn < 2 then some v else none
  | .iabs => if fn == 0 || fn == 2 then some v else none
  | .iset => if fn < 6 then some (v <<< 5) else none
  | .plop => some v
  | .fadd | .fsub | .fmul | .fdiv | .fsqrt | .frcp | .frsq | .fexp2 | .flog2 | .fsin | .fcos =>
    if fn < 4 then some v else none
  | .xmov => if fn < 3 then some v else none
  | .ld | .st => if fn < 6 then some v else none
  | _ => if fn == 0 then some 0 else none

/-- The FN of a base form with these modifier bits. -/
def Major.modFn (m : Major) (mod : BitVec 16) : Nat :=
  match m with
  | .iset => bitsAt mod 5 3
  | _ => bitsAt mod 0 3

/-- Whether a base form's B field may hold an immediate (R107, R144). -/
def Major.baseImm (m : Major) : Bool :=
  match m with
  | .iadd | .isub | .imul | .imulh | .idiv | .irem | .imin | .imax | .and | .or | .xor | .andn
  | .shl | .shr | .sar | .rol | .bfx | .iset | .movi | .mfs | .iaddw => true
  | _ => false

/-- The slots that a base B3 form fills; slot C is never one (R105). -/
def Major.baseSlots (m : Major) (mod : BitVec 16) : List Cls × List Cls × List Cls :=
  let s := m.slots mod
  (s.1, s.2.1, s.2.2.1)

/-- The shape of a B3 form (R105 to R107). -/
def Major.b3Shape (m : Major) (o : Op) : Bool :=
  let s := m.baseSlots o.mod
  o.scope == 0 && !o.neg && o.pred == 7 && o.c == .none &&
  (match m with
  | .bar => o.form == .base && o.mod == 0 && o.d == .none && o.a == .none && o.b == .none && o.imm22.toNat < 16
  | _ => m.fnMod (m.modFn o.mod) == some o.mod && baseSlotOk s.1 o.d && baseSlotOk s.2.1 o.a &&
    (if o.b == .imm then
      m.baseImm && (if o.form == .base then o.imm22 == ((o.imm22.setWidth 6).signExtend 22 : BitVec 22)
        else o.imm22 == 0)
    else o.form == .base && baseSlotOk s.2.2 o.b && o.imm22 == 0))

/-- The shape of a BJ form (R108, R111). -/
def Major.bjShape (m : Major) (o : Op) : Bool :=
  o.scope == 0 && o.mod == 0 && o.d == .none && o.a == .none && o.b == .none && o.c == .none &&
  (match o.form with
  | .base => if m == .ret then o.imm22 == 0 else o.imm22 == ((o.imm22.setWidth 18).signExtend 22 : BitVec 22)
  | _ => m != .ret && o.imm22 == 0)

/-- Bytes of a base access type (R110). -/
def baseSize (ty : Nat) : Nat :=
  match ty with
  | 0 => 4 | 1 => 1 | 2 => 1 | 3 => 2 | 4 => 2 | 5 => 8
  | _ => 1

/-- The shape of a BM form (R110, R111). -/
def Major.bmShape (o : Op) : Bool :=
  let ty := bitsAt o.mod 0 3
  let size := baseSize ty
  let isG : Opnd → Bool := fun
    | .g _ => true
    | _ => false
  let isA : Opnd → Bool := fun
    | .a _ => true
    | _ => false
  o.scope == 0 && !o.neg && o.pred == 7 && o.c == .none && ty < 6 && isG o.d && isA o.a &&
  (if o.mod == BitVec.ofNat 16 (ty + 4096) then o.form == .base && isG o.b && o.imm22 == 0
   else o.mod == BitVec.ofNat 16 ty && o.b == .none &&
    (if o.form == .base then
      o.imm22.toNat % size == 0 && o.imm22.toNat / size < 64
    else o.imm22 == 0))

/-- The shape of the operands of a major form, base or extended. -/
def Major.shape (m : Major) (isBase : Bool) (o : Op) : Bool :=
  o.litShape &&
  if isBase then
    o.form == .base &&
    (match m.layout with
    | some .b3 => m.b3Shape o
    | some .bj => m.bjShape o
    | some .bm => Major.bmShape o
    | none => false)
  else
    match o.form with
    | .base => false
    | .ext | .extLit => m.extShape o
    | .baseLit => match m.layout with
      | some .b3 => o.b == .imm && m != .bar && m.b3Shape o
      | some .bj => m.bjShape o
      | some .bm => bitsAt o.mod 12 1 == 0 && Major.bmShape o
      | none => false

end Sys2Proof
end

