-- ==== Sys2Proof/WellFormed.lean ====
section
/-! DEFINITION. Well-formed instructions: the terms of Instr that some words of the manual stand for. An event has
no words and is not well-formed in this sense. -/
namespace Sys2Proof

/-- Well-formed: some words of the manual, issued by a lane stream or a joiner stream, decode to it. -/
def Instr.wf (joiner : Bool) (i : Instr) : Bool :=
  match i.major, i.op with
  | some (m, isBase), some o => m.shape isBase o && (m.lateCauses joiner o).isEmpty
  | _, _ => false

end Sys2Proof
end

