-- ==== Sys2Proof/Decode.lean ====
section
/-! DEFINITION. The decoder (R101 to R120): total on any words, refusing by the cause of Table 48. After it the
encoder, written from the same tables. -/
namespace Sys2Proof

/-- A register specifier (Table 19). -/
def opndOf (b : Nat) : Opnd :=
  if b < 0x40 then .g (BitVec.ofNat 6 b)
  else if b < 0x60 then .x (BitVec.ofNat 5 b)
  else if b < 0x70 then .a (BitVec.ofNat 4 b)
  else if b < 0x78 then .p (BitVec.ofNat 3 b)
  else if b < 0x80 then .q (BitVec.ofNat 3 b)
  else .k (BitVec.ofNat 7 b)

/-- The specifier of an operand; 0x00 where there is no register (R113). -/
def Opnd.spec : Opnd → Nat
  | .none | .imm => 0
  | .g i => i.toNat
  | .x i => 0x40 + i.toNat
  | .a i => 0x60 + i.toNat
  | .p i => 0x70 + i.toNat
  | .q i => 0x78 + i.toNat
  | .k i => 0x80 + i.toNat

/-- Bytes of an instruction by its LEN code (Table 41). -/
def lenBytes (len : Nat) : Nat :=
  match len with
  | 0 => 4 | 1 => 12 | 2 => 20
  | _ => 12

/-- The operand in an extended slot. -/
def extOpnd (l : List Cls) (isImm : Bool) (raw : Nat) : Opnd :=
  if isImm then .imm else if l.isEmpty then .none else opndOf raw

/-- An answer of the decoder: the instruction, or the lowest cause. -/
def answer (cs : List Nat) (i : Option Instr) : Except Nat Instr :=
  match lowestCause cs with
  | some c => .error c
  | none => match i with
    | some i => .ok i
    | none => .error 3

/-- Decoding of an extended form (R112 to R117). -/
def decodeExt (joiner : Bool) (w0 w1 w2 : Word) (lit : Option DWord) : Except Nat Instr :=
  let opc := bitsAt w0 3 7
  let sub := bitsAt w0 10 6
  let mod := BitVec.ofNat 16 (bitsAt w0 16 16)
  let found := if isGroupOpc opc then majorOfGroup opc sub
    else if sub == 0 then majorOfOpc opc (bitsAt mod 0 2) else none
  match found with
  | none => .error 2
  | some m =>
    let s := m.slots mod
    let lsel := bitsAt w2 8 2
    let o : Op :=
      { form := if lit == none then .ext else .extLit
        un := bitsAt w0 2 1 == 1
        mod := mod
        d := extOpnd s.1 false (bitsAt w1 0 8)
        a := extOpnd s.2.1 (lsel == 1) (bitsAt w1 8 8)
        b := extOpnd s.2.2.1 (lsel == 2) (bitsAt w1 16 8)
        c := extOpnd s.2.2.2 (lsel == 3) (bitsAt w1 24 8)
        imm22 := BitVec.ofNat 22 (bitsAt w2 10 22)
        lit := lit
        scope := BitVec.ofNat 4 (bitsAt w2 4 4)
        neg := bitsAt w2 3 1 == 1
        pred := BitVec.ofNat 3 (bitsAt w2 0 3) }
    let isScoped := bitsAt mod 15 1 == 1
    let nrBad := m == .atom && bitsAt mod 7 1 == 1 && bitsAt w1 0 8 != 0
    let causes :=
      (if nrBad then [5] else slotCause s.1 o.d (bitsAt w1 0 8)) ++
      slotCause s.2.1 o.a (bitsAt w1 8 8) ++ slotCause s.2.2.1 o.b (bitsAt w1 16 8) ++
      slotCause s.2.2.2 o.c (bitsAt w1 24 8) ++
      (if m.modOk mod (match o.a with
        | .x _ => true
        | _ => false) then [] else [4]) ++
      (if m.scopes then
        (if (isScoped && m.scopeOk mod o.scope.toNat) || (!isScoped && o.scope == 0) then [] else [6])
       else if o.scope == 0 then [] else [4]) ++
      (if m.own != .none || ((lit == none) != (lsel == 0)) || o.imm22 == 0 then [] else [4]) ++
      (if lit != none && ((lsel == 0 && m.own == .none) || m == .trap || m == .sysc) then [8] else []) ++
      (if m == .dist && o.c == .k 127 then [5] else []) ++
      m.lateCauses joiner o
    answer causes (Instr.ofExt m o)

/-- A base register field (R106). -/
def baseOpnd (l : List Cls) (v : Nat) : Opnd :=
  if l.isEmpty then .none
  else if l.contains .x then .x (BitVec.ofNat 5 v)
  else if l.contains .g || l.contains .g2 then .g (BitVec.ofNat 6 v)
  else if l.contains .p then .p (BitVec.ofNat 3 v)
  else .none

/-- What is wrong with a base register field: an unused field that is not 0 (cause 4); a number beyond the
class's range, or a register where only an immediate may stand (cause 5). -/
def baseCause (l : List Cls) (v : Nat) : List Nat :=
  if l.isEmpty then (if v == 0 then [] else [4])
  else if l.contains .x then (if v < 32 then [] else [5])
  else if l.contains .g || l.contains .g2 then []
  else if l.contains .p then (if v < 8 then [] else [5])
  else [5]

/-- Decoding of a B3 form (R105 to R107, R111). -/
def decodeB3 (joiner : Bool) (m : Major) (w : Word) (lit : Option DWord) : Except Nat Instr :=
  let ib := bitsAt w 31 1 == 1
  let fn := bitsAt w 28 3
  let fb := bitsAt w 22 6
  let fa := bitsAt w 16 6
  let fd := bitsAt w 10 6
  let un := bitsAt w 2 1 == 1
  if m == .bar then
    if lit != none then .error 3
    else
      let o : Op := { form := .base, un := un, imm22 := BitVec.ofNat 22 fb }
      answer ((if ib && fn == 0 && fa == 0 && fd == 0 then [] else [4]) ++ m.lateCauses joiner o) (Instr.ofBase m o)
  else if lit != none && !(ib && fb == 0 && m.baseImm) then .error 3
  else
    let mod := (m.fnMod fn).getD 0
    let s := m.baseSlots mod
    let o : Op :=
      { form := if lit == none then .base else .baseLit
        un := un
        mod := mod
        d := baseOpnd s.1 fd
        a := baseOpnd s.2.1 fa
        b := if ib then .imm else baseOpnd s.2.2 fb
        imm22 := if ib && lit == none then (BitVec.ofNat 6 fb).signExtend 22 else 0
        lit := lit }
    let causes :=
      (if (m.fnMod fn).isSome then [] else [4]) ++
      (if ib && !m.baseImm then [4] else []) ++
      baseCause s.1 fd ++ baseCause s.2.1 fa ++
      (if ib then [] else baseCause s.2.2 fb) ++ m.lateCauses joiner o
    answer causes (if lit == none then Instr.ofBase m o else Instr.ofExt m o)

/-- Decoding of a BJ form (R108, R111). -/
def decodeBJ (joiner : Bool) (m : Major) (w : Word) (lit : Option DWord) : Except Nat Instr :=
  let disp := bitsAt w 14 18
  if lit != none && (m == .ret || disp != 0) then .error 3
  else
    let o : Op :=
      { form := if lit == none then .base else .baseLit
        un := bitsAt w 2 1 == 1
        imm22 := (BitVec.ofNat 18 disp).signExtend 22
        lit := lit
        neg := bitsAt w 13 1 == 1
        pred := BitVec.ofNat 3 (bitsAt w 10 3) }
    answer ((if m == .ret && disp != 0 then [4] else []) ++ m.lateCauses joiner o)
      (if lit == none then Instr.ofBase m o else Instr.ofExt m o)

/-- Decoding of a BM form (R110, R111). -/
def decodeBM (joiner : Bool) (m : Major) (w : Word) (lit : Option DWord) : Except Nat Instr :=
  let sel := bitsAt w 31 1 == 1
  let fn := bitsAt w 28 3
  let off := bitsAt w 16 6
  if lit != none && !(sel && off == 0) then .error 3
  else
    let o : Op :=
      { form := if lit == none then .base else .baseLit
        un := bitsAt w 2 1 == 1
        mod := BitVec.ofNat 16 (if sel then fn else fn + 4096)
        d := .g (BitVec.ofNat 6 (bitsAt w 10 6))
        a := .a (BitVec.ofNat 4 (bitsAt w 22 4))
        b := if sel then .none else .g (BitVec.ofNat 6 off)
        imm22 := if sel then BitVec.ofNat 22 (off * baseSize fn) else 0
        lit := lit }
    answer ((if fn < 6 && bitsAt w 26 2 == 0 then [] else [4]) ++ m.lateCauses joiner o)
      (if lit == none then Instr.ofBase m o else Instr.ofExt m o)

/-- The decoder. `w0` to `w4` are the words from the PC on; those past the instruction's length are not looked at
(R101). -/
def decode (joiner : Bool) (w0 w1 w2 w3 w4 : Word) : Except Nat Instr :=
  let opc := bitsAt w0 3 7
  let len := bitsAt w0 0 2
  if opc == 0x7F then .error 1
  else if len == 1 then decodeExt joiner w0 w1 w2 none
  else if len == 2 then decodeExt joiner w0 w1 w2 (some (pairOf w3 w4))
  else
    let lit := if len == 3 then some (pairOf w1 w2) else none
    match majorOfOpc opc 0 with
    | none => .error 3
    | some m =>
      match m.layout with
      | none => .error 3
      | some .b3 => decodeB3 joiner m w0 lit
      | some .bj => decodeBJ joiner m w0 lit
      | some .bm => decodeBM joiner m w0 lit

/-- Bytes of an instruction (Table 41). -/
def Op.bytes (o : Op) : Nat :=
  match o.form with
  | .base => 4 | .ext => 12 | .extLit => 20 | .baseLit => 12

/-- LEN of a form (Table 41). -/
def Form.len : Form → Nat
  | .base => 0 | .ext => 1 | .extLit => 2 | .baseLit => 3

/-- The low ten bits of word 0 (Table 40). -/
def wordLow (m : Major) (o : Op) : Nat :=
  o.form.len + (if o.un then 4 else 0) + m.code.1 * 8

/-- Words of an extended form (Table 43). -/
def encodeExt (m : Major) (o : Op) : List Word :=
  let w0 := wordLow m o + m.code.2 * 2 ^ 10 + o.mod.toNat * 2 ^ 16
  let w1 := o.d.spec + o.a.spec * 2 ^ 8 + o.b.spec * 2 ^ 16 + o.c.spec * 2 ^ 24
  let w2 := o.pred.toNat + (if o.neg then 8 else 0) + o.scope.toNat * 2 ^ 4 + o.immSlot * 2 ^ 8 +
    o.imm22.toNat * 2 ^ 10
  [BitVec.ofNat 32 w0, BitVec.ofNat 32 w1, BitVec.ofNat 32 w2] ++
  match o.lit with
  | none => []
  | some v => [lowWord v, highWord v]

/-- The number in a base register field. -/
def Opnd.field : Opnd → Nat
  | .g i => i.toNat
  | .x i => i.toNat
  | .a i => i.toNat
  | .p i => i.toNat
  | _ => 0

/-- Word 0 of a base form (Table 42). -/
def encodeBaseWord (m : Major) (o : Op) : Word :=
  let low := wordLow m o
  BitVec.ofNat 32 (match m.layout with
  | some .b3 =>
    if m == .bar then low + o.imm22.toNat * 2 ^ 22 + 2 ^ 31
    else
      low + o.d.field * 2 ^ 10 + o.a.field * 2 ^ 16 + m.modFn o.mod * 2 ^ 28 +
        (if o.b == .imm then (o.imm22.setWidth 6).toNat * 2 ^ 22 + 2 ^ 31 else o.b.field * 2 ^ 22)
  | some .bj =>
    low + o.pred.toNat * 2 ^ 10 + (if o.neg then 2 ^ 13 else 0) + (o.imm22.setWidth 18).toNat * 2 ^ 14
  | some .bm =>
    let ty := bitsAt o.mod 0 3
    low + o.d.field * 2 ^ 10 + o.a.field * 2 ^ 22 + ty * 2 ^ 28 +
      (if bitsAt o.mod 12 1 == 1 then o.b.field * 2 ^ 16
       else (o.imm22.toNat / baseSize ty) * 2 ^ 16 + 2 ^ 31)
  | none => low)

/-- The words of an instruction's operands (R101). -/
def encodeOp (m : Major) (o : Op) : List Word :=
  match o.form with
  | .ext | .extLit => encodeExt m o
  | .base => [encodeBaseWord m o]
  | .baseLit => encodeBaseWord m o :: match o.lit with
    | none => []
    | some v => [lowWord v, highWord v]

/-- The words of an instruction; an event has none. -/
def encode (i : Instr) : List Word :=
  match i.major, i.op with
  | some (m, _), some o => encodeOp m o
  | _, _ => []

/-- The decoder on a list of words; the words it lacks read as zero. -/
def decodeWords (joiner : Bool) (ws : List Word) : Except Nat Instr :=
  decode joiner (ws.getD 0 0) (ws.getD 1 0) (ws.getD 2 0) (ws.getD 3 0) (ws.getD 4 0)

/-- The instruction in the bits of an opcode-table row, the first word in the least significant bits. -/
def decodeTableWord (nbits w : Nat) : Option Instr :=
  let v := w % 2 ^ nbits
  match decodeWords false ((List.range 5).map fun k => BitVec.ofNat 32 (v >>> (32 * k))) with
  | .ok i => some i
  | .error _ => none

end Sys2Proof
end

