-- ==== Sys2Proof/Machine/Float.lean ====
section
/-! DEFINITION. Exact values of the number formats and their one rounding (R80 to R93): formats, decoding, rounding
to a format, conversions, the SX family, error feedback, and the arithmetic operations. -/
namespace Sys2Proof.Machine
open Sys2Proof

/-- The five status bits of R89: [4] IV, [3] DZ, [2] OF, [1] UF, [0] NX (the order of Table 18's mask). -/
abbrev Flags := BitVec 5
/-- Invalid operation. -/
def flagIV : Flags := 16
/-- Division by zero. -/
def flagDZ : Flags := 8
/-- Overflow. -/
def flagOF : Flags := 4
/-- Underflow. -/
def flagUF : Flags := 2
/-- Inexact. -/
def flagNX : Flags := 1

/-- A decoded value: NaN (signalling or not), an infinity, or `m * 2 ^ e` with its sign. -/
inductive FVal where
  | nan (signalling : Bool)
  | inf (neg : Bool)
  | fin (neg : Bool) (m : Nat) (e : Int)
deriving DecidableEq, Repr

/-- A floating-point format: exponent bits, fraction bits, bias; E4M3 has no infinity (R81). -/
structure FFmt where
  expBits  : Nat
  fracBits : Nat
  bias     : Int
  noInf    : Bool
deriving DecidableEq, Repr

/-- FP32. -/
def fmt32 : FFmt := ⟨8, 23, 127, false⟩
/-- FP64. -/
def fmt64 : FFmt := ⟨11, 52, 1023, false⟩
/-- F16. -/
def fmt16 : FFmt := ⟨5, 10, 15, false⟩
/-- BF16. -/
def fmtB16 : FFmt := ⟨8, 7, 127, false⟩
/-- E4M3. -/
def fmtE4M3 : FFmt := ⟨4, 3, 7, true⟩
/-- E5M2. -/
def fmtE5M2 : FFmt := ⟨5, 2, 15, false⟩

/-- The rounding modes of Table 36. -/
inductive RMode where
  | rn | rz | ru | rd
deriving DecidableEq, Repr

/-- The mode of a 2-bit code (Table 36). -/
def rmodeOf (c : Nat) : RMode :=
  match c with
  | 0 => .rn | 1 => .rz | 2 => .ru
  | _ => .rd

/-- Number of bits of a number: 0 for 0. -/
def bitLen (n : Nat) : Nat := if n = 0 then 0 else n.log2 + 1

/-- The canonical NaN of a format (R81, Table 32). -/
def canonNaN (f : FFmt) : Nat :=
  if f.noInf then 2 ^ (f.expBits + f.fracBits) - 1
  else (2 ^ f.expBits - 1) * 2 ^ f.fracBits + 2 ^ (f.fracBits - 1)

/-- The bits of an infinity; the largest finite value where the format has none (Table 37). -/
def infBits (f : FFmt) (neg : Bool) : Nat :=
  (if neg then 2 ^ (f.expBits + f.fracBits) else 0) +
    (if f.noInf then 2 ^ (f.expBits + f.fracBits) - 2 else (2 ^ f.expBits - 1) * 2 ^ f.fracBits)

/-- The bits of the largest finite value. -/
def maxBits (f : FFmt) (neg : Bool) : Nat :=
  (if neg then 2 ^ (f.expBits + f.fracBits) else 0) +
    (if f.noInf then 2 ^ (f.expBits + f.fracBits) - 2 else (2 ^ f.expBits - 1) * 2 ^ f.fracBits - 1)

/-- The value of an encoding (R81). -/
def fdecode (f : FFmt) (bits : Nat) : FVal :=
  let frac := bits % 2 ^ f.fracBits
  let ex := bits / 2 ^ f.fracBits % 2 ^ f.expBits
  let neg := bits / 2 ^ (f.fracBits + f.expBits) % 2 == 1
  if f.noInf then
    if ex == 2 ^ f.expBits - 1 && frac == 2 ^ f.fracBits - 1 then .nan false
    else if ex == 0 then .fin neg frac (1 - f.bias - f.fracBits)
    else .fin neg (frac + 2 ^ f.fracBits) (ex - f.bias - f.fracBits)
  else if ex == 2 ^ f.expBits - 1 then
    if frac == 0 then .inf neg else .nan (frac < 2 ^ (f.fracBits - 1))
  else if ex == 0 then .fin neg frac (1 - f.bias - f.fracBits)
  else .fin neg (frac + 2 ^ f.fracBits) (ex - f.bias - f.fracBits)

/-- `m * 2 ^ (-s)` rounded to an integer in a mode, for the sign given, and whether it was inexact. -/
def roundShift (mode : RMode) (neg : Bool) (m : Nat) (s : Int) : Nat × Bool :=
  if s ≤ 0 then (m * 2 ^ (-s).toNat, false)
  else
    let k := s.toNat
    let q := m / 2 ^ k
    let r := m % 2 ^ k
    let up := match mode with
      | .rn => 2 ^ k < 2 * r || (2 * r == 2 ^ k && q % 2 == 1)
      | .rz => false
      | .ru => !neg && r != 0
      | .rd => neg && r != 0
    (if up then q + 1 else q, r != 0)

/-- The value `m * 2 ^ e` rounded once to a format (R87, R89, Table 37): its bits and status. Tininess is
detected after rounding. -/
def froundFin (f : FFmt) (mode : RMode) (neg : Bool) (m : Nat) (e : Int) : Nat × Flags :=
  let sign := if neg then 2 ^ (f.expBits + f.fracBits) else 0
  if m = 0 then (sign, 0)
  else
    let p : Int := f.fracBits + 1
    let top : Int := e + bitLen m - 1
    let qmin : Int := 1 - f.bias - f.fracBits
    let q0 : Int := top - (p - 1)
    let q := if q0 < qmin then qmin else q0
    let (sig, inexact) := roundShift mode neg m (q - e)
    let carry := sig == 2 ^ (f.fracBits + 1)
    let sig := if carry then 2 ^ f.fracBits else sig
    let q := if carry then q + 1 else q
    let biased : Nat := if sig < 2 ^ f.fracBits then 0 else (q - qmin + 1).toNat
    let ovf := if f.noInf then
        2 ^ f.expBits ≤ biased || (biased == 2 ^ f.expBits - 1 && sig == 2 ^ (f.fracBits + 1) - 1)
      else 2 ^ f.expBits - 1 ≤ biased
    if ovf then
      let toInf := f.noInf || mode == .rn || (mode == .ru && !neg) || (mode == .rd && neg)
      (if toInf then infBits f neg else maxBits f neg, flagOF ||| flagNX)
    else
      let tiny := q0 < qmin &&
        !(q0 == qmin - 1 && (roundShift mode neg m (q0 - e)).1 == 2 ^ (f.fracBits + 1))
      let fl : Flags := if inexact then (if tiny then flagUF ||| flagNX else flagNX) else 0
      (sign + biased * 2 ^ f.fracBits + sig % 2 ^ f.fracBits, fl)

/-- A value rounded once to a format as an arithmetic result: NaN gives the canonical NaN (R88). -/
def fround (f : FFmt) (mode : RMode) (v : FVal) : Nat × Flags :=
  match v with
  | .nan s => (canonNaN f, if s then flagIV else 0)
  | .inf n => (infBits f n, if f.noInf then flagOF else 0)
  | .fin n m e => froundFin f mode n m e

/-- The value of a number. -/
def fvalInt (i : Int) : FVal := .fin (i < 0) i.natAbs 0

/-- Sign of a value. -/
def FVal.isNeg : FVal → Bool
  | .nan _ => false
  | .inf n => n
  | .fin n _ _ => n

/-- A value with the sign flipped (R150). -/
def FVal.flip : FVal → FVal
  | .nan s => .nan s
  | .inf n => .inf (!n)
  | .fin n m e => .fin (!n) m e

/-- Whether a value is a NaN. -/
def FVal.isNaN : FVal → Bool
  | .nan _ => true
  | _ => false

/-- Whether a value is a signalling NaN. -/
def FVal.isSNaN : FVal → Bool
  | .nan s => s
  | _ => false

/-- Whether a value is an infinity. -/
def FVal.isInf : FVal → Bool
  | .inf _ => true
  | _ => false

/-- Whether a value is a zero. -/
def FVal.isZero : FVal → Bool
  | .fin _ m _ => m == 0
  | _ => false

/-- A finite value as a signed mantissa at exponent `e0`, which is at most its own. -/
def FVal.intAt (e0 : Int) : FVal → Int
  | .fin n m e => (if n then -1 else 1) * (m * 2 ^ (e - e0).toNat : Nat)
  | _ => 0

/-- The exponent of a finite value; of a zero, the other's exponent is used. -/
def FVal.exp : FVal → Int
  | .fin _ _ e => e
  | _ => 0

/-- The status of a NaN input: IV when one of them is signalling. -/
def nanFlags (l : List FVal) : Flags := if l.any FVal.isSNaN then flagIV else 0

/-- Exact sum of two finite values, its sign for a zero sum as IEEE 754 has it for the mode. -/
def faddExact (mode : RMode) (a b : FVal) : FVal :=
  let e0 := if a.isZero then b.exp else if b.isZero then a.exp else min a.exp b.exp
  let s := (if a.isZero then 0 else a.intAt e0) + (if b.isZero then 0 else b.intAt e0)
  if s = 0 then
    .fin (if a.isZero && b.isZero && a.isNeg == b.isNeg then a.isNeg else mode == .rd) 0 0
  else .fin (s < 0) s.natAbs e0

/-- x + y (R150). -/
def faddV (f : FFmt) (mode : RMode) (a b : FVal) : Nat × Flags :=
  if a.isNaN || b.isNaN then (canonNaN f, nanFlags [a, b])
  else match a, b with
    | .inf n, .inf k => if n == k then (infBits f n, 0) else (canonNaN f, flagIV)
    | .inf n, _ => (infBits f n, 0)
    | _, .inf n => (infBits f n, 0)
    | _, _ => fround f mode (faddExact mode a b)

/-- Exact product of two values that are not NaN and not zero times infinity. -/
def fmulExact (a b : FVal) : FVal :=
  match a, b with
  | .fin n m e, .fin k l d => .fin (n != k) (m * l) (e + d)
  | _, _ => .inf (a.isNeg != b.isNeg)

/-- Whether a product is zero times infinity. -/
def zeroTimesInf (a b : FVal) : Bool := (a.isZero && b.isInf) || (a.isInf && b.isZero)

/-- x * y (R150). -/
def fmulV (f : FFmt) (mode : RMode) (a b : FVal) : Nat × Flags :=
  if a.isNaN || b.isNaN then (canonNaN f, nanFlags [a, b])
  else if zeroTimesInf a b then (canonNaN f, flagIV)
  else fround f mode (fmulExact a b)

/-- x * y + z with one rounding (R87, R150). For 0 × ∞ plus a quiet NaN, IEEE 754-2019 leaves open whether invalid operation
is signalled (R89): the model sets IV (log entry 51). -/
def ffmaV (f : FFmt) (mode : RMode) (a b c : FVal) : Nat × Flags :=
  if zeroTimesInf a b then (canonNaN f, flagIV)
  else if a.isNaN || b.isNaN || c.isNaN then (canonNaN f, nanFlags [a, b, c])
  else faddV f mode (fmulExact a b) c

/-- The quotient of two positive numbers as mantissa and exponent with at least `p` bits, an odd last bit standing
for a remainder. -/
def divMant (p : Nat) (m n : Nat) : Nat × Int :=
  let k := p + bitLen n
  let q := m * 2 ^ k / n
  (2 * q + (if m * 2 ^ k % n = 0 then 0 else 1), -(k : Int) - 1)

/-- x / y (R150). -/
def fdivV (f : FFmt) (mode : RMode) (a b : FVal) : Nat × Flags :=
  if a.isNaN || b.isNaN then (canonNaN f, nanFlags [a, b])
  else
    let s := a.isNeg != b.isNeg
    match a, b with
    | .inf _, .inf _ => (canonNaN f, flagIV)
    | .inf _, _ => (infBits f s, 0)
    | _, .inf _ => fround f mode (.fin s 0 0)
    | .fin _ m e, .fin _ n d =>
      if n = 0 then (if m = 0 then (canonNaN f, flagIV) else (infBits f s, flagDZ))
      else if m = 0 then fround f mode (.fin s 0 0)
      else
        let (q, x) := divMant (f.fracBits + 5) m n
        froundFin f mode s q (x + e - d)
    | _, _ => (canonNaN f, 0)

/-- Integer square root, one bit a step from bit `k` down. -/
def isqrtFrom (k : Nat) (n root : Nat) : Nat :=
  match k with
  | 0 => root
  | k + 1 =>
    let t := root + 2 ^ k
    isqrtFrom k n (if t * t ≤ n then t else root)

/-- Integer square root. -/
def isqrt (n : Nat) : Nat := isqrtFrom (bitLen n / 2 + 1) n 0

/-- The square root of `m * 2 ^ e` as mantissa and exponent with at least `p` bits, an odd last bit standing for
a remainder. -/
def sqrtMant (p : Nat) (m : Nat) (e : Int) : Nat × Int :=
  let (m, e) := if e % 2 = 0 then (m, e) else (2 * m, e - 1)
  let n := m * 2 ^ (2 * p)
  let r := isqrt n
  (2 * r + (if r * r = n then 0 else 1), e / 2 - (p : Int) - 1)

/-- Square root (Table 60). -/
def fsqrtV (f : FFmt) (mode : RMode) (a : FVal) : Nat × Flags :=
  match a with
  | .nan s => (canonNaN f, if s then flagIV else 0)
  | .inf n => if n then (canonNaN f, flagIV) else (infBits f false, 0)
  | .fin n m e =>
    if m = 0 then fround f mode a
    else if n then (canonNaN f, flagIV)
    else
      let (r, x) := sqrtMant (f.fracBits + 5) m e
      froundFin f mode false r x

/-- Reciprocal (Table 60). -/
def frcpV (f : FFmt) (mode : RMode) (a : FVal) : Nat × Flags := fdivV f mode (.fin false 1 0) a

/-- Reciprocal square root (Table 60). -/
def frsqV (f : FFmt) (mode : RMode) (a : FVal) : Nat × Flags :=
  match a with
  | .nan s => (canonNaN f, if s then flagIV else 0)
  | .inf n => if n then (canonNaN f, flagIV) else (0, 0)
  | .fin n m e =>
    if m = 0 then (infBits f n, flagDZ)
    else if n then (canonNaN f, flagIV)
    else
      let (m, e) := if e % 2 = 0 then (m, e) else (2 * m, e - 1)
      let k := bitLen m + f.fracBits + 5
      let r := isqrt (2 ^ (2 * k) / m)
      froundFin f mode false (2 * r + (if r * r * m = 2 ^ (2 * k) then 0 else 1)) (-(e / 2) - k - 1)

/-- Order of two values that are not NaN; zeros are equal. -/
def fcompare (a b : FVal) : Ordering :=
  match a, b with
  | .inf n, .inf k => if n == k then .eq else if n then .lt else .gt
  | .inf n, _ => if n then .lt else .gt
  | _, .inf n => if n then .gt else .lt
  | _, _ =>
    let e0 := min a.exp b.exp
    compare (a.intAt e0) (b.intAt e0)

/-- The comparison of a condition code on an order (Table 52, codes 0 to 5). -/
def condOf (c : Nat) (o : Ordering) : Bool :=
  match c with
  | 0 => o == .eq
  | 1 => o != .eq
  | 2 => o == .lt
  | 3 => o != .gt
  | 4 => o == .gt
  | _ => o != .lt

/-- A float comparison by a condition code (R152). -/
def fcond (c : Nat) (a b : FVal) : Bool × Flags :=
  let un := a.isNaN || b.isNaN
  let r := match c with
    | 6 => !un
    | 7 => un
    | 1 => un || condOf 1 (fcompare a b)
    | _ => !un && condOf c (fcompare a b)
  (r, nanFlags [a, b])

/-- The smaller or larger of two encodings (R88): −0 is less than +0; one NaN gives the other operand. -/
def fminmaxV (f : FFmt) (isMax : Bool) (a b : Nat) : Nat × Flags :=
  let x := fdecode f a
  let y := fdecode f b
  let fl := nanFlags [x, y]
  if x.isNaN && y.isNaN then (canonNaN f, fl)
  else if x.isNaN then (b, fl)
  else if y.isNaN then (a, fl)
  else
    let less := match fcompare x y with
      | .lt => true
      | .gt => false
      | .eq => x.isNeg && !y.isNeg
    (if less == isMax then b else a, fl)

/-- The class bit of an encoding (R152). -/
def fclassV (f : FFmt) (bits : Nat) : Nat :=
  match fdecode f bits with
  | .nan s => if s then 1 else 2
  | .inf n => if n then 4 else 512
  | .fin n m _ =>
    if m = 0 then (if n then 32 else 64)
    else if m < 2 ^ f.fracBits then (if n then 16 else 128)
    else (if n then 8 else 256)

/-- The floating-point format of an element code (Table 31). -/
def floatFmt (code : Nat) : Option FFmt :=
  match code with
  | 0 => some fmt32 | 1 => some fmt16 | 2 => some fmtB16 | 3 => some fmtE4M3 | 4 => some fmtE5M2
  | 14 => some fmt64
  | _ => none

/-- The integer range of a type code (R82, Table 64). -/
def intRange (code : Nat) : Option (Int × Int) :=
  match code with
  | 8 => some (-128, 127) | 9 => some (0, 255) | 10 => some (-8, 7) | 11 => some (0, 15)
  | 12 => some (-2147483648, 2147483647) | 13 => some (0, 4294967295)
  | _ => none

/-- Bits of an element (Table 31) or lane type (Table 64). -/
def elemBits (code : Nat) : Nat :=
  match code with
  | 0 => 32 | 1 => 16 | 2 => 16 | 3 => 8 | 4 => 8 | 5 => 8 | 6 => 5 | 7 => 3 | 8 => 8 | 9 => 8
  | 10 => 4 | 11 => 4 | 12 => 32 | 13 => 32 | 14 => 64
  | _ => 32

/-- The value of the low bits of a lane type other than SX (R159). -/
def typeVal (code bits : Nat) : FVal :=
  let b := bits % 2 ^ elemBits code
  match floatFmt code with
  | some f => fdecode f b
  | none =>
    match intRange code with
    | some (lo, _) =>
      if lo < 0 && 2 ^ (elemBits code - 1) ≤ b then fvalInt ((b : Int) - (2 ^ elemBits code : Nat))
      else fvalInt b
    | none => .fin false 0 0

/-- A value rounded to an integer type (R91, Table 37): the integer and the status. -/
def convertInt (mode : RMode) (lo hi : Int) (v : FVal) : Int × Flags :=
  match v with
  | .nan _ => (0, flagIV)
  | .inf n => (if n then lo else hi, flagIV)
  | .fin n m e =>
    let (q, inexact) := roundShift mode n m (-e)
    let i : Int := if n then -(q : Int) else q
    if i < lo then (lo, flagIV)
    else if hi < i then (hi, flagIV)
    else (i, if inexact then flagNX else 0)

/-- Two's complement bits of an integer. -/
def intBits (w : Nat) (i : Int) : Nat := (i % (2 ^ w : Nat)).toNat

/-- A value converted to a lane type (R159, Table 37): the bits as the destination register holds them, that is
with the sign copied up for I8 and I4 and zeros above every other narrow type. -/
def convertTo (mode : RMode) (code : Nat) (v : FVal) : Nat × Flags :=
  match floatFmt code with
  | some f => fround f mode v
  | none =>
    match intRange code with
    | some (lo, hi) =>
      let (i, fl) := convertInt mode lo hi v
      (intBits 32 i, fl)
    | none => (0, 0)

/-- Whether a lane type is an integer type. -/
def isIntType (code : Nat) : Bool := (intRange code).isSome

/-- CVT between lane types (R90, R91, R159). -/
def cvtLane (mode : RMode) (dst src bits : Nat) : Nat × Flags :=
  let v := typeVal src bits
  if dst == src then
    match v with
    | .nan s => ((floatFmt dst).elim 0 canonNaN, if s then flagIV else 0)
    | _ => if isIntType dst then convertTo mode dst v else (bits % 2 ^ elemBits dst, 0)
  else convertTo mode dst v

/-- CVTF with residue `e` (R92): output, new residue, status. -/
def cvtfLane (dst : Nat) (x e : Nat) : Nat × Nat × Flags :=
  let vx := fdecode fmt32 x
  let ve := match fdecode fmt32 e with
    | .fin n m d => FVal.fin n m d
    | _ => .fin false 0 0
  match vx with
  | .fin _ _ _ =>
    let y := faddExact .rn vx ve
    let (out, fl) := convertTo .rn dst y
    let sat := if isIntType dst then fl &&& flagIV != 0 else fl &&& flagOF != 0
    if sat then (out, 0, fl)
    else (out, (fround fmt32 .rn (faddExact .rn y (typeVal dst out).flip)).1, fl)
  | _ =>
    let (out, fl) := convertTo .rn dst vx
    (out, 0, fl)

/-- Element width of an SX format (R83). -/
def sxWidth (fmt : Nat) : Nat :=
  match fmt with
  | 5 => 8 | 6 => 5
  | _ => 3

/-- The value of an SX element code under a header, at index `i` of its block (R83). -/
def sxDecode (fmt header code i : Nat) : FVal :=
  let w := sxWidth fmt
  let ex := header / 256 % 256
  if ex == 255 then .nan false
  else
    let t := header / 4 ^ (i / 4) % 4
    let m := code % 2 ^ w
    let e : Int := (ex : Int) - 127 - t - (w - 1)
    if m < 2 ^ (w - 1) then .fin false m e else .fin true (2 ^ w - m) e

/-- `rne(m * 2 ^ e * 2 ^ k)`. -/
def scaledRne (m : Nat) (e k : Int) : Nat := (roundShift .rn false m (-(e + k))).1

/-- The larger of two magnitudes of finite values. -/
def maxMag (a b : Nat × Int) : Nat × Int :=
  let e0 := min a.2 b.2
  if a.1 * 2 ^ (a.2 - e0).toNat < b.1 * 2 ^ (b.2 - e0).toNat then b else a

/-- Largest finite magnitude of a list of values. -/
def maxFin (l : List FVal) : Nat × Int :=
  l.foldl (fun acc v => match v with
    | .fin _ m e => if acc.1 == 0 then (m, e) else if m == 0 then acc else maxMag acc (m, e)
    | _ => acc) (0, 0)

/-- Encoding of one SX block (R85): header, codes, whether each element saturated, and the status. -/
def sxEncode (fmt : Nat) (xs : List FVal) : Nat × List Nat × List Bool × Flags :=
  let w := sxWidth fmt
  let big := 2 ^ (w - 1) - 1
  if xs.any FVal.isNaN then (0xFF00, xs.map (fun _ => 0), xs.map (fun _ => false), flagIV)
  else
    let infinite := xs.any FVal.isInf
    let (am, ae) := maxFin xs
    let scale (m : Nat) (e : Int) (ex : Int) : Nat := scaledRne m e ((w : Int) - 1 - ex + 127)
    let ex : Int :=
      if infinite then 254
      else if am == 0 then 0
      else
        let fl : Int := ae + bitLen am - 1
        let e0 := min 254 (max 0 (fl + 128))
        if e0 < 254 && big < scale am ae e0 then e0 + 1 else e0
    let shiftOf (q : Nat) : Nat :=
      let part := (xs.drop (4 * q)).take 4
      if part.any FVal.isInf then 0
      else
        let (m, e) := maxFin part
        [1, 2, 3].foldl (fun (t n : Nat) => if scale m e (ex - (n : Int)) ≤ big then n else t) 0
    let ts := [0, 1, 2, 3].map shiftOf
    let enc := xs.zipIdx.map fun (x, i) =>
      let t : Nat := ts.getD (i / 4) 0
      let (mag, sat) := match x with
        | .fin _ m e =>
          let g := scale m e (ex - t)
          if big < g then (big, true) else (g, false)
        | _ => (big, true)
      (if x.isNeg && mag != 0 then 2 ^ w - mag else mag, sat)
    let header := ex.toNat * 256 + ts.getD 3 0 * 64 + ts.getD 2 0 * 16 + ts.getD 1 0 * 4 + ts.getD 0 0
    (header, enc.map (·.1), enc.map (·.2), if enc.any (·.2) then flagOF else 0)

/-- The FP32 bits of a value that FP32 holds (R90). -/
def toF32 (v : FVal) : Nat := (fround fmt32 .rn v).1

end Sys2Proof.Machine
end

