-- ==== Sys2Proof/Machine/Interval.lean ====
section
/-! DEFINITION. Real registers, interval bounds at a precision, log nodes and what the lapidary computes from them
(R49 to R75): all as functions of the nodes; reading bytes and moving references is done elsewhere. -/
namespace Sys2Proof.Machine
open Sys2Proof

/-- An X register (Table 22). -/
structure XReg where
  lo      : Word := 0
  hi      : Word := 0
  handle  : BitVec 24 := 0
  exact   : Bool := true
  opq     : Bool := false
  invalid : Bool := false
deriving DecidableEq, Repr

/-- The INVALID register (R51). -/
def xInvalid : XReg := { lo := 0x7FC00000, hi := 0x7FC00000, exact := false, invalid := true }

/-- A log node slot (Table 24). -/
structure Node where
  op     : Nat
  refs   : Nat
  pinned : Bool
  left   : Word
  right  : Word
  aux    : Word
deriving DecidableEq, Repr

/-- A bound: an infinity or `m * 2 ^ e`. -/
inductive Bnd where
  | ninf
  | pinf
  | num (m e : Int)
deriving DecidableEq, Repr

/-- Precision of a stage in significand bits (Table 29). -/
def stagePrec (s : Nat) : Nat :=
  match s with
  | 0 => 24 | 1 => 53 | 2 => 106 | 3 => 212
  | _ => 424

/-- Largest exponent of a stage from 1 to 4 (R71). -/
def stageExp : Int := 2 ^ 31

/-- Sign of a bound. -/
def Bnd.sgn : Bnd → Int
  | .ninf => -1
  | .pinf => 1
  | .num m _ => if m < 0 then -1 else if m = 0 then 0 else 1

/-- Exponent just above a finite non-zero magnitude. -/
def topOf (m e : Int) : Int := e + bitLen m.natAbs

/-- Order of bounds. -/
def Bnd.cmp (x y : Bnd) : Ordering :=
  match x, y with
  | .ninf, .ninf => .eq
  | .pinf, .pinf => .eq
  | .ninf, _ => .lt
  | _, .ninf => .gt
  | .pinf, _ => .gt
  | _, .pinf => .lt
  | .num m e, .num n d =>
    if x.sgn != y.sgn then compare x.sgn y.sgn
    else if x.sgn = 0 then .eq
    else
      let t := topOf m e
      let u := topOf n d
      if t < u then (if 0 < m then .lt else .gt)
      else if u < t then (if 0 < m then .gt else .lt)
      else
        let e0 := min e d
        compare (m * 2 ^ (e - e0).toNat) (n * 2 ^ (d - e0).toNat)

/-- The smaller bound. -/
def Bnd.lower (x y : Bnd) : Bnd := if x.cmp y == .gt then y else x
/-- The larger bound. -/
def Bnd.upper (x y : Bnd) : Bnd := if x.cmp y == .lt then y else x
/-- The negated bound. -/
def Bnd.neg : Bnd → Bnd
  | .ninf => .pinf
  | .pinf => .ninf
  | .num m e => .num (-m) e

/-- `m * 2 ^ e` rounded down or up to `p` significand bits in the range of R71. -/
def roundBnd (p : Nat) (up : Bool) (m e : Int) : Bnd :=
  if m = 0 then .num 0 0
  else
    let neg := m < 0
    let top := topOf m e - 1
    if top < -stageExp then
      if up == neg then .num 0 0 else .num (if neg then -1 else 1) (-stageExp)
    else
      let s : Int := (bitLen m.natAbs : Int) - p
      let (r, d) : Int × Int :=
        if s ≤ 0 then (m, e)
        else
          let k := s.toNat
          ((if up then -((-m) / 2 ^ k) else m / 2 ^ k), e + s)
      if stageExp < topOf r d - 1 then
        if up == neg then .num ((if neg then -1 else 1) * (2 ^ p - 1)) (stageExp - p + 1)
        else if neg then .ninf else .pinf
      else .num r d

/-- Sum of two bounds rounded; a magnitude far below the other acts only as a sticky bit. -/
def Bnd.add (p : Nat) (up : Bool) (x y : Bnd) : Bnd :=
  match x, y with
  | .num m e, .num n d =>
    if m = 0 then roundBnd p up n d
    else if n = 0 then roundBnd p up m e
    else
      let (m, e, n, d) : Int × Int × Int × Int :=
        if topOf m e < topOf n d then (n, d, m, e) else (m, e, n, d)
      let lim := min e (topOf m e - p - 4)
      let (n, d) : Int × Int := if topOf n d < lim then ((if n < 0 then -1 else 1), lim - 2) else (n, d)
      let e0 := min e d
      roundBnd p up (m * 2 ^ (e - e0).toNat + n * 2 ^ (d - e0).toNat) e0
  | .num _ _, y => y
  | x, _ => x

/-- Product of two bounds rounded; zero times an infinity is zero (R52). -/
def Bnd.mul (p : Nat) (up : Bool) (x y : Bnd) : Bnd :=
  if x.sgn = 0 || y.sgn = 0 then .num 0 0
  else match x, y with
    | .num m e, .num n d => roundBnd p up (m * n) (e + d)
    | _, _ => if x.sgn = y.sgn then .pinf else .ninf

/-- Quotient of two bounds rounded, the divisor not zero (R52 for the infinities). -/
def Bnd.div (p : Nat) (up : Bool) (x y : Bnd) : Bnd :=
  if x.sgn = 0 then .num 0 0
  else match x, y with
    | .num m e, .num n d =>
      let k := bitLen n.natAbs + p + 3 - min (bitLen m.natAbs) (bitLen n.natAbs + p)
      let a : Int := (if 0 < n then m else -m) * 2 ^ k
      let b : Int := n.natAbs
      roundBnd p up (if up then -((-a) / b) else a / b) (e - d - k)
    | .num _ _, _ => .num 0 0
    | _, .num _ _ => if x.sgn = y.sgn then .pinf else .ninf
    | _, _ => if x.sgn = y.sgn then (if up then .pinf else .num 0 0) else (if up then .num 0 0 else .ninf)

/-- Square root of a bound that is not negative, rounded. -/
def Bnd.sqrt (p : Nat) (up : Bool) (x : Bnd) : Bnd :=
  match x with
  | .num m e =>
    if m ≤ 0 then .num 0 0
    else
      let (m, e) := if e % 2 = 0 then (m.natAbs, e) else (2 * m.natAbs, e - 1)
      let k := p + 2
      let n := m * 2 ^ (2 * k)
      let r := isqrt n
      roundBnd p up (if up && r * r != n then r + 1 else r : Nat) (e / 2 - k)
  | _ => x

/-- An interval. -/
abbrev Ival := Bnd × Bnd

/-- The trap that ends a request (Table 30): INVALID-DECISION with a cause, or UNDECIDED with a cause. -/
inductive Stop where
  | invalid (cause : Nat)
  | undecided (cause : Nat)
deriving DecidableEq, Repr

/-- Node ops (Table 25). -/
def opADD : Nat := 0x08
/-- SUB. -/
def opSUB : Nat := 0x09
/-- MUL. -/
def opMUL : Nat := 0x0A
/-- DIV. -/
def opDIV : Nat := 0x0B
/-- SQRT. -/
def opSQRT : Nat := 0x0C
/-- MIN. -/
def opMIN : Nat := 0x0D
/-- MAX. -/
def opMAX : Nat := 0x0E
/-- NEG. -/
def opNEG : Nat := 0x0F
/-- ABS. -/
def opABS : Nat := 0x10
/-- DOT. -/
def opDOT : Nat := 0x18
/-- L2. -/
def opL2 : Nat := 0x19
/-- CONT, the second slot of DOT and L2. -/
def opCONT : Nat := 0x1A
/-- LEAF32. -/
def opLEAF32 : Nat := 0x01
/-- LEAF64. -/
def opLEAF64 : Nat := 0x02
/-- LEAFI32. -/
def opLEAFI32 : Nat := 0x03
/-- LEAFU32. -/
def opLEAFU32 : Nat := 0x04
/-- OPAQUE. -/
def opOPAQUE : Nat := 0x05

/-- Whether an interval contains zero. -/
def hasZero (b : Ival) : Bool := b.1.sgn ≤ 0 && 0 ≤ b.2.sgn

/-- Least or greatest of the four products or quotients of the bounds (Table 23). -/
def fourOf (f : Bool → Bnd → Bnd → Bnd) (a b : Ival) : Ival :=
  ((((f false a.1 b.1).lower (f false a.1 b.2)).lower (f false a.2 b.1)).lower (f false a.2 b.2),
   (((f true a.1 b.1).upper (f true a.1 b.2)).upper (f true a.2 b.1)).upper (f true a.2 b.2))

/-- The bounds of a node op at `p` bits (Table 23, R72). -/
def ivalOp (p : Nat) (op : Nat) (a b : Ival) : Except Stop Ival :=
  if op == opADD then .ok (a.1.add p false b.1, a.2.add p true b.2)
  else if op == opSUB then .ok (a.1.add p false b.2.neg, a.2.add p true b.1.neg)
  else if op == opMUL then .ok (fourOf (Bnd.mul p) a b)
  else if op == opDIV then
    if b.1.sgn = 0 && b.2.sgn = 0 then .error (.invalid 1)
    else if hasZero b then .ok (.ninf, .pinf)
    else .ok (fourOf (Bnd.div p) a b)
  else if op == opSQRT then
    if a.2.sgn < 0 then .error (.invalid 2)
    else .ok (if a.1.sgn < 0 then .num 0 0 else a.1.sqrt p false, a.2.sqrt p true)
  else if op == opMIN then .ok (a.1.lower b.1, a.2.lower b.2)
  else if op == opMAX then .ok (a.1.upper b.1, a.2.upper b.2)
  else if op == opNEG then .ok (a.2.neg, a.1.neg)
  else if 0 ≤ a.1.sgn then .ok a
  else if a.2.sgn ≤ 0 then .ok (a.2.neg, a.1.neg)
  else .ok (.num 0 0, a.1.neg.upper a.2)

/-- The bound an FP32 word stands for. -/
def bndOf32 (v : Word) : Bnd :=
  match fdecode fmt32 v.toNat with
  | .inf n => if n then .ninf else .pinf
  | .fin n m e => .num (if n then -(m : Int) else m) e
  | .nan _ => .num 0 0

/-- A bound rounded down or up to FP32, a zero as +0 (R50, R52). -/
def bndTo32 (up : Bool) (b : Bnd) : Word :=
  match b with
  | .ninf => 0xFF800000
  | .pinf => 0x7F800000
  | .num m e =>
    if m = 0 then 0
    else
      let neg := m < 0
      let t := topOf m e
      let (k, d) : Nat × Int :=
        if 200 < t then (1, 200) else if t < -200 then (1, -300) else (m.natAbs, e)
      let r := (froundFin fmt32 (if up then .ru else .rd) neg k d).1
      BitVec.ofNat 32 (if r == 2 ^ 31 then 0 else r)

/-- The FP32 word of a value as it enters an X register: −0 as +0 (R50). -/
def normZero (v : Word) : Word := if v == 0x80000000 then 0 else v

/-- The interval of an X register. -/
def XReg.ival (x : XReg) : Ival := (bndOf32 x.lo, bndOf32 x.hi)

/-- An X register with the bounds given; EXACT by R50. -/
def xOf (lo hi : Word) (opq : Bool) : XReg := { lo := lo, hi := hi, exact := lo == hi, opq := opq }

/-- The result of a node op on lane intervals, without its handle (Table 23, R51). The bounds are rounded down and
up at 424 bits and then to FP32 in the same direction, which is the one rounding of R52. -/
def xOp (op : Nat) (a b : XReg) : XReg :=
  if a.invalid || b.invalid then xInvalid
  else match ivalOp 424 op a.ival b.ival with
    | .error _ => xInvalid
    | .ok r => xOf (bndTo32 false r.1) (bndTo32 true r.2) (a.opq || b.opq)

/-- Exact value of a leaf node (R72); none for an OPAQUE leaf. -/
def leafVal (n : Node) : Int × Int :=
  if n.op == opLEAF64 then
    match fdecode fmt64 (pairOf n.left n.right).toNat with
    | .fin s m e => (if s then -(m : Int) else m, e)
    | _ => (0, 0)
  else if n.op == opLEAFI32 then (n.left.toInt, 0)
  else if n.op == opLEAFU32 then (n.left.toNat, 0)
  else match fdecode fmt32 n.left.toNat with
    | .fin s m e => (if s then -(m : Int) else m, e)
    | _ => (0, 0)

/-- The FP32 constant in an inline word (R54). -/
def inlineVal (w : Word) : Int × Int :=
  match fdecode fmt32 w.toNat with
  | .fin s m e => (if s then -(m : Int) else m, e)
  | _ => (0, 0)

/-- Whether a node has children (R56). -/
def Node.isOp (n : Node) : Bool := opADD ≤ n.op && n.op ≤ opABS

/-- Whether a node is unary. -/
def Node.isUnary (n : Node) : Bool := n.op == opSQRT || n.op == opNEG || n.op == opABS

/-- The child handles of a node, a node naming one twice listed twice (R60). -/
def Node.children (n : Node) : List Nat :=
  if n.isOp then
    (if n.aux.getLsbD 0 || n.left.toNat % 2 ^ 24 == 0 then [] else [n.left.toNat % 2 ^ 24]) ++
    (if n.isUnary || n.aux.getLsbD 1 || n.right.toNat % 2 ^ 24 == 0 then [] else [n.right.toNat % 2 ^ 24])
  else []

/-- Nodes reachable from a stack of handles, children before parents (R72, R73 step 1); none when more than
65,536 are. A stack entry is a handle and whether its children are done. -/
def walk (node : Nat → Option Node) : Nat → List (Nat × Bool) → List Nat → List Nat → Option (List Nat)
  | 0, _, _, _ => none
  | fuel + 1, stack, seen, order =>
    match stack with
    | [] => some order.reverse
    | (h, true) :: rest => walk node fuel rest seen (h :: order)
    | (h, false) :: rest =>
      if seen.contains h then walk node fuel rest seen order
      else if 65536 ≤ seen.length then none
      else
        let kids := match node h with
          | some n => n.children
          | none => []
        walk node fuel (kids.map (·, false) ++ (h, true) :: rest) (h :: seen) order

/-- The graph of a request with the roots given, 0 standing for no node. -/
def graphOf (node : Nat → Option Node) (roots : List Nat) : Option (List Nat) :=
  walk node (4 * 65537 + 8) ((roots.filter (· != 0)).map (·, false)) [] []

/-- A value at a stage: an interval at stages 1 to 4, a rational at stage 5. -/
inductive SVal where
  | iv (i : Ival)
  | rat (q : Rat)
deriving DecidableEq, Repr

/-- The rational `m * 2 ^ e`. -/
def ratOf (m e : Int) : Rat :=
  if 0 ≤ e then (m * 2 ^ e.toNat : Int) else mkRat m (2 ^ (-e).toNat)

/-- Whether a rational is within 2^20 bits (R72). -/
def ratFits (q : Rat) : Bool := bitLen q.num.natAbs + bitLen q.den ≤ 2 ^ 20

/-- An exact value at a stage. -/
def svalOf (s : Nat) (m e : Int) : Except Stop SVal :=
  if s == 5 then
    let q := ratOf m e
    if ratFits q then .ok (.rat q) else .error (.undecided 4)
  else .ok (.iv (roundBnd (stagePrec s) false m e, roundBnd (stagePrec s) true m e))

/-- The rational of a node op at stage 5. -/
def ratOp (op : Nat) (a b : Rat) : Except Stop SVal :=
  let done (q : Rat) : Except Stop SVal := if ratFits q then .ok (.rat q) else .error (.undecided 4)
  if op == opADD then done (a + b)
  else if op == opSUB then done (a - b)
  else if op == opMUL then done (a * b)
  else if op == opDIV then (if b = 0 then .error (.invalid 1) else done (a / b))
  else if op == opMIN then done (if b < a then b else a)
  else if op == opMAX then done (if a < b then b else a)
  else if op == opNEG then done (-a)
  else done (if a < 0 then -a else a)

/-- The values of a node's op at a stage. -/
def svalOp (s : Nat) (op : Nat) (a b : SVal) : Except Stop SVal :=
  match a, b with
  | .iv x, .iv y => (ivalOp (stagePrec s) op x y).map .iv
  | .rat x, .rat y => ratOp op x y
  | _, _ => .error (.invalid 0)

/-- Value of a handle among those computed so far. -/
def valOf (vals : List (Nat × SVal)) (h : Nat) : SVal :=
  match vals.find? (fun p => p.1 == h) with
  | some p => p.2
  | none => .iv (.ninf, .pinf)

/-- The value of one node at a stage (R72). `dots` gives the exact sums of the DOT and L2 nodes; none where an
element was a NaN or an infinity. -/
def nodeVal (s : Nat) (dots : List (Nat × Option (Int × Int))) (vals : List (Nat × SVal)) (h : Nat) (n : Node) :
    Except Stop SVal :=
  if n.op == opDOT || n.op == opL2 then
    match dots.find? (fun p => p.1 == h) with
    | some (_, some (m, e)) => svalOf s m e
    | _ => .error (.invalid 3)
  else if n.op == opOPAQUE then .ok (.iv (bndOf32 n.left, bndOf32 n.right))
  else if n.isOp then
    let arg (inline : Bool) (w : Word) : Except Stop SVal :=
      if inline then svalOf s (inlineVal w).1 (inlineVal w).2 else .ok (valOf vals (w.toNat % 2 ^ 24))
    match arg (n.aux.getLsbD 0) n.left with
    | .error e => .error e
    | .ok a =>
      if n.isUnary then svalOp s n.op a a
      else match arg (n.aux.getLsbD 1) n.right with
        | .error e => .error e
        | .ok b => svalOp s n.op a b
  else svalOf s (leafVal n).1 (leafVal n).2

/-- The values of the nodes of a graph at a stage, children first. Of several causes that end the request at one stage R73
names no first one: the model takes that of the first node in its order (log entry 51). -/
def evalGraph (node : Nat → Option Node) (s : Nat) (dots : List (Nat × Option (Int × Int))) :
    List Nat → List (Nat × SVal) → Except Stop (List (Nat × SVal))
  | [], vals => .ok vals
  | h :: rest, vals =>
    match node h with
    | none => evalGraph node s dots rest vals
    | some n =>
      match nodeVal s dots vals h n with
      | .error e => .error e
      | .ok v => evalGraph node s dots rest ((h, v) :: vals)

/-- The value of a root: its node's, or the register itself when it has no handle (R54). -/
def rootVal (s : Nat) (vals : List (Nat × SVal)) (x : XReg) : Except Stop SVal :=
  if x.handle != 0 then .ok (valOf vals x.handle.toNat)
  else if x.lo == x.hi then svalOf s (inlineVal x.lo).1 (inlineVal x.lo).2
  else .ok (.iv x.ival)

/-- The sign of a root or of the difference of two roots, where it is decided (R67, R68). -/
def decideSign (a b : SVal) : Option Ordering :=
  match a, b with
  | .rat x, .rat y => some (if x < y then .lt else if x = y then .eq else .gt)
  | .iv x, .iv y =>
    if x.1.cmp y.2 == .gt then some .gt
    else if x.2.cmp y.1 == .lt then some .lt
    else if x.1.cmp x.2 == .eq && y.1.cmp y.2 == .eq && x.1.cmp y.1 == .eq then some .eq
    else none
  | _, _ => none

/-- A value at a stage as an interval rounded outward to FP32 (R75). -/
def svalTo32 (v : SVal) : Word × Word :=
  match v with
  | .iv i => (bndTo32 false i.1, bndTo32 true i.2)
  | .rat q =>
    let k := 200 + bitLen q.den
    let n := q.num * 2 ^ k
    let d : Int := q.den
    (bndTo32 false (.num (n / d) (-(k : Int))), bndTo32 true (.num (-((-n) / d)) (-(k : Int))))

/-- SNAP's value (R64): a point's own, whatever HWRITE has left in EXACT. -/
def snapVal (x : XReg) : Word :=
  let fix (w : Word) : Word := if w == 0xFF800000 then 0xFF7FFFFF else if w == 0x7F800000 then 0x7F7FFFFF else w
  if x.lo == x.hi then x.lo
  else
    let s := faddExact .rn (fdecode fmt32 (fix x.lo).toNat) (fdecode fmt32 (fix x.hi).toNat)
    match s with
    | .fin n m e => normZero (BitVec.ofNat 32 (froundFin fmt32 .rn n m (e - 1)).1)
    | _ => 0

end Sys2Proof.Machine
end

