-- ==== Sys2Proof/Machine/Table.lean ====
section
/-! DEFINITION. Sparse data by key: a list of key and value pairs, keys strictly rising. A defaulted table lists no
entry equal to its default, so equal contents are equal lists. -/

/-- The elements of a list without repeats, each where it last stands. -/
def List.distinct {α : Type} [BEq α] (l : List α) : List α :=
  l.foldr (fun x acc => if acc.contains x then acc else x :: acc) []

namespace Sys2Proof.Machine
open Sys2Proof

/-- Pairs with strictly rising keys. -/
abbrev Table (α : Type) := List (Nat × α)

/-- The value at a key. -/
def tfind {α : Type} (t : Table α) (k : Nat) : Option α :=
  match t with
  | [] => none
  | (j, v) :: r => if k = j then some v else tfind r k

/-- The value at a key, or a default. -/
def tget {α : Type} (d : α) (t : Table α) (k : Nat) : α := (tfind t k).getD d

/-- The table with a key set. -/
def tins {α : Type} (t : Table α) (k : Nat) (v : α) : Table α :=
  match t with
  | [] => [(k, v)]
  | (j, w) :: r =>
    if k < j then (k, v) :: (j, w) :: r
    else if k = j then (k, v) :: r
    else (j, w) :: tins r k v

/-- The table without a key. -/
def tdel {α : Type} (t : Table α) (k : Nat) : Table α := t.filter fun p => p.1 != k

/-- The defaulted table with a key set: writing the default removes the entry. -/
def tput {α : Type} [DecidableEq α] (d : α) (t : Table α) (k : Nat) (v : α) : Table α :=
  if v = d then tdel t k else tins t k v

/-- The table with the value at a key changed, where there is one. -/
def tmod {α : Type} (t : Table α) (k : Nat) (f : α → α) : Table α :=
  t.map fun p => if p.1 = k then (p.1, f p.2) else p

/-- Keys strictly rising from above `lo`. -/
def tsorted {α : Type} (lo : Option Nat) (t : Table α) : Bool :=
  match t with
  | [] => true
  | (j, _) :: r => (match lo with
    | none => true
    | some k => decide (k < j)) && tsorted (some j) r

/-- The canonical form of a defaulted table. -/
def twf {α : Type} [DecidableEq α] (d : α) (t : Table α) : Bool :=
  tsorted none t && t.all fun p => decide (p.2 ≠ d)

end Sys2Proof.Machine
end

