-- ==== Sys2Proof/Machine/State.lean ====
section
/-! DEFINITION. The state of the machine as plain data: everything the manual gives the device, its dies, bays, cores,
launches, bents, groups, weaves, fibres and lanes; the outcomes that stop a run; the state at reset. -/
namespace Sys2Proof.Machine
open Sys2Proof

/-- Why the machine stops with a fault. -/
inductive Fault where
  /-- Raised by an instruction executed when no fibre has been picked to issue: the device cannot do this (safe). -/
  | noIssuingFibre
deriving DecidableEq, Repr

/-- Why the model gives no next state. -/
inductive Refusal where
  /-- Raised by `exec` for an instruction that has no meaning yet (safe). -/
  | notModelled (mnemonic : String)
  /-- Raised by an event whose own conditions do not hold in the state: such an event does not happen (safe). -/
  | notEnabled (event : String)
deriving DecidableEq, Repr

/-- A typed store's bytes (R165): those written, over zeros, or over contents that R36 leaves undefined. -/
structure Store where
  cells : List Host.Cell := []
  fill  : Option Nat := none
deriving DecidableEq, Repr

/-- A place that an access names: pieces of physical memory (one, or two for an access over two pages), or bytes of a
typed store. -/
inductive Loc where
  | phys (segs : List (Nat × Nat))
  | data (gid off : Nat)
  | wst (off : Nat)
  | cst (off : Nat)
deriving DecidableEq, Repr

/-- A byte that an access touches: its kind (0 physical memory, 1 A-space, 2 W-space, 3 C-space, 4 a device register or a
PCIe device, 5 the version of a sealed piece), the group, claim or bent it belongs to, its place. -/
abbrev ByteAt := Nat × Nat × Nat

/-- Who makes accesses, and its position (R185, Table 83): `level` is the narrowest scope whose instances can hold it: 0 a
lane, 4 a copy record or a matrix command, 5 a lapidary request, 7 the device's own hardware (`id` 0), a system core or
an operation of the storage engine or the launch hardware, 8 a peer, 9 a host thread, 10 an I/O device. -/
structure Actor where
  level  : Nat := 7
  id     : Nat := 0
  weave  : Nat := 0
  gid    : Nat := 0
  bent   : Nat := 0
  bay    : Nat := 0
  launch : Nat := 0
deriving DecidableEq, Repr

/-- A side of a synchronisation edge (R187, R193 to R195): the accesses of an actor, those before its last fence, those of
a bent's or a launch's groups and engine operations, or a meeting point of edges: kind 1 the retirements of a bay's
matrix engine, 2 a guard slot, 3 a task, 4 a queue, 5 a launch. -/
inductive Party where
  | actor (a : Actor)
  | fenced (a : Actor)
  | bent (uid : Nat)
  | launch (uid : Nat)
  | unit (kind n : Nat)
deriving DecidableEq, Repr

/-- What an event of the memory order is: an access, with what each byte held before it and, for a load, the stores by
their places in the record that it has missed; a fence; an edge, also from the accesses at the places `pubs`; the
invalidation of instruction caches. -/
inductive Act where
  | access (reads writes : Bool) (cells : List (ByteAt × Byte)) (missed : List Nat)
  | fence
  | edge (pubs : List Nat) (src dst : List Party)
  | cinv (segs : List (Nat × Nat)) (cores : List Nat)
deriving DecidableEq, Repr

/-- An event of the memory order (R104, R186 to R195, R248): who made it, the scope it names, the launches older than it;
the parts of one access, which nothing orders among themselves, share a `batch`; `whole` marks a commit that an agent
sees all of or nothing of. -/
structure Ev where
  actor : Actor
  scope : Nat
  act   : Act
  uid   : Nat := 0
  batch : Nat := 0
  whole : Bool := false
deriving DecidableEq, Repr

/-- Stream state of a Q register (R211): the words of Table 97 and the step. -/
structure QStream where
  base   : DWord
  lane   : Word
  stride : Word
  length : Word
  access : Word
  step   : Word
deriving DecidableEq, Repr

/-- A choice record (Table 130). -/
structure ChoiceRec where
  resume : DWord
  next   : Nat
  count  : Nat
  mark   : Nat
  originCut : Bool := false
  cut    : Bool := false
  stolen : Bool := false
  dest   : BitVec 8
  mask   : BitVec 16
  wb     : Nat
  token  : Word
  words  : Table Word := []
deriving DecidableEq, Repr

/-- A kerf entry (Table 131). -/
structure KerfEntry where
  space : BitVec 4
  size  : BitVec 2
  addr  : BitVec 57
  old   : DWord
deriving DecidableEq, Repr

/-- The three states of a lane (R15). -/
inductive LaneSt where
  | live | dormant | exited
deriving DecidableEq, Repr

/-- A lane (R41, R89, R92, R210, R273, R305). `unwinding` is set while it waits for a page in step 4 of R283. -/
structure Lane where
  st       : LaneSt := .live
  quitPc   : DWord := 0
  g        : Table Word := []
  x        : Table XReg := []
  p        : BitVec 7 := 0
  q        : Table QStream := []
  e        : Table Word := []
  monArmed : Bool := false
  monLine  : DWord := 0
  monPa    : Nat := 0
  monHit   : Bool := false
  sticky   : BitVec 5 := 0
  reported : BitVec 5 := 0
  notrail  : Bool := false
  stealPc  : DWord := 0
  unwinding : Bool := false
  recs     : List ChoiceRec := []
  kerf     : List KerfEntry := []
deriving DecidableEq, Repr

/-- States of a fibre (R20). -/
inductive FSt where
  | ready | parked | refining | halted
deriving DecidableEq, Repr

/-- What a parked fibre waits for (R23, R31, R178, R179, R196, R365, R371). -/
inductive Wait where
  | none
  | bar (ofBent : Bool) (n : Nat)
  | await (words : List (Nat × Word))
  | peg (va : DWord) (thresholds : List DWord)
  | monitor (lanes : DWord)
  | clock (due : Nat)
  | sysc (tag dest : Nat)
deriving DecidableEq, Repr

/-- A fibre (R17 to R28, R202, R328 to R331). A fibre without a slot is spilled. `step` is 1 while a step is under way
and 2 once its instruction has completed; `halts` are the halts, by lane, gauge and action, that wait for its
instruction to complete; `wide` is set while a group or bent halt holds it; `pcDue` are the lanes, halted before the
instruction, whose PC events are made with those of the lanes that issue it; `waiters` are the lanes that execute the wait
it is parked at or has put off. -/
structure Fibre where
  id        : Nat
  parent    : Nat := 0
  pc        : DWord
  lanes     : DWord
  wb        : Nat := 0
  st        : FSt := .ready
  slot      : Option Nat := some 0
  waitCount : Nat := 0
  aged      : Bool := false
  lastIssue : Nat := 0
  wait      : Wait := .none
  replay    : DWord := 0
  resume    : FSt := .ready
  cause     : Nat := 0
  detail    : Nat := 0
  reported  : Bool := false
  step      : Nat := 0
  wide      : Bool := false
  pcStop    : Option DWord := none
  halts     : List (Nat × Nat × Nat) := []
  pcDue     : DWord := 0
  waiters   : DWord := 0
  token     : Option Word := none
  len       : Nat := 0
deriving DecidableEq, Repr

/-- A weave (R14, R22, R45, R254). -/
structure Weave where
  size    : Nat
  lanes   : Table Lane := []
  fibres  : List Fibre := []
  staged  : List Nat := []
  slot    : Nat := 0
  ready   : Nat := 0
  issues  : Nat := 0
  yielded : Bool := false
deriving DecidableEq, Repr

/-- A barrier (R31, R33): arrivals, generation, cycles since the first arrival of the generation. -/
structure Bar where
  count : Nat := 0
  gen   : Nat := 0
  age   : Option Nat := none
deriving DecidableEq, Repr

/-- A group (R13, R29, R47, R59, R275, R283, R355, R372). `logical` is the region base that A2 names, `phys` where the
region now lies (R321); `exitPc` is where its last lane left (R334). -/
structure Group where
  gid      : Nat
  bent     : Nat
  role     : Nat
  number   : Nat
  size     : Nat
  gBudget  : Nat
  xBudget  : Nat
  core     : Nat
  slot     : Nat
  logical  : Nat
  phys     : Nat
  dataLen  : Nat
  data     : Store := {}
  regions  : Nat := 0
  weaves   : Table Weave := []
  k        : Table Word := []
  a        : Table DWord := []
  bars     : Table Bar := []
  logStore : Nat
  logSpill : Nat
  spillVa  : DWord := 0
  nodes    : Table Node := []
  recCap   : Nat
  kerfCap  : Nat
  push     : Word := 0
  cuts     : List (Word × Nat) := []
  extWait  : Bool := false
  entries  : List Word := []
  mstc     : BitVec 4 := 0
  exitPc   : DWord := 0
  retired  : Bool := false
deriving DecidableEq, Repr

/-- A piece of a range task (R244 to R249): its task, what remains, what it received, and the bytes of its sealed
version by physical address. -/
structure Piece where
  task    : Nat
  first   : Nat
  next    : Nat
  stop    : Nat
  taken   : List (Nat × Nat) := []
  version : Table Byte := []
deriving DecidableEq, Repr

/-- Where a bent is in its life (R35, R36, R38, R303, R319): `stopping` from the first step of its pre-emption on. -/
inductive BentSt where
  | waiting | resident | stopping | saved | ending | ended
deriving DecidableEq, Repr

/-- A matrix command (R180, R216 to R223): the instruction, its operands as read at issue; while it runs, the elements,
status and INT bit to be written at retirement; the row-progress register: the K steps done and the operand rows
held of the next one. `op` names it among the agents of the memory order (R193), as for the other operations below. -/
structure MCmd where
  bent    : Nat
  gid     : Nat
  pc      : DWord
  major   : Major
  mod     : BitVec 16
  tile    : Nat
  peg     : Option Nat
  guard   : Option Nat
  stile   : Nat
  opA     : DWord
  opB     : DWord
  shape   : Word
  bitmap  : DWord
  slot    : Nat
  started : Bool := false
  step    : Nat := 0
  rows    : List (List FVal) := []
  record  : List Byte := []
  map     : List Byte := []
  acc     : List Word := []
  flags   : BitVec 5 := 0
  entries : List Word := []
  op      : Nat := 0
deriving DecidableEq, Repr

/-- A kick not yet started, or what is left of it (R173): the records still to start. -/
structure CopyRec where
  bent    : Nat
  gid     : Nat
  core    : Nat
  pc      : DWord
  weave   : Nat
  slot    : Nat
  bytes   : List Byte
  row     : Nat := 0
  entries : List Word := []
  op      : Nat := 0
deriving DecidableEq, Repr

/-- Which instruction a lapidary request serves (R67, R68, R75, R262). -/
inductive ReqKind where
  | sgn (pp pn : Opnd)
  | cmp (cond : Nat) (pd : Opnd)
  | xref (xd : Nat) (stage : Nat)
  | topk
deriving DecidableEq, Repr

/-- A lapidary request (R70 to R77): its lane, roots, the last stage completed and that stage's interval. -/
structure Request where
  gid     : Nat
  weave   : Nat
  lane    : Nat
  pc      : DWord
  slot    : Nat
  kind    : ReqKind
  a       : XReg
  b       : XReg
  stage   : Nat := 0
  last    : Word × Word := (0, 0)
  entries : List Word := []
  op      : Nat := 0
deriving DecidableEq, Repr

/-- A claim on a top-k list (R260): the group that holds it; the list by the group whose data part it lies in and the
offset there. -/
structure Claim where
  gid   : Nat
  owner : Nat
  off   : Nat
deriving DecidableEq, Repr

/-- A pair still to be inserted by TOPK.INS (R262): its lane, its list, its id and key as read at issue, the stream that
the id came from. -/
structure Pair where
  lane   : Nat
  owner  : Nat
  off    : Nat
  id     : Word
  key    : XReg
  stream : Option Nat := none
deriving DecidableEq, Repr

/-- A TOPK.INS that waits for a comparison (R262): the pairs left, whose lanes are the refining fibre, and where the
first of them stands; `full` while the comparison with the last entry of a full list is still to be made. -/
structure Insertion where
  gid   : Nat
  weave : Nat
  pc    : DWord
  slot  : Nat
  todo  : List Pair
  pos   : Nat
  full  : Bool
deriving DecidableEq, Repr

/-- A guard slot (R181). -/
inductive Guard where
  | free | opened | yes | no
deriving DecidableEq, Repr

/-- What the claim on a bay covers, and the bay's engines (R36, R70, R100, R165, R173, R180, R181, R260): `answered` is the
cycle of the lapidary's last answers to decisions, `turn` the core whose kicked record starts next. -/
structure Bay where
  holder     : Option Nat := none
  lastDomain : Option Nat := none
  w          : Store := {}
  c          : Store := {}
  tiles      : Table (BitVec 5) := []
  mq         : List MCmd := []
  guards     : Table Guard := []
  lap        : List Request := []
  lapWait    : List Request := []
  kicks      : List (List CopyRec) := []
  started    : List CopyRec := []
  claims     : List Claim := []
  inserts    : List Insertion := []
  answered   : Option Nat := none
  turn       : Nat := 0
  aDomain    : Table Nat := []
deriving DecidableEq, Repr

/-- The effective fields of a bent's domain as they were read at its last placement (R39): identifier, handler descriptor,
priority class, fault domain, ageing period, and the domains on the path to the root, each with its lapidary share. -/
structure DomainView where
  id       : Nat := 0
  handler  : Nat := 0
  priority : Nat := 0
  fault    : Nat := 0
  ageing   : Nat := 0
  shares   : List (Nat × Nat) := []
deriving DecidableEq, Repr

/-- A bent (R35, R36, R252, R319 to R321). `bay` is the key of its bay while it `holds` cores there; `since` when it
began to wait, `placed` when it was placed, `area` the address of its save area (R318). -/
structure Bent where
  uid     : Nat
  number  : Nat
  launch  : Nat
  dcb     : Nat
  dom     : Option DomainView := none
  socket  : Nat
  bay     : Nat := 0
  st      : BentSt := .waiting
  holds   : Bool := false
  since   : Nat := 0
  placed  : Nat := 0
  groups  : List Nat := []
  joiner  : Option Nat := none
  claim   : Bool := false
  bars    : Table Bar := []
  late    : Bool := false
  piece   : Option Piece := none
  saved   : Bay := {}
  area    : DWord := 0
  seven   : Bool := false
deriving DecidableEq, Repr

/-- Where a launch came from (R232, R241). -/
inductive Origin where
  | queue (q index : Nat)
  | device (socket : Nat)
deriving DecidableEq, Repr

/-- A launch (R234 to R242, R339, R340, R355); `pool` is the address of a device-side launch's pool copy. -/
structure Launch where
  uid      : Nat
  origin   : Origin
  addr     : DWord
  record   : List Byte
  pool     : DWord := 0
  space    : Nat
  depth    : Nat
  priv     : Bool
  started  : Bool := false
  done     : Bool := false
  bents    : List Nat := []
  args     : List Byte := []
  pid      : Word := 0
  tid      : Word := 0
  stamps   : List Nat := [0, 0, 0]
deriving DecidableEq, Repr

/-- A range task (R243 to R247): `gid` is the group that submitted it, `pool` the address of its pool copy. -/
structure Task where
  uid    : Nat
  socket : Nat
  launch : Nat
  gid    : Nat
  record : List Byte
  pool   : DWord := 0
  dcb    : Nat
  depth  : Nat
  role   : Nat
  number : Nat
  bent   : Nat
  ready  : Bool := false
  pieces : List Nat := []
deriving DecidableEq, Repr

/-- A gauge (R324). -/
structure Gauge where
  opA   : DWord := 0
  opB   : DWord := 0
  ctrl  : Word := 0
  gid   : Word := 0
  lanes : DWord := 0
  hits  : DWord := 0
deriving DecidableEq, Repr

/-- An event counter and its source (R341). -/
structure Counter where
  source : Nat := 0
  value  : DWord := 0
deriving DecidableEq, Repr

/-- A cached line of code (R104): the bytes the next fetches may still see. -/
structure CodeLine where
  line  : Nat
  bytes : List Byte
deriving DecidableEq, Repr

/-- A core (R104, R318, R324, R341): `bank` is its active register bank, `shadow` the bent whose context the other one
holds. The contexts themselves stand in the groups. -/
structure Core where
  gauges   : Table Gauge := []
  counters : Table Counter := []
  code     : List CodeLine := []
  bank     : Bool := false
  shadow   : Option Nat := none
deriving DecidableEq, Repr

/-- What waits on a fault queue entry (R311, R313, R315). -/
inductive Faulter where
  | group (gid : Nat)
  | copy (gid : Nat) (bytes : List Byte)
  | matrix (gid : Nat)
  | request (gid weave lane : Nat)
deriving DecidableEq, Repr

/-- A fault queue entry outstanding or held (R312, R313). -/
structure FaultEntry where
  seq   : Option Word := none
  va    : DWord
  mask  : DWord
  pc    : DWord
  gid   : Nat
  weave : Nat
  engine : Bool
  slot  : Nat
  hint  : Nat
  access : Nat
  kind  : Nat
  who   : Faulter
  taken : Nat
deriving DecidableEq, Repr

/-- A service request outstanding or held (R365): `tag` is what its parked fibre waits for; `answer` one received while the
bent is saved (R366), `pubs` the place of its store in the memory order. -/
structure SvcReq where
  seq  : Option Word := none
  code : Nat
  gid  : Nat
  arg  : DWord
  pc   : DWord
  weave : Nat
  fid  : Nat
  tag  : Nat
  answer : Option Word := none
  pubs : List Nat := []
deriving DecidableEq, Repr

/-- A sample or trace sink that is armed (R333 to R337). `pins` are the pinned translations, as virtual and physical page
addresses: of its control block, which lies at `pa`, and of its ring; `ptes` are the page-table entries that gave them, and `moved`
is set once one of them has changed. `period` is a log2. -/
structure Sink where
  pa     : Nat
  pins   : List (Nat × Nat)
  ptes   : List Nat := []
  moved  : Bool := false
  space  : Nat
  asid   : Nat
  period : Nat
  due    : Nat
  lost   : Bool := false
  drops  : Bool := false
deriving DecidableEq, Repr

/-- A debug window (R386, R387). Its instruction completes within its GO store, so BUSY is never seen set (log entry 17). -/
structure Window where
  words   : List Word := [0, 0, 0]
  a       : DWord := 0
  b       : DWord := 0
  c       : DWord := 0
  d       : DWord := 0
  space   : DWord := 0
  result  : DWord := 0
  status  : DWord := 0
deriving DecidableEq, Repr

/-- A cached leaf (R310): the TLB that holds it, a core's L1 or else its bay's; its page by number, log2 of its size, where
it maps to, its PTE with A and D set. -/
structure TlbEntry where
  bay   : Option Nat
  core  : Option Nat
  asid  : Nat
  va    : Nat
  size  : Nat
  frame : Nat
  flags : DWord
deriving DecidableEq, Repr

/-- A cached pointer (R310): the table of a level for the addresses whose bits above that level's index are `va`. -/
structure PtrEntry where
  asid  : Nat
  va    : Nat
  level : Nat
  table : Nat
deriving DecidableEq, Repr

/-- A granule used through a PTE since it was last flushed: with which PIN and HOME, and which of its lines are not yet
flushed (R369). -/
structure Homed where
  home    : BitVec 4
  granule : Nat
  lines   : BitVec 32
deriving DecidableEq, Repr

/-- A group that has retired since the last sample tick (R334). -/
structure Retiree where
  bay  : Nat
  core : Nat
  gid  : Nat
  pid  : Word
  tid  : Word
  pc   : DWord
deriving DecidableEq, Repr

/-- A compute die (R44, R241, R252, R310, R312, R333, R341, R353, R360, R365, R386). `roots` are address-space entries as
walks have used them (R306): the space, its ASID, its root table. -/
structure Die where
  clockOff : Nat := 0
  gidCount : Nat := 0
  fqcb     : DWord := 0
  svcb     : DWord := 0
  gtab     : DWord := 0
  haltpg   : DWord := 0
  entries  : List FaultEntry := []
  held     : List FaultEntry := []
  svc      : List SvcReq := []
  svcHeld  : List SvcReq := []
  sample   : Option Sink := none
  trace    : Option Sink := none
  counters : Table Counter := []
  windows  : Table Window := []
  tlb      : List TlbEntry := []
  ptrs     : List PtrEntry := []
  roots    : List (Nat × Nat × Nat) := []
  chosen   : List (Nat × Nat) := []
  offline  : Bool := false
  retirees : List Retiree := []
deriving DecidableEq, Repr

/-- A ring entry started and not done: a launch, or a WAIT with its peg and threshold (R232). -/
inductive Pend where
  | launch (uid : Nat)
  | wait (va threshold : DWord)
deriving DecidableEq, Repr

/-- A host queue (R229 to R233): where its QCB lies, once that is settled (log entry 22); `qcb` is the QCB as read at
admission, `head` the next entry to take, `pend` the entries started and not done. -/
structure HostQ where
  place     : Option Nat := none
  announced : Word := 0
  errors    : Nat := 0
  since     : Nat := 0
  active    : Bool := false
  failed    : Bool := false
  qcb       : List Byte := []
  prio      : Nat := 0
  head      : Word := 0
  pend      : List (Word × Pend) := []
deriving DecidableEq, Repr

/-- A storage queue pair granted to the engine (R264): drive limits and the free submission entries. -/
structure QPair where
  nsids   : List Nat
  lbaSize : Nat
  maxXfer : Nat
  free    : Nat
deriving DecidableEq, Repr

/-- An STLOAD command issued (R265): where it was issued, its descriptor, the Read that went to the drive (namespace, first
block, blocks), the physical pieces of its destination, pinned at issue. -/
structure StCmd where
  launch : Nat
  dom    : DomainView
  fibre  : FibreRef
  pc     : DWord
  lane   : Nat
  qp     : Nat
  desc   : DWord
  nsid   : Nat
  slba   : Nat
  nlb    : Nat
  dst    : List (Nat × Nat)
  bytes  : Nat
  peg    : Option Nat
  op     : Nat := 0
deriving DecidableEq, Repr

/-- Phases of the package (R349, R350). -/
inductive Phase where
  | off | safe | running
deriving DecidableEq, Repr

/-- The topology record (R349, R350): the straps and the dies that the boot admitted. -/
structure Topology where
  straps  : Straps
  compute : BitVec 8
  memory  : BitVec 8
deriving DecidableEq, Repr

/-- The management function (R349 to R352). `failed` are the steps and units that failed at the last start, `alts` those
whose alternatives are taken, once for each; `images` are the firmware images written to slots A and B; `spdm` the
answers given since the last GET_VERSION, `spdmStage` how far the requests have come; `notifyAt` the PCIe addresses of
the notify aperture at the two PCIe ports (R231, R346). -/
structure Mgmt where
  phase    : Phase := .off
  topo     : Option Topology := none
  straps   : Straps := {}
  bootLog  : List DWord := []
  attempts : Nat := 0
  failed   : List (Nat × Nat) := []
  alts     : List (Nat × Nat) := []
  minVersion : Nat := 0
  images   : List (List Byte) := [[], []]
  spdm     : List (List Byte) := []
  spdmStage : Nat := 0
  notifyAt  : List Nat := []
deriving DecidableEq, Repr

/-- A link over the sill or a port (R343, R346, R348). -/
structure Link where
  halfRate : Bool := false
  retrains : Nat := 0
  retries  : Nat := 0
  down     : Bool := false
deriving DecidableEq, Repr

/-- The machine. The last five fields are the model's own (log entries 2, 3, 4, 52): the events to come, the fibre that
the last issue choice picked, the choices the manual leaves open, the counter of free values, and the memory order so far,
which is kept while choices are left to take. -/
structure State where
  mem      : List Host.Cell
  astb     : DWord
  qpriv    : DWord
  health   : DWord
  cycle    : Nat
  mgmt     : Mgmt
  links    : Table Link
  homes    : Table Homed
  dies     : Table Die
  bays     : Table Bay
  cores    : Table Core
  queues   : Table HostQ
  launches : Table Launch
  tasks    : Table Task
  bents    : Table Bent
  groups   : Table Group
  pairs    : Table QPair
  stcmds   : List StCmd
  uids     : Nat
  agenda   : List Instr
  cur      : Option FibreRef
  oracle   : List Nat
  fresh    : Nat
  past     : List Ev
deriving DecidableEq, Repr

/-- The device as power-on finds it (R349, R350, Table 176): off, no topology record, registers at their reset values,
nothing launched. -/
def State.reset : State :=
  { mem := [], astb := 0, qpriv := 0, health := 0, cycle := 0, mgmt := {}, links := [], homes := [], dies := [], bays := [],
    cores := [], queues := [], launches := [], tasks := [], bents := [], groups := [], pairs := [], stcmds := [],
    uids := 0, agenda := [], cur := none, oracle := [], fresh := 0, past := [] }

end Sys2Proof.Machine
end

