-- ==== Sys2Proof/Machine/Order.lean ====
section
/-! DEFINITION. The order of memory (R185 to R195): positions of agents, precedence among the events on record, the stores
that a load may miss. The coherence order of every byte is the order in which the machine performs the stores; a load
may be given what its bytes held before some of the newest stores, as far as that closes no cycle (log entry 52). -/
namespace Sys2Proof.Machine
open Sys2Proof

/-- The device's own hardware (Table 83). -/
def hardware : Actor := {}

/-- A system core, a thread of the host behind a PCIe port, the peer behind a Rhaut port (Table 83). The level of each is also
the scope that its accesses count as naming. -/
def coreActor (core : Nat) : Actor := { level := 7, id := core + 1 }
def hostActor (port thread : Nat) : Actor := { level := 9, id := thread, weave := port }
def peerActor (port : Nat) : Actor := { level := 8, id := port }

/-- Whether two positions are those of one agent. -/
def Actor.same (a b : Actor) : Bool := a.level == b.level && a.id == b.id && a.weave == b.weave && a.gid == b.gid

/-- The narrowest scope one of whose instances holds two agents, the first one issuing in the fibre of some lanes (R183,
R185). -/
def Actor.near (a : Actor) (fibre : DWord) (b : Actor) : Nat :=
  let apart :=
    if a.same b then 0
    else if a.gid == b.gid && a.weave == b.weave then if fibre.getLsbD b.id then 1 else 2
    else if a.gid == b.gid then 3
    else if a.bent == b.bent then 4
    else if a.bay == b.bay then 5
    else if a.bay / 12 == b.bay / 12 then 6
    else 7
  max apart (max a.level b.level)

/-- Whether an agent's accesses are on a side of an edge (R193 to R195). -/
def Party.holds (p : Party) (a : Actor) : Bool :=
  match p with
  | .actor b => b.same a
  | .bent uid => a.level ≤ 5 && a.bent == uid
  | .launch uid => a.level ≤ 5 && a.launch == uid
  | .fenced _ | .unit _ _ => false

/-- Whether what an agent has fenced is on a side of an edge (R194, R197). -/
def Party.fences (p : Party) (a : Actor) : Bool :=
  match p with
  | .fenced b => b.same a
  | _ => false

/-- Whether a side of one edge is a meeting point that the side of another one is too. -/
def Party.meets (p : Party) (l : List Party) : Bool :=
  match p with
  | .unit _ _ => l.contains p
  | _ => false

/-- The bytes of an access. -/
def Act.cells (x : Act) : List (ByteAt × Byte) :=
  match x with
  | .access _ _ cells _ => cells
  | _ => []

/-- Whether it reads. -/
def Act.reads (x : Act) : Bool :=
  match x with
  | .access r _ _ _ => r
  | _ => false

/-- Whether it writes. -/
def Act.writes (x : Act) : Bool :=
  match x with
  | .access _ w _ _ => w
  | _ => false

/-- The stores that it has missed. -/
def Act.missed (x : Act) : List Nat :=
  match x with
  | .access _ _ _ m => m
  | _ => []

/-- Whether two lists of bytes have one in common. -/
def shareByte (a b : List (ByteAt × Byte)) : Bool := a.any fun x => b.any fun y => x.1 == y.1

/-- Whether two accesses have a byte in common. -/
def Act.overlaps (x y : Act) : Bool := shareByte x.cells y.cells

/-- Whether one access of an agent precedes a later one by program order at a scope (clauses 1 and 2 of R187). A host
thread's order is its processor's own (R197). -/
def poBefore (k : Nat) (x y : Ev) : Bool :=
  x.actor.same y.actor && x.actor.level != 9 && !(x.batch != 0 && x.batch == y.batch) &&
    ((k ≤ x.scope && k ≤ y.scope) || y.act.writes || x.act.overlaps y.act)

/-- Whether one access precedes another by what was read and by coherence (clauses 4 to 6 of R187), `i` and `j` their
places: a load that has missed a store precedes it. -/
def byteBefore (i j : Nat) (x y : Act) : Bool :=
  x.overlaps y && ((x.writes && i < j && (y.writes || !y.missed.contains i)) ||
    (x.reads && y.writes && (i < j || x.missed.contains j)))

/-- Whether one event precedes another at a scope without an event between (R187): program order, fences, reads-from,
coherence, from-read, and the two ends of an edge. -/
def Ev.direct (k i j : Nat) (x y : Ev) : Bool :=
  match x.act, y.act with
  | .access _ _ _ _, .access _ _ _ _ => (i < j && poBefore k x y) || byteBefore i j x.act y.act
  | .access _ _ _ _, .fence => i < j && k ≤ y.scope && x.actor.same y.actor
  | .fence, .access _ _ _ _ => i < j && k ≤ x.scope && x.actor.same y.actor
  | .access _ _ _ _, .edge pubs src _ => i < j && k ≤ y.scope && (pubs.contains i || src.any fun p => p.holds x.actor)
  | .fence, .edge _ src _ => i < j && k ≤ x.scope && src.any fun p => p.fences x.actor
  | .edge _ _ dst, .access _ _ _ _ => i < j && dst.any fun p => p.holds y.actor
  | .edge _ _ dst, .edge pubs src _ => i < j && k ≤ y.scope && (pubs.contains i || dst.any fun p => p.meets src)
  | _, _ => false

/-- The narrowest scope that holds the agent of an event beside a loading one; an edge has no position of its own. -/
def Ev.level (a : Actor) (fibre : DWord) (x : Ev) : Nat :=
  match x.act with
  | .edge _ _ _ | .cinv _ _ => 0
  | _ => a.near fibre x.actor

/-- An event on record beside its place there and its level. -/
structure Seen where
  at_   : Nat
  level : Nat
  ev    : Ev

/-- Whether one event precedes another, both seen from a loading agent, at a scope: as every order holds inside the instance
it holds at, where both are, it is enough that it holds at the narrowest one with both (R187). -/
def Seen.before (k : Nat) (x y : Seen) : Bool := x.ev.direct (max k (max x.level y.level)) x.at_ y.at_ y.ev

/-- One pass over the record, newest event first: those that precede a marked one are marked. -/
def markPass (k : Nat) (all marked : List Seen) : List Seen :=
  all.foldr (fun x m => if m.any (fun y => y.at_ == x.at_) || !m.any (x.before k) then m else x :: m) marked

/-- The events that precede some at a scope (clause 8 of R187): passes until nothing more is marked. -/
def markAll (k : Nat) (all : List Seen) : Nat → List Seen → List Seen
  | 0, m => m
  | n + 1, m =>
    let m' := markPass k all m
    if m'.length == m.length then m else markAll k all n m'

/-- The record as a loading agent sees it. -/
def seenFrom (past : List Ev) (a : Actor) (fibre : DWord) : List Seen :=
  past.zipIdx.map fun p => ⟨p.2, p.1.level a fibre, p.1⟩

/-- Whether a store on record precedes a load that is to come (R187, R188): the load would then close a cycle by missing
it. -/
def blocked (all : List Seen) (load : Seen) (x : Seen) : Bool :=
  (markAll x.level all all.length [load]).any fun y => y.at_ == x.at_

/-- A load about to be made, given the stores that it misses. -/
def loadSeen (past : List Ev) (a : Actor) (scope batch : Nat) (cells : List (ByteAt × Byte)) (missed : List Nat) : Seen :=
  ⟨past.length, a.level, { actor := a, scope := scope, act := .access true false cells missed, batch := batch }⟩

/-- Some of the stores to the bytes of a load, with every later one to a byte that one of them wrote: what it misses where it
reads the bytes as they were before these. `hits` are the stores, oldest first. -/
def closeMissed (cells : List (ByteAt × Byte)) : List Seen → List Seen → List Seen
  | [], m => m
  | h :: rest, m =>
    let mine (x : Seen) : List (ByteAt × Byte) := x.ev.act.cells.filter fun c => cells.any fun d => d.1 == c.1
    let late := m.any fun x => x.at_ == h.at_ || (x.at_ < h.at_ && shareByte (mine x) (mine h))
    closeMissed cells rest (if late && !m.any (fun x => x.at_ == h.at_) then m ++ [h] else m)

/-- Whether an agent has read a byte that a commit wrote: it has then seen all of it (R248). -/
def observed (all : List Seen) (a : Actor) (x : Seen) : Bool :=
  x.ev.whole && all.any fun y =>
    x.at_ < y.at_ && y.ev.actor.same a && y.ev.act.reads && y.ev.act.overlaps x.ev.act && !y.ev.act.missed.contains x.at_

/-- The stores that a load of some bytes may miss (R188), oldest first: those that do not precede it even where it misses
every store. -/
def candidates (past : List Ev) (a : Actor) (fibre : DWord) (scope batch : Nat) (cells : List (ByteAt × Byte)) : List Seen :=
  let all := seenFrom past a fibre
  let free := cells.filter fun c => c.1.1 < 4
  let hits := all.filter fun x => x.ev.act.writes && shareByte x.ev.act.cells free
  let load := loadSeen past a scope batch cells (hits.map (·.at_))
  hits.filter fun x => !observed all a x && !blocked all load x

/-- The stores that a load misses by a choice among its candidates, each of which a bit of it stands for; none where that
would close a cycle (R188). -/
def chosenMisses (past : List Ev) (a : Actor) (fibre : DWord) (scope batch : Nat) (cells : List (ByteAt × Byte))
    (cands : List Seen) (choice : Nat) : List Nat :=
  let all := seenFrom past a fibre
  let hits := all.filter fun x => x.ev.act.writes && shareByte x.ev.act.cells cells
  let closed := closeMissed cells hits ((cands.zipIdx.filter fun p => choice.testBit p.2).map (·.1))
  let m := hits.filter fun h => closed.any fun x => x.at_ == h.at_
  let load := loadSeen past a scope batch cells (m.map (·.at_))
  if m.any fun x => blocked all load x || !cands.any (fun y => y.at_ == x.at_) then [] else m.map (·.at_)

/-- A byte as a load reads it that misses some stores, given oldest first: as it was before the first of them that wrote
it. -/
def byteMissing (past : List Ev) (missed : List Nat) (c : ByteAt × Byte) : Byte :=
  (missed.findSome? fun i =>
    ((past[i]?).bind fun e => e.act.cells.find? fun d => d.1 == c.1).map (·.2)).getD c.2

/-- Whether some bytes are one naturally aligned access of 1, 2, 4, 8 or 16 bytes, which is single-copy atomic (R190). -/
def isWhole (cells : List (ByteAt × Byte)) : Bool :=
  match cells with
  | [] => false
  | x :: _ =>
    [1, 2, 4, 8, 16].contains cells.length && x.1.2.2 % cells.length == 0 &&
      cells.zipIdx.all fun p => p.1.1 == (x.1.1, x.1.2.1, x.1.2.2 + p.2)

/-- An access by the parts that are single-copy atomic: the access itself, or else its bytes (R190). -/
def unitsOf (cells : List (ByteAt × Byte)) : List (List (ByteAt × Byte)) :=
  if isWhole cells then [cells] else cells.map fun c => [c]

/-- A list cut into parts of `n`. -/
def chunksOf {α : Type} (n : Nat) (l : List α) : List (List α) :=
  (List.range ((l.length + n - 1) / n)).map fun i => (l.drop (n * i)).take n

/-- Events of one access put on record, part by part. -/
def State.recordParts (s : State) (a : Actor) (scope : Nat) (reads writes : Bool) (parts : List (List (ByteAt × Byte))) :
    List Ev :=
  let batch := if parts.length ≤ 1 then 0 else s.past.length + 1
  s.past ++ parts.map fun p => { actor := a, scope := scope, act := .access reads writes p [], uid := s.uids, batch := batch }

/-- The record with a store more, whose bytes held these before: only a run that has open choices left to take keeps one
(log entry 52). -/
def State.recorded (s : State) (a : Actor) (scope : Nat) (reads : Bool) (cells : List (ByteAt × Byte)) : List Ev :=
  if s.oracle.isEmpty then s.past else s.recordParts a scope reads true (unitsOf cells)

/-- The record with a store more that is performed word by word. -/
def State.recordedWords (s : State) (a : Actor) (scope : Nat) (cells : List (ByteAt × Byte)) : List Ev :=
  if s.oracle.isEmpty then s.past else s.recordParts a scope false true (chunksOf 4 cells)

/-- The last edge on record that leads to a meeting point. -/
def State.lastEdge (s : State) (p : Party) : List Nat :=
  ((s.past.zipIdx.filter fun e => match e.1.act with
    | .edge _ _ dst => dst.contains p
    | _ => false).getLast?).toList.map (·.2)

/-- Whether an agent can fence: a lane, a system core, a peer, a host thread. -/
def Actor.canFence (a : Actor) : Bool :=
  a.level == 0 || a.level == 8 || a.level == 9 || (a.level == 7 && a.weave == 0 && a.id != 0)

/-- Whether a CINV on record after a place drops a line of code on a core (R104, R370). -/
def dropped (past : List Ev) (core line i : Nat) : Bool :=
  past.zipIdx.any fun c => i < c.2 && (match c.1.act with
    | .cinv segs cores => cores.contains core && segs.any fun g => g.1 / 128 ≤ line && line ≤ (g.1 + g.2 - 1) / 128
    | _ => false)

/-- Whether a store on record has been made visible to a core's fetches of a line: fenced at DEVICE scope by its maker, or by
anyone where the maker cannot fence, and then followed by a CINV there (R104). -/
def shownTo (past : List Ev) (core line i : Nat) (a : Actor) : Bool :=
  past.zipIdx.any fun f =>
    i < f.2 && f.1.act == .fence && 7 ≤ f.1.scope && (f.1.actor.same a || !a.canFence) && dropped past core line f.2

/-- An event put on record. -/
def State.note (s : State) (e : Ev) : State :=
  if s.oracle.isEmpty then s else { s with past := s.past ++ [{ e with uid := s.uids }] }

/-- An edge put on record (R187). -/
def State.edge (s : State) (scope : Nat) (pubs : List Nat) (src dst : List Party) : State :=
  s.note { actor := hardware, scope := scope, act := .edge pubs src dst }

/-- A fence of an agent put on record (R192). -/
def State.fence (s : State) (a : Actor) (scope : Nat) : State := s.note { actor := a, scope := scope, act := .fence }

/-- An operation begun as an agent of its own, after what is on a side of an edge (R193): its name, and the state. -/
def State.forked (s : State) (scope : Nat) (pubs : List Nat) (src : List Party) (op : Nat → Actor) : Nat × State :=
  (s.past.length, s.edge scope pubs src [.actor (op s.past.length)])

/-- A store to a register that the event which makes it has no address for. -/
def State.registerStore (s : State) (a : Actor) : State :=
  s.note { actor := a, scope := a.level, act := .access false true [] [] }

/-- The place of the event that comes next, as what an edge may name: none where no record is kept. -/
def State.nextPub (s : State) : List Nat := if s.oracle.isEmpty then [] else [s.past.length]

/-- The places of the atomic updates of some bytes so far (R179, R193). -/
def State.updatesOf (s : State) (cells : List ByteAt) : List Nat :=
  (s.past.zipIdx.filter fun p => p.1.act.reads && p.1.act.writes && p.1.act.cells.any fun c => cells.contains c.1).map (·.2)

end Sys2Proof.Machine
end

