-- ==== Sys2Proof/Machine/Memory.lean ====
section
/-! DEFINITION. Physical memory, the physical address map, translation (R5, R306 to R310, R344), free values and open
choices. -/
namespace Sys2Proof.Machine
open Sys2Proof

/-- What a byte of memory that nothing has written reads as (log entry 1). -/
def unlisted : Byte := 0

/-- The canonical form of memory. -/
abbrev Memory.wf (m : List Host.Cell) : Bool := twf unlisted m

/-- One byte. -/
def memGet (m : List Host.Cell) (pa : Nat) : Byte := tget unlisted m pa

/-- One byte written. -/
def memPut (m : List Host.Cell) (pa : Nat) (b : Byte) : List Host.Cell := tput unlisted m pa b

/-- `n` bytes from an address up. -/
def memBytes (m : List Host.Cell) (pa n : Nat) : List Byte := (List.range n).map fun i => memGet m (pa + i)

/-- Bytes written from an address up. -/
def memPutBytes (m : List Host.Cell) (pa : Nat) : List Byte → List Host.Cell
  | [] => m
  | b :: r => memPutBytes (memPut m pa b) (pa + 1) r

/-- The number of little-endian bytes (R5). -/
def leNat : List Byte → Nat
  | [] => 0
  | b :: r => b.toNat + 256 * leNat r

/-- The `n` little-endian bytes of a number (R5). -/
def leBytes (n v : Nat) : List Byte := (List.range n).map fun i => BitVec.ofNat 8 (v / 256 ^ i)

/-- A number of `n` bytes at an offset of a record. -/
def fieldOf (rec : List Byte) (off n : Nat) : Nat := leNat ((rec.drop off).take n)

/-- Bits of the `n`-byte field at an offset of a record. -/
def fieldBits (rec : List Byte) (off n lo w : Nat) : Nat := fieldOf rec off n / 2 ^ lo % 2 ^ w

/-- An aligned or unaligned number in physical memory. -/
def memNat (s : State) (pa n : Nat) : Nat := leNat (memBytes s.mem pa n)

/-- Every lane of a group changed. -/
def Group.mapLanes (g : Group) (f : Lane → Lane) : Group :=
  { g with weaves := g.weaves.map fun (w, v) => (w, { v with lanes := v.lanes.map fun (l, x) => (l, f x) }) }

/-- The groups after a store: one to a 64-byte line reaches the monitors armed on it (R196, R210). -/
def wokenBy (groups : Table Group) (pa n : Nat) : Table Group :=
  groups.map fun (k, g) =>
    (k, g.mapLanes fun l =>
      if l.monArmed && l.monPa / 64 ≤ (pa + n - 1) / 64 && pa / 64 ≤ l.monPa / 64 then { l with monHit := true }
      else l)

/-- A doubleword of memory. -/
def dwordIn (mem : List Host.Cell) (pa : Nat) : DWord := BitVec.ofNat 64 (leNat (memBytes mem pa 8))

/-- Whether a store of `n` bytes at an address changes, beyond A and D, one of the page-table entries that gave a sink its
pages (R336). -/
def Sink.loses (k : Sink) (old new : List Host.Cell) (pa n : Nat) : Bool :=
  k.ptes.any fun p => p < pa + n && pa < p + 8 && dwordIn old p ||| 0xC0 != dwordIn new p ||| 0xC0

/-- A sink marked when a store changes one of its page-table entries. -/
def Sink.mark (k : Sink) (old new : List Host.Cell) (pa n : Nat) : Sink :=
  if k.loses old new pa n then { k with moved := true } else k

/-- The dies after a store that may change the page-table entries of their sinks (R336). -/
def markedBy (dies : Table Die) (old new : List Host.Cell) (pa n : Nat) : Table Die :=
  let hit (k : Option Sink) : Bool := (k.map fun k => k.loses old new pa n).getD false
  if dies.any fun p => hit p.2.sample || hit p.2.trace then
    dies.map fun (k, d) =>
      (k, { d with sample := d.sample.map (·.mark old new pa n), trace := d.trace.map (·.mark old new pa n) })
  else dies

/-- Healthy compute sockets (R360, HEALTH). -/
def State.computeOk (s : State) (socket : Nat) : Bool := socket < 8 && s.health.getLsbD socket

/-- Number of healthy memory dies (R172). -/
def State.memoryDies (s : State) : Nat := ((List.range 8).filter fun i => s.health.getLsbD (8 + i)).length

/-- Bytes of device memory (R344). -/
def State.capacity (s : State) : Nat := s.memoryDies * Config.memoryDieBytes

/-- Why an access is not performed: a non-recoverable fault (Table 155) or a recoverable one (R311): its kind, the
hint of Table 154. -/
inductive AccErr where
  | fault (kind : Nat) (w1 w2 w3 : DWord)
  | page (kind hint : Nat)
deriving DecidableEq, Repr

/-- Die of a socket. -/
def State.die (s : State) (socket : Nat) : Die := tget {} s.dies socket

/-- A die changed. -/
def State.setDie (s : State) (socket : Nat) (d : Die) : State := { s with dies := tput {} s.dies socket d }

/-- Keys of a Rhaut port and of a PCIe port among the links; those of the sill's sockets come first. -/
def rhautKey (port : Nat) : Nat := 64 + port
def pcieKey (port : Nat) : Nat := 96 + port

/-- Why a physical address has no memory behind it (R344, R348, R353): a reserved region, device memory beyond the
healthy capacity, a peer behind a port that has failed, a compute die that is not there. -/
def State.physBad (s : State) (pa : Nat) : Option AccErr :=
  let region := pa / 2 ^ 48
  if region == 0 then
    if pa < s.capacity then none else some (.fault 2 (BitVec.ofNat 64 pa) 0 0)
  else if region == 1 || region == 3 then none
  else if region == 2 then
    if (tget {} s.links (rhautKey (pa / 2 ^ 44 % 16))).down then some (.fault 12 (BitVec.ofNat 64 pa) 0xFF 0) else none
  else if region == 15 then
    let socket := pa / 2 ^ 20 % 2 ^ 28
    if 18 ≤ socket then some (.fault 2 (BitVec.ofNat 64 pa) 0 0)
    else if (s.die socket).offline then some (.fault 12 (BitVec.ofNat 64 pa) (BitVec.ofNat 64 socket) 0)
    else none
  else some (.fault 2 (BitVec.ofNat 64 pa) 0 0)

/-- The bytes of physical memory at an address with what they hold; those of register blocks and PCIe devices apart. -/
def physCells (mem : List Host.Cell) (pa n : Nat) : List (ByteAt × Byte) :=
  (List.range n).map fun i =>
    ((if pa / 2 ^ 48 == 15 || pa / 2 ^ 48 == 3 then 4 else 0, 0, pa + i), memGet mem (pa + i))

/-- Bytes stored in memory that is there. -/
def State.setMem (s : State) (pa : Nat) (bs : List Byte) (a : Actor) (scope : Nat) (reads : Bool) : State :=
  let mem := memPutBytes s.mem pa bs
  { s with
    mem := mem, groups := wokenBy s.groups pa bs.length, dies := markedBy s.dies s.mem mem pa bs.length
    past := s.recorded a scope reads (physCells s.mem pa bs.length) }

/-- Bytes stored in physical memory by any agent. Where nothing is behind the address, a store that no group can be charged
with does nothing (R344, log entry 56). -/
def State.putMem (s : State) (pa : Nat) (bs : List Byte) (a : Actor := hardware) (scope : Nat := 7) (reads : Bool := false) :
    State :=
  if (s.physBad pa).isSome then s else s.setMem pa bs a scope reads

/-- A number stored in physical memory. -/
def State.putNat (s : State) (pa n v : Nat) : State := s.putMem pa (leBytes n v)

/-- An open choice among `n`: the head of the oracle, 0 when there is none (log entry 3). -/
def State.choose (s : State) (n : Nat) : Nat × State :=
  match s.oracle with
  | [] => (0, s)
  | c :: r => (if n = 0 then 0 else c % n, { s with oracle := r })

/-- A fresh free value (log entry 4). -/
def State.free (s : State) : DWord × State :=
  (Config.freeDWord s.fresh, { s with fresh := s.fresh + 1 })

/-- A store's byte (R36, R165). -/
def Store.get (t : Store) (off : Nat) : Byte :=
  match t.fill with
  | none => tget 0 t.cells off
  | some seed => tget (Config.freeByte seed off) t.cells off

/-- A store with a byte written. -/
def Store.put (t : Store) (off : Nat) (b : Byte) : Store :=
  match t.fill with
  | none => { t with cells := tput 0 t.cells off b }
  | some _ => { t with cells := tins t.cells off b }

/-- `n` bytes of a store. -/
def Store.bytes (t : Store) (off n : Nat) : List Byte := (List.range n).map fun i => t.get (off + i)

/-- A store with bytes written. -/
def Store.putBytes (t : Store) (off : Nat) : List Byte → Store
  | [] => t
  | b :: r => Store.putBytes (t.put off b) (off + 1) r

/-- What an access does, with the code of Table 154; `maint` needs no permission (R309). -/
inductive Access where
  | fetch | load | store | atomic | engineRead | engineWrite | maint
deriving DecidableEq, Repr

/-- The access code of a fault entry (Table 154); cache maintenance is reported as a load (log entry 10). -/
def Access.code : Access → Nat
  | .fetch => 0 | .load => 1 | .store => 2 | .atomic => 3 | .engineRead => 4 | .engineWrite => 5 | .maint => 1

/-- Whether an access writes. -/
def Access.writes : Access → Bool
  | .store | .atomic | .engineWrite => true
  | _ => false

/-- The die's cycle counter (R44). -/
def State.clock (s : State) (socket : Nat) : Nat := (s.cycle + (s.die socket).clockOff) % 2 ^ 64

/-- Key of a bay. -/
def bayKey (socket bay : Nat) : Nat := socket * 12 + bay

/-- Key of a core. -/
def coreKey (bay core : Nat) : Nat := bay * 5 + core

/-- Bay of a key. -/
def State.bayAt (s : State) (k : Nat) : Bay := tget {} s.bays k

/-- A bay changed. -/
def State.setBay (s : State) (k : Nat) (b : Bay) : State := { s with bays := tput {} s.bays k b }

/-- Core of a key. -/
def State.coreAt (s : State) (k : Nat) : Core := tget {} s.cores k

/-- A core changed. -/
def State.setCore (s : State) (k : Nat) (c : Core) : State := { s with cores := tput {} s.cores k c }

/-- The bits of a writable register that a write may set (Table 176); the two that take a GID take any value. -/
def regMask (i : Nat) : DWord :=
  match i with
  | 0 | 4 => 0x000FFFFFFFFFF000
  | 1 => 0x000000001FFF1FFF
  | 2 | 3 => 0x000FFFFFFFFFFFC0
  | 5 => 0x000FFFFFFFFFFFF8
  | _ => 0xFFFFFFFFFFFFFFFF

/-- Whether a write of a system register is accepted (R360, R361). -/
def regWritable (i : Nat) (v : DWord) : Bool := i ≤ 7 && v &&& ~~~regMask i == 0

/-- The value of a system register of a die; reserved and write-only ones read 0 (Table 176, R361). -/
def State.sysReg (s : State) (socket i : Nat) : DWord :=
  let d := s.die socket
  match i with
  | 0x000 => s.astb
  | 0x001 => s.qpriv
  | 0x002 => d.fqcb
  | 0x003 => d.svcb
  | 0x004 => d.gtab
  | 0x005 => d.haltpg
  | 0x010 => BitVec.ofNat 64 socket
  | 0x011 => s.health
  | 0x012 => BitVec.ofNat 64 (s.clock socket)
  | _ => 0

/-- A register that keeps what is written to it (Table 176). -/
def State.putReg (s : State) (socket i : Nat) (v : DWord) : State :=
  let d := s.die socket
  match i with
  | 0 => { s with astb := v }
  | 1 => { s with qpriv := v }
  | 2 => s.setDie socket { d with fqcb := v }
  | 3 => s.setDie socket { d with svcb := v }
  | 4 => s.setDie socket { d with gtab := v }
  | 5 => s.setDie socket { d with haltpg := v }
  | _ => s

/-- A doubleword of a debug window (Table 185). -/
def Window.read (w : Window) (off : Nat) : DWord :=
  match off with
  | 0x00 => pairOf (w.words.getD 0 0) (w.words.getD 1 0)
  | 0x08 => zext32 (w.words.getD 2 0)
  | 0x10 => w.a
  | 0x18 => w.b
  | 0x20 => w.d
  | 0x28 => w.space
  | 0x38 => w.result
  | 0x40 => w.status
  | 0x48 => w.c
  | _ => 0

/-- A doubleword of a debug window written; the reserved bits of offset 0x28 read 0 (Table 185). -/
def Window.write (w : Window) (off : Nat) (v : DWord) : Window :=
  match off with
  | 0x00 => { w with words := [lowWord v, highWord v, w.words.getD 2 0] }
  | 0x08 => { w with words := [w.words.getD 0 0, w.words.getD 1 0, lowWord v] }
  | 0x10 => { w with a := v }
  | 0x18 => { w with b := v }
  | 0x20 => { w with d := v }
  | 0x28 => { w with space := v &&& 0xFFF }
  | 0x48 => { w with c := v }
  | _ => w

/-- The stores of lanes to device registers that are on their way there (R199): address, size, value. -/
def onTheWay : List Instr → List (Nat × Nat × Nat)
  | .systemCoreAccess (_, .lane pa n v _) :: r => (pa, n, v) :: onTheWay r
  | _ => []

/-- What a register on a compute die holds once a store has reached it, as far as a load sees it (R191). -/
def State.reached (s : State) (x : Nat × Nat × Nat) : State :=
  let socket := x.1 / 2 ^ 20 % 2 ^ 28
  let off := x.1 % 2 ^ 20
  let v : DWord := BitVec.ofNat 64 x.2.2
  if x.1 / 2 ^ 48 != 15 || 8 ≤ socket || x.2.1 != 8 || off % 8 != 0 then s
  else if 0x1000 ≤ off && off < 0x9000 then
    if regWritable ((off - 0x1000) / 8) v then s.putReg socket ((off - 0x1000) / 8) v else s
  else if 0x80000 ≤ off && off < 0x80800 then
    let d := s.die socket
    let k := (off - 0x80000) / 0x80
    s.setDie socket { d with windows := tput {} d.windows k ((tget {} d.windows k).write (off % 0x80) v) }
  else s

/-- A load from the register blocks (R344, R345, R360, R386): only aligned 8-byte loads of system registers and
windows return a value. It sees the stores of lanes that are still on their way (R191). -/
def State.regLoad (s : State) (pa n : Nat) : Nat :=
  let socket := pa / 2 ^ 20 % 2 ^ 28
  let off := pa % 2 ^ 20
  let t := (onTheWay s.agenda).foldl State.reached s
  if n != 8 || off % 8 != 0 || 8 ≤ socket then 0
  else if 0x1000 ≤ off && off < 0x9000 then (t.sysReg socket ((off - 0x1000) / 8)).toNat
  else if 0x80000 ≤ off && off < 0x80800 then
    ((tget {} (t.die socket).windows ((off - 0x80000) / 0x80)).read (off % 0x80)).toNat
  else 0

/-- A doubleword of the physical map as the walker reads it: of memory, of a register block, or of a PCIe device. -/
def State.dword (s : State) (pa : Nat) : DWord :=
  if pa / 2 ^ 48 == 15 then BitVec.ofNat 64 (s.regLoad pa 8)
  else if pa / 2 ^ 48 == 3 then
    BitVec.ofNat 64 (leNat ((List.range 8).map fun i => Config.deviceByte s.fresh (pa + i)))
  else dwordIn s.mem pa

/-- Whether a PTE breaks R308's reserved bits. -/
def pteReserved (p : DWord) : Bool := p &&& 0xF0F0000000000D30 != 0

/-- The leaf size of a level (R307). -/
def leafBits (level : Nat) : Nat := 12 + 9 * level

/-- log2 of the leaves of a contiguous group at a level (R307). -/
def groupBits (level : Nat) : Nat :=
  match level with
  | 0 => 4
  | 1 => 7
  | _ => 2

/-- A leaf found: its PTE, PTE address and level; what its frame is moved by when it stands for another leaf of its
contiguous group (R307). -/
structure Leaf where
  pte   : DWord
  pteAt : Nat
  level : Nat
  shift : Nat := 0
deriving DecidableEq, Repr

/-- A walk (R307): the tables below the first that it met, by level, and the leaf or fault it ended in. -/
structure Walk where
  path : List (Nat × Nat) := []
  leaf : Except AccErr Leaf

/-- Whether a PTE is a leaf that may stand at a level (R307 to R309). -/
def goodLeaf (p : DWord) (level : Nat) : Bool :=
  p.getLsbD 0 && !pteReserved p && bitsAt p 1 3 != 0 && level < 3 && !(p.getLsbD 2 && !p.getLsbD 1) &&
  bitsAt p 12 40 * 4096 % 2 ^ leafBits level == 0

/-- Walk from a table of a level down (R307, R309). An entry at a physical address with nothing behind it is a fault
(R344). -/
def State.walkFrom (s : State) (va : DWord) : Nat → Nat → Walk
  | table, level =>
    let at_ := table + 8 * bitsAt va (leafBits level) 9
    let p := s.dword at_
    let bad : Walk := { leaf := .error (.fault 8 va (BitVec.ofNat 64 at_) p) }
    match s.physBad at_ with
    | some e => { leaf := .error e }
    | none =>
    if !p.getLsbD 0 then
      { leaf := .error (.page 1 (match level with
          | 0 => 0 | 1 => 2 | 2 => 4 | 3 => 6
          | _ => 7)) }
    else if pteReserved p then bad
    else if bitsAt p 1 3 == 0 then
      if p.getLsbD 9 then bad
      else match level with
        | 0 => bad
        | l + 1 =>
          let next := bitsAt p 12 40 * 4096
          let w := s.walkFrom va next l
          { w with path := (l, next) :: w.path }
    else if goodLeaf p level then { leaf := .ok { pte := p, pteAt := at_, level := level } }
    else bad
termination_by structural _ level => level

/-- Physical address of a byte by a leaf (R307). -/
def Leaf.pa (l : Leaf) (va : DWord) : Nat := bitsAt l.pte 12 40 * 4096 + l.shift + va.toNat % 2 ^ leafBits l.level

/-- The hint of a leaf's page (Table 154). -/
def Leaf.hint (l : Leaf) : Nat := 2 * l.level + (if l.pte.getLsbD 9 then 1 else 0)

/-- The permission check of a leaf (R309). -/
def Leaf.check (l : Leaf) (va : DWord) (acc : Access) : Except AccErr Unit :=
  let r := l.pte.getLsbD 1
  let w := l.pte.getLsbD 2
  let x := l.pte.getLsbD 3
  let perm : Except AccErr Unit := .error (.fault 9 va (BitVec.ofNat 64 acc.code) l.pte)
  match acc with
  | .maint => .ok ()
  | .fetch => if x then .ok () else perm
  | .load | .engineRead => if r then .ok () else perm
  | .store | .engineWrite | .atomic =>
    if w then .ok () else if r then .error (.page 2 l.hint) else perm

/-- Where the address-space entry of an index lies (R306). -/
def State.spaceAt (s : State) (space : Nat) : Nat := bitsAt s.astb 12 40 * 4096 + 16 * space

/-- The address-space entry of an index (R306). -/
def State.spaceEntry (s : State) (space : Nat) : DWord × DWord :=
  (s.dword (s.spaceAt space), s.dword (s.spaceAt space + 8))

/-- ASID of a space. -/
def State.asid (s : State) (space : Nat) : Nat := bitsAt (s.spaceEntry space).2 0 16

/-- The walk of an address in a space by the tables as they are. A space whose entry is not valid is a malformed entry
(log entry 10). -/
def State.walkSpace (s : State) (space : Nat) (va : DWord) : Walk :=
  let e := (s.spaceEntry space).1
  match s.physBad (s.spaceAt space) with
  | some x => { leaf := .error x }
  | none =>
    if !e.getLsbD 0 then { leaf := .error (.fault 8 va (BitVec.ofNat 64 (s.spaceAt space)) e) }
    else s.walkFrom va (bitsAt e 12 40 * 4096) 4

/-- What that walk ends in. -/
def State.walkVa (s : State) (space : Nat) (va : DWord) : Except AccErr Leaf := (s.walkSpace space va).leaf

/-- The PTE bits that the leaves of a contiguous group must share: all but the frame, A and D (R307). -/
def pteKind (p : DWord) : DWord := p &&& 0xFFF0000000000F3F

/-- The leaf that translates an address (R307): its own, unless it belongs to a contiguous group that is inconsistent;
then its own or another leaf of the group taken as the group's base (log entry 8). -/
def State.groupLeaf (s : State) (va : DWord) (l : Leaf) : State × Leaf :=
  if !l.pte.getLsbD 9 then (s, l)
  else
    let n := 2 ^ groupBits l.level
    let size := 2 ^ leafBits l.level
    let i := bitsAt va (leafBits l.level) 9 % n
    let base := l.pteAt - 8 * i
    let frame (p : DWord) : Nat := bitsAt p 12 40 * 4096
    let ptes := (List.range n).map fun j => (j, s.dword (base + 8 * j))
    let first := frame (s.dword base)
    if first % (n * size) == 0 && ptes.all fun p => pteKind p.2 == pteKind l.pte && frame p.2 == first + p.1 * size then
      (s, l)
    else
      let others := ptes.filter fun p => p.1 != i && goodLeaf p.2 l.level && p.2.getLsbD 9
      let (c, t) := s.choose (1 + others.length)
      match c with
      | 0 => (t, l)
      | k + 1 =>
        match others[k]? with
        | none => (t, l)
        | some p => (t, { l with pte := p.2, pteAt := base + 8 * p.1, shift := i * size })

/-- log2 of the page, of any size, that a cached leaf translates: its contiguous group's, if it has one (R307). -/
def TlbEntry.reach (e : TlbEntry) : Nat :=
  if e.flags.getLsbD 9 then e.size + groupBits ((e.size - 12) / 9) else e.size

/-- Whether a cached leaf lies in the page, of any size, that holds an address. -/
def TlbEntry.around (e : TlbEntry) (va : DWord) : Bool := e.va * 2 ^ e.size / 2 ^ e.reach == va.toNat / 2 ^ e.reach

/-- The place of a cached leaf in its contiguous group, in bytes. -/
def TlbEntry.part (e : TlbEntry) : Nat := e.va * 2 ^ e.size % 2 ^ e.reach

/-- Whether a cached leaf translates an address: its own page, or as the larger page of its group (R307). -/
def TlbEntry.covers (e : TlbEntry) (va : DWord) : Bool :=
  e.va == va.toNat / 2 ^ e.size || (e.around va && e.frame % 2 ^ e.reach == e.part)

/-- The physical address that a cached leaf gives. -/
def TlbEntry.pa (e : TlbEntry) (va : DWord) : Nat :=
  if e.va == va.toNat / 2 ^ e.size then e.frame + va.toNat % 2 ^ e.size
  else e.frame - e.part + va.toNat % 2 ^ e.reach

/-- Who translates (R310): the die, and the bay and the core whose TLBs it goes through. Engines and the lapidary are of a
bay and no core; a system core, the queue hardware and a window are of neither. -/
structure Agent where
  socket : Nat
  bay    : Option Nat := none
  core   : Option Nat := none
deriving DecidableEq, Repr

/-- Whether a cached leaf stands in a TLB that an agent goes through: its core's L1, or its bay's (R310). -/
def TlbEntry.serves (e : TlbEntry) (a : Agent) : Bool := e.bay == a.bay && (e.core == none || e.core == a.core)

/-- The cached leaves that translate an address for an agent (R310). -/
def State.cached (s : State) (a : Agent) (asid : Nat) (va : DWord) : List TlbEntry :=
  (s.die a.socket).tlb.filter fun e => e.serves a && e.asid == asid && e.covers va

/-- A cached leaf as the TLBs that an agent goes through hold it. -/
def TlbEntry.copies (e : TlbEntry) (a : Agent) : List TlbEntry :=
  let own : TlbEntry := { e with bay := a.bay, core := none }
  if a.core == none then [own] else [{ e with bay := a.bay, core := a.core }, own]

/-- Cached leaves and pointers added to those of a die (R310). -/
def State.addTlb (s : State) (socket : Nat) (leaves : List TlbEntry) (ptrs : List PtrEntry) : State :=
  let d := s.die socket
  let es := leaves.filter fun e => !d.tlb.contains e
  let ps := ptrs.filter fun p => !d.ptrs.contains p
  if es.isEmpty && ps.isEmpty then s else s.setDie socket { d with tlb := es ++ d.tlb, ptrs := ps ++ d.ptrs }

/-- A leaf and the pointers of its walk remembered (R310). -/
def State.remember (s : State) (a : Agent) (asid : Nat) (va : DWord) (path : List (Nat × Nat)) (l : Leaf) : State :=
  let e : TlbEntry :=
    { bay := a.bay, core := none, asid := asid, va := va.toNat / 2 ^ leafBits l.level, size := leafBits l.level
      frame := bitsAt l.pte 12 40 * 4096 + l.shift, flags := l.pte ||| 0xC0 }
  s.addTlb a.socket (e.copies a)
    (path.map fun p => { asid := asid, va := va.toNat / 2 ^ leafBits (p.1 + 1), level := p.1, table := p.2 })

/-- A store of bytes put before the lanes' stores still on their way are taken: after those that came before it (R199). -/
def sendAfter (i : Instr) : List Instr → List Instr
  | .systemCoreAccess (c, .lane pa n v k) :: r => .systemCoreAccess (c, .lane pa n v k) :: sendAfter i r
  | r => i :: r

/-- The PCIe port whose notify aperture an address lies in, and the offset there (R231, R346). -/
def State.notifyPort (s : State) (pa : Nat) : Option (Nat × Nat) :=
  if pa / 2 ^ 48 != 3 then none
  else (s.mgmt.notifyAt.zipIdx.find? fun a => a.1 ≤ pa && pa < a.1 + 2 ^ 24).map fun a => (a.2, pa - a.1)

/-- Bytes stored by an agent of the device at a physical address with something behind it. A store to a register block or
to the notify aperture is an enqueue (R199, R316, R387): it is on its way until the next event takes it there. -/
def State.putPhys (s : State) (pa : Nat) (bs : List Byte) (a : Actor := hardware) (scope : Nat := 7)
    (reads : Bool := false) : State :=
  if pa / 2 ^ 48 == 15 || (s.notifyPort pa).isSome then
    { s with
      agenda := sendAfter (.systemCoreAccess (0, .lane pa bs.length (leNat bs) s.past.length)) s.agenda
      past := s.recorded a scope reads (physCells s.mem pa bs.length) }
  else s.putMem pa bs a scope reads

/-- A PTE's A and D bits set as the walker does (R309). -/
def State.touch (s : State) (l : Leaf) (acc : Access) : State :=
  let bits : DWord := 0x40 ||| (if acc.writes then 0x80 else 0)
  if l.pte ||| bits = l.pte then s else s.putPhys l.pteAt (leBytes 8 (s.dword l.pteAt ||| bits).toNat)

/-- `n` free bytes (log entry 4). -/
def freeBytes (n i : Nat) : List Byte := (List.range n).map (Config.freeByte i)

/-- A granule of device memory used through a leaf. Where the PTE gave it another PIN or HOME before, with lines not
flushed since, the granule's bytes are undefined (R369, log entry 49). -/
def State.useGranule (s : State) (va : DWord) (acc : Access) (l : Leaf) : State :=
  let granule := l.pa va / 4096
  let key := l.pteAt * 2 ^ 18 + va.toNat % 2 ^ leafBits l.level / 4096
  let now : Homed := { home := BitVec.ofNat 4 (bitsAt l.pte 56 4), granule := granule, lines := 0xFFFFFFFF }
  if acc == .maint || granule / 2 ^ 36 != 0 then s
  else match tfind s.homes key with
    | none => { s with homes := tins s.homes key now }
    | some h =>
      if h = now then s
      else
        let t := { s with homes := tins s.homes key now }
        if h.home == now.home || h.granule != granule then t
        else { t with
          mem := memPutBytes s.mem (granule * 4096) (freeBytes 4096 s.fresh), fresh := s.fresh + 1 }

/-- Lines of physical memory flushed on every die (R369). -/
def State.flushLines (s : State) (pa n : Nat) : State :=
  let keep (h : Homed) : BitVec 32 := h.lines &&& (List.range 32).foldl (fun m i =>
    let at_ := h.granule * 4096 + 128 * i
    if at_ < pa + n && pa < at_ + 128 then m &&& ~~~((1 : BitVec 32) <<< i) else m) 0xFFFFFFFF
  { s with homes := (s.homes.map fun p => (p.1, { p.2 with lines := keep p.2 })).filter fun p => p.2.lines != 0 }

/-- The cached translation of a page removed from the agent's bay's TLB and its core's L1, as before an upgrade fault
(R310). -/
def State.dropPage (s : State) (a : Agent) (asid : Nat) (va : DWord) : State :=
  let d := s.die a.socket
  s.setDie a.socket { d with tlb := d.tlb.filter fun o => !(o.serves a && o.asid == asid && o.around va) }

/-- Where a translation may come from (R306, R310): the tables as they are, a cached leaf, or a walk that begins at a
cached pointer or address-space entry: of an ASID, from a table of a level. -/
inductive Source where
  | tables
  | leaf (e : TlbEntry)
  | walk (asid table level : Nat)
deriving DecidableEq, Repr

/-- Whether a cached leaf says what the walk says, but for A and D. -/
def sameLeaf (e : TlbEntry) (l : Leaf) (va : DWord) : Bool :=
  e.size == leafBits l.level && e.pa va == l.pa va && pteKind e.flags == pteKind l.pte

/-- The cached leaves and pointers of an ASID that translate an address otherwise than a walk does. -/
def State.staleOf (s : State) (a : Agent) (asid : Nat) (va : DWord) (w : Walk) : List Source :=
  let leaves := (s.cached a asid va).filter fun e =>
    match w.leaf with
    | .ok l => !sameLeaf e l va
    | .error _ => true
  let ptrs := (s.die a.socket).ptrs.filter fun p =>
    p.asid == asid && p.va == va.toNat / 2 ^ leafBits (p.level + 1) && !w.path.contains (p.level, p.table)
  leaves.map .leaf ++ ptrs.map fun p => .walk asid p.table p.level

/-- What an older address-space entry, a cached leaf or a cached pointer still lets an access use (R306, R310). -/
def State.stale (s : State) (a : Agent) (space : Nat) (va : DWord) (w : Walk) : List Source :=
  let e := s.spaceEntry space
  let asid := bitsAt e.2 0 16
  let root := bitsAt e.1 12 40 * 4096
  let old := (s.die a.socket).roots.filter fun r => r.1 == space && !(e.1.getLsbD 0 && r.2 == (asid, root))
  s.staleOf a asid va w ++ old.flatMap fun r =>
    .walk r.2.1 r.2.2 4 :: if r.2.1 == asid then [] else s.staleOf a r.2.1 va (s.walkFrom va r.2.2 4)

/-- An address-space entry, as space, ASID and root table, remembered as a walk uses it (R306). -/
def State.rememberRoot (s : State) (socket : Nat) (r : Nat × Nat × Nat) : State :=
  let d := s.die socket
  if d.roots.contains r then s else s.setDie socket { d with roots := r :: d.roots }

/-- The source of a translation (log entry 8): the tables, unless the oracle picks something cached that says otherwise. -/
def State.pickSource (s : State) (l : List Source) : Source × State :=
  match l with
  | [] => (.tables, s)
  | _ :: _ =>
    let (c, t) := s.choose (1 + l.length)
    ((Source.tables :: l).getD c .tables, t)

/-- The translation of a page settled, before any permission is checked: the leaf, with the ASID it is of and, for a leaf
that a walk found, the tables on its way and the address-space entry it began at; where it puts the 4 KiB page (R306,
R310). -/
structure Chosen where
  leaf   : Leaf
  frame  : Nat
  asid   : Nat
  walked : Bool := true
  path   : List (Nat × Nat) := []
  root   : Option (Nat × Nat × Nat) := none
deriving DecidableEq, Repr

/-- The end of a walk: its fault, or the leaf that translates. -/
def State.endWalk (s : State) (asid : Nat) (va : DWord) (w : Walk) (root : Option (Nat × Nat × Nat)) :
    State × Except AccErr Chosen :=
  match w.leaf with
  | .error e => (s, .error e)
  | .ok own =>
    let (t, l) := s.groupLeaf va own
    (t, .ok { leaf := l, frame := l.pa va / 4096, asid := asid, path := w.path, root := root })

/-- A cached leaf taken (R310). -/
def TlbEntry.chosen (e : TlbEntry) (va : DWord) : Chosen :=
  { leaf := { pte := e.flags, pteAt := 0, level := (e.size - 12) / 9 }, frame := e.pa va / 4096, asid := e.asid
    walked := false }

/-- The translation of the page of an address settled (R306 to R310): by the tables as they are, or, where something
cached says otherwise, by either (log entry 8). An address with bits [63:57] set is RANGE (R201). -/
def State.choosePage (s : State) (a : Agent) (space : Nat) (va : DWord) : State × Except AccErr Chosen :=
  if bitsAt va 57 7 != 0 then (s, .error (.fault 2 va 0 0))
  else
    let w := s.walkSpace space va
    let e := s.spaceEntry space
    let root := (space, bitsAt e.2 0 16, bitsAt e.1 12 40 * 4096)
    match s.pickSource (s.stale a space va w) with
    | (.tables, t) => t.endWalk root.2.1 va w (some root)
    | (.walk asid table level, t) => t.endWalk asid va (t.walkFrom va table level) none
    | (.leaf e, t) => (t.addTlb a.socket (e.copies a) [], .ok (e.chosen va))

/-- What a walk that ended well leaves (R306, R309, R310, R369): A and D, the caches, the granule. -/
def State.keepWalk (s : State) (a : Agent) (va : DWord) (acc : Access) (c : Chosen) : State :=
  let t := ((s.touch c.leaf acc).remember a c.asid va c.path c.leaf).useGranule va acc c.leaf
  match c.root with
  | some r => t.rememberRoot a.socket r
  | none => t

/-- An access through a settled translation: permission, then the physical address, which must have something behind it
(R309, R344). -/
def State.useChosen (s : State) (a : Agent) (va : DWord) (acc : Access) (c : Chosen) : State × Except AccErr Nat :=
  match c.leaf.check va acc with
  | .error (.page k h) => (s.dropPage a c.asid va, .error (.page k h))
  | .error e => (s, .error e)
  | .ok () =>
    let pa := c.frame * 4096 + va.toNat % 4096
    (if c.walked then s.keepWalk a va acc c else s, match s.physBad pa with
      | some e => .error e
      | none => .ok pa)

/-- Translation of one address for one access (R306 to R310). -/
def State.translate (s : State) (a : Agent) (space : Nat) (va : DWord) (acc : Access) : State × Except AccErr Nat :=
  match s.choosePage a space va with
  | (t, .error e) => (t, .error e)
  | (t, .ok c) => t.useChosen a va acc c

/-- The translations settled in one issue, by page: every lane of an issue sees one translation of a page (R184). -/
abbrev Memo := List (Nat × Except AccErr Chosen)

/-- The translation of a page settled for the rest of an issue. -/
def State.settlePage (s : State) (memo : Memo) (a : Agent) (space : Nat) (va : DWord) :
    State × Memo × Except AccErr Chosen :=
  let page := va.toNat / 4096
  match memo.find? fun e => e.1 == page with
  | some e => (s, memo, e.2)
  | none =>
    let (s, x) := s.choosePage a space va
    (s, (page, x) :: memo, x)

/-- One access of an issue translated. -/
def State.pageAt (s : State) (memo : Memo) (a : Agent) (space : Nat) (va : DWord) (acc : Access) :
    State × Memo × Except AccErr Nat :=
  let (s, memo, x) := s.settlePage memo a space va
  match x with
  | .error e => (s, memo, .error e)
  | .ok c =>
    let (s, y) := s.useChosen a va acc c
    (s, memo, y)

/-- The home of a physical address of device memory (R172): the memory die's socket, and the stack on it. Homes affect cost
only. -/
def State.homeOf (s : State) (pa : Nat) (pin : Option Nat) : Nat × Nat :=
  let healthy := (List.range 8).filter fun i => s.health.getLsbD (8 + i)
  let g := pa / 4096
  let h := (g * 0x9E3779B1 % 2 ^ 32) ^^^ (g / 2 ^ 20)
  let hashed := 8 + healthy.getD (h * healthy.length / 2 ^ 32) 0
  let die := match pin with
    | some k => if healthy.contains k then 8 + k else hashed
    | none => hashed
  (die, h * 2 * healthy.length / 2 ^ 32 % 2)

/-- A load of `n` bytes of the physical map: memory, registers, or a PCIe device, whose bytes are its own
(log entry 4). -/
def State.physLoad (s : State) (pa n : Nat) : State × Except AccErr (List Byte) :=
  match s.physBad pa with
  | some e => (s, .error e)
  | none =>
    if pa / 2 ^ 48 == 15 then (s, .ok (leBytes n (s.regLoad pa n)))
    else if pa / 2 ^ 48 == 3 then
      ({ s with fresh := s.fresh + 1 }, .ok ((List.range n).map fun i => Config.deviceByte s.fresh (pa + i)))
    else (s, .ok (memBytes s.mem pa n))

/-- A store of bytes to the physical map. -/
def State.physStore (s : State) (pa : Nat) (bs : List Byte) (a : Actor := hardware) (scope : Nat := 7)
    (reads : Bool := false) : State × Except AccErr Unit :=
  match s.physBad pa with
  | some e => (s, .error e)
  | none => (s.putPhys pa bs a scope reads, .ok ())

/-- The places in the memory order of the advances that a peg has had (R179, R193). -/
def State.advancesOf (s : State) (pa : Nat) : List Nat := s.updatesOf ((physCells s.mem pa 8).map (·.1))

/-- A peg advanced: an atomic add at a physical address (R179), by default the hardware's. -/
def State.addPeg (s : State) (pa : Nat) (v : DWord) (a : Actor := hardware) : State :=
  s.putPhys pa (leBytes 8 (s.dword pa + v).toNat) a 7 true

end Sys2Proof.Machine
end

