-- ==== Sys2Proof/Machine/Domain.lean ====
section
/-! DEFINITION. Domain control blocks (R39, Table 18), handler descriptors and the writing of records (R300, R301,
Table 149), launch records (R234, Table 113) and range task records (R243, Table 115) as fields of bytes. -/
namespace Sys2Proof.Machine
open Sys2Proof

/-- The 64 bytes of a DCB. -/
def State.dcb (s : State) (pa : Nat) : List Byte := memBytes s.mem pa 64

/-- Parent address of a DCB; 0 at the root (Table 18). -/
def dcbParent (d : List Byte) : Nat := fieldOf d 0 8

/-- Override bit `i` of a DCB (Table 18). -/
def dcbOverrides (d : List Byte) (i : Nat) : Bool := fieldBits d 30 2 i 1 == 1

/-- Whether one DCB keeps to Table 18's reserved bits and limits: shares within their ranges, in device memory,
aligned to 64. R39 calls a DCB malformed for its reserved bits and fields; that a bay budget above 96, or an overridden
lapidary share outside 1 to 64, makes it so too is the model's choice (log entry 51). -/
def dcbShape (s : State) (pa : Nat) : Bool :=
  let d := s.dcb pa
  pa % 64 == 0 && pa + 64 ≤ s.capacity && dcbParent d % 64 == 0 &&
  fieldBits d 24 2 7 9 == 0 && fieldOf d 24 2 ≤ 96 &&
  fieldBits d 26 2 7 9 == 0 && (!dcbOverrides d 3 || (1 ≤ fieldOf d 26 2 && fieldOf d 26 2 ≤ 64)) &&
  fieldBits d 28 1 3 5 == 0 && fieldBits d 30 2 7 9 == 0 && (d.drop 40).all (· == 0) &&
  (dcbParent d != 0 || fieldOf d 30 2 == 0x7F)

/-- A DCB and its ancestors up to the root, at most 16 (R39); none when the tree is deeper. -/
def State.ancestry (s : State) (pa : Nat) : Nat → Option (List Nat)
  | 0 => none
  | fuel + 1 =>
    let p := dcbParent (s.dcb pa)
    if p == 0 then some [pa] else (State.ancestry s p fuel).map (pa :: ·)

/-- The path of a domain to its root; empty when there is none. -/
def State.path (s : State) (pa : Nat) : List Nat := (s.ancestry pa 16).getD []

/-- Whether a domain is accepted (R39): no DCB on its path malformed. -/
def State.domainOk (s : State) (pa : Nat) : Bool :=
  match s.ancestry pa 16 with
  | none => false
  | some l => l.all (dcbShape s)

/-- The effective value of a field with override bit `i` (R39): `n` bytes at `off` of the nearest DCB that sets it. -/
def State.effective (s : State) (pa i off n : Nat) : Nat :=
  match (s.path pa).find? (fun p => dcbOverrides (s.dcb p) i) with
  | some p => fieldOf (s.dcb p) off n
  | none => 0

/-- Effective handler descriptor address. -/
def State.handler (s : State) (pa : Nat) : Nat := s.effective pa 0 8 8
/-- Effective bay budget. -/
def State.bayBudget (s : State) (pa : Nat) : Nat := s.effective pa 2 24 2 % 128
/-- Effective lapidary share. -/
def State.lapShare (s : State) (pa : Nat) : Nat := s.effective pa 3 26 2 % 128
/-- Effective priority class. -/
def State.priority (s : State) (pa : Nat) : Nat := s.effective pa 4 28 1 % 8
/-- Effective fault domain number. -/
def State.faultDomain (s : State) (pa : Nat) : Nat := s.effective pa 5 29 1
/-- Effective ageing period in units of 2^16 cycles. -/
def State.ageing (s : State) (pa : Nat) : Nat := s.effective pa 6 32 4
/-- The domain identifier. -/
def State.domainId (s : State) (pa : Nat) : Nat := fieldOf (s.dcb pa) 36 4

/-- The effective fields of a domain as they stand now, as the device reads them at a placement or an admission (R39). -/
def State.view (s : State) (pa : Nat) : DomainView :=
  { id := s.domainId pa, handler := s.handler pa, priority := s.priority pa, fault := s.faultDomain pa
    ageing := s.ageing pa, shares := (s.path pa).map fun p => (p, s.lapShare p) }

/-- The fields that hold for a bent: those read at its last placement; before the first, those that stand now (R39). -/
def State.viewOf (s : State) (b : Bent) : DomainView := b.dom.getD (s.view b.dcb)

/-- Effective class of an item that has waited `w` cycles (R251). -/
def DomainView.classAt (d : DomainView) (w : Nat) : Nat :=
  min 7 (d.priority + (if d.ageing = 0 then 0 else w / (d.ageing * 2 ^ 16)))

/-- Whether a handler descriptor keeps to Table 149 and can be read. -/
def State.handlerOk (s : State) (h : Nat) : Bool :=
  let d := memBytes s.mem h 64
  h != 0 && h % 64 == 0 && h + 64 ≤ s.capacity && fieldBits d 0 8 52 12 == 0 && fieldBits d 0 8 0 12 == 0 &&
  4 ≤ fieldOf d 8 4 && fieldOf d 8 4 ≤ 16 && fieldBits d 24 4 10 22 == 0 && fieldBits d 24 4 0 1 == 0 &&
  fieldBits d 28 4 7 25 == 0 && fieldBits d 32 8 0 3 == 0 && (d.drop 40).all (· == 0)

/-- Whether a trap class has the disposition HALT in a domain (R300, R303). -/
def State.haltsOn (s : State) (d : DomainView) (cls : Nat) : Bool :=
  let h := d.handler
  s.handlerOk h && memNat s (h + 24) 4 / 2 ^ cls % 2 == 1

/-- The status bits a domain has enabled (Table 149); none without a valid descriptor. -/
def State.statusEnable (s : State) (d : DomainView) : Nat :=
  let h := d.handler
  if s.handlerOk h then memNat s (h + 28) 4 % 128 else 0

/-- One record stored in a ring slot: the record, the producer index, the notify peg (R300). -/
def State.putRecord (s : State) (h : Nat) (rec : List Byte) : State :=
  let base := memNat s h 8
  let count := 2 ^ memNat s (h + 8) 4
  let prod := memNat s (h + 12) 4
  let s := s.putMem (base + 64 * (prod % count)) rec
  let s := s.putNat (h + 12) 4 (prod + 1)
  let peg := memNat s (h + 32) 8
  if peg = 0 then s else s.addPeg peg 1

/-- A head record and its continuations delivered to a domain's handler, or dropped and counted together (R300,
R301). -/
def State.deliver (s : State) (d : DomainView) (recs : List (List Byte)) : State :=
  let h := d.handler
  if s.handlerOk h then
    let count := 2 ^ memNat s (h + 8) 4
    let used := (memNat s (h + 12) 4 + 2 ^ 32 - memNat s (h + 16) 4) % 2 ^ 32
    if used + recs.length ≤ count then recs.foldl (fun s r => s.putRecord h r) s
    else s.putNat (h + 20) 4 (memNat s (h + 20) 4 + recs.length)
  else if h != 0 && h % 64 == 0 && h + 64 ≤ s.capacity then
    s.putNat (h + 20) 4 (memNat s (h + 20) 4 + recs.length)
  else s

/-- The header of a record (Table 150). -/
def header (cls cause socket conts gid domain weave fid parent wb : Nat) (pc mask siblings : DWord) : List Byte :=
  [BitVec.ofNat 8 cls, BitVec.ofNat 8 cause, BitVec.ofNat 8 socket, BitVec.ofNat 8 conts] ++ leBytes 4 gid ++
  leBytes 4 domain ++ [BitVec.ofNat 8 weave, BitVec.ofNat 8 fid, BitVec.ofNat 8 parent, BitVec.ofNat 8 wb] ++
  leBytes 8 pc.toNat ++ leBytes 8 mask.toNat ++ leBytes 8 siblings.toNat

/-- Bytes filled with zeros up to a length. -/
def padTo (n : Nat) (l : List Byte) : List Byte := (l ++ List.replicate n 0).take n

/-- A continuation record (R301): class 0x3F and what it carries from offset 16 on. -/
def continuation (rest : List Byte) : List Byte := padTo 64 ([0x3F] ++ List.replicate 15 0 ++ rest)

/-- Role shape word of a launch record (Table 113). -/
def roleShape (r : List Byte) (role : Nat) : Nat := fieldOf r (8 + 16 * role) 4
/-- Lanes per group of a role; 0 when the role is absent. -/
def roleLanes (r : List Byte) (role : Nat) : Nat := roleShape r role % 2048
/-- Groups per bent of a role. -/
def roleGroups (r : List Byte) (role : Nat) : Nat := roleShape r role / 2 ^ 11 % 8
/-- Whether a role is SCALAR. -/
def roleScalar (r : List Byte) (role : Nat) : Bool := roleLanes r role != 0 && roleShape r role / 2 ^ 14 % 2 == 1
/-- G budget of a role. -/
def roleG (r : List Byte) (role : Nat) : Nat := (roleShape r role / 2 ^ 16 % 16 + 1) * 16
/-- X budget of a role. -/
def roleX (r : List Byte) (role : Nat) : Nat :=
  match roleShape r role / 2 ^ 20 % 4 with
  | 0 => 32 | 1 => 8 | 2 => 16
  | _ => 24
/-- Entry PC of a role. One whose bits 1:0 are not zero, for which the manual gives neither a rejection nor a trap, is taken
as it stands (DESIGN CHOICE, log entry 51). -/
def roleEntry (r : List Byte) (role : Nat) : DWord := BitVec.ofNat 64 (fieldOf r (16 * role) 8)
/-- Data part of a role's groups in bytes. -/
def roleData (r : List Byte) (role : Nat) : Nat :=
  let n := fieldOf r (12 + 16 * role) 4 % 2 ^ 16
  (if n = 0 then 1 else n) * 4096
/-- Weaves of a group of a role (R14). -/
def roleWeaves (r : List Byte) (role : Nat) : Nat := (roleLanes r role + 63) / 64
/-- Log-store size in nodes (R59). -/
def recLog (r : List Byte) : Nat :=
  let n := fieldOf r 136 4 % 2 ^ 16
  if n = 0 then 4096 else 256 * n
/-- Log spill size in nodes. -/
def recSpill (r : List Byte) : Nat := fieldOf r 152 4 % 2 ^ 24
/-- Choice records per lane (R272). -/
def recRecords (r : List Byte) : Nat :=
  let n := fieldOf r 140 2
  if n = 0 then 32 else n
/-- Kerf entries per lane (R272). -/
def recKerf (r : List Byte) : Nat :=
  let n := fieldOf r 142 2
  if n = 0 then 256 else n
/-- Argument bytes. -/
def recArgs (r : List Byte) : Nat := fieldOf r 56 4 % 1024
/-- Whether bents claim their bay without a SCALAR role. -/
def recClaim (r : List Byte) : Bool := fieldOf r 56 4 / 2 ^ 12 % 2 == 1
/-- Barrier time-out in cycles (R33). -/
def recTimeout (r : List Byte) : Nat :=
  let n := fieldOf r 56 4 / 2 ^ 16 % 64
  2 ^ (if n = 0 then 24 else n)
/-- Domain of a launch record. -/
def recDcb (r : List Byte) : Nat := fieldOf r 64 8
/-- Bents of a launch (R235). -/
def recBents (r : List Byte) : Nat := fieldOf r 72 4 * fieldOf r 76 2 * fieldOf r 78 2
/-- Peg table base; 0 when there is none. -/
def recPegs (r : List Byte) : DWord := BitVec.ofNat 64 (fieldOf r 88 8)
/-- The completion peg, when CV is set. -/
def recDone (r : List Byte) : Option Nat :=
  let v := fieldOf r 80 4
  if v / 2 ^ 6 % 2 == 1 then some (v % 64) else none
/-- Wait pairs of a launch record: peg and threshold. -/
def recPairs (r : List Byte) : List (Nat × DWord) :=
  (List.range (fieldOf r 80 4 / 2 ^ 8 % 8)).map fun i =>
    (fieldOf r (96 + i) 1 % 64, BitVec.ofNat 64 (fieldOf r (104 + 8 * i) 8))
/-- Wait pairs of a task record. -/
def taskPairs (r : List Byte) : List (Nat × DWord) :=
  (List.range (fieldOf r 28 4 % 8)).map fun i =>
    (fieldOf r (40 + i) 1 % 64, BitVec.ofNat 64 (fieldOf r (48 + 4 * i) 4))
/-- Completion peg of a task record. -/
def taskPeg (r : List Byte) : Nat := fieldOf r 28 4 / 2 ^ 4 % 64
/-- Whether a task record is SEALED. -/
def taskSealed (r : List Byte) : Bool := fieldOf r 28 4 / 2 ^ 3 % 2 == 1
/-- Grain of a task record. -/
def taskGrain (r : List Byte) : Nat := fieldOf r 24 4

/-- The PWAIT rule (R179): `(v - t) mod 2^64 < 2^63`. -/
def pegMet (v t : DWord) : Bool := !(v - t).getLsbD 63

end Sys2Proof.Machine
end

