-- ==== Sys2Proof/Machine/Ops.lean ====
section
/-! DEFINITION. The shared operations over groups, weaves, fibres and lanes: splitting and regrouping (R17 to R25,
R280), barriers and sticky status (R31 to R33, R305), taking a trap (R298 to R303), recoverable and non-recoverable
faults (R311 to R317), the group table (R362), ending a bent (R303). -/
namespace Sys2Proof.Machine
open Sys2Proof

/-- The lanes of a mask, ascending. -/
def lanesOf (m : DWord) : List Nat := (List.range 64).filter fun i => m.getLsbD i

/-- The mask of one lane. -/
def laneBit (l : Nat) : DWord := (1 : DWord) <<< l

/-- The mask of a list of lanes. -/
def maskOf (l : List Nat) : DWord := l.foldl (fun m i => m ||| laneBit i) 0

/-- A group by its GID. -/
def State.group (s : State) (gid : Nat) : Option Group := tfind s.groups gid

/-- A group written back. -/
def State.setGroup (s : State) (g : Group) : State := { s with groups := tins s.groups g.gid g }

/-- A group changed. -/
def State.onGroup (s : State) (gid : Nat) (f : Group → Group) : State :=
  match s.group gid with
  | some g => { s with groups := tins s.groups gid (f g) }
  | none => s

/-- A weave of a group. -/
def Group.weave (g : Group) (w : Nat) : Weave := tget { size := 0 } g.weaves w

/-- A weave written back. -/
def Group.setWeave (g : Group) (w : Nat) (v : Weave) : Group := { g with weaves := tins g.weaves w v }

/-- A weave changed. -/
def State.onWeave (s : State) (gid w : Nat) (f : Weave → Weave) : State :=
  s.onGroup gid fun g => g.setWeave w (f (g.weave w))

/-- A lane of a weave; a position that nothing has written holds a fresh lane (R47). -/
def Weave.lane (v : Weave) (l : Nat) : Lane := tget {} v.lanes l

/-- A lane written back. -/
def Weave.setLane (v : Weave) (l : Nat) (x : Lane) : Weave := { v with lanes := tput {} v.lanes l x }

/-- A lane changed. -/
def State.onLane (s : State) (gid w l : Nat) (f : Lane → Lane) : State :=
  s.onWeave gid w fun v => v.setLane l (f (v.lane l))

/-- A lane. -/
def State.lane (s : State) (gid w l : Nat) : Lane :=
  match s.group gid with
  | some g => (g.weave w).lane l
  | none => {}

/-- A fibre of a weave. -/
def Weave.fibre (v : Weave) (fid : Nat) : Option Fibre := v.fibres.find? fun f => f.id == fid

/-- The fibre of an identifier changed in a list. -/
def changeFibre (fid : Nat) (f : Fibre → Fibre) : List Fibre → List Fibre
  | [] => []
  | x :: r => if x.id == fid then { f x with id := fid } :: r else x :: changeFibre fid f r

/-- A fibre changed. -/
def Weave.onFibre (v : Weave) (fid : Nat) (f : Fibre → Fibre) : Weave :=
  { v with fibres := changeFibre fid f v.fibres }

/-- A fibre changed. -/
def State.onFibre (s : State) (r : FibreRef) (f : Fibre → Fibre) : State :=
  s.onWeave r.gid r.weave fun v => v.onFibre r.fid f

/-- A fibre. -/
def State.fibre (s : State) (r : FibreRef) : Option Fibre := (s.group r.gid).bind fun g => (g.weave r.weave).fibre r.fid

/-- A bent. -/
def State.bent (s : State) (uid : Nat) : Option Bent := tfind s.bents uid

/-- A bent changed. -/
def State.onBent (s : State) (uid : Nat) (f : Bent → Bent) : State := { s with bents := tmod s.bents uid f }

/-- A bay changed. -/
def State.onBay (s : State) (k : Nat) (f : Bay → Bay) : State := s.setBay k (f (s.bayAt k))

/-- The bent of a group. -/
def State.bentOf (s : State) (gid : Nat) : Option Bent := (s.group gid).bind fun g => s.bent g.bent

/-- The launch of a group. -/
def State.launchOf (s : State) (gid : Nat) : Option Launch := (s.bentOf gid).bind fun b => tfind s.launches b.launch

/-- Socket of a GID (R44). -/
def socketOf (gid : Nat) : Nat := gid / 2 ^ 28 % 8

/-- The address space of a group (R306). -/
def State.spaceOf (s : State) (gid : Nat) : Nat := ((s.launchOf gid).map (·.space)).getD 0

/-- The DCB address of a group's bent. -/
def State.dcbOf (s : State) (gid : Nat) : Nat := ((s.bentOf gid).map (·.dcb)).getD 0

/-- The domain of a group's bent, as placed (R39). -/
def State.domOf (s : State) (gid : Nat) : DomainView := ((s.bentOf gid).map s.viewOf).getD {}

/-- PID and TID of a group's launch (R332). -/
def State.nameOf (s : State) (gid : Nat) : Word × Word := ((s.launchOf gid).map fun l => (l.pid, l.tid)).getD (0, 0)

/-- Whether a group's bent is privileged (R355). -/
def State.privOf (s : State) (gid : Nat) : Bool := ((s.launchOf gid).map (·.priv)).getD false

/-- Whether a group is a joiner stream (R37). -/
def State.isJoiner (s : State) (gid : Nat) : Bool :=
  match s.bentOf gid with
  | some b => b.joiner == some gid
  | none => false

/-- The piece that a group is, of a range task (R244). -/
def State.pieceOf (s : State) (gid : Nat) : Option Piece := (s.bentOf gid).bind (·.piece)

/-- Whether a group is a sealed piece (R248). -/
def State.isSealed (s : State) (gid : Nat) : Bool :=
  match s.pieceOf gid with
  | some p => ((tfind s.tasks p.task).map fun t => taskSealed t.record).getD false
  | none => false

/-- Key of the bay a group is on. -/
def State.bayOf (s : State) (gid : Nat) : Nat := ((s.bentOf gid).map (·.bay)).getD 0

/-- Key of the core a group is on. -/
def State.coreOf (s : State) (gid : Nat) : Nat :=
  match s.group gid with
  | some g => coreKey (s.bayOf gid) g.core
  | none => 0

/-- The lanes of a group as they translate: through their core's L1 and their bay's TLB (R310). -/
def State.agentOf (s : State) (gid : Nat) : Agent :=
  { socket := socketOf gid, bay := some (s.bayOf gid), core := some (s.coreOf gid) }

/-- The engines and the lapidary as they translate for a group: through its bay's TLB (R310). -/
def State.engineOf (s : State) (gid : Nat) : Agent := { socket := socketOf gid, bay := some (s.bayOf gid) }

/-- An agent of a group, with its position (R185). -/
def State.actorOf (s : State) (gid level id weave : Nat) : Actor :=
  match s.group gid, s.bentOf gid with
  | some g, some b =>
    { level := level, id := id, weave := weave, gid := gid, bent := g.bent, bay := b.bay, launch := b.launch }
  | _, _ => { level := level, id := id, weave := weave, gid := gid, bent := s.uids, launch := s.uids }

/-- A lane as an agent (R185). -/
def State.laneActor (s : State) (gid w l : Nat) : Actor := s.actorOf gid 0 l w

/-- A copy record or a matrix command as an agent of the bent of its group (R185). -/
def State.opActor (s : State) (gid op : Nat) : Actor := s.actorOf gid 4 op 0

/-- A lapidary request as an agent of its bay (R185). -/
def State.requestActor (s : State) (gid op : Nat) : Actor := s.actorOf gid 5 op 0

/-- An operation of the storage engine or of the task and launch hardware as an agent (R185). -/
def deviceActor (op : Nat) : Actor := { level := 7, id := op, weave := 1 }

/-- The drive of a storage command as a non-coherent I/O device (R185). -/
def driveActor (op : Nat) : Actor := { level := 10, id := op, weave := 1 }

/-- The lanes of a mask as a side of an edge (R187). -/
def State.lanesParty (s : State) (gid w : Nat) (lanes : DWord) : List Party :=
  (lanesOf lanes).map fun l => .actor (s.laneActor gid w l)

/-- The live lanes of a weave: those of its fibres (R15). -/
def Weave.live (v : Weave) : DWord := v.fibres.foldl (fun m f => m ||| f.lanes) 0

/-- Number of live lanes of a group. -/
def Group.liveCount (g : Group) : Nat := g.weaves.foldl (fun n p => n + (lanesOf p.2.live).length) 0

/-- A count added to the counters of a source (R341). -/
def bump (t : Table Counter) (source n : Nat) : Table Counter :=
  t.map fun (k, c) => (k, if c.source == source then { c with value := c.value + BitVec.ofNat 64 n } else c)

/-- Events of a core counted (R341). -/
def State.countCore (s : State) (core source n : Nat) : State :=
  let c := s.coreAt core
  if n = 0 || c.counters.isEmpty then s else s.setCore core { c with counters := bump c.counters source n }

/-- Events of a die counted (R341). -/
def State.countDie (s : State) (socket source n : Nat) : State :=
  let d := s.die socket
  if n = 0 || d.counters.isEmpty then s else s.setDie socket { d with counters := bump d.counters source n }

/-- Spilled fibres of a weave (R22). -/
def Weave.spilled (v : Weave) : Nat := (v.fibres.filter fun f => f.slot.isNone).length

/-- AGED set where the wait count of a ready fibre has reached 64 less the live fibres, which a split lowers (R26). -/
def Weave.reage (v : Weave) : Weave :=
  { v with fibres := v.fibres.map fun f =>
      if f.st == .ready && 64 - v.fibres.length ≤ f.waitCount then { f with aged := true } else f }

/-- A weave changed by an operation that may split and spill fibres, which the core counts (R341). -/
def State.reweave (s : State) (gid w : Nat) (f : Weave → Weave) : State :=
  let before := ((s.group gid).map fun g => g.weave w).getD { size := 0 }
  let after := f before
  ((s.onWeave gid w fun v => (f v).reage).countCore (s.coreOf gid) 4 (after.fibres.length - before.fibres.length)).countCore (s.coreOf gid) 6
    (after.spilled - before.spilled)

/-- The sibling mask of a fibre (R21). -/
def Weave.siblings (v : Weave) (f : Fibre) : DWord :=
  maskOf ((v.fibres.filter fun x => x.parent == f.parent && x.id != f.id).map (·.id))

/-- The lowest identifier that no live fibre of the weave holds (R17), none of `taken` either. Where all 64 are held, which
can be only when the fibre `last` ends at the event, the new fibre takes that one's: R19 keeps it unused until the new
ones have theirs, R17 has no other (log entry 51). -/
def Weave.freeId (v : Weave) (taken : List Nat) (last : Nat) : Nat :=
  ((List.range 64).find? fun i => !(v.fibres.any fun f => f.id == i) && !taken.contains i).getD last

/-- The lowest free slot of the fibre table (R22). -/
def Weave.freeSlot (v : Weave) : Option Nat :=
  (List.range Config.fibreSlots).find? fun i => !(v.fibres.any fun f => f.slot == some i)

/-- Number of free table slots. -/
def Weave.freeSlots (v : Weave) : Nat :=
  Config.fibreSlots - (v.fibres.filter fun f => f.slot.isSome).length

/-- Whether fibre `a` is spilled before `b`: it issued less recently, a tie going to the higher identifier (R22). -/
def spillsBefore (a b : Fibre) : Bool := a.lastIssue < b.lastIssue || (a.lastIssue == b.lastIssue && b.id < a.id)

/-- The best element of a list by an order. -/
def bestOf {α : Type} (before : α → α → Bool) : List α → Option α
  | [] => none
  | x :: r => match bestOf before r with
    | none => some x
    | some y => if before y x then some y else some x

/-- An element inserted before the first one that does not come before it. -/
def insertBy {α : Type} (before : α → α → Bool) (x : α) : List α → List α
  | [] => [x]
  | y :: r => if before x y then x :: y :: r else y :: insertBy before x r

/-- A list sorted by an order. -/
def sortBy {α : Type} (before : α → α → Bool) (l : List α) : List α := l.foldr (insertBy before) []

/-- One fibre spilled, none of `keep` (R22); the weave unchanged when there is no candidate. -/
def Weave.spillOne (v : Weave) (keep : List Nat) : Weave :=
  match bestOf spillsBefore (v.fibres.filter fun f => f.slot.isSome && !keep.contains f.id) with
  | some f => v.onFibre f.id fun x => { x with slot := none }
  | none => v

/-- Fibres spilled until `n` slots are free, where that can be (R22). -/
def Weave.makeRoom (v : Weave) (keep : List Nat) (n : Nat) : Nat → Weave
  | 0 => v
  | k + 1 => if n ≤ v.freeSlots then v else (v.spillOne keep).makeRoom keep n k

/-- A fibre inserted in the order of identifiers. -/
def insertFibre (f : Fibre) : List Fibre → List Fibre
  | [] => [f]
  | x :: r => if f.id < x.id then f :: x :: r else x :: insertFibre f r

/-- Which spilled record returns to the table first (R25). -/
def returnsBefore (a b : Fibre) : Bool :=
  let rank (f : Fibre) : Nat := if f.st == .ready && f.aged then 0 else if f.st == .ready then 1 else 2
  if rank a != rank b then rank a < rank b
  else if rank a == 0 then (b.waitCount < a.waitCount || (a.waitCount == b.waitCount && a.id < b.id))
  else if rank a == 1 then (a.pc < b.pc || (a.pc == b.pc && a.id < b.id))
  else a.id < b.id

/-- Spilled records returned while slots are free (R25). -/
def Weave.refill (v : Weave) : Nat → Weave
  | 0 => v
  | k + 1 =>
    match v.freeSlot, bestOf returnsBefore (v.fibres.filter fun f => f.slot.isNone) with
    | some i, some f => (v.onFibre f.id fun x => { x with slot := some i }).refill k
    | _, _ => v

/-- New fibres of one event, each given by its lanes and the rest, made in the order of their lowest lanes and placed
in the table (R17, R19, R22). `cause` is the fibre that caused the event, `gone` whether it ends. -/
def Weave.addFibres (v : Weave) (cause : Nat) (gone : Bool) (news : List Fibre) : Weave :=
  let order (a b : Fibre) : Bool := decide ((a.lanes &&& (0 - a.lanes)).toNat ≤ (b.lanes &&& (0 - b.lanes)).toNat)
  let sorted := sortBy order news
  let ids := sorted.foldl (fun acc _ => acc ++ [v.freeId acc cause]) []
  let made := (sorted.zip ids).map fun (f, i) => { f with id := i, slot := none }
  let v := if gone then { v with fibres := v.fibres.filter fun f => f.id != cause } else v
  let keep := if gone then ids else cause :: ids
  let v := v.makeRoom keep made.length Config.fibreSlots
  let v := made.foldl (fun v f => { v with fibres := insertFibre { f with slot := v.freeSlot } v.fibres }) v
  v.refill Config.fibreSlots

/-- A fibre cleared of what belongs to the instruction it has finished. -/
def Fibre.settled (f : Fibre) : Fibre :=
  { f with wait := .none, replay := 0, token := none, pcStop := none, len := 0, pcDue := 0, waiters := 0 }

/-- The lanes of a fibre regrouped by where they go next (R19, R135, R280): those of `stays` go on at `fall` in the
fibre; each distinct PC and window base of the others, given by `dest`, makes one new fibre. When none stays, the lanes
of the lowest PC and window base do. Lanes that are in neither have left. -/
def Weave.regroup (v : Weave) (f : Fibre) (stays fall : DWord) (dest : List (Nat × DWord × Nat)) : Weave :=
  let keys := (dest.map fun d => (d.2.1, d.2.2)).distinct
  let earlier (a b : DWord × Nat) : Bool := a.1 < b.1 || (a.1 == b.1 && a.2 < b.2)
  let lanesAt (k : DWord × Nat) : DWord := maskOf ((dest.filter fun d => (d.2.1, d.2.2) == k).map (·.1))
  let base := { f.settled with st := .ready, waitCount := 0, aged := false }
  let mine (m : DWord) : List (Nat × Nat × Nat) := f.halts.filter fun h => m.getLsbD h.1
  let split (stay : Fibre) (keys : List (DWord × Nat)) : Weave :=
    let v := v.onFibre f.id fun _ => { stay with halts := mine stay.lanes }
    let news := keys.map fun k =>
      { base with pc := k.1, wb := k.2, lanes := lanesAt k, parent := f.id, halts := mine (lanesAt k) }
    if news.isEmpty then v else v.addFibres f.id false news
  if stays != 0 then split { base with pc := fall, lanes := stays } keys
  else
    match bestOf earlier keys with
    | none => ({ v with fibres := v.fibres.filter fun x => x.id != f.id }).refill Config.fibreSlots
    | some k => split { base with pc := k.1, wb := k.2, lanes := lanesAt k } (keys.filter (· != k))

/-- A fibre whose instruction is over, at its next instruction (R31, R178, R179, R330, R331). -/
def Fibre.complete (f : Fibre) : Fibre :=
  let g := { f.settled with pc := f.pc + BitVec.ofNat 64 f.len }
  if f.st == .halted then { g with resume := .ready }
  else { g with st := .ready, waitCount := 0, aged := false, step := if f.step = 0 then 0 else 2 }

/-- A fibre whose lanes have all been replayed: its instruction is over, or it waits for what it has put off (R202, R214). -/
def Fibre.replayed (f : Fibre) : Fibre :=
  if f.wait = .none then f.complete
  else if f.st == .halted then { f with resume := .parked, replay := 0 }
  else { f with st := .parked, waitCount := 0, aged := false, replay := 0 }

/-- Part of the lanes of a fibre, with the halts that wait for them. Where others are to replay its instruction and none of
these, these have completed it (R202), or wait for it (R214, R215). -/
def Fibre.keeping (f : Fibre) (lanes : DWord) : Fibre :=
  let g := { f with
    lanes := f.lanes &&& lanes, replay := f.replay &&& lanes, halts := f.halts.filter fun h => lanes.getLsbD h.1 }
  if f.replay != 0 && g.replay == 0 then g.replayed else g

/-- A fibre without some of its lanes. -/
def Fibre.without (f : Fibre) (lanes : DWord) : Fibre := f.keeping (~~~lanes)

/-- Some lanes of a fibre as a new fibre. -/
def Fibre.only (f : Fibre) (lanes : DWord) : Fibre := { f.keeping lanes with parent := f.id }

/-- Some lanes taken out of a fibre as a new fibre (Table 14); the whole fibre when no other lane is left. The new
fibre's identifier is answered. -/
def Weave.detach (v : Weave) (f : Fibre) (lanes : DWord) (change : Fibre → Fibre) : Weave × Nat :=
  if f.lanes &&& ~~~lanes == 0 then (v.onFibre f.id change, f.id)
  else
    let v := v.onFibre f.id fun x => x.without lanes
    (v.addFibres f.id false [change (f.only lanes)], v.freeId [] f.id)

/-- Some lanes taken out of a fibre, each part as a new fibre; when none stays, the old fibre ends (R19). -/
def Weave.partAll (v : Weave) (f : Fibre) (parts : List (DWord × (Fibre → Fibre))) : Weave :=
  let out := parts.foldl (fun m p => m ||| p.1) 0
  let news := parts.map fun p => p.2 (f.only p.1)
  if f.lanes &&& ~~~out == 0 then v.addFibres f.id true news
  else (v.onFibre f.id fun x => x.without out).addFibres f.id false news

/-- Some lanes taken out of a fibre as a new fibre (R19). -/
def Weave.part (v : Weave) (f : Fibre) (lanes : DWord) (change : Fibre → Fibre) : Weave := v.partAll f [(lanes, change)]

/-- The fibre of a weave that holds a lane. -/
def Weave.holding (v : Weave) (l : Nat) : Option Fibre := v.fibres.find? fun f => f.lanes.getLsbD l

/-- Whether a fibre is parked, or halted while parked. -/
def Fibre.isParked (f : Fibre) : Bool := f.st == .parked || (f.st == .halted && f.resume == .parked)

/-- Whether a fibre refines, or is halted while refining. -/
def Fibre.isRefining (f : Fibre) : Bool := f.st == .refining || (f.st == .halted && f.resume == .refining)

/-- The header of a record for a fibre (Table 150). -/
def State.fibreHeader (s : State) (r : FibreRef) (cls cause conts : Nat) (pc mask : DWord) : List Byte :=
  let dom := (s.domOf r.gid).id
  match s.group r.gid with
  | none => header cls cause (socketOf r.gid) conts r.gid dom r.weave r.fid 0 0 pc mask 0
  | some g =>
    let v := g.weave r.weave
    match v.fibre r.fid with
    | none => header cls cause (socketOf r.gid) conts r.gid dom r.weave r.fid 0 0 pc mask 0
    | some f => header cls cause (socketOf r.gid) conts r.gid dom r.weave r.fid f.parent f.wb pc mask (v.siblings f)

/-- A translation fault on a table becomes a fault of a kind of its own, at the address; one of a physical address with
nothing behind it stays (R179, R344). -/
def tableFault (kind : Nat) (va : DWord) : AccErr → AccErr
  | .fault 2 pa x y => if bitsAt pa 57 7 != 0 then .fault kind va 0 0 else .fault 2 pa x y
  | .fault 12 pa x y => .fault 12 pa x y
  | _ => .fault kind va 0 0

/-- The address of a peg of a group's launch (R179). -/
def State.pegVa (s : State) (gid n : Nat) : DWord :=
  ((s.launchOf gid).map fun l => recPegs l.record + BitVec.ofNat 64 (8 * n)).getD 0

/-- The address of a peg of a group's launch, translated; RESIDENT where it cannot be (R179). -/
def State.pegAt (s : State) (memo : Memo) (a : Agent) (gid n : Nat) (acc : Access) : State × Memo × Except AccErr Nat :=
  let va := s.pegVa gid n
  if ((s.launchOf gid).map fun l => recPegs l.record).getD 0 = 0 then (s, memo, .error (.fault 10 va 0 0))
  else
    let (s, memo, r) := s.pageAt memo a (s.spaceOf gid) va acc
    (s, memo, r.mapError (tableFault 10 va))

/-- Whether a fault entry is that of a copy record. -/
def FaultEntry.isCopy (e : FaultEntry) : Bool :=
  match e.who with
  | .copy _ _ => true
  | _ => false

/-- The outstanding and held entries and requests of some groups dropped (R303 step 7), but for those that a started copy
record still waits for (step 3), unless `copies`. -/
def State.dropEntries (s : State) (gids : List Nat) (copies : Bool) : State :=
  let keep (e : FaultEntry) : Bool := !gids.contains e.gid || (e.isCopy && !copies)
  { s with dies := s.dies.map fun (k, d) =>
      (k, { d with
        entries := d.entries.filter keep
        held := d.held.filter keep
        svc := d.svc.filter fun q => !gids.contains q.gid
        svcHeld := d.svcHeld.filter fun q => !gids.contains q.gid }) }

/-- The FQCB's or SVCB's held counter written from what is held (Table 153, R365). -/
def State.syncHeld (s : State) (socket : Nat) : State :=
  let d := s.die socket
  let s := if d.fqcb = 0 then s else s.putNat (d.fqcb.toNat + 20) 4 d.held.length
  if d.svcb = 0 then s else s.putNat (d.svcb.toNat + 20) 4 d.svcHeld.length

/-- The peg of a discarded matrix command advanced; a fault on the table drops the advance and makes one FAULT
record, kind RESIDENT, which ends nothing further (R303 step 2). -/
def State.advanceDropped (s : State) (c : MCmd) : State :=
  match c.peg with
  | none => s
  | some n =>
    match s.pegAt [] (s.engineOf c.gid) c.gid n .atomic with
    | (s, _, .ok pa) => s.addPeg pa 1 (s.opActor c.gid c.op)
    | (s, _, .error x) =>
      let (k, w1, w2, w3) := match x with
        | .fault k w1 w2 w3 => (k, w1, w2, w3)
        | .page _ _ => (10, s.pegVa c.gid n, 0, 0)
      s.deliver (s.domOf c.gid)
        [s.fibreHeader ⟨c.gid, 0, 0⟩ 16 k 0 c.pc 1 ++ leBytes 8 w1.toNat ++ leBytes 8 w2.toNat ++ leBytes 8 w3.toNat]

/-- A bent stopped (R303 steps 1 to 5 and 7): no fibre issues again, its queued commands, kicks, requests, claims,
sealed version, fault entries and service requests go. Its groups retire after that (GROUP_RETIRE). -/
def State.stopBent (s : State) (uid : Nat) : State :=
  match s.bent uid with
  | none => s
  | some b =>
    let gids := b.groups
    let mine (g : Nat) : Bool := gids.contains g
    let bay := if b.st == .saved then b.saved else s.bayAt b.bay
    let cmds := bay.mq.filter fun c => c.bent == uid
    let s := cmds.foldl (fun s c => s.advanceDropped c) s
    let strip (y : Bay) : Bay :=
      { y with
        mq := y.mq.filter fun c => c.bent != uid
        lap := y.lap.filter fun q => !mine q.gid
        lapWait := y.lapWait.filter fun q => !mine q.gid
        kicks := y.kicks.map fun k => k.filter fun c => c.bent != uid
        claims := y.claims.filter fun c => !mine c.gid
        inserts := y.inserts.filter fun c => !mine c.gid }
    let s := if b.st == .saved then s else s.onBay b.bay strip
    let s := s.dropEntries gids false
    let s := s.syncHeld b.socket
    s.onBent uid fun b =>
      { b with st := .ending, saved := {}, piece := b.piece.map fun p => { p with version := [], taken := [] } }

/-- A bent that has retired or will never be placed (R36, R303): a launch's bent counts as retired; a piece leaves its
task, and a task without pieces leaves the pool (R241, R244). -/
def State.finishBent (s : State) (uid : Nat) : State :=
  match s.bent uid with
  | none => s
  | some b =>
    match b.piece with
    | none => s.onBent uid fun b => { b with st := .ended, groups := [], joiner := none, bars := [], saved := {} }
    | some _ =>
      let tasks := s.tasks.map fun (k, t) => (k, { t with pieces := t.pieces.filter (· != uid) })
      { s with
        bents := tdel s.bents uid
        tasks := tasks.filter fun p => !(p.2.ready && p.2.pieces.isEmpty) }

/-- Whether a bent can still be ended. -/
def Bent.alive (b : Bent) : Bool := !(b.st == .ending || b.st == .ended)

/-- The GID a bent's own records carry: its first group's, all ones where it is not placed (R303). -/
def Bent.reportGid (b : Bent) : Nat := if b.st == .waiting then 0xFFFFFFFF else b.groups.headD 0xFFFFFFFF

/-- The continuation of a FAULT record for a piece of a SEALED task (R302): the task's pool identifier and the piece's
range. -/
def State.sealCont (s : State) (b : Bent) : List (List Byte) :=
  match b.piece with
  | some p =>
    if ((tfind s.tasks p.task).map fun t => taskSealed t.record).getD false then
      [continuation (leBytes 8 p.task ++ leBytes 8 p.first ++ leBytes 8 p.stop)]
    else []
  | none => []

/-- The same for the piece of a group. -/
def State.groupCont (s : State) (gid : Nat) : List (List Byte) := ((s.bentOf gid).map s.sealCont).getD []

/-- A bent ended (R303): stopped, or, before it was placed, without being placed. -/
def State.closeBent (s : State) (b : Bent) : State := if b.st == .waiting then s.finishBent b.uid else s.stopBent b.uid

/-- The FAULT record of a bent as a whole: its kind and its three words (R302, Table 155). -/
def State.reportEnd (s : State) (b : Bent) (kind w1 w2 w3 : Nat) : State :=
  let conts := s.sealCont b
  let body := header 16 kind b.socket conts.length b.reportGid (s.viewOf b).id 0 0 0 0 0 0 0 ++ leBytes 8 w1 ++
    leBytes 8 w2 ++ leBytes 8 w3
  s.deliver (s.viewOf b) (body :: conts)

/-- A bent ended with its fault domain (R303): its FAULT record, kind DOMAIN, then its end. -/
def State.endWithDomain (s : State) (number gid : Nat) (b : Bent) : State := (s.reportEnd b 14 number gid 0).closeBent b

/-- Every other bent of the device in the fault domain of a bent that has ended is ended as well, when that domain's
effective number is not 0 (R303). -/
def State.endDomain (s : State) (uid gid : Nat) (d : DomainView) : State :=
  let n := d.fault
  if n = 0 then s
  else
    let others := s.bents.filter fun p => p.1 != uid && p.2.alive && (s.viewOf p.2).fault == n
    others.foldl (fun s p => s.endWithDomain n gid p.2) s

/-- A bent ended (R303): stopped, and its fault domain with it. -/
def State.endBent (s : State) (uid gid : Nat) : State :=
  match s.bent uid with
  | none => s
  | some b => if !b.alive then s else (s.stopBent uid).endDomain uid gid (s.viewOf b)

/-- TAKING A TRAP (R299 to R303), the one shared operation: the fibre `r` stops at its instruction with a record of
the class, cause and information given, the lane mask `mask`, and continuations; then HALT puts the fibre into the
halted state with the trap as its cause, and END ends the bent. -/
def State.takeTrap (s : State) (r : FibreRef) (mask : DWord) (cls cause : Nat) (info : List Byte)
    (conts : List (List Byte)) : State :=
  match s.fibre r with
  | none => s
  | some f =>
    let dom := s.domOf r.gid
    let body := padTo 64 (s.fibreHeader r cls cause conts.length f.pc mask ++ info)
    let s := s.deliver dom (body :: conts)
    if s.haltsOn dom cls then
      s.onFibre r fun f =>
        { f with
        st := .halted, resume := .ready, cause := 2, detail := cls, reported := false, step := 0, wait := .none
        waitCount := 0, aged := false, pcStop := none, halts := [], pcDue := 0, waiters := 0 }
    else s.endBent (((s.group r.gid).map (·.bent)).getD 0) r.gid

/-- A fibre resumed past the TRAP it halted at (R367): the return from the exception. -/
def State.eretFibre (s : State) (r : FibreRef) : State :=
  s.onFibre r fun f =>
    { f.settled with
      pc := f.pc + 12, st := .ready, cause := 0, detail := 0, reported := false, wide := false, waitCount := 0
      aged := false, step := 0 }

/-- TAKING A NON-RECOVERABLE FAULT (R317): the FAULT record with its three words, then the end of the bent. -/
def State.takeFault (s : State) (r : FibreRef) (pc mask : DWord) (kind : Nat) (w1 w2 w3 : DWord) : State :=
  let conts := s.groupCont r.gid
  let body := padTo 64 (s.fibreHeader r 16 kind conts.length pc mask ++ leBytes 8 w1.toNat ++ leBytes 8 w2.toNat ++
    leBytes 8 w3.toNat)
  let s := s.deliver (s.domOf r.gid) (body :: conts)
  s.endBent (((s.group r.gid).map (·.bent)).getD 0) r.gid

/-- Whether a queue control block has room for one more entry (R312, R365). -/
def State.ringRoom (s : State) (cb : Nat) : Bool :=
  let used := (memNat s (cb + 12) 4 + 2 ^ 32 - memNat s (cb + 16) 4) % 2 ^ 32
  used < 2 ^ (memNat s (cb + 8) 4 % 32)

/-- The 32 bytes of a fault queue entry (Table 154). -/
def FaultEntry.bytes (e : FaultEntry) (socket : Nat) (seq : Nat) : List Byte :=
  leBytes 8 e.va.toNat ++ leBytes 8 e.mask.toNat ++ leBytes 4 e.pc.toNat ++ leBytes 4 e.gid ++ leBytes 4 seq ++
  leBytes 4 (e.weave % 16 * 2 ^ 28 + (if e.engine then 2 ^ 27 else 0) + e.slot % 8 * 2 ^ 24 + e.hint * 2 ^ 20 +
    e.access * 2 ^ 16 + socket * 2 ^ 8 + e.kind)

/-- The engines of a bent changed: on its bay, or in its save area (R319, R320). -/
def State.onEngines (s : State) (gid : Nat) (f : Bay → Bay) : State :=
  match s.bentOf gid with
  | none => s
  | some b => if b.st == .saved then s.onBent b.uid fun b => { b with saved := f b.saved } else s.onBay b.bay f

/-- The wait list of what a fault entry stands for, changed. -/
def State.onWaits (s : State) (who : Faulter) (f : List Word → List Word) : State :=
  match who with
  | .group gid => s.onGroup gid fun g => { g with entries := f g.entries }
  | .copy gid bytes => s.onEngines gid fun y => { y with started := y.started.map fun c =>
      if c.gid == gid && c.bytes == bytes then { c with entries := f c.entries } else c }
  | .matrix gid => s.onEngines gid fun y => { y with mq := y.mq.zipIdx.map fun (c, i) =>
      if c.gid == gid && i == 0 then { c with entries := f c.entries } else c }
  | .request gid w l =>
    let g (q : Request) : Request :=
      if q.gid == gid && q.weave == w && q.lane == l then { q with entries := f q.entries } else q
    s.onEngines gid fun y => { y with lap := y.lap.map g, lapWait := y.lapWait.map g }

/-- Entries held and not yet posted keep their group parked as posted ones do (R312, R315). -/
def State.faultParked (s : State) (gid : Nat) : Bool :=
  (match s.group gid with
    | some g => !g.entries.isEmpty
    | none => false) ||
  (s.die (socketOf gid)).held.any fun e => !e.engine && e.gid == gid

/-- Halted fibres of a group. -/
def Group.haltedFibres (g : Group) : List Fibre :=
  g.weaves.flatMap fun p => p.2.fibres.filter fun f => f.st == .halted

/-- The place of a group's entry in the group table; none while the table is off or the group occupies no entry. -/
def State.tableAt (s : State) (gid : Nat) : Option Nat :=
  match s.group gid, s.bentOf gid with
  | some g, some b =>
    let base := (s.die (socketOf gid)).gtab.toNat
    if base = 0 || !b.holds || g.retired then none
    else
      let bay := b.bay % 12
      some (base + 64 * (if b.joiner == some gid then 768 + bay else 16 * (4 * bay + g.core) + g.slot))
  | _, _ => none

/-- The address of a group's launch record; for a device-side launch or a piece, of its pool copy (Table 177). -/
def State.recordAt (s : State) (gid : Nat) : DWord :=
  match (s.pieceOf gid).bind fun p => tfind s.tasks p.task, s.launchOf gid with
  | some t, _ => t.pool
  | none, some l => (match l.origin with
    | .device _ => l.pool
    | .queue _ _ => l.addr)
  | none, none => 0

/-- The 64 bytes of a group's entry (Table 177). -/
def State.tableEntry (s : State) (gid : Nat) : List Byte :=
  match s.group gid with
  | none => List.replicate 64 0
  | some g =>
    let space := s.spaceOf gid
    let halted := g.haltedFibres
    let flag (b : Bool) (n : Nat) : Nat := if b then 2 ^ n else 0
    let oldest := ((s.die (socketOf gid)).entries.find? fun e => e.gid == gid).map (·.pc)
    leBytes 4 gid ++
    leBytes 4 (space + flag (halted.any (·.reported)) 27 + flag (s.faultParked gid) 28 + flag (s.isSealed gid) 29 +
      flag (s.privOf gid) 30 + 2 ^ 31) ++
    leBytes 4 (s.asid space + 2 ^ 16 * halted.length) ++ leBytes 4 (s.domOf gid).id ++
    leBytes 8 (s.recordAt gid).toNat ++
    leBytes 4 (bitsAt (oldest.getD 0) 32 25) ++ leBytes 4 0 ++ leBytes 8 (s.dcbOf gid) ++ List.replicate 24 0

/-- The group's entry written (R362). -/
def State.syncTable (s : State) (gid : Nat) : State :=
  match s.tableAt gid with
  | none => s
  | some pa => s.putMem pa (s.tableEntry gid)

/-- One entry posted in the die's fault queue (R312, R313): the entry and the high-PC word, then the producer index
and the notify peg; the group table follows (R313). -/
def State.postEntry (s : State) (socket : Nat) (e : FaultEntry) : State :=
  let d := s.die socket
  let cb := d.fqcb.toNat
  let prod := memNat s (cb + 12) 4
  let count := 2 ^ (memNat s (cb + 8) 4 % 32)
  let s := s.putMem (memNat s cb 8 + 32 * (prod % count)) (e.bytes socket prod)
  let high := memNat s (cb + 40) 8
  let s := if high = 0 then s else s.putNat (high + 4 * (prod % count)) 4 (bitsAt e.pc 32 25)
  let s := s.putNat (cb + 12) 4 (prod + 1)
  let peg := memNat s (cb + 32) 8
  let s := if peg = 0 then s else s.addPeg peg 1
  let d := s.die socket
  let s := s.setDie socket { d with entries := d.entries ++ [{ e with seq := some (BitVec.ofNat 32 prod) }] }
  let s := s.countDie socket 4 1
  (s.onWaits e.who (· ++ [BitVec.ofNat 32 prod])).syncTable e.gid

/-- Held faults posted while there is room (R312). -/
def State.postHeld (s : State) (socket : Nat) : Nat → State
  | 0 => s
  | k + 1 =>
    let d := s.die socket
    match d.held with
    | [] => s
    | e :: r =>
      if d.fqcb != 0 && s.ringRoom d.fqcb.toNat then
        ((s.setDie socket { d with held := r }).postEntry socket e).postHeld socket k
      else s

/-- TAKING A RECOVERABLE FAULT (R311 to R313): the entry is posted, or held until the ring has room. -/
def State.takeEntry (s : State) (socket : Nat) (e : FaultEntry) : State :=
  let e := { e with taken := s.fresh }
  let d := s.die socket
  let s := { s with fresh := s.fresh + 1 }
  let s := s.setDie socket { d with held := d.held ++ [e] }
  (((s.countCore (s.coreOf e.gid) 12 1).postHeld socket (d.held.length + 1)).syncHeld socket).syncTable e.gid

/-- The bits of a lane that are set, enabled and not yet reported (R305). -/
def Lane.due (l : Lane) (enable : Nat) : BitVec 5 := l.sticky &&& ~~~l.reported &&& BitVec.ofNat 5 enable

/-- One STATUS record for lanes of a weave, if any bit qualifies, and the bits added to their reported masks
(R305). -/
def State.reportStatus (s : State) (r : FibreRef) (pc lanes : DWord) : State :=
  match s.group r.gid with
  | none => s
  | some g =>
    let v := g.weave r.weave
    let en := s.statusEnable (s.domOf r.gid)
    let due := (lanesOf lanes).filter fun l => (v.lane l).due en != 0
    if due.isEmpty then s
    else
      let bits := due.foldl (fun b l => b ||| (v.lane l).due en) 0
      let body := padTo 64 (s.fibreHeader r 17 0 0 pc (maskOf due) ++ leBytes 4 bits.toNat)
      let s := s.deliver (s.domOf r.gid) [body]
      due.foldl (fun s l => s.onLane r.gid r.weave l fun x =>
        { x with reported := x.reported ||| x.due en }) s

/-- Lanes that a barrier counts: those live in the group, or in the bent and its joiner stream (R31). -/
def State.expected (s : State) (gid : Nat) (ofBent : Bool) : Nat :=
  match s.group gid, s.bentOf gid with
  | some g, some b =>
    if ofBent then (b.groups.foldl (fun n k => n + ((s.group k).map Group.liveCount).getD 0) 0) else g.liveCount
  | _, _ => 0

/-- A barrier's state. -/
def State.barrier (s : State) (gid : Nat) (ofBent : Bool) (n : Nat) : Bar :=
  if ofBent then ((s.bentOf gid).map fun b => tget {} b.bars n).getD {}
  else ((s.group gid).map fun g => tget {} g.bars n).getD {}

/-- A barrier's state written. -/
def State.setBarrier (s : State) (gid : Nat) (ofBent : Bool) (n : Nat) (x : Bar) : State :=
  if ofBent then
    match s.bentOf gid with
    | some b => s.onBent b.uid fun b => { b with bars := tput {} b.bars n x }
    | none => s
  else s.onGroup gid fun g => { g with bars := tput {} g.bars n x }

/-- The groups that take part in a barrier. -/
def State.barGroups (s : State) (gid : Nat) (ofBent : Bool) : List Nat :=
  if ofBent then ((s.bentOf gid).map (·.groups)).getD [] else [gid]

/-- Fibres of a weave parked at a barrier. -/
def Weave.parkedAt (v : Weave) (ofBent : Bool) (n : Nat) : List Fibre :=
  v.fibres.filter fun f => f.isParked && f.wait == .bar ofBent n

/-- A barrier's edge (R194): from the accesses of lanes, and at wider scopes from those that they have fenced, to theirs
after it. -/
def State.barrierEdge (s : State) (lanes : List Actor) (scope : Nat) : State :=
  s.edge scope [] (lanes.map .actor ++ lanes.map .fenced) (lanes.map .actor)

/-- A barrier's completion (R31, R194, R305): the status of the lanes that take part is reported by weave, the fibres go on,
a new generation begins. -/
def State.completeBarrier (s : State) (gid : Nat) (ofBent : Bool) (n : Nat) : State :=
  let gids := s.barGroups gid ofBent
  let s := gids.foldl (fun s k =>
    match s.group k with
    | none => s
    | some g => g.weaves.foldl (fun s p =>
        match p.2.parkedAt ofBent n with
        | [] => s
        | f :: r => s.reportStatus ⟨k, p.1, f.id⟩ f.pc ((f :: r).foldl (fun m x => m ||| x.lanes) 0)) s) s
  let done (f : Fibre) : Fibre := if f.isParked && f.wait == .bar ofBent n then f.complete else f
  let lanes := gids.flatMap fun k => match s.group k with
    | none => []
    | some g => g.weaves.flatMap fun p =>
        (p.2.parkedAt ofBent n).flatMap fun f => (lanesOf f.lanes).map fun l => s.laneActor k p.1 l
  let s := s.barrierEdge lanes (if ofBent then 4 else 3)
  let s := gids.foldl (fun s k => s.onGroup k fun g =>
    { g with weaves := g.weaves.map fun (w, v) => (w, { v with fibres := v.fibres.map done }) }) s
  let b := s.barrier gid ofBent n
  s.setBarrier gid ofBent n { count := 0, gen := b.gen + 1, age := none }

/-- A barrier that is partly arrived and complete, completed (R31). -/
def State.checkBarrier (s : State) (gid : Nat) (ofBent : Bool) (n : Nat) : State :=
  let b := s.barrier gid ofBent n
  if 0 < b.count && b.count == s.expected gid ofBent then s.completeBarrier gid ofBent n else s

/-- Every barrier of a group and its bent tested after its live lanes have changed (R31, R133). -/
def State.checkBarriers (s : State) (gid : Nat) : State :=
  let s := (List.range 16).foldl (fun s n => s.checkBarrier gid false n) s
  (List.range 4).foldl (fun s n => s.checkBarrier gid true n) s

/-- A fibre's lanes arrive at a barrier and the fibre parks (R31). -/
def State.arrive (s : State) (r : FibreRef) (ofBent : Bool) (n len : Nat) : State :=
  match s.fibre r with
  | none => s
  | some f =>
    let b := s.barrier r.gid ofBent n
    let s := s.onFibre r fun f =>
      { f with st := .parked, wait := .bar ofBent n, len := len, waitCount := 0, aged := false, replay := 0 }
    let s := s.setBarrier r.gid ofBent n
      { b with count := b.count + (lanesOf f.lanes).length, age := some (b.age.getD 0) }
    s.checkBarrier r.gid ofBent n

/-- Live lanes that have not arrived, by weave and fibre, as the continuations of a BARTIME record (R302). -/
def State.absentees (s : State) (gid : Nat) (ofBent : Bool) (n : Nat) : List (List Byte) :=
  let entries := (s.barGroups gid ofBent).flatMap fun k =>
    match s.group k with
    | none => []
    | some g => g.weaves.flatMap fun (w, v) =>
        (v.fibres.filter fun f => !(f.isParked && f.wait == .bar ofBent n)).map fun f =>
          padTo 8 [BitVec.ofNat 8 w, BitVec.ofNat 8 f.id] ++ leBytes 8 f.pc.toNat ++ leBytes 8 f.lanes.toNat
  let pairs (l : List (List Byte)) : List (List Byte) :=
    (l.zipIdx.filter fun p => p.2 % 2 == 0).map fun (e, i) => continuation (e ++ l.getD (i + 1) [])
  pairs entries

/-- BARTIME (R33): every fibre parked at the barrier takes the trap at its BAR or BARB, its arrivals are withdrawn and
a new generation begins. -/
def State.timeoutBarrier (s : State) (gid : Nat) (ofBent : Bool) (n : Nat) : State :=
  let b := s.barrier gid ofBent n
  let info := leBytes 4 n
  let info := info ++ leBytes 4 b.count ++ leBytes 4 (s.expected gid ofBent)
  let conts := s.absentees gid ofBent n
  let refs := (s.barGroups gid ofBent).flatMap fun k =>
    match s.group k with
    | none => []
    | some g => g.weaves.flatMap fun (w, v) => (v.parkedAt ofBent n).map fun f => (FibreRef.mk k w f.id, f.lanes)
  let s := s.setBarrier gid ofBent n { count := 0, gen := b.gen + 1, age := none }
  refs.foldl (fun s p => s.takeTrap p.1 p.2 8 (if ofBent then 1 else 0) info conts) s

/-- Whether a group's bent is on its cores: only then do its waits end (R323). -/
def State.isResident (s : State) (gid : Nat) : Bool := ((s.bentOf gid).map fun b => b.st == .resident).getD false

/-- Log capacity of a group (R59). -/
def Group.logCap (g : Group) : Nat := g.logStore + g.logSpill

/-- Slots of a group's log that are not FREE. -/
def Group.logLive (g : Group) : Nat := g.nodes.length

/-- A cut token's count lowered; the token leaves at zero (R283). -/
def Group.lowerToken (g : Group) (t : Word) : Group :=
  { g with cuts := (g.cuts.map fun p => if p.1 = t then (p.1, p.2 - 1) else p).filter fun p => p.2 != 0 }

/-- The counts of posted tokens lowered for the STOLEN records among these (R283, R285). -/
def Group.lowerFor (g : Group) (rs : List ChoiceRec) : Group :=
  rs.foldl (fun g r => if r.stolen && g.cuts.any (fun p => p.1 == r.token) then g.lowerToken r.token else g) g

/-- Whether the group's launch and core still let its fibres issue: placed, not stopped, not parked by a fault
(R20, R303). -/
def State.canIssue (s : State) (gid : Nat) : Bool :=
  match s.bentOf gid with
  | some b => b.st == .resident && !s.faultParked gid
  | none => false

end Sys2Proof.Machine
end

