-- ==== Sys2Proof/Machine/Gauges.lean ====
section
/-! DEFINITION. What watches and announces work: sinks and their records (R333 to R338), gauges
and the halts they take (R324 to R331). -/
namespace Sys2Proof.Machine
open Sys2Proof

/-- The group's entry cleared (R362). -/
def State.clearTable (s : State) (gid : Nat) : State :=
  match s.tableAt gid with
  | none => s
  | some pa => s.putMem pa (List.replicate 64 0)

/-- The 32 bytes of a sample or trace record (Table 165). -/
def sinkRecord (pid tid : Word) (gid position kind : Nat) (pc v : DWord) : List Byte :=
  leBytes 4 pid.toNat ++ leBytes 4 tid.toNat ++ leBytes 4 gid ++ leBytes 4 position ++
  leBytes 8 (pc.toNat % 2 ^ 57 + kind * 2 ^ 60) ++ leBytes 8 v.toNat

/-- The sink of a die: the trace sink or the sample sink. -/
def Die.sink (d : Die) (isTrace : Bool) : Option Sink := if isTrace then d.trace else d.sample

/-- The sink of a die written. -/
def Die.setSink (d : Die) (isTrace : Bool) (k : Sink) : Die :=
  if isTrace then { d with trace := some k } else { d with sample := some k }

/-- Records a ring holds. -/
def State.sinkCount (s : State) (k : Sink) : Nat := 2 ^ (memNat s (k.pa + 8) 4 % 32)

/-- Records of a ring not yet consumed. -/
def State.sinkUsed (s : State) (k : Sink) : Nat :=
  (memNat s (k.pa + 12) 4 + 2 ^ 32 - memNat s (k.pa + 16) 4) % 2 ^ 32

/-- One record stored in a sink's ring, which has room, and the producer index (R335). -/
def State.sinkStore (s : State) (k : Sink) (body : List Byte) : State :=
  let prod := memNat s (k.pa + 12) 4
  let off := 32 * (prod % s.sinkCount k)
  let s := s.putMem ((k.pins.getD (off / 4096 + 1) (0, 0)).2 + off % 4096) body
  s.putNat (k.pa + 12) 4 (prod + 1)

/-- A record dropped and counted (R335, R336). -/
def State.sinkDrop (s : State) (socket : Nat) (isTrace : Bool) (k : Sink) : State :=
  let s := s.countDie socket 15 1
  let s := s.putNat (k.pa + 20) 4 (memNat s (k.pa + 20) 4 + 1)
  s.setDie socket ((s.die socket).setSink isTrace { k with drops := true })

/-- The status of a sink's control block set (Table 164). -/
def State.sinkStatus (s : State) (k : Sink) (status : Nat) : State :=
  s.putNat (k.pa + 24) 4 (memNat s (k.pa + 24) 4 / 4 * 4 + status)

/-- A sink that has lost a pinned page stops (R336). -/
def State.sinkLose (s : State) (socket : Nat) (isTrace : Bool) : State :=
  match (s.die socket).sink isTrace with
  | none => s
  | some k =>
    if k.lost then s
    else (s.setDie socket ((s.die socket).setSink isTrace { k with lost := true })).sinkStatus k 2

/-- A sink whose page-table entries have changed stops (R336). -/
def State.loseMoved (s : State) (socket : Nat) (isTrace : Bool) : State :=
  if (((s.die socket).sink isTrace).map fun k => k.moved && !k.lost).getD false then s.sinkLose socket isTrace else s

/-- A record written to a sink, or dropped; the first one after a drop follows a loss record (R335 to R337). -/
def State.sinkPut (s : State) (socket : Nat) (isTrace : Bool) (body : List Byte) : State :=
  let s := s.loseMoved socket isTrace
  match (s.die socket).sink isTrace with
  | none => s.countDie socket 15 1
  | some k =>
    let full (s : State) : Bool := s.sinkCount k ≤ s.sinkUsed k
    if k.lost || full s then s.sinkDrop socket isTrace k
    else
      let loss := sinkRecord 0 0 0 (socket * 2 ^ 8) 3 0 (BitVec.ofNat 64 (memNat s (k.pa + 20) 4))
      let s := if k.drops then s.sinkStore k loss else s
      let k := { k with drops := false }
      let s := s.setDie socket ((s.die socket).setSink isTrace k)
      if full s then s.sinkDrop socket isTrace k else s.sinkStore k body

/-- The position word of a record about a group's core (Table 165), `hi` its top byte and `mid` the next. -/
def State.position (s : State) (gid hi mid : Nat) : Nat :=
  hi * 2 ^ 24 + mid * 2 ^ 16 + socketOf gid * 2 ^ 8 + s.bayOf gid % 12 * 16 +
    ((s.group gid).map (·.core)).getD 0

/-- The comparison of a gauge (Table 160). -/
def Gauge.holds (g : Gauge) (v : DWord) : Bool :=
  match bitsAt g.ctrl 7 3 with
  | 0 => v == g.opA
  | 1 => v != g.opA
  | 2 => g.opA ≤ v && v ≤ g.opB
  | 3 => v < g.opA || g.opB < v
  | 4 => (v ^^^ g.opA) &&& g.opB == 0
  | _ => false

/-- Whether a gauge matches an event of a lane (R326). -/
def Gauge.fires (g : Gauge) (r : FibreRef) (lane source : Nat) (v : DWord) : Bool :=
  g.ctrl.getLsbD 13 && bitsAt g.ctrl 0 4 == source && g.lanes.getLsbD lane &&
  (!g.ctrl.getLsbD 14 || g.gid.toNat == r.gid) && (!g.ctrl.getLsbD 15 || bitsAt g.ctrl 16 6 == r.fid) && g.holds v

/-- A lane event: the lane, the source, the value (Table 159). -/
abbrev LaneEvent := Nat × Nat × DWord

/-- One match of a gauge taken: the hit count, a trace record or a halt still to apply (R326, R337). -/
def State.gaugeHit (s : State) (r : FibreRef) (pc : DWord) (i : Nat) (noHalt : Bool) (e : LaneEvent) :
    State × List (Nat × Nat × Nat) :=
  let key := s.coreOf r.gid
  let c := s.coreAt key
  let g := tget {} c.gauges i
  let s := s.setCore key { c with gauges := tput {} c.gauges i { g with hits := g.hits + 1 } }
  let s := s.countCore key 15 1
  let action := bitsAt g.ctrl 10 3
  if action == 5 then
    let n := s.nameOf r.gid
    (s.sinkPut (socketOf r.gid) true
      (sinkRecord n.1 n.2 r.gid (s.position r.gid (i * 16 + e.2.1) e.1) 2 pc e.2.2), [])
  else (s, if 1 ≤ action && action ≤ 4 && !noHalt then [(e.1, i, action)] else [])

/-- The events of one issue tested by the core's gauges, in lane and gauge order (R325, R326); what is left is the
halts. With `noHalt`, PC events take none (R327). -/
def State.gaugeEvents (s : State) (r : FibreRef) (pc : DWord) (noHalt : Bool) (evs : List LaneEvent) :
    State × List (Nat × Nat × Nat) :=
  let gauges := (s.coreAt (s.coreOf r.gid)).gauges
  if gauges.isEmpty then (s, [])
  else
    (List.range 64).foldl (fun acc l =>
      gauges.foldl (fun acc p =>
        (evs.filter fun e => e.1 == l && p.2.fires r l e.2.1 e.2.2).foldl (fun acc e =>
          let (t, h) := acc.1.gaugeHit r pc p.1 (noHalt && e.2.1 == 7) e
          (t, acc.2 ++ h)) acc) acc) (s, [])

/-- The PC events of lanes that have issued an instruction (R325); their halts were taken before it (R327). -/
def State.pcEvents (s : State) (r : FibreRef) (pc lanes : DWord) : State :=
  (s.gaugeEvents r pc true ((lanesOf lanes).map fun l => (l, 7, pc))).1

/-- The PC events of the lanes halted before an instruction, where it ends in a fault (R325). -/
def State.payEvents (s : State) (r : FibreRef) (f : Fibre) : State :=
  if f.pcDue = 0 then s else (s.pcEvents r f.pc f.pcDue).onFibre r fun f => { f with pcDue := 0 }

/-- The halts that PC events of lanes bring: lane, gauge, action (R326, R327). -/
def State.pcHalts (s : State) (r : FibreRef) (pc lanes : DWord) : List (Nat × Nat × Nat) :=
  let gauges := (s.coreAt (s.coreOf r.gid)).gauges
  (lanesOf lanes).flatMap fun l => gauges.filterMap fun p =>
    if p.2.fires r l 7 pc && 1 ≤ bitsAt p.2.ctrl 10 3 && bitsAt p.2.ctrl 10 3 ≤ 4 then
      some (l, p.1, bitsAt p.2.ctrl 10 3)
    else none

/-- A fibre put into the halted state, its state kept as its resume state (R328, R329). `stop` is the PC of the PC event
that halted it: its first issue there takes no PC halt (R327). -/
def Fibre.halt (f : Fibre) (cause detail : Nat) (stop : Option DWord := none) : Fibre :=
  if f.st == .halted then f
  else
    { f with
      resume := f.st, st := .halted, cause := cause, detail := detail, reported := false, step := 0, waitCount := 0
      aged := false, pcStop := stop }

/-- Every fibre of a weave halted. -/
def Weave.haltAll (v : Weave) (cause detail : Nat) (stop : Option DWord := none) : Weave :=
  { v with fibres := v.fibres.map fun f => f.halt cause detail stop }

/-- Every fibre of a group halted; while such a group or bent halt holds, its barrier time-outs stop (R330). -/
def Group.haltAll (g : Group) (cause detail : Nat) (stop : Option DWord := none) : Group :=
  { g with weaves := g.weaves.map fun p =>
      (p.1, { p.2 with fibres := p.2.fibres.map fun f => { f.halt cause detail stop with wide := true } }) }

/-- Whether a group or bent halt holds a group (R330). -/
def Group.isHeld (g : Group) : Bool := g.weaves.any fun p => p.2.fibres.any (·.wide)

/-- One halt applied: of a lane, a weave, a group or a bent (R327, R328). The skid that Table 162 allows is not
used. -/
def State.applyHalt (s : State) (gid w : Nat) (h : Nat × Nat × Nat) (stop : Option DWord := none) : State :=
  match h.2.2 with
  | 1 =>
    s.reweave gid w fun v =>
      match v.fibres.find? fun f => f.lanes.getLsbD h.1 with
      | some f => (v.detach f (laneBit h.1) fun x => x.halt 1 h.2.1 stop).1
      | none => v
  | 2 => s.onWeave gid w fun v => v.haltAll 1 h.2.1 stop
  | 3 => s.onGroup gid fun g => g.haltAll 1 h.2.1 stop
  | _ =>
    match s.bentOf gid with
    | some b => b.groups.foldl (fun s k => s.onGroup k fun g => g.haltAll 1 h.2.1 stop) s
    | none => s

/-- Whether a fibre is between instructions. -/
def Fibre.between (f : Fibre) : Bool := f.replay == 0 && !f.isParked && !f.isRefining

/-- The halts of a weave that take effect now (R327): those of lanes whose instructions have completed, and every wider one. A
fibre that refines, waits or is replayed is then halted with that as its resume state and completes its instruction
halted (R328), so that the others stop within the bounds of Table 162. -/
def State.settleHalts (s : State) (gid w : Nat) : State :=
  match s.group gid with
  | none => s
  | some g =>
    let isDue (f : Fibre) (h : Nat × Nat × Nat) : Bool := f.between || h.2.2 != 1
    let due := (g.weave w).fibres.flatMap fun f => f.halts.filter (isDue f)
    if due.isEmpty then s
    else
      let s := s.onWeave gid w fun v =>
        { v with fibres := v.fibres.map fun f => { f with halts := f.halts.filter fun h => !isDue f h } }
      (due.distinct.foldl (fun s h => s.applyHalt gid w h) s).syncTable gid

/-- The halts of lanes that have completed an instruction which other lanes of their fibre replay (R202, R327): a lane
halt takes the lane out at the next instruction `fall`, unless it still waits there with them (R214). -/
def State.settleEarly (s : State) (r : FibreRef) (fall : DWord) : State :=
  match s.fibre r with
  | none => s
  | some f =>
    let isDue (f : Fibre) (h : Nat × Nat × Nat) : Bool := !f.replay.getLsbD h.1 && (h.2.2 != 1 || f.wait == .none)
    let due := f.halts.filter (isDue f)
    if due.isEmpty then s
    else
      let s := s.onFibre r fun f => { f with halts := f.halts.filter fun h => !isDue f h }
      let apply (s : State) (h : Nat × Nat × Nat) : State :=
        if h.2.2 == 1 then
          s.reweave r.gid r.weave fun v => match v.fibre r.fid with
            | some f =>
              if f.lanes.getLsbD h.1 then
                (v.detach f (laneBit h.1) fun x => Fibre.halt { x.settled with pc := fall } 1 h.2.1).1
              else v
            | none => v
        else s.applyHalt r.gid r.weave h
      (due.distinct.foldl apply s).syncTable r.gid

/-- One recoverable fault of a lane access: the lane, the address, the kind, the hint, the access code. -/
structure Late where
  lane : Nat
  va   : DWord
  kind : Nat
  hint : Nat
  acc  : Nat
deriving DecidableEq, Repr

/-- The entries of one issue: one for each 4 KiB page, by its lowest lane (R313). -/
def lateEntries (f : Fibre) (r : FibreRef) (late : List Late) : List FaultEntry :=
  let pages := (late.map fun l => l.va.toNat / 4096).distinct
  let groups := pages.map fun p => late.filter fun l => l.va.toNat / 4096 == p
  let lead (g : List Late) : Late := (bestOf (fun a b => decide (a.lane < b.lane)) g).getD ⟨0, 0, 1, 0, 1⟩
  (sortBy (fun a b => decide ((lead a).lane < (lead b).lane)) groups).map fun g =>
    let l := lead g
    { va := l.va, mask := maskOf (g.map (·.lane)), pc := f.pc, gid := r.gid, weave := r.weave, engine := false
      slot := f.slot.getD 0, hint := l.hint, access := l.acc, kind := l.kind, who := .group r.gid, taken := 0 }

/-- The recoverable faults of one issue taken: their entries, and the group parked (R311 to R313). -/
def State.takeLate (s : State) (r : FibreRef) (late : List Late) : State :=
  match s.fibre r with
  | none => s
  | some f =>
    ((lateEntries f r late).foldl (fun s e => s.takeEntry (socketOf r.gid) e) s).syncTable r.gid

end Sys2Proof.Machine
end

