-- ==== Sys2Proof/Machine/Pieces.lean ====
section
/-! DEFINITION. Pieces of range tasks: their creation and splitting (R244 to R246), and the speculative version of a
sealed piece (R248, R249). -/
namespace Sys2Proof.Machine
open Sys2Proof

/-- Grains of a range, the last one perhaps short (R246). -/
def grainsOf (first stop grain : Nat) : Nat := if stop ≤ first then 0 else (stop - first + grain - 1) / grain

/-- A piece of a task created: a bent of one group that waits for placement (R244), a fork edge into it (R193). -/
def State.newPiece (s : State) (task first stop : Nat) : State :=
  match tfind s.tasks task with
  | none => s
  | some t =>
    let b : Bent :=
      { uid := s.uids, number := t.bent, launch := t.launch, dcb := t.dcb, socket := t.socket
        since := s.cycle, piece := some { task := task, first := first, next := first, stop := stop } }
    { (s.edge 10 [] [.unit 3 task] [.bent s.uids]) with
      uids := s.uids + 1, bents := tins s.bents s.uids b
      tasks := tins s.tasks task { t with pieces := t.pieces ++ [s.uids] } }

/-- Where a range with `c` grains is cut (R246). -/
def splitPoint (first grain c : Nat) : Nat := first + grain * (c - c / 2)

/-- A piece that needs a 2,049th line (R249): the bent stops with its version discarded, and its original range is
re-created as two pieces; a piece of one chunk takes SEAL-FULL instead. -/
def State.sealAbort (s : State) (r : FibreRef) (line : Nat) : State :=
  match s.bentOf r.gid with
  | none => s
  | some b =>
    match b.piece with
    | none => s
    | some p =>
      let grain := ((tfind s.tasks p.task).map fun t => taskGrain t.record).getD 1
      let c := grainsOf p.first p.stop grain
      if c < 2 then
        match s.fibre r with
        | some f => s.takeFault r f.pc (if f.replay = 0 then f.lanes else f.replay) 7 (BitVec.ofNat 64 line) 0 0
        | none => s
      else
        let cut := splitPoint p.first grain c
        let s := (s.stopBent b.uid).newPiece p.task p.first cut
        s.newPiece p.task cut p.stop

/-- Lines of a version (R248). -/
def Piece.lines (p : Piece) : Nat := (p.version.map fun c => c.1 / 128).distinct.length

/-- Bytes as a group sees them: a sealed piece sees its version over memory (R248). -/
def State.sealedView (s : State) (gid pa : Nat) (bs : List Byte) : List Byte :=
  match s.pieceOf gid with
  | none => bs
  | some p => bs.zipIdx.map fun (b, i) => tget b p.version (pa + i)

/-- Bytes stored into the version of a sealed piece; the piece as it would be. -/
def Piece.store (p : Piece) (pa : Nat) (bs : List Byte) : Piece :=
  { p with version := bs.zipIdx.foldl (fun t c => tins t (pa + c.2) c.1) p.version }

end Sys2Proof.Machine
end

