-- ==== Sys2Proof/Machine/Operands.lean ====
section
/-! DEFINITION. The issue of one instruction: its lanes (R131), its checks at issue in their order (R120, R299), register
operands (R41 to R43), streams (R212), the places memory operands name (R165 to R167, R200, R201), the accesses, and the
end of the instruction (R202, R327). -/
namespace Sys2Proof.Machine
open Sys2Proof

/-- An instruction under way: it goes on in a state, or it ends in the state thrown. -/
abbrev Ex := StateT State (Except State)

/-- What an instruction sees as it issues: everything is read here before anything is written (R131). `act` are the
lanes that run, `wr` those of them whose predicate holds. -/
structure Ctx where
  s0     : State
  r      : FibreRef
  m      : Major
  o      : Op
  g      : Group
  v      : Weave
  f      : Fibre
  act    : DWord
  wr     : DWord
  len    : Nat
  joiner : Bool
  priv   : Bool
  space  : Nat
  bent   : Nat
  lend   : DWord := 0

/-- Socket of the issuing die. -/
def Ctx.socket (c : Ctx) : Nat := socketOf c.r.gid
/-- Whose TLBs the instruction goes through. -/
def Ctx.agent (c : Ctx) : Agent := c.s0.agentOf c.r.gid
/-- A lane as it was at issue. -/
def Ctx.lane (c : Ctx) (l : Nat) : Lane := c.v.lane l
/-- The address after the instruction. -/
def Ctx.fall (c : Ctx) : DWord := c.f.pc + BitVec.ofNat 64 c.len
/-- The lanes that write, ascending. -/
def Ctx.writers (c : Ctx) : List Nat := lanesOf c.wr
/-- The lanes that compute and access: the lowest writing lane under UN = 1 (R117). -/
def Ctx.doers (c : Ctx) : List Nat := if c.o.un then c.writers.take 1 else c.writers
/-- Slot classes of the instruction. -/
def Ctx.slots (c : Ctx) : List Cls × List Cls × List Cls × List Cls := c.m.slots c.o.mod

/-- A predicate register of a lane; P7 reads 1 (R41). -/
def Lane.pred (x : Lane) (i : Nat) : Bool := i == 7 || x.p.getLsbD i

/-- A predicate register written; a write to P7 is discarded (R41). -/
def Lane.setPred (x : Lane) (i : Nat) (b : Bool) : Lane :=
  if i < 7 then { x with p := (x.p &&& ~~~((1 : BitVec 7) <<< i)) ||| (if b then (1 : BitVec 7) <<< i else 0) } else x

/-- An entry of a lane's main file. -/
def Lane.gAt (x : Lane) (i : Nat) : Word := tget 0 x.g i
/-- An entry of a lane's main file written. -/
def Lane.setG (x : Lane) (i : Nat) (v : Word) : Lane := { x with g := tput 0 x.g i v }
/-- An X register; one never written is the exact point 0 (R47). -/
def Lane.xAt (x : Lane) (i : Nat) : XReg := tget { exact := true } x.x i
/-- An X register written. -/
def Lane.setX (x : Lane) (i : Nat) (v : XReg) : Lane := { x with x := tput { exact := true } x.x i v }
/-- A K register of a group. -/
def Group.kAt (g : Group) (i : Nat) : Word := tget 0 g.k i
/-- A K register written. -/
def Group.setK (g : Group) (i : Nat) (v : Word) : Group := { g with k := tput 0 g.k i v }
/-- An A register of a group. -/
def Group.aAt (g : Group) (i : Nat) : DWord := tget 0 g.a i
/-- An A register written. -/
def Group.setA (g : Group) (i : Nat) (v : DWord) : Group := { g with a := tput 0 g.a i v }

/-- What an instruction sees, from the fibre picked to issue; none when there is no such fibre. -/
def ctxOf (m : Major) (o : Op) (s : State) : Option Ctx :=
  match s.cur with
  | none => none
  | some r =>
    match s.group r.gid with
    | none => none
    | some g =>
      match (g.weave r.weave).fibre r.fid with
      | none => none
      | some f =>
        let v := g.weave r.weave
        let act := if f.replay = 0 then f.lanes else f.replay
        some { s0 := s, r := r, m := m, o := o, g := g, v := v, f := f, act := act
               wr := maskOf ((lanesOf act).filter fun l => ((v.lane l).pred o.pred.toNat) != o.neg)
               len := o.bytes, joiner := s.isJoiner r.gid, priv := s.privOf r.gid, space := s.spaceOf r.gid
               bent := g.bent }

/-- Whether a lane's X register waits for the answer of an XREF (R75, R157). -/
def Bay.awaits (y : Bay) (gid w l i : Nat) : Bool :=
  (y.lap ++ y.lapWait).any fun q => q.gid == gid && q.weave == w && q.lane == l && (match q.kind with
    | .xref xd _ => xd == i
    | _ => false)

/-- Whether an operand of the instruction is an X register that waits for an XREF in a lane that runs: the scoreboard's
wait (R157). -/
def Ctx.scoreboard (c : Ctx) : Bool :=
  let y := c.s0.bayAt (c.s0.bayOf c.r.gid)
  if y.lap.isEmpty && y.lapWait.isEmpty then false
  else [c.o.d, c.o.a, c.o.b, c.o.c].any fun x => match x with
    | .x i => (lanesOf c.act).any fun l => y.awaits c.r.gid c.r.weave l i.toNat
    | _ => false

/-- The instruction waits at issue: nothing has happened (R388). -/
def Ctx.stall {α : Type} (c : Ctx) : Ex α := fun _ => .error { c.s0 with cur := none }

/-- The state an instruction under way ends in. -/
def ended (x : Except State (Unit × State)) : State :=
  match x with
  | .ok p => p.2
  | .error t => t

/-- One instruction issued by the picked fibre: it always gives a next state, be it that of a trap or a fault. -/
def issue (m : Major) (o : Op) (s : State) (k : Ctx → Ex Unit) : Host.Outcome State Fault Refusal :=
  match ctxOf m o s with
  | none => .fault .noIssuingFibre
  | some c => .next (if c.scoreboard then { s with cur := none } else ended (k c { s with cur := none }))

/-- A trap taken by the whole issuing fibre, or at a replay by the lanes of the replay mask (R299). -/
def Ctx.trap {α : Type} (c : Ctx) (cls cause : Nat) (info : List Byte) : Ex α :=
  fun s => .error ((s.pcEvents c.r c.f.pc (c.act ||| c.f.pcDue)).takeTrap c.r c.act cls cause info [])

/-- The words of the instruction as ILLEGAL and PRIV records carry them (Table 151). -/
def wordsInfo (ws : List Word) : List Byte := padTo 20 (ws.flatMap fun w => leBytes 4 w.toNat)

/-- ILLEGAL with a cause. -/
def Ctx.illegal {α : Type} (c : Ctx) (cause : Nat) : Ex α := c.trap 1 cause (wordsInfo (encodeOp c.m c.o))

/-- ILLEGAL with the lowest of some causes, if there is one. -/
def Ctx.refuse (c : Ctx) (causes : List Nat) : Ex Unit :=
  match lowestCause causes with
  | some n => c.illegal n
  | none => pure ()

/-- PRIV: only a privileged group goes on (R356). -/
def Ctx.privileged (c : Ctx) : Ex Unit :=
  if c.priv then pure () else c.trap 2 0 (wordsInfo (encodeOp c.m c.o))

/-- A non-recoverable fault of the group (R317). -/
def Ctx.fail {α : Type} (c : Ctx) (kind : Nat) (w1 w2 w3 : DWord) : Ex α :=
  fun s => .error ((s.payEvents c.r c.f).takeFault c.r c.f.pc c.act kind w1 w2 w3)

/-- Bytes of the choice areas of a weave in use (R272). -/
def Weave.choiceBytes (v : Weave) : Nat :=
  v.lanes.foldl (fun n p => n + 96 * p.2.recs.length + 16 * p.2.kerf.length) (16 * v.size)

/-- The backing area of a weave's choice stacks reached, once they pass the resident part of 16 KiB with `more` bytes: the
fault RESIDENT where the area is not kept mapped, an open choice of the run (R272, R317, log entry 37). Its address is a free
value. -/
def Ctx.backing (c : Ctx) (more : Nat) : Ex Unit := do
  if c.v.choiceBytes + more ≤ 16384 then pure ()
  else
    let n ← modifyGet fun s => s.choose 2
    if n = 1 then
      let va ← modifyGet State.free
      c.fail 10 (va &&& 0x01FFFFFFFFFFFFFF) 0 0
    else pure ()

/-- ALIGN of the lowest misaligned lane (Table 151), when there is one. -/
def Ctx.aligned (c : Ctx) (bad : List (Nat × DWord × Nat)) : Ex Unit :=
  match bestOf (fun a b => decide (a.1 < b.1)) bad with
  | none => pure ()
  | some (_, a, n) => c.trap 3 0 (leBytes 8 a.toNat ++ leBytes 4 n)

/-- Whether a slot takes 64 bits. -/
def wideSlot (l : List Cls) : Bool := l.contains .g2 || l.contains .k2

/-- The four slots of an instruction with what they accept, in order A, B, C, D (R212). -/
def Ctx.each (c : Ctx) : List (List Cls × Opnd × Bool × Bool) :=
  let s := c.slots
  let r := c.m.srcs
  let w := c.m.dests
  [(s.2.1, c.o.a, r.2.1, w.2.1), (s.2.2.1, c.o.b, r.2.2.1, w.2.2.1), (s.2.2.2, c.o.c, r.2.2.2, w.2.2.2),
   (s.1, c.o.d, r.1, w.1)]

/-- Registers that a slot names from its number on. -/
def slotRegs (c : Ctx) (l : List Cls) : Nat :=
  if l.contains .gv then 4 * 2 ^ bitsAt c.o.mod 0 2 else if wideSlot l then 2 else 1

/-- Causes 9 and 11 of one slot (R42, R148, R149, R212, R250). A Q that is neither read nor written through the slot, as
in SBIND, needs no binding. -/
def slotRefusals (c : Ctx) (e : List Cls × Opnd × Bool × Bool) : List Nat :=
  match e.2.1 with
  | .g i =>
    (if c.f.wb + i.toNat + slotRegs c e.1 ≤ c.g.gBudget then [] else [9]) ++
    (if wideSlot e.1 && i.toNat % 2 == 1 then [11] else [])
  | .x i => if i.toNat < c.g.xBudget then [] else [9]
  | .k i => if wideSlot e.1 && i.toNat % 2 == 1 then [11] else []
  | .q i =>
    if !e.2.2.1 && !e.2.2.2 then [] else
    c.doers.flatMap fun l =>
      match tfind (c.lane l).q i.toNat with
      | none => [9]
      | some q =>
        let isWrite := q.access.getLsbD 8
        let sealed_ := e.2.2.2 && c.s0.isSealed c.r.gid && bitsAt q.base 60 4 == 0 && 8 ≤ bitsAt q.access 9 4
        if (e.2.2.1 && isWrite) || (e.2.2.2 && !isWrite) || (e.2.2.2 && bitsAt q.base 60 4 == 1) || sealed_ then [11]
        else []
  | _ => []

/-- The checks of causes 9 and 11 that every instruction makes, with those of its own entry (R120). -/
def Ctx.check (c : Ctx) (own : List Nat) : Ex Unit := c.refuse (c.each.flatMap (slotRefusals c) ++ own)

/-- What finding a place gives: the place, recoverable faults (address, kind, hint), or a fault. -/
inductive Found where
  | ok (l : Loc)
  | late (l : List (DWord × Nat × Nat))
  | bad (kind : Nat) (w1 w2 w3 : DWord)
deriving DecidableEq, Repr

/-- The group of a bent in whose data part some bytes of A-space lie, and the offset there (R166, R167). -/
def State.dataAt (s : State) (bent off n : Nat) : Option (Nat × Nat) :=
  match s.bent bent with
  | none => none
  | some b => b.groups.findSome? fun k =>
      match s.group k with
      | none => none
      | some g =>
        if !g.retired && g.logical ≤ off && off + n ≤ g.logical + g.dataLen then some (k, off - g.logical) else none

/-- The place of `n` bytes at an offset of a typed space (R166, R167). -/
def State.typedAt (s : State) (bent space off n : Nat) : Found :=
  let bad : Found := .bad 1 (BitVec.ofNat 64 space) (BitVec.ofNat 64 off) 0
  let claim := ((s.bent bent).map (·.claim)).getD false
  match space with
  | 1 => if claim && off + n ≤ Config.wStoreBytes then .ok (.wst off) else bad
  | 3 => if claim && off + n ≤ Config.cStoreBytes then .ok (.cst off) else bad
  | _ => match s.dataAt bent off n with
    | some (k, o) => .ok (.data k o)
    | none => bad

/-- A place found in one page. -/
def foundIn (x : Except AccErr Nat) (va : DWord) (n : Nat) : Found :=
  match x with
  | .ok pa => .ok (.phys [(pa, n)])
  | .error (.page kd h) => .late [(va, kd, h)]
  | .error (.fault kd w1 w2 w3) => .bad kd w1 w2 w3

/-- The places of two adjoining parts taken together: a fault of either, else every page missing. -/
def Found.join : Found → Found → Found
  | .bad k a b d, _ => .bad k a b d
  | _, .bad k a b d => .bad k a b d
  | .late a, .late b => .late (a ++ b)
  | .late a, _ => .late a
  | _, .late b => .late b
  | .ok (.phys a), .ok (.phys b) => .ok (.phys (a ++ b))
  | x, _ => x

/-- The place of `n` bytes at a global address, page by page (R201, R311). -/
def State.spanAt (s : State) (memo : Memo) (a : Agent) (space : Nat) (acc : Access) (va : DWord) (n : Nat) :
    Nat → State × Memo × Found
  | 0 => (s, memo, .ok (.phys []))
  | k + 1 =>
    let n1 := min n (4096 - va.toNat % 4096)
    let (s, memo, x) := s.pageAt memo a space va acc
    let p := foundIn x va n1
    if n1 = n then (s, memo, p)
    else
      let (s, memo, q) := s.spanAt memo a space acc (va + BitVec.ofNat 64 n1) (n - n1) k
      (s, memo, p.join q)

/-- The place of `n` bytes at a global address (R201, R311). -/
def State.globalAt (s : State) (memo : Memo) (a : Agent) (space : Nat) (va : DWord) (n : Nat) (acc : Access) :
    State × Memo × Found := s.spanAt memo a space acc va n (n / 4096 + 2)

/-- The bytes at a place. -/
def State.loadAt (s : State) (gid bay : Nat) (l : Loc) (n : Nat) : State × List Byte :=
  match l with
  | .phys segs => segs.foldl (fun acc sg =>
      let (t, x) := acc.1.physLoad sg.1 sg.2
      (t, acc.2 ++ s.sealedView gid sg.1 (match x with
        | .ok bs => bs
        | .error _ => List.replicate sg.2 0))) (s, [])
  | .data k o => (s, ((s.group k).map fun g => g.data.bytes o n).getD [])
  | .wst o => (s, (s.bayAt bay).w.bytes o n)
  | .cst o => (s, (s.bayAt bay).c.bytes o n)

/-- The bytes of a place with what they hold; those of physical memory, of A-space by group, of W-space and C-space by the
claim that they are held under. -/
def State.cellsAt (s : State) (bay : Nat) (l : Loc) (n : Nat) : List (ByteAt × Byte) :=
  let holder := ((s.bayAt bay).holder).getD 0
  let from_ (kind owner off : Nat) (bs : List Byte) : List (ByteAt × Byte) :=
    bs.zipIdx.map fun (b, i) => ((kind, owner, off + i), b)
  match l with
  | .phys segs => segs.flatMap fun sg => physCells s.mem sg.1 sg.2
  | .data k o => from_ 1 k o (((s.group k).map fun g => g.data.bytes o n).getD [])
  | .wst o => from_ 2 holder o ((s.bayAt bay).w.bytes o n)
  | .cst o => from_ 3 holder o ((s.bayAt bay).c.bytes o n)

/-- Bytes stored at a place that is not sealed memory, by default by the hardware. -/
def State.storeAt (s : State) (bay : Nat) (l : Loc) (bs : List Byte) (a : Actor := hardware) (scope : Nat := 7)
    (reads : Bool := false) : State :=
  let past := s.recorded a scope reads (s.cellsAt bay l bs.length)
  match l with
  | .phys segs =>
    { (segs.foldl (fun acc sg => ((acc.1.physStore sg.1 (acc.2.take sg.2)).1, acc.2.drop sg.2)) (s, bs)).1 with past := past }
  | .data k o => { s.onGroup k fun g => { g with data := g.data.putBytes o bs } with past := past }
  | .wst o => { s.onBay bay fun y => { y with w := y.w.putBytes o bs } with past := past }
  | .cst o => { s.onBay bay fun y => { y with c := y.c.putBytes o bs } with past := past }

/-- One part of a load, single-copy atomic, as an agent reads it: its bytes as they are, or as they were before some of the
newest stores, an open choice among what the order of memory allows (R188, R190). -/
def State.loadPart (s : State) (a : Actor) (fibre : DWord) (scope batch : Nat) (cells : List (ByteAt × Byte)) :
    State × List Byte :=
  let cands := candidates s.past a fibre scope batch cells
  let (k, t) := if cands.isEmpty then (0, s) else s.choose (2 ^ cands.length)
  let missed := if k = 0 then [] else chosenMisses s.past a fibre scope batch cells cands k
  ({ t with past := t.past ++ [{ actor := a, scope := scope, act := .access true false cells missed, uid := s.uids, batch := batch }] },
    cells.map (byteMissing s.past missed))

/-- The bytes that a load of a group names, those that it finds in its own sealed version apart (R248). -/
def State.cellsSeen (s : State) (gid : Nat) (cells : List (ByteAt × Byte)) : List (ByteAt × Byte) :=
  match s.pieceOf gid with
  | none => cells
  | some p => cells.map fun c =>
      if c.1.1 == 0 && (tfind p.version c.1.2.2).isSome then ((5, ((s.group gid).map (·.bent)).getD 0, c.1.2.2), c.2) else c

/-- The bytes at a place as an agent's load at a scope reads them: `chunk` bytes at a time, each of them whole where it is
naturally aligned, else byte by byte (R188, R190, log entry 52). -/
def State.loadWeak (s : State) (a : Actor) (fibre : DWord) (scope gid : Nat) (l : Loc) (n : Nat) (chunk : Nat := n) :
    State × List Byte :=
  let (t, bs) := s.loadAt gid (s.bayOf gid) l n
  if s.oracle.isEmpty then (t, bs)
  else
    let keys := s.cellsSeen gid (s.cellsAt (s.bayOf gid) l n)
    let parts := (chunksOf chunk ((keys.zip bs).map fun x => (x.1.1, x.2))).flatMap unitsOf
    let batch := if parts.length ≤ 1 then 0 else s.past.length + 1
    parts.foldl (fun acc p =>
      let (t, b) := acc.1.loadPart a fibre scope batch p
      (t, acc.2 ++ b)) (t, [])

/-- The newest bytes at a place as an agent reads them that does no more than that: a failed compare and swap. -/
def State.loadNewest (s : State) (a : Actor) (scope gid : Nat) (l : Loc) (n : Nat) : State × List Byte :=
  let (t, bs) := s.loadAt gid (s.bayOf gid) l n
  if s.oracle.isEmpty then (t, bs)
  else ({ t with past := t.recordParts a scope true false (unitsOf (s.cellsAt (s.bayOf gid) l n)) }, bs)

/-- A lane of the issuing fibre as an agent. -/
def Ctx.actor (c : Ctx) (lane : Nat) : Actor := c.s0.laneActor c.r.gid c.r.weave lane

/-- Bytes stored by a lane at a scope: into the version of a sealed piece, or to the place itself (R248, R249). `va` names
the line of an overflow; an atomic or a trailing store reads them too. -/
def Ctx.store (c : Ctx) (lane : Nat) (va : DWord) (l : Loc) (bs : List Byte) (scope : Nat) (reads : Bool := false) :
    Ex Unit := fun s =>
  let plain : State := s.storeAt (s.bayOf c.r.gid) l bs (c.actor lane) scope reads
  match l with
  | .phys segs =>
    if s.isSealed c.r.gid then
      match s.pieceOf c.r.gid with
      | none => .ok ((), s)
      | some p =>
        let q := (segs.foldl (fun acc sg => ((acc.1.store sg.1 (acc.2.take sg.2)), acc.2.drop sg.2)) (p, bs)).1
        if q.lines ≤ Config.sealedLines then .ok ((), s.onBent c.bent fun b => { b with piece := some q })
        else .error ((s.payEvents c.r c.f).sealAbort c.r (va.toNat / 128 * 128))
    else .ok ((), plain)
  | _ => .ok ((), plain)

/-- The newest bytes at a place, read by what goes on to store there, or by the list hardware (log entry 52). -/
def Ctx.load (c : Ctx) (l : Loc) (n : Nat) : Ex (List Byte) := fun s =>
  let (t, bs) := s.loadAt c.r.gid (s.bayOf c.r.gid) l n
  .ok (bs, t)

/-- The scope of an access to a space: as its code names, else the space's default (R184). -/
def scopeOf (space code : Nat) (isNamed : Bool) : Nat :=
  if isNamed then code else match space with
    | 0 => 7
    | 2 => 3
    | _ => 4

/-- The scope of the instruction's access to a space. -/
def Ctx.scopeAt (c : Ctx) (space : Nat) : Nat := scopeOf space c.o.scope.toNat (c.o.mod.getLsbD 15)

/-- A lane's plain load at a scope. -/
def Ctx.loadWeak (c : Ctx) (lane scope : Nat) (l : Loc) (n : Nat) (chunk : Nat := n) : Ex (List Byte) := fun s =>
  let (t, bs) := s.loadWeak (c.actor lane) c.f.lanes scope c.r.gid l n chunk
  .ok (bs, t)

/-- The values of the slots in a lane; a 32-bit value stands in the low word. -/
structure Vals where
  d : DWord := 0
  a : DWord := 0
  b : DWord := 0
  c : DWord := 0
deriving DecidableEq, Repr

/-- A load of a stream's element: the slot it is for, its place, its address as a gauge sees it, its type and scope. -/
structure StreamRead where
  slot  : Nat
  loc   : Loc
  va    : DWord
  ty    : Nat
  scope : Nat
deriving DecidableEq, Repr

/-- A write of a stream's element: its place, its address as a gauge sees it, its bytes and scope. -/
structure StreamWrite where
  loc   : Loc
  va    : DWord
  size  : Nat
  scope : Nat
deriving DecidableEq, Repr

/-- A lane ready to execute: its values, stream loads still to be made, where a stream in D writes (none when the write is
dropped), the place of its memory operand, its streams' new steps, and the loads of its streams as gauge events. -/
structure LaneIn where
  lane : Nat
  vals : Vals := {}
  rd   : List StreamRead := []
  qd   : Option StreamWrite := none
  loc  : Option Loc := none
  ea   : DWord := 0
  q    : Table QStream := []
  evs  : List LaneEvent := []
deriving DecidableEq, Repr

/-- A register operand that is no stream, in a lane (R41, R80). -/
def Ctx.reg (c : Ctx) (l : Nat) (wide : Bool) : Opnd → DWord
  | .g i =>
    let x := c.lane l
    let n := c.f.wb + i.toNat
    if wide then pairOf (x.gAt n) (x.gAt (n + 1)) else zext32 (x.gAt n)
  | .k i => if wide then pairOf (c.g.kAt i.toNat) (c.g.kAt (i.toNat + 1)) else zext32 (c.g.kAt i.toNat)
  | .a i => c.g.aAt i.toNat
  | .p i => if (c.lane l).pred i.toNat then 1 else 0
  | .imm => if wide then c.o.immVal else zext32 (lowWord c.o.immVal)
  | _ => 0

/-- The element address of a stream (R212). -/
def QStream.elem (q : QStream) (weave lane : Nat) : DWord :=
  (q.base &&& 0x01FFFFFFFFFFFFFF) + sext32 q.lane * BitVec.ofNat 64 (64 * weave + lane) + zext32 q.step * sext32 q.stride

/-- Whether a stream still has elements (R212). -/
def QStream.more (q : QStream) : Bool := q.length == 0 || q.step < q.length

/-- Bytes of an access type (Table 94). -/
def typeSize (ty : Nat) : Nat :=
  match ty with
  | 1 | 2 => 1
  | 3 | 4 => 2
  | 5 | 7 => 8
  | _ => 4

/-- A value of an access type as a register holds it (Table 94). -/
def typeLoad (ty : Nat) (bs : List Byte) : DWord :=
  let n := leNat bs
  match ty with
  | 1 => zext32 ((BitVec.ofNat 8 n).signExtend 32)
  | 3 => zext32 ((BitVec.ofNat 16 n).signExtend 32)
  | _ => BitVec.ofNat 64 n

/-- Space of a stream. -/
def QStream.space (q : QStream) : Nat := bitsAt q.base 60 4
/-- Access type of a stream. -/
def QStream.ty (q : QStream) : Nat := bitsAt q.access 0 4

/-- Scope of a stream's accesses: a code of 0 is the space's default (Table 97). -/
def QStream.scope (q : QStream) : Nat := scopeOf q.space (bitsAt q.access 9 4) (bitsAt q.access 9 4 != 0)

/-- The stream uses of an instruction in the order of R212: for each, the register, whether it writes, and its slot. -/
def Ctx.uses (c : Ctx) : List (Nat × Bool × Nat) :=
  (c.each.zipIdx.filterMap fun (e, slot) =>
    match e.2.1 with
    | .q i => if e.2.2.1 || e.2.2.2 then some (i.toNat, e.2.2.2, slot) else none
    | _ => none)

/-- The stream uses of a lane: one that only supplies its A uses no other (R143). -/
def Ctx.usesIn (c : Ctx) (l : Nat) : List (Nat × Bool × Nat) :=
  if c.lend.getLsbD l then c.uses.filter fun u => u.2.2 == 0 else c.uses

/-- The streams after one use of one of them. -/
def useStream (t : Table QStream) (i : Nat) : Table QStream :=
  tmod t i fun q => if q.more then { q with step := q.step + 1 } else q

/-- Misaligned stream elements of a lane (R201). -/
def Ctx.streamAlign (c : Ctx) (l : Nat) : List (Nat × DWord × Nat) :=
  ((c.usesIn l).foldl (fun (acc : Table QStream × List (Nat × DWord × Nat)) u =>
    match tfind acc.1 u.1 with
    | none => acc
    | some q =>
      let ea := q.elem c.r.weave l
      let n := typeSize q.ty
      (useStream acc.1 u.1,
        acc.2 ++ (if q.more && ea.toNat % n != 0 then [(l, ea, n)] else []))) ((c.lane l).q, [])).2

/-- A memory operand's place in the bent's spaces or in global memory (R200, R201). -/
def Ctx.place (c : Ctx) (memo : Memo) (space : Nat) (ea : DWord) (n : Nat) (acc : Access) (s : State) :
    State × Memo × Found :=
  if space = 0 then s.globalAt memo c.agent c.space ea n acc
  else (s, memo, s.typedAt c.bent space (ea.toNat % 2 ^ 32) n)

/-- The address as a gauge sees it (Table 159). -/
def gaugeAddr (space : Nat) (ea : DWord) : DWord :=
  if space = 0 then ea else BitVec.ofNat 64 (ea.toNat % 2 ^ 32) ||| (BitVec.ofNat 64 space <<< 60)

/-- A non-recoverable fault: its kind and its words (Table 155). -/
abbrev Bad := Nat × DWord × DWord × DWord

/-- The fault that is raised where two are met: range and space faults come before the others, then the earlier one
(R299). -/
def firstBad (x y : Option Bad) : Option Bad :=
  match x, y with
  | some a, some b => if 2 < a.1 && b.1 ≤ 2 then some b else some a
  | some a, none => some a
  | none, y => y

/-- What is known of the lanes of an issue while they are made ready: those that go on, and `part`, the others with what
they have and the slots whose streams they could not read. -/
structure Gather where
  st   : State
  memo : Memo := []
  ins  : List LaneIn := []
  part : List (LaneIn × List Nat) := []
  late : List Late := []
  bad  : Option Bad := none

/-- The operands of a lane in some slots, where they are to be had. -/
def Gather.valsIn (g : Gather) (l : Nat) (slots : List Nat) : Option Vals :=
  match g.ins.find? fun i => i.lane == l with
  | some i => some i.vals
  | none => (g.part.find? fun p => p.1.lane == l && !p.2.any slots.contains).map (·.1.vals)

/-- The recoverable faults of one lane. -/
def lateOf (l : Nat) (acc : Access) (f : List (DWord × Nat × Nat)) : List Late :=
  f.map fun e => ⟨l, e.1, e.2.1, e.2.2, acc.code⟩

/-- A lane while its stream uses are made ready: what it has, the slots it lacks, its recoverable faults, a fault. -/
structure LaneStep where
  i    : LaneIn
  miss : List Nat := []
  late : List Late := []
  bad  : Option Bad := none

/-- A value fetched for the slot of a number (order A, B, C, D). -/
def Vals.set (w : Vals) (slot : Nat) (v : DWord) : Vals :=
  match slot with
  | 0 => { w with a := v }
  | 1 => { w with b := v }
  | 2 => { w with c := v }
  | _ => { w with d := v }

/-- One stream load of a lane made: the value of its slot, and its gauge events (R212, Table 159). -/
def State.readStream (s : State) (r : FibreRef) (i : LaneIn) (e : StreamRead) : State × LaneIn :=
  let (s, bs) := s.loadWeak (s.laneActor r.gid r.weave i.lane) (((s.fibre r).map (·.lanes)).getD 0) e.scope r.gid e.loc (typeSize e.ty)
  (s, { i with
    vals := i.vals.set e.slot (typeLoad e.ty bs)
    evs := i.evs ++ [(i.lane, 0, e.va), (i.lane, 2, BitVec.ofNat 64 (leNat bs))] })

/-- One stream use of a lane: a read finds its place and, unless it is to come later, fetches its value; a write finds
its place (R212). A misaligned element is not accessed. -/
def Ctx.useOne (c : Ctx) (later : Bool) (s : State) (memo : Memo) (k : LaneStep) (u : Nat × Bool × Nat) :
    State × Memo × LaneStep :=
  match tfind k.i.q u.1 with
  | none => (s, memo, k)
  | some q =>
    let i := { k.i with q := useStream k.i.q u.1 }
    let ea := q.elem c.r.weave i.lane
    let n := typeSize q.ty
    if !q.more then (s, memo, { k with i := i })
    else if ea.toNat % n != 0 then (s, memo, { k with i := i, miss := u.2.2 :: k.miss })
    else
      let acc : Access := if u.2.1 then .store else .load
      let (s, memo, x) := c.place memo q.space ea n acc s
      match x with
      | .late f => (s, memo, { k with i := i, miss := u.2.2 :: k.miss, late := k.late ++ lateOf i.lane acc f })
      | .bad kd a b d =>
        (s, memo, { k with i := i, miss := u.2.2 :: k.miss, bad := firstBad k.bad (some (kd, a, b, d)) })
      | .ok loc =>
        let va := gaugeAddr q.space ea
        if u.2.1 then (s, memo, { k with i := { i with qd := some ⟨loc, va, n, q.scope⟩ } })
        else
          let e : StreamRead := { slot := u.2.2, loc := loc, va := va, ty := q.ty, scope := q.scope }
          if later then (s, memo, { k with i := { i with rd := i.rd ++ [e] } })
          else
            let (s, i) := s.readStream c.r i e
            (s, memo, { k with i := i })

/-- A lane's register operands. -/
def Ctx.regVals (c : Ctx) (l : Nat) : Vals :=
  let s := c.slots
  { d := c.reg l (wideSlot s.1) c.o.d, a := c.reg l (wideSlot s.2.1) c.o.a, b := c.reg l (wideSlot s.2.2.1) c.o.b
    c := c.reg l (wideSlot s.2.2.2) c.o.c }

/-- A memory operand: the space, size and kind of its access, its alignment, and its address in a lane, which some slots
give; none where the lane makes no access. -/
structure MemUse where
  space : Nat
  size  : Nat
  align : Nat
  acc   : Access
  ea    : Nat → Vals → Option DWord
  slots : List Nat := [0, 1]

/-- One lane made ready up to its memory operand: every stream use in turn. -/
def Ctx.readyLane (c : Ctx) (later : Bool) (g : Gather) (l : Nat) : Gather :=
  let start : LaneIn := { lane := l, vals := c.regVals l, q := (c.lane l).q }
  let (s, memo, k) := (c.usesIn l).foldl (fun acc u => c.useOne later acc.1 acc.2.1 acc.2.2 u) (g.st, g.memo, { i := start })
  let g := { g with st := s, memo := memo }
  if k.miss.isEmpty then { g with ins := g.ins ++ [k.i] }
  else
    let g := { g with part := g.part ++ [(k.i, k.miss)] }
    match k.bad with
    | some x => { g with bad := firstBad g.bad (some x) }
    | none => { g with late := g.late ++ k.late }

/-- One lane's memory operand found. -/
def Ctx.readyMem (c : Ctx) (u : MemUse) (g : Gather) (i : LaneIn) : Gather :=
  match u.ea i.lane i.vals with
  | none => { g with ins := g.ins ++ [i] }
  | some ea =>
    let (s, memo, x) := c.place g.memo u.space ea u.size u.acc g.st
    let g := { g with st := s, memo := memo }
    match x with
    | .ok loc => { g with ins := g.ins ++ [{ i with loc := some loc, ea := ea }] }
    | .late f => { g with late := g.late ++ lateOf i.lane u.acc f }
    | .bad k a b d => { g with bad := firstBad g.bad (some (k, a, b, d)) }

/-- A fault found while the lanes were made ready, taken (R299, R317): no recoverable fault is then posted. -/
def Ctx.faults (c : Ctx) (g : Gather) : Ex Unit :=
  match g.bad with
  | some (k, a, b, d) => fun _ => .error ((g.st.payEvents c.r c.f).takeFault c.r c.f.pc c.act k a b d)
  | none => fun _ => .ok ((), g.st)

/-- The misaligned memory operands of the writing lanes (R201), also of a lane whose stream waits for a page, unless that
stream is in the address. -/
def Ctx.memAlign (c : Ctx) (u : MemUse) (g : Gather) : List (Nat × DWord × Nat) :=
  c.doers.filterMap fun l =>
    match (g.valsIn l u.slots).bind (u.ea l) with
    | some ea => if ea.toNat % u.align != 0 then some (l, ea, u.align) else none
    | none => none

/-- The lanes of an issue with their stream uses made ready. With `later`, stream loads are left to `Ctx.refresh`, so that
each lane's loads come after the stores of the lanes before it (R184). -/
def Ctx.readied (c : Ctx) (later : Bool) (s : State) : Gather := c.doers.foldl (c.readyLane later) { st := s }

/-- The lanes of an issue made ready once every address in them is aligned: those of streams, and the further ones that an
instruction has (R201, R299). -/
def Ctx.readyWith (c : Ctx) (later : Bool) (more : Gather → List (Nat × DWord × Nat)) : Ex Gather := do
  let g := c.readied later (← get)
  c.aligned (c.doers.flatMap c.streamAlign ++ more g)
  pure g

/-- A range or space fault of a memory operand in a lane whose streams wait for a page (R299). -/
def Ctx.lateRange (c : Ctx) (u : MemUse) (g : Gather) : Option Bad :=
  g.part.findSome? fun p =>
    if p.2.any u.slots.contains then none
    else match (u.ea p.1.lane p.1.vals).map fun ea => (c.place g.memo u.space ea u.size u.acc g.st).2.2 with
      | some (.bad k a b d) => if k ≤ 2 then some (k, a, b, d) else none
      | _ => none

/-- The lanes of an issue made ready: alignment of every lane, then ranges and translations in lane order (R201,
R202, R299). -/
def Ctx.ready (c : Ctx) (later : Bool) (mem : Option MemUse) : Ex Gather :=
  match mem with
  | none => c.readyWith later fun _ => []
  | some u => do
    let g ← c.readyWith later (c.memAlign u)
    let h := g.ins.foldl (c.readyMem u) { g with ins := [] }
    pure { h with bad := firstBad h.bad (c.lateRange u g) }

/-- The lanes that act with their operands as the checks at issue see them, and the slots in which they have none:
registers, and streams that are bound and can be read (R120, R299, R356). -/
def Ctx.view (c : Ctx) : List (Nat × Vals × List Nat) :=
  if c.uses.isEmpty then c.doers.map fun l => (l, c.regVals l, [])
  else
    let bound := c.doers.filter fun l => c.uses.all fun u => (tfind (c.lane l).q u.1).isSome
    let g := bound.foldl (c.readyLane false) { st := { c.s0 with cur := none } }
    (g.ins.map fun i => (i.lane, i.vals, [])) ++ g.part.map fun p => (p.1.lane, p.1.vals, p.2)

/-- The lanes that act with their operands, where they have those of some slots. -/
def Ctx.peekOf (c : Ctx) (slots : List Nat) : List (Nat × Vals) :=
  c.view.filterMap fun v => if v.2.2.any slots.contains then none else some (v.1, v.2.1)

/-- The lanes that act with their operands, where they have them all. -/
def Ctx.peek (c : Ctx) : List (Nat × Vals) := c.peekOf [0, 1, 2, 3]

/-- Cause 11 where some lane's operands in some slots break an instruction's rule (R120). -/
def Ctx.valueCheck (c : Ctx) (slots : List Nat) (bad : Vals → Bool) : List Nat :=
  if (c.peekOf slots).any fun v => bad v.2 then [11] else []

/-- The lanes of an issue made ready and its faults taken: the lanes that go on, and the recoverable faults of the
others. -/
def Ctx.gather (c : Ctx) (later : Bool) (mem : Option MemUse) : Ex (List LaneIn × List Late) := do
  let g ← c.ready later mem
  c.faults g
  pure (g.ins, g.late)

/-- The stream loads of a lane that were left for now. -/
def Ctx.refresh (c : Ctx) (i : LaneIn) : Ex LaneIn := do
  let (s, i) := i.rd.foldl (fun acc e => acc.1.readStream c.r acc.2 e) (← get, i)
  set s
  pure { i with rd := [] }

/-- Lanes that receive the result of a lane that went on: every writing lane under UN = 1 (R117). -/
def Ctx.receivers (c : Ctx) (l : Nat) : List Nat := if c.o.un then c.writers else [l]

/-- A lane of the issuing weave changed. -/
def Ctx.onLane (c : Ctx) (l : Nat) (f : Lane → Lane) : Ex Unit := modify fun s => s.onLane c.r.gid c.r.weave l f

/-- A value written to a destination that is no stream, for the lane that computed it (R41, R43, R117). -/
def Ctx.put (c : Ctx) (l : Nat) (wide : Bool) (x : Opnd) (v : DWord) : Ex Unit :=
  match x with
  | .g i =>
    let n := c.f.wb + i.toNat
    (c.receivers l).forM fun k => c.onLane k fun y =>
      if wide then (y.setG n (lowWord v)).setG (n + 1) (highWord v) else y.setG n (lowWord v)
  | .k i => modify fun s => s.onGroup c.r.gid fun g =>
      if wide then (g.setK i.toNat (lowWord v)).setK (i.toNat + 1) (highWord v) else g.setK i.toNat (lowWord v)
  | .a i => modify fun s => s.onGroup c.r.gid fun g => g.setA i.toNat v
  | .p i => (c.receivers l).forM fun k => c.onLane k fun y => y.setPred i.toNat (v != 0)
  | _ => pure ()

/-- The streams of a lane that went on, stepped; a write stream in D stores `v` (R212). The store's gauge events are
answered. -/
def Ctx.putStream (c : Ctx) (i : LaneIn) (v : DWord) : Ex (List LaneEvent) := do
  if c.uses.isEmpty then pure ()
  else c.onLane i.lane fun y => { y with q := i.q }
  match i.qd with
  | none => pure []
  | some w =>
    let bs := leBytes w.size v.toNat
    c.store i.lane w.va w.loc bs w.scope
    pure [(i.lane, 1, w.va), (i.lane, 3, BitVec.ofNat 64 (leNat bs))]

/-- The result of a lane written to D, a stream among them. -/
def Ctx.result (c : Ctx) (i : LaneIn) (v : DWord) : Ex (List LaneEvent) := do
  c.put i.lane (wideSlot c.slots.1) c.o.d v
  c.putStream i v

/-- The gauge events of an issue tested, and the halts kept until its instruction completes (R326, R327). A lane that
waits for a page makes its PC event when it commits (R325). -/
def Ctx.watch (c : Ctx) (waiting : DWord) (evs : List LaneEvent) : Ex Unit :=
  modify fun s =>
    let (s, halts) := s.gaugeEvents c.r c.f.pc true
      ((lanesOf (c.act &&& ~~~waiting ||| c.f.pcDue)).map (fun l => (l, 7, c.f.pc)) ++ evs)
    if halts.isEmpty then s else s.onFibre c.r fun f => { f with halts := f.halts ++ halts }

/-- The fibre stays at its instruction with a replay mask, its group parked by the faults (R202). -/
def Ctx.waitFor (c : Ctx) (mask : DWord) (late : List Late) : Ex Unit :=
  modify fun s =>
    ((s.onFibre c.r fun f => { f with replay := mask, len := c.len, pcDue := 0 }).takeLate c.r late).settleEarly c.r c.fall

/-- The lanes that wait for a page; under UN = 1 every writing lane does (R202). -/
def Ctx.waiting (c : Ctx) (late : List Late) : DWord :=
  if late.isEmpty then 0 else if c.o.un then c.wr else maskOf (late.map (·.lane))

/-- The lanes that wait for a page are the replay mask (R202). -/
def Ctx.wait (c : Ctx) (late : List Late) : Ex Unit := c.waitFor (c.waiting late) late

/-- The fibre's lanes regrouped at the end of its instruction: `stays` go on at the next one, the others where `dest`
sends them; then the halts that waited for this (R19, R327). -/
def Ctx.regroup (c : Ctx) (stays : DWord) (dest : List (Nat × DWord × Nat)) : Ex Unit :=
  modify fun s =>
    let s := s.reweave c.r.gid c.r.weave fun v =>
      match v.fibre c.r.fid with
      | some f => v.regroup { f with step := if f.step = 0 then 0 else 2 } stays c.fall dest
      | none => v
    s.settleHalts c.r.gid c.r.weave

/-- The end of an instruction that goes on at the next one, or waits for pages. -/
def Ctx.finish (c : Ctx) (late : List Late) (evs : List LaneEvent) : Ex Unit := do
  c.watch (c.waiting late) evs
  if late.isEmpty then c.regroup c.f.lanes [] else c.wait late

/-- Bits added to a lane's sticky status (R89). -/
def Ctx.sticky (c : Ctx) (l : Nat) (fl : Flags) : Ex Unit :=
  if fl = 0 then pure () else c.onLane l fun y => { y with sticky := y.sticky ||| fl }

/-- An instruction that computes one result a lane from its operands: what most of them are (R131). `own` are its own
causes 9 and 11; the result may raise status, seen as a gauge source when `isFloat`. -/
def compute (m : Major) (isFloat : Bool) (own : Ctx → List Nat) (f : Ctx → Nat → Vals → DWord × Flags) (o : Op)
    (s : State) : Host.Outcome State Fault Refusal :=
  issue m o s fun c => do
    c.check (own c)
    let (ins, late) ← c.gather true none
    let evs ← ins.mapM fun i => do
      let i ← c.refresh i
      let (v, fl) := f c i.lane i.vals
      let e ← c.result i v
      c.sticky i.lane fl
      pure (i.evs ++ e ++ (if isFloat then [(i.lane, 4, zext32 (fl.setWidth 32))] else []))
    c.finish late evs.flatten

end Sys2Proof.Machine
end

