-- ==== Sys2Proof/Machine/Real.lean ====
section
/-! DEFINITION. FEXP2, FLOG2, FSIN and FCOS (R151, Table 60): the exact cases apart, the mathematical value taken in
fixed point far beyond what one rounding to FP32 needs, then rounded once. -/
namespace Sys2Proof.Machine
open Sys2Proof

/-- Fraction bits of the fixed-point work. -/
def fixBits : Nat := 640

/-- One, in fixed point. -/
def fixOne : Int := (2 ^ fixBits : Nat)

/-- Product in fixed point. -/
def fixMul (a b : Int) : Int := a * b / fixOne

/-- Sum of `z ^ (2k+1) / (2k+1)`, alternating in sign when `alt`, from the term `t` on. -/
def atanSum (alt : Bool) (z2 : Int) : Nat → Nat → Int → Int
  | 0, _, _ => 0
  | fuel + 1, k, t =>
    t / (2 * k + 1) + atanSum alt z2 fuel (k + 1) (if alt then -(fixMul t z2) else fixMul t z2)

/-- atanh z for z at most 1/3, in fixed point. -/
def fixAtanh (z : Int) : Int := atanSum false (fixMul z z) 220 0 z

/-- arctan of 1/n in fixed point. -/
def fixAtanInv (n : Int) : Int := atanSum true (fixOne / (n * n)) 150 0 (fixOne / n)

/-- ln 2 in fixed point. -/
def fixLn2 : Int := 2 * fixAtanh (fixOne / 3)

/-- π in fixed point. -/
def fixPi : Int := 16 * fixAtanInv 5 - 4 * fixAtanInv 239

/-- Sum of the exponential series from the term `t` on. -/
def expSum (y : Int) : Nat → Nat → Int → Int
  | 0, _, _ => 0
  | fuel + 1, k, t => t + expSum y fuel (k + 1) (fixMul t y / (k + 1))

/-- Sum of the sine series (first term y) or the cosine series (first term 1), from the term `t` on. -/
def trigSum (y2 : Int) : Nat → Nat → Int → Int
  | 0, _, _ => 0
  | fuel + 1, k, t => t + trigSum y2 fuel (k + 2) (-(fixMul t y2 / ((k + 1) * (k + 2))))

/-- A fixed-point magnitude that is not the exact value, rounded once to FP32. -/
def roundFix (mode : RMode) (neg : Bool) (v : Int) (e : Int) : Nat × Flags :=
  froundFin fmt32 mode neg (2 * v.natAbs + 1) (e - fixBits - 1)

/-- 2^x (Table 60). -/
def fexp2V (mode : RMode) (a : FVal) : Nat × Flags :=
  match a with
  | .nan s => (canonNaN fmt32, if s then flagIV else 0)
  | .inf n => (if n then 0 else infBits fmt32 false, 0)
  | .fin n m e =>
    if m = 0 then froundFin fmt32 mode false 1 0
    else if 12 ≤ e + bitLen m then
      froundFin fmt32 mode false 1 (if n then -2000 else 2000)
    else
      let x : Int := (if n then -1 else 1) * (if 0 ≤ e then (m * 2 ^ (e.toNat + fixBits) : Nat)
        else (m * 2 ^ fixBits / 2 ^ (-e).toNat : Nat))
      let i := x / fixOne
      let f := x - i * fixOne
      if f = 0 then froundFin fmt32 mode false 1 i
      else roundFix mode false (expSum (fixMul f fixLn2) 150 0 fixOne) i

/-- log2 x (Table 60). -/
def flog2V (mode : RMode) (a : FVal) : Nat × Flags :=
  match a with
  | .nan s => (canonNaN fmt32, if s then flagIV else 0)
  | .inf n => if n then (canonNaN fmt32, flagIV) else (infBits fmt32 false, 0)
  | .fin n m e =>
    if m = 0 then (infBits fmt32 true, flagDZ)
    else if n then (canonNaN fmt32, flagIV)
    else
      let k := bitLen m - 1
      let ex : Int := e + k
      if m = 2 ^ k then fround fmt32 mode (fvalInt ex)
      else
        let t : Int := (m * 2 ^ fixBits / 2 ^ k : Nat)
        let z := (t - fixOne) * fixOne / (t + fixOne)
        let v := ex * fixOne + 2 * fixAtanh z * fixOne / fixLn2
        roundFix mode (v < 0) v 0

/-- sin(π r) for a fixed-point r from 0 to 1/2. -/
def fixSinPi (r : Int) : Int :=
  let y := fixMul r fixPi
  trigSum (fixMul y y) 100 1 y

/-- The position of a finite value in a turn of 2, as eighths would not be exact: quadrant 0 to 3 and the
fixed-point rest from 0 to 1/2. -/
def halfTurns (m : Nat) (e : Int) : Nat × Int :=
  let t : Int :=
    if 0 ≤ e then ((m * 2 ^ e.toNat % 2) * 2 ^ fixBits : Nat)
    else (m * 2 ^ fixBits / 2 ^ (-e).toNat % 2 ^ (fixBits + 1) : Nat)
  let half := fixOne / 2
  ((t / half).toNat, t % half)

/-- sin(π x) (Table 60). -/
def fsinV (mode : RMode) (a : FVal) : Nat × Flags :=
  match a with
  | .nan s => (canonNaN fmt32, if s then flagIV else 0)
  | .inf _ => (canonNaN fmt32, flagIV)
  | .fin n m e =>
    if m = 0 then (toF32 a, 0)
    else
      let (q, r) := halfTurns m e
      let neg := n != (q ≥ 2)
      if r = 0 then
        if q % 2 = 0 then (toF32 (.fin n 0 0), 0) else froundFin fmt32 mode neg 1 0
      else roundFix mode neg (fixSinPi (if q % 2 = 0 then r else fixOne / 2 - r)) 0

/-- cos(π x) (Table 60). -/
def fcosV (mode : RMode) (a : FVal) : Nat × Flags :=
  match a with
  | .nan s => (canonNaN fmt32, if s then flagIV else 0)
  | .inf _ => (canonNaN fmt32, flagIV)
  | .fin _ m e =>
    if m = 0 then froundFin fmt32 mode false 1 0
    else
      let (q, r) := halfTurns m e
      let neg := q == 1 || q == 2
      if r = 0 then
        if q % 2 = 1 then (0, 0) else froundFin fmt32 mode (q == 2) 1 0
      else roundFix mode neg (fixSinPi (if q % 2 = 0 then fixOne / 2 - r else r)) 0

end Sys2Proof.Machine
end

