-- ==== Sys2Proof/Machine/Flags.lean ====
section
/-! DEFINITION. Results with their status (R89, R145, R150 to R152): the integer results of Table 57 and the lane float
results of Tables 59 and 60, as functions of operand words. -/
namespace Sys2Proof.Machine
open Sys2Proof

/-- e(x): two's complement when U = 0, unsigned when U = 1 (R145). -/
def eval32 (isU : Bool) (x : Word) : Int := if isU then (x.toNat : Int) else x.toInt

/-- A word from an integer, modulo 2^32. -/
def wordOf (i : Int) : Word := BitVec.ofInt 32 i

/-- An exact result, saturated to the range of U with OF when clamped (R145). -/
def satWord (isU : Bool) (v : Int) : Word × Flags :=
  let lo : Int := if isU then 0 else -2147483648
  let hi : Int := if isU then 4294967295 else 2147483647
  if v < lo then (wordOf lo, flagOF) else if hi < v then (wordOf hi, flagOF) else (wordOf v, 0)

/-- IADD and ISUB. -/
def addWord (isSub isU sat : Bool) (a b : Word) : Word × Flags :=
  if sat then
    let x := eval32 isU a
    let y := eval32 isU b
    satWord isU (if isSub then x - y else x + y)
  else (if isSub then a - b else a + b, 0)

/-- IDIV: truncated quotient; DZ at a zero divisor, OF at −2^31 / −1. -/
def divWord (isU : Bool) (a b : Word) : Word × Flags :=
  if b = 0 then (0xFFFFFFFF, flagDZ)
  else
    let q := (eval32 isU a).tdiv (eval32 isU b)
    (wordOf q, if !isU && q = 2147483648 then flagOF else 0)

/-- IREM: the remainder with the sign of a; DZ at a zero divisor. -/
def remWord (isU : Bool) (a b : Word) : Word × Flags :=
  if b = 0 then (a, flagDZ) else (wordOf ((eval32 isU a).tmod (eval32 isU b)), 0)

/-- IABS. -/
def absWord (sat : Bool) (a : Word) : Word × Flags :=
  if a = 0x80000000 then (if sat then (0x7FFFFFFF, flagOF) else (a, 0))
  else (if a.msb then -a else a, 0)

/-- IMULH. -/
def mulHigh (isU : Bool) (a b : Word) : Word := wordOf ((eval32 isU a * eval32 isU b) / 4294967296)

/-- IMIN and IMAX. -/
def minMax (isMax isU : Bool) (a b : Word) : Word :=
  if (eval32 isU a < eval32 isU b) != isMax then a else b

/-- SHL, SHR and SAR by n = u(b). -/
def shiftWord (kind : Nat) (a b : Word) : Word :=
  match kind with
  | 0 => if b.toNat < 32 then a <<< b.toNat else 0
  | 1 => if b.toNat < 32 then a >>> b.toNat else 0
  | _ => a.sshiftRight (min b.toNat 32)

/-- Number of ones. -/
def popCount (a : Word) : Nat := ((List.range 32).filter fun i => a.getLsbD i).length

/-- Leading zeros, 32 for 0. -/
def leadingZeros (a : Word) : Nat := 32 - bitLen a.toNat

/-- Bits reversed. -/
def reverseBits (a : Word) : Word :=
  (List.range 32).foldl (fun r i => if a.getLsbD i then r ||| (1 : Word) <<< (31 - i) else r) 0

/-- Position and width of a bit field (BFX, BFI). -/
def fieldPos (b : Word) : Nat × Nat :=
  let pos := bitsAt b 0 5
  (pos, min (bitsAt b 8 6) (32 - pos))

/-- BFX. -/
def extractField (isU : Bool) (a b : Word) : Word :=
  let (pos, w) := fieldPos b
  let v := bitsAt a pos w
  if !isU && w != 0 && v / 2 ^ (w - 1) % 2 == 1 then BitVec.ofNat 32 (v + (2 ^ 32 - 2 ^ w)) else BitVec.ofNat 32 v

/-- BFI. -/
def insertField (a b c : Word) : Word :=
  let (pos, w) := fieldPos b
  let m : Word := BitVec.ofNat 32 ((2 ^ w - 1) * 2 ^ pos)
  (c &&& ~~~m) ||| ((a <<< pos) &&& m)

/-- The comparison of ISET by its condition code (Table 52). -/
def compareInt (cond : Nat) (x y : Int) : Bool := condOf cond (if x < y then .lt else if x = y then .eq else .gt)

/-- PLOP's table: the function of a base FN as the eight entries of the extended form, c not looked at (R147). -/
def plopTable (fn : Nat) : Nat :=
  match fn with
  | 0 => 0xC0 | 1 => 0xFC | 2 => 0x3C | 3 => 0x30 | 4 => 0x03 | 5 => 0xC3 | 6 => 0xF0
  | _ => 0x0F

/-- FP32 value of a word with an optional sign flip (R150). -/
def f32In (neg : Bool) (w : Word) : FVal :=
  let v := fdecode fmt32 w.toNat
  if neg then v.flip else v

/-- FP64 value of a doubleword with an optional sign flip. -/
def f64In (neg : Bool) (w : DWord) : FVal :=
  let v := fdecode fmt64 w.toNat
  if neg then v.flip else v

/-- F16 value of one half of a word with an optional sign flip. -/
def f16In (neg : Bool) (w : Word) (half : Nat) : FVal :=
  let v := fdecode fmt16 (bitsAt w (16 * half) 16)
  if neg then v.flip else v

/-- The four operations of R150 on decoded values. -/
def arith (f : FFmt) (mode : RMode) (op : Nat) (x y z : FVal) : Nat × Flags :=
  match op with
  | 0 => faddV f mode x y
  | 1 => faddV f mode x y.flip
  | 2 => fmulV f mode x y
  | 3 => fdivV f mode x y
  | _ => ffmaV f mode x y z

/-- The rounding mode and the three sign flips in MOD (Table 52). -/
def roundOf (mod : BitVec 16) : RMode := rmodeOf (bitsAt mod 0 2)

/-- FP32 arithmetic (R150). -/
def arith32 (op : Nat) (mod : BitVec 16) (v : Vals) : DWord × Flags :=
  let n := mod.getLsbD
  let r := arith fmt32 (roundOf mod) op (f32In (n 2) (lowWord v.a)) (f32In (n 3) (lowWord v.b)) (f32In (n 4) (lowWord v.c))
  (BitVec.ofNat 64 r.1, r.2)

/-- FP64 arithmetic (R150). -/
def arith64 (op : Nat) (mod : BitVec 16) (v : Vals) : DWord × Flags :=
  let n := mod.getLsbD
  let r := arith fmt64 (roundOf mod) op (f64In (n 2) v.a) (f64In (n 3) v.b) (f64In (n 4) v.c)
  (BitVec.ofNat 64 r.1, r.2)

/-- Packed F16 arithmetic (R150): two independent halves. -/
def arith16 (op : Nat) (mod : BitVec 16) (v : Vals) : DWord × Flags :=
  let n := mod.getLsbD
  let half (h : Nat) : Nat × Flags :=
    arith fmt16 (roundOf mod) op (f16In (n 2) (lowWord v.a) h) (f16In (n 3) (lowWord v.b) h)
      (f16In (n 4) (lowWord v.c) h)
  let lo := half 0
  let hi := half 1
  (BitVec.ofNat 64 (lo.1 + hi.1 * 2 ^ 16), lo.2 ||| hi.2)

/-- FMIN and FMAX (R88, R150). -/
def floatMinMax (isMax : Bool) (mod : BitVec 16) (v : Vals) : DWord × Flags :=
  let flip (neg : Bool) (w : Word) : Nat := (if neg then w ^^^ 0x80000000 else w).toNat
  let r := fminmaxV fmt32 isMax (flip (mod.getLsbD 2) (lowWord v.a)) (flip (mod.getLsbD 3) (lowWord v.b))
  (BitVec.ofNat 64 r.1, r.2)

/-- The single-operand operations of Table 60. -/
def unary32 (op : Nat) (mod : BitVec 16) (v : Vals) : DWord × Flags :=
  let x := f32In (mod.getLsbD 2) (lowWord v.a)
  let mode := roundOf mod
  let r := match op with
    | 0 => fsqrtV fmt32 mode x
    | 1 => frcpV fmt32 mode x
    | 2 => frsqV fmt32 mode x
    | 3 => fexp2V mode x
    | 4 => flog2V mode x
    | 5 => fsinV mode x
    | _ => fcosV mode x
  (BitVec.ofNat 64 r.1, r.2)

/-- FSET and DSET (R152). -/
def floatSet (isWide : Bool) (mod : BitVec 16) (v : Vals) : DWord × Flags :=
  let dec (x : DWord) : FVal := if isWide then f64In false x else f32In false (lowWord x)
  let r := fcond (bitsAt mod 5 3) (dec v.a) (dec v.b)
  (if r.1 then 1 else 0, r.2)

end Sys2Proof.Machine
end

