-- ==== Sys2Proof/Machine/RealReg.lean ====
section
/-! DEFINITION. The expression log (R53 to R62) and the instructions over X registers that make no decision (R154,
R156, R157), and the conversions (R158 to R160, R213). -/
namespace Sys2Proof.Machine
open Sys2Proof

/-- The count of a node raised; at 1,023 it is pinned (R61). Handle 0 names no node. -/
def Group.incRef (g : Group) (h : Nat) : Group :=
  { g with nodes := tmod g.nodes h fun n =>
      if n.refs + 1 ≥ 1023 then { n with refs := 1023, pinned := true } else { n with refs := n.refs + 1 } }

/-- The count of a node lowered; a pinned one keeps its count (R61). -/
def Group.decRef (g : Group) (h : Nat) : Group :=
  { g with nodes := tmod g.nodes h fun n => if n.pinned then n else { n with refs := n.refs - 1 } }

/-- A node that reclamation takes (R61). -/
def Node.dead (n : Node) : Bool := n.refs == 0 && !n.pinned && n.op != opCONT

/-- Pending reclamation done: nodes of count 0 freed, cascading down the graph (R61). -/
def Group.reclaim (g : Group) : Nat → Group
  | 0 => g
  | k + 1 =>
    match g.nodes.find? fun p => p.2.dead with
    | none => g
    | some (h, n) =>
      let nodes := tdel g.nodes h
      let nodes := if n.op == opDOT || n.op == opL2 then tdel nodes (h + 1) else nodes
      (n.children.foldl (fun (g : Group) c => g.decRef c) { g with nodes := nodes }).reclaim k

/-- All pending reclamation of a group. -/
def Group.reclaimAll (g : Group) : Group := g.reclaim g.nodes.length

/-- Free slots from handle 1 up (R59). -/
def Group.freeNodes (g : Group) : Nat := g.logCap - 1 - g.nodes.length

/-- The n-th free handle at or above one, ascending. -/
def nthFree : Table Node → Nat → Nat → Nat
  | [], h, n => h + n
  | (k, _) :: r, h, n => if h + n < k then h + n else nthFree r (k + 1) (n - (k - h))

/-- The free runs of a log: the first handle of each and its length. -/
def freeRuns (cap : Nat) : Table Node → Nat → List (Nat × Nat)
  | [], h => if h < cap then [(h, cap - h)] else []
  | (k, _) :: r, h => (if h < k then [(h, k - h)] else []) ++ freeRuns cap r (k + 1)

/-- The handles that free pairs of slots can take, run by run (R57, R62). -/
def Group.freePairs (g : Group) : List (Nat × Nat) :=
  (freeRuns g.logCap g.nodes 1).filterMap fun p => if p.2 < 2 then none else some (p.1, p.2 / 2)

/-- The n-th pair of some runs. -/
def nthPair : List (Nat × Nat) → Nat → Nat
  | [], _ => 1
  | (h, k) :: r, n => if n < k then h + 2 * n else nthPair r (n - k)

/-- A value for an X register still to be made in a lane: the register without its new handle, or with the handle it
copies; the node to append, its sources, and its second slot (R53, R54, R57). -/
structure XMake where
  lane  : Nat
  reg   : XReg
  node  : Option Node := none
  kids  : List XReg := []
  cont  : Option Node := none
  flags : Flags := 0

/-- Whether a source needs an OPAQUE leaf of its own (R54). -/
def XReg.needsLeaf (x : XReg) : Bool := x.handle == 0 && !x.invalid && x.lo != x.hi

/-- Slots an X result takes (R53, R54). -/
def XMake.need (m : XMake) : Nat :=
  match m.node with
  | none => 0
  | some _ => 1 + (if m.cont.isSome then 1 else 0) + (m.kids.filter XReg.needsLeaf).length

/-- The spill region translated as far as the live nodes must reach into it: a translation fault there is RESIDENT
(R59, Table 155), to which range and space faults of the lanes are preferred (R299). -/
def Ctx.spillRoom (c : Ctx) (g : Group) (need : Nat) (x : Gather) : Gather :=
  let live := g.nodes.length + need
  let pages := if live < g.logStore then 0 else (16 * (live + 1 - g.logStore) + 4095) / 4096
  (List.range pages).foldl (fun x i =>
    let va := g.spillVa + BitVec.ofNat 64 (4096 * i)
    let (t, y) := x.st.translate c.agent c.space va .store
    let x := { x with st := t }
    match y.mapError (tableFault 10 va) with
    | .ok _ => x
    | .error (.fault k a b d) => { x with bad := firstBad x.bad (some (k, a, b, d)) }
    | .error (.page _ _) => { x with bad := firstBad x.bad (some (10, va, 0, 0)) }) x

/-- Room in the log for some slots, `pairs` of them with a second one; pending reclamation done where it is needed;
otherwise LOGFULL (R62). -/
def Ctx.logRoomFor (c : Ctx) (need pairs : Nat) (x : Gather) : Ex Gather :=
  match x.st.group c.r.gid with
  | none => pure x
  | some g =>
    let fits (g : Group) : Bool :=
      need ≤ g.freeNodes && (pairs == 0 || pairs ≤ (g.freePairs.map (·.2)).sum)
    if need = 0 then pure x
    else if fits g then pure (c.spillRoom g need x)
    else
      let g := g.reclaimAll
      if fits g then pure (c.spillRoom g need { x with st := x.st.setGroup g })
      else c.trap 4 0 (leBytes 4 g.logCap ++ leBytes 4 g.nodes.length ++ leBytes 4 need)

/-- Room in the log for what the lanes make, and for a node of every writing lane whose value is still to come (R53, R62). -/
def Ctx.logRoom (c : Ctx) (ms : List XMake) (x : Gather) : Ex Gather :=
  c.logRoomFor ((ms.map XMake.need).sum + (c.doers.length - x.ins.length)) (ms.filter fun m => m.cont.isSome).length x

/-- One node appended at a free slot, its children counted; the handle is answered. Which free slot is open (R61, log
entry 3). -/
def State.appendNode (s : State) (gid : Nat) (n : Node) (cont : Option Node) : State × Nat :=
  match s.group gid with
  | none => (s, 0)
  | some g =>
    match cont with
    | none =>
      let (i, s) := s.choose g.freeNodes
      let h := nthFree g.nodes 1 i
      (s.setGroup (n.children.foldl (fun (g : Group) c => g.incRef c) { g with nodes := tins g.nodes h n }), h)
    | some k =>
      let runs := g.freePairs
      let (i, s) := s.choose (runs.map (·.2)).sum
      let h := nthPair runs i
      (s.setGroup { g with nodes := tins (tins g.nodes h n) (h + 1) k }, h)

/-- The word and inline bit by which a new node names a source, an OPAQUE leaf appended first where needed (R54). -/
def State.childWord (s : State) (gid : Nat) (x : XReg) : State × Word × Bool :=
  if x.handle != 0 then (s, x.handle.setWidth 32, false)
  else if x.needsLeaf then
    let (s, h) := s.appendNode gid { op := opOPAQUE, refs := 0, pinned := false, left := x.lo, right := x.hi, aux := 0 } none
    (s, BitVec.ofNat 32 h, false)
  else (s, x.lo, true)

/-- An X register of a lane written, the counts of the node it receives and of the one it held adjusted (R61). -/
def State.setX (s : State) (gid w l i : Nat) (x : XReg) : State :=
  let old := (s.lane gid w l).xAt i
  let s := s.onGroup gid fun g => (g.incRef x.handle.toNat).decRef old.handle.toNat
  s.onLane gid w l fun y => y.setX i x

/-- An X result made in its lane: the node appended, then the register (R61). -/
def Ctx.makeX (c : Ctx) (i : Nat) (m : XMake) : Ex Unit := do
  let s ← get
  let gid := c.r.gid
  match m.node with
  | none => set (s.setX gid c.r.weave m.lane i m.reg)
  | some n =>
    let (s, words) := m.kids.foldl (fun (acc : State × List (Word × Bool)) x =>
      let (t, w, b) := acc.1.childWord gid x
      (t, acc.2 ++ [(w, b)])) (s, [])
    let n := match words with
      | [] => n
      | [a] => { n with left := a.1, aux := if a.2 then 1 else 0 }
      | a :: b :: _ => { n with left := a.1, right := b.1, aux := (if a.2 then 1 else 0) + (if b.2 then 2 else 0) }
    let (s, h) := s.appendNode gid n m.cont
    set (s.setX gid c.r.weave m.lane i { m.reg with handle := BitVec.ofNat 24 h })

/-- A node without counts. -/
def nodeOf (op : Nat) (left right aux : Word) : Node :=
  { op := op, refs := 0, pinned := false, left := left, right := right, aux := aux }

/-- The result of an interval operation over sources (Table 23, R51, R53): a new INVALID sets IV. -/
def opMake (op lane : Nat) (srcs : List XReg) : XMake :=
  let a := srcs.headD {}
  let b := srcs.getD 1 a
  let x := xOp op a b
  if x.invalid then { lane := lane, reg := xInvalid, flags := if srcs.any (·.invalid) then 0 else flagIV }
  else { lane := lane, reg := x, node := some (nodeOf op 0 0 0), kids := srcs }

/-- A leaf from an FP32 word: a NaN or an infinity is INVALID (R51, R52). -/
def leaf32 (lane : Nat) (w : Word) : XMake :=
  match fdecode fmt32 w.toNat with
  | .fin _ _ _ =>
    let v := normZero w
    { lane := lane, reg := xOf v v false, node := some (nodeOf opLEAF32 v 0 0) }
  | _ => { lane := lane, reg := xInvalid, flags := flagIV }

/-- A leaf whose value is `m * 2 ^ e`, its bounds rounded outward. -/
def roundedLeaf (lane op : Nat) (left right : Word) (m e : Int) : XMake :=
  let b : Bnd := .num m e
  { lane := lane, reg := xOf (bndTo32 false b) (bndTo32 true b) false, node := some (nodeOf op left right 0) }

/-- A leaf from an FP64 doubleword. The node keeps the two words as they are, those of -0 too, whose bounds are +0: R50 does
not say which zero the node records (DESIGN CHOICE, log entry 51). -/
def leaf64 (lane : Nat) (v : DWord) : XMake :=
  match fdecode fmt64 v.toNat with
  | .fin n m e => roundedLeaf lane opLEAF64 (lowWord v) (highWord v) (if n then -(m : Int) else m) e
  | _ => { lane := lane, reg := xInvalid, flags := flagIV }

/-- A leaf from an integer word. -/
def leafInt (isU : Bool) (lane : Nat) (w : Word) : XMake :=
  roundedLeaf lane (if isU then opLEAFU32 else opLEAFI32) w 0 (eval32 isU w) 0

/-- The number of an X operand. -/
def xNum : Opnd → Nat
  | .x i => i.toNat
  | _ => 0

/-- An X source of a lane. -/
def Ctx.xSrc (c : Ctx) (l : Nat) (x : Opnd) : XReg := (c.lane l).xAt (xNum x)

/-- An instruction that writes an X register in each lane of wr from what it reads there (R53, R154). -/
def computeX (m : Major) (o : Op) (s : State) (f : Ctx → Nat → Vals → XMake) : Host.Outcome State Fault Refusal :=
  issue m o s fun c => do
    c.check []
    let g ← c.ready false none
    let ms := g.ins.map fun i => f c i.lane i.vals
    let g ← c.logRoom ms g
    c.faults g
    let evs ← (g.ins.zip ms).mapM fun (i, x) => do
      c.makeX (xNum o.d) x
      let _ ← c.putStream i 0
      c.sticky i.lane x.flags
      pure (i.evs ++ [(i.lane, 4, zext32 (x.flags.setWidth 32))])
    c.finish g.late evs.flatten

/-- A binary or unary interval instruction. -/
def intervalOp (m : Major) (op : Nat) (isUnary : Bool) (o : Op) (s : State) : Host.Outcome State Fault Refusal :=
  computeX m o s fun c l _ => opMake op l (if isUnary then [c.xSrc l o.a] else [c.xSrc l o.a, c.xSrc l o.b])

/-- XMOV: a copy, a negation or an absolute value of an X register, or a leaf from a word (R53, R153, R154). -/
def xmovOp (o : Op) (s : State) : Host.Outcome State Fault Refusal :=
  computeX .xmov o s fun c l v =>
    match o.a with
    | .x _ =>
      let a := c.xSrc l o.a
      match bitsAt o.mod 0 2 with
      | 0 => { lane := l, reg := a }
      | 1 => opMake opNEG l [a]
      | _ => opMake opABS l [a]
    | _ => leaf32 l (lowWord v.a)
/-- XMOV, base form. -/
def execXmov (o : Op) (s : State) : Host.Outcome State Fault Refusal := xmovOp o s
/-- XMOV, extended and literal forms. -/
def execXmovExt (o : Op) (s : State) : Host.Outcome State Fault Refusal := xmovOp o s
/-- XADD, base form (Table 23). -/
def execXadd (o : Op) (s : State) : Host.Outcome State Fault Refusal := intervalOp .xadd opADD false o s
/-- XADD, extended form. -/
def execXaddExt (o : Op) (s : State) : Host.Outcome State Fault Refusal := intervalOp .xadd opADD false o s
/-- XSUB, base form (Table 23). -/
def execXsub (o : Op) (s : State) : Host.Outcome State Fault Refusal := intervalOp .xsub opSUB false o s
/-- XSUB, extended form. -/
def execXsubExt (o : Op) (s : State) : Host.Outcome State Fault Refusal := intervalOp .xsub opSUB false o s
/-- XMUL, base form (Table 23). -/
def execXmul (o : Op) (s : State) : Host.Outcome State Fault Refusal := intervalOp .xmul opMUL false o s
/-- XMUL, extended form. -/
def execXmulExt (o : Op) (s : State) : Host.Outcome State Fault Refusal := intervalOp .xmul opMUL false o s
/-- XDIV (Table 23). -/
def execXdiv (o : Op) (s : State) : Host.Outcome State Fault Refusal := intervalOp .xdiv opDIV false o s
/-- XSQRT (Table 23). -/
def execXsqrt (o : Op) (s : State) : Host.Outcome State Fault Refusal := intervalOp .xsqrt opSQRT true o s
/-- XMIN (Table 23). -/
def execXmin (o : Op) (s : State) : Host.Outcome State Fault Refusal := intervalOp .xmin opMIN false o s
/-- XMAX (Table 23). -/
def execXmax (o : Op) (s : State) : Host.Outcome State Fault Refusal := intervalOp .xmax opMAX false o s

/-- SEVER: the register as a leaf, its history cut (R63). -/
def execSever (o : Op) (s : State) : Host.Outcome State Fault Refusal :=
  computeX .sever o s fun c l _ =>
    let a := c.xSrc l o.a
    if a.invalid then { lane := l, reg := xInvalid }
    else if a.lo == a.hi then leaf32 l a.lo
    else { lane := l, reg := { a with handle := 0, opq := true, exact := false }, node := some (nodeOf opOPAQUE a.lo a.hi 0) }

/-- SNAP: the midpoint as an exact leaf (R64). -/
def execSnap (o : Op) (s : State) : Host.Outcome State Fault Refusal :=
  computeX .snap o s fun c l _ =>
    let a := c.xSrc l o.a
    if a.invalid then { lane := l, reg := xInvalid } else leaf32 l (snapVal a)

/-- The flags word of an X register (R156). -/
def XReg.flagsWord (x : XReg) : Word :=
  (if x.exact then 1 else 0) + (if x.opq then 2 else 0) + (if x.invalid then 4 else 0)

/-- XBND: one word of an X register (R156). -/
def execXbnd (o : Op) (s : State) : Host.Outcome State Fault Refusal :=
  compute .xbnd false (fun _ => []) (fun c l _ =>
    let a := c.xSrc l o.a
    (zext32 (match bitsAt o.mod 0 2 with
      | 0 => if a.invalid then 0x7FC00000 else a.lo
      | 1 => if a.invalid then 0x7FC00000 else a.hi
      | 2 => a.flagsWord
      | _ => a.handle.setWidth 32), 0)) o s

/-- CVT (R158, R159): between lane types, or to an X register as a leaf. -/
def execCvt (o : Op) (s : State) : Host.Outcome State Fault Refusal :=
  let dst := bitsAt o.mod 2 4
  let src := bitsAt o.mod 6 4
  if dst = 15 then
    computeX .cvt o s fun _ l v =>
      match src with
      | 0 => leaf32 l (lowWord v.a)
      | 14 => leaf64 l v.a
      | 12 => leafInt false l (lowWord v.a)
      | _ => leafInt true l (lowWord v.a)
  else
    compute .cvt true (fun _ => []) (fun _ _ v =>
      let r := cvtLane (rmodeOf (bitsAt o.mod 0 2)) dst src v.a.toNat
      (BitVec.ofNat 64 r.1, r.2)) o s

/-- A residue register of a lane (R92). -/
def Lane.eAt (x : Lane) (i : Nat) : Word := tget 0 x.e i

/-- CVTF: a narrowing with error feedback through an E register (R92, R160). Under UN = 1 the one lane that computes reads and
writes its own E register: R117 does not count E among the lane sources, and no rule says whose E it is (DESIGN CHOICE, log
entry 57). -/
def execCvtf (o : Op) (s : State) : Host.Outcome State Fault Refusal :=
  issue .cvtf o s fun c => do
    c.check []
    let (ins, late) ← c.gather true none
    let n := bitsAt o.mod 4 2
    let evs ← ins.mapM fun i => do
      let i ← c.refresh i
      let e : Word := if o.mod.getLsbD 6 then 0 else (c.lane i.lane).eAt n
      let (out, e', fl) := cvtfLane (bitsAt o.mod 0 4) (lowWord i.vals.a).toNat e.toNat
      let ev ← c.result i (BitVec.ofNat 64 out)
      c.onLane i.lane fun y => { y with e := tput 0 y.e n (BitVec.ofNat 32 e') }
      c.sticky i.lane fl
      pure (i.evs ++ ev ++ [(i.lane, 4, zext32 (fl.setWidth 32))])
    c.finish late evs.flatten

/-- What SXP does with one block of 16 lanes: for each lane of the block that takes part, its word, its new residue
(none where the register keeps its value), its status (R85, R92, R213). -/
def sxpBlock (fmt : Nat) (feedback : Bool) (part : List (Nat × Word × Word)) : List (Nat × Word × Option Word × Flags) :=
  let y (w e : Word) : FVal :=
    let x := fdecode fmt32 w.toNat
    if !feedback then x
    else match x, fdecode fmt32 e.toNat with
      | .fin n m d, .fin k p q => faddExact .rn (.fin n m d) (.fin k p q)
      | .fin n m d, _ => faddExact .rn (.fin n m d) (.fin false 0 0)
      | x, _ => x
  let ys := (List.range 16).map fun i =>
    match part.find? fun p => p.1 % 16 == i with
    | some (_, w, e) => y w e
    | none => .fin false 0 0
  let (header, codes, sats, _) := sxEncode fmt ys
  let isNaN := ys.any FVal.isNaN
  part.map fun (l, _, _) =>
    let i := l % 16
    let code := codes.getD i 0
    let sat := sats.getD i false
    let out := sxDecode fmt header code i
    let e := (fround fmt32 .rn (faddExact .rn (ys.getD i (.fin false 0 0)) out.flip)).1
    (l, BitVec.ofNat 32 (header * 2 ^ 16 + code),
      if !feedback || isNaN then none else some (if sat then 0 else BitVec.ofNat 32 e),
      if isNaN then flagIV else if sat then flagOF else 0)

/-- SXP: blocks of 16 lanes packed (R213). -/
def execSxp (o : Op) (s : State) : Host.Outcome State Fault Refusal :=
  issue .sxp o s fun c => do
    c.check []
    let (ins, late) ← c.gather false none
    let n := bitsAt o.mod 4 2
    let feedback := o.mod.getLsbD 6
    let residue (l : Nat) : Word := if o.mod.getLsbD 7 then 0 else (c.lane l).eAt n
    let evs ← (List.range 4).mapM fun b => do
      let here := ins.filter fun i => i.lane / 16 == b
      let outs := sxpBlock (bitsAt o.mod 0 4) feedback (here.map fun i => (i.lane, lowWord i.vals.a, residue i.lane))
      let evs ← (here.zip outs).mapM fun (i, _, w, e, fl) => do
        let ev ← c.result i (zext32 w)
        let kept := e.getD (residue i.lane)
        if feedback then c.onLane i.lane fun y => { y with e := tput 0 y.e n kept } else pure ()
        c.sticky i.lane fl
        pure (i.evs ++ ev ++ [(i.lane, 4, zext32 (fl.setWidth 32))])
      pure evs.flatten
    c.finish late evs.flatten

/-- SXU: one element decoded under its header (R213). -/
def execSxu (o : Op) (s : State) : Host.Outcome State Fault Refusal :=
  compute .sxu true (fun _ => []) (fun _ l v =>
    let w := lowWord v.a
    let x := sxDecode (bitsAt o.mod 0 4) (bitsAt w 16 16) (bitsAt w 0 16) (l % 16)
    (BitVec.ofNat 64 (if x.isNaN then 0x7FC00000 else toF32 x), 0)) o s

end Sys2Proof.Machine
end

