-- ==== Sys2Proof/Machine/Lapidary.lean ====
section
/-! DEFINITION. Decisions and refinement: XSGN, XCMP and XREF (R67 to R69, R155, R157), the bay's lapidary, its queue,
shares and stages (R70 to R76), the exact sums of DOT and L2 (R57, R257), pending reclamation (R61). -/
namespace Sys2Proof.Machine
open Sys2Proof

/-- The exact value of DIST's sum over two rows of elements (R57, R257); none when an element is a NaN or infinite. -/
def dotExact (isL2 : Bool) (fmt d : Nat) (q r : List Byte) : Option (Int × Int) :=
  let bits := elemBits fmt
  let qn := leNat q
  let rn := leNat r
  let vals := (List.range d).flatMap fun j => [typeVal fmt (qn >>> (bits * j)), typeVal fmt (rn >>> (bits * j))]
  if vals.any fun v => v.isNaN || v.isInf then none
  else
    let e := vals.foldl (fun e v => min e v.exp) 0
    let term (j : Nat) : Int :=
      let a := (vals.getD (2 * j) (.fin false 0 0)).intAt e
      let b := (vals.getD (2 * j + 1) (.fin false 0 0)).intAt e
      if isL2 then (a - b) * (a - b) else a * b
    some ((List.range d).foldl (fun t j => t + term j) 0, 2 * e)

/-- Bytes of a row of `d` elements. -/
def rowBytes (fmt d : Nat) : Nat := d * elemBits fmt / 8

/-- The exact value of a DOT or L2 node from the bytes as they are now, read by a request at DEVICE scope (R57, R58, R76,
R167); an error is the fault that a read meets. -/
def State.dotNow (s : State) (memo : Memo) (gid : Nat) (a : Actor) (n k : Node) : State × Memo × Except Found (Option (Int × Int)) :=
  let fmt := bitsAt n.aux 16 4
  let d := bitsAt n.aux 0 16
  let size := rowBytes fmt d
  let row := pairOf n.left (BitVec.ofNat 32 (bitsAt n.right 0 25))
  let isW := k.left.getLsbD 24
  let bent := ((s.group gid).map (·.bent)).getD 0
  match s.typedAt bent (if isW then 1 else 2) (bitsAt k.left 0 (if isW then 22 else 24)) size with
  | .ok q =>
    let (s, memo, x) := s.globalAt memo (s.engineOf gid) (s.spaceOf gid) row size .engineRead
    match x with
    | .ok r =>
      let (s, qs) := s.loadWeak a 0 7 gid q size
      let (s, rs) := s.loadWeak a 0 7 gid r size
      (s, memo, .ok (dotExact (n.op == opL2) fmt d qs rs))
    | x => (s, memo, .error x)
  | x => (s, memo, .error x)

/-- How a request ends: decided, refined to an interval or to INVALID (XREF), a trap, or a fault of a read. `stage` is the
last stage completed; `ran` is the last one that an XREF ran. -/
inductive Verdict where
  | decided (o : Ordering) (stage : Nat)
  | refined (r : Option (Word × Word)) (stage ran : Nat)
  | trapped (cls cause stage nodes : Nat)
  | faulted (f : Found)
deriving DecidableEq, Repr

/-- The last stage that a request has run: one whose evaluation ends the request was run too (R73, R341). -/
def Verdict.ran : Verdict → Nat
  | .decided _ stage => stage
  | .refined _ _ ran => ran
  | .trapped cls cause stage _ => if cls = 7 || cause = 4 then stage + 1 else stage
  | .faulted _ => 0

/-- The roots of a request: for XSGN and XREF the second is the exact point 0. -/
def Request.roots (q : Request) : List Nat := [q.a.handle.toNat, q.b.handle.toNat]

/-- Whether the rational of the difference of two roots at stage 5 has at most 2^20 bits (R68, R73). -/
def differenceFits (x y : SVal) : Bool :=
  match x, y with
  | .rat p, .rat q => ratFits (p - q)
  | _, _ => true

/-- The stages of a request in turn, from the one after `stage` (R72, R73). `target` is the stage an XREF asks for. -/
def runStages (node : Nat → Option Node) (dots : List (Nat × Option (Int × Int))) (order : List Nat) (a b : XReg)
    (target : Option Nat) (hasSqrt hasOpaque : Bool) : Nat → Nat → Word × Word → Verdict
  | 0, stage, last => .refined (some last) stage stage
  | fuel + 1, stage, last =>
    let s := stage + 1
    let stop (e : Stop) : Verdict :=
      match target, e with
      | some _, .invalid _ => .refined none stage s
      | some _, .undecided c => .refined (some last) stage (if c = 4 then s else stage)
      | none, .invalid c => .trapped 7 c stage order.length
      | none, .undecided c => .trapped 6 c stage order.length
    if target == some stage then .refined (some last) stage stage
    else if s == 5 && hasSqrt then stop (.undecided 2)
    else if s == 5 && hasOpaque then stop (.undecided 3)
    else
      match evalGraph node s dots order [] with
      | .error e => stop e
      | .ok vals =>
        match rootVal s vals a, rootVal s vals b with
        | .ok x, .ok y =>
          match target, decideSign x y with
          | none, some o => if s == 5 && !differenceFits x y then stop (.undecided 4) else .decided o s
          | _, _ => runStages node dots order a b target hasSqrt hasOpaque fuel s (svalTo32 x)
        | .error e, _ => stop e
        | _, .error e => stop e

/-- A request run to its end (R72, R73, R75). Where a read faults, what the reads before it have translated stays. -/
def State.runRequest (s : State) (q : Request) : State × Verdict :=
  let nodes := ((s.group q.gid).map (·.nodes)).getD []
  let node (h : Nat) : Option Node := tfind nodes h
  let target := match q.kind with
    | .xref _ t => some t
    | _ => none
  let last := if q.stage = 0 then (q.a.lo, q.a.hi) else q.last
  match graphOf node q.roots with
  | none => (s, match target with
    | some _ => .refined (some last) q.stage q.stage
    | none => .trapped 6 1 q.stage 0)
  | some order =>
    let isDot (h : Nat) : Bool := match node h with
      | some n => n.op == opDOT || n.op == opL2
      | none => false
    let (s, _, dots, bad) := (order.filter isDot).foldl
      (fun (acc : State × Memo × List (Nat × Option (Int × Int)) × Option Found) h =>
        let (s, memo, dots, bad) := acc
        if bad.isSome then acc
        else
          let n := (node h).getD (nodeOf opDOT 0 0 0)
          let k := (node (h + 1)).getD (nodeOf opCONT 0 0 0)
          match s.dotNow memo q.gid (s.requestActor q.gid q.op) n k with
          | (s, memo, .ok v) => (s, memo, (h, v) :: dots, bad)
          | (s, memo, .error f) => (s, memo, dots, some f))
      (s, [], [], none)
    match bad with
    | some f => (s, .faulted f)
    | none =>
      let has (op : Nat) : Bool := order.any fun h => (node h).any fun n => n.op == op
      let loose (x : XReg) : Bool := x.handle == 0 && x.lo != x.hi
      (s, runStages node dots order q.a q.b target (has opSQRT) (has opOPAQUE || loose q.a || loose q.b) 5 q.stage last)

/-- Domains whose lapidary share a request would break in a bay's queue (R40, R70). -/
def State.sharesFull (s : State) (bay : Nat) (q : Request) : List Nat :=
  let queue := (s.bayAt bay).lap
  ((s.domOf q.gid).shares.filter fun p =>
    p.2 < 1 + (queue.filter fun e => ((s.domOf e.gid).shares.map (·.1)).contains p.1).length).map (·.1)

/-- Whether a waiting request may enter the queue: there is room, its shares admit it, and every earlier one is held by
a share (R70). -/
def State.canEnter (s : State) (bay idx : Nat) : Bool :=
  let y := s.bayAt bay
  match y.lapWait[idx]? with
  | none => false
  | some q =>
    y.lap.length < Config.lapidaryQueue && (s.sharesFull bay q).isEmpty &&
    (y.lapWait.take idx).all fun e => !(s.sharesFull bay e).isEmpty

/-- A waiting request entered. -/
def State.enterRequest (s : State) (bay idx : Nat) : State :=
  s.onBay bay fun y => { y with lap := y.lap ++ (y.lapWait[idx]?).toList, lapWait := y.lapWait.eraseIdx idx }

/-- Waiting requests entered as long as one may. -/
def State.enterRequests (s : State) (bay : Nat) : Nat → State
  | 0 => s
  | k + 1 =>
    match (List.range (s.bayAt bay).lapWait.length).find? fun i => s.canEnter bay i with
    | some i => (s.enterRequest bay i).enterRequests bay k
    | none => s

/-- Requests sent by an instruction, in lane order; each holds its roots (R60, R70), and follows the accesses of its lane so
far (R193). -/
def State.sendRequests (s : State) (qs : List Request) : State :=
  match qs with
  | [] => s
  | q :: _ =>
    let bay := s.bayOf q.gid
    let (s, qs) := qs.foldl (fun (acc : State × List Request) q =>
      let (op, s) := acc.1.forked 10 [] [.actor (acc.1.laneActor q.gid q.weave q.lane)] (acc.1.requestActor q.gid)
      (s, acc.2 ++ [{ q with op := op }])) (s, [])
    let s := qs.foldl (fun s q => s.onGroup q.gid fun g => q.roots.foldl (fun g h => g.incRef h) g) s
    let s := s.onBay bay fun y => { y with lapWait := y.lapWait ++ qs }
    (s.countCore (s.coreOf q.gid) 10 qs.length).enterRequests bay qs.length

/-- A request that has left its queue: its roots' counts lowered. A lane has one request of a kind and register. -/
def State.dropRequest (s : State) (bay : Nat) (q : Request) : State :=
  let s := s.onGroup q.gid fun g => q.roots.foldl (fun g h => g.decRef h) g
  s.onBay bay fun y => { y with lap := y.lap.erase q }

/-- The join edge of a request's answer into its lane (R193). -/
def State.answered (s : State) (q : Request) : State :=
  s.edge 10 [] [.actor (s.requestActor q.gid q.op)] [.actor (s.laneActor q.gid q.weave q.lane)]

/-- A request of a lane of the issuing instruction. -/
def Ctx.request (c : Ctx) (l : Nat) (kind : ReqKind) (a b : XReg) : Request :=
  { gid := c.r.gid, weave := c.r.weave, lane := l, pc := c.f.pc, slot := c.f.slot.getD 0, kind := kind, a := a, b := b }

/-- The information of UNDECIDED and INVALID-DECISION records (Table 151). -/
def lapInfo (stage nodes : Nat) (a b : XReg) : List Byte :=
  leBytes 4 stage ++ leBytes 4 nodes ++ leBytes 4 a.handle.toNat ++ leBytes 4 b.handle.toNat

/-- The sign of the difference of two X registers, where their intervals decide it (R67, R68). -/
def decideLane (a b : XReg) : Option Ordering := decideSign (.iv a.ival) (.iv b.ival)

/-- The opcode by which a straddle is seen (Table 159). -/
def ReqKind.opcode : ReqKind → Nat
  | .sgn _ _ => 0x50
  | .cmp _ _ => 0x51
  | .xref _ _ => 0x55
  | .topk => 0x75

/-- A decision written in its lane (R67, R68). -/
def Lane.decide (y : Lane) (kind : ReqKind) (o : Ordering) : Lane :=
  match kind with
  | .sgn pp pn =>
    let set (y : Lane) (x : Opnd) (b : Bool) : Lane := match x with
      | .p i => y.setPred i.toNat b
      | _ => y
    set (set y pp (o == .gt)) pn (o == .lt)
  | .cmp cond pd => match pd with
    | .p i => y.setPred i.toNat (condOf cond o)
    | _ => y
  | _ => y

/-- The lanes left undecided, as one refining fibre at the instruction, with the length of that instruction; the others
go on (R19, R69, R155); halts wider than a lane's take effect now (R327). -/
def Ctx.refine (c : Ctx) (lanes : DWord) : Ex Unit := do
  if lanes = 0 then c.regroup c.f.lanes []
  else
    modify fun s => s.reweave c.r.gid c.r.weave fun v =>
      match v.fibre c.r.fid with
      | none => v
      | some f => v.part f lanes fun x =>
          { x.settled with st := .refining, len := c.len, waitCount := 0, aged := false }
    if c.f.lanes &&& ~~~lanes = 0 then modify fun s => s.settleHalts c.r.gid c.r.weave
    else c.regroup (c.f.lanes &&& ~~~lanes) []

/-- XSGN and XCMP (R67 to R69, R155). -/
def decideOp (m : Major) (o : Op) (s : State) (own : List Nat) (kind : ReqKind) (src : Ctx → Nat → XReg × XReg) :
    Host.Outcome State Fault Refusal :=
  issue m o s fun c => do
    c.check own
    match c.doers.find? fun l => (src c l).1.invalid || (src c l).2.invalid with
    | some l => c.trap 7 0 (lapInfo 0 0 (src c l).1 (src c l).2)
    | none =>
      let open_ := c.doers.filter fun l => (decideLane (src c l).1 (src c l).2).isNone
      c.doers.forM fun l =>
        match decideLane (src c l).1 (src c l).2 with
        | some r => c.onLane l fun y => y.decide kind r
        | none => pure ()
      modify fun s => s.sendRequests (open_.map fun l => c.request l kind (src c l).1 (src c l).2)
      c.watch 0 (open_.map fun l => (l, 5, BitVec.ofNat 64 kind.opcode))
      c.refine (maskOf open_)

/-- XSGN (R155). -/
def execXsgn (o : Op) (s : State) : Host.Outcome State Fault Refusal :=
  decideOp .xsgn o s (if o.d == o.b && o.d != .p 7 then [11] else []) (.sgn o.d o.b) fun c l => (c.xSrc l o.a, {})

/-- XCMP (R155). -/
def execXcmp (o : Op) (s : State) : Host.Outcome State Fault Refusal :=
  decideOp .xcmp o s [] (.cmp (bitsAt o.mod 5 3) o.d) fun c l => (c.xSrc l o.a, c.xSrc l o.b)

/-- XREF (R75, R157): a copy where no stage is asked for or there is no node; INVALID from an INVALID source; otherwise a
request, on which only an instruction that names Xd waits. -/
def execXref (o : Op) (s : State) : Host.Outcome State Fault Refusal :=
  issue .xref o s fun c => do
    c.check []
    let stage := o.ownBits.toNat
    let d := xNum o.d
    let asks := c.doers.filter fun l => stage != 0 && (c.xSrc l o.a).handle != 0 && !(c.xSrc l o.a).invalid
    c.doers.forM fun l =>
      if asks.contains l then pure ()
      else
        let a := c.xSrc l o.a
        modify fun s => s.setX c.r.gid c.r.weave l d (if stage != 0 && a.invalid then xInvalid else a)
    modify fun s => s.sendRequests (asks.map fun l => c.request l (.xref d stage) (c.xSrc l o.a) {})
    c.finish [] (asks.map fun l => (l, 5, 0x55))

/-- A waiting request enters the lapidary queue (R70). -/
def execLapidaryRequestEnter (bay idx : Nat) (s : State) : Host.Outcome State Fault Refusal :=
  if s.canEnter bay idx then .next (s.enterRequest bay idx) else .refused (.notEnabled "LAPIDARY_REQUEST_ENTER")

/-- A request that the lapidary works on (R70): among the first eight, waiting for no page. -/
def State.workOn (s : State) (bay idx : Nat) : Option Request :=
  match (s.bayAt bay).lap[idx]? with
  | some q =>
    if idx < Config.lapidaryActive && q.entries.isEmpty && !(s.die (socketOf q.gid)).held.any (fun e =>
        e.who == .request q.gid q.weave q.lane) then some q else none
  | none => none

/-- Whether a request is an XREF's. -/
def ReqKind.isXref : ReqKind → Bool
  | .xref _ _ => true
  | _ => false

/-- The gauge events of one answer: its lane's, with the last stage completed (Table 159); halts are answered. -/
def State.answerEvent (s : State) (r : FibreRef) (q : Request) (stage : Nat) (isTrap : Bool) :
    State × List (Nat × Nat × Nat) :=
  s.gaugeEvents r q.pc false [(q.lane, 6, BitVec.ofNat 64 (stage + (if isTrap then 256 else 0)))]

/-- A non-recoverable fault of a request's read (R76, R167, R317): charged to the requesting group at the instruction. -/
def State.requestFault (s : State) (r : FibreRef) (q : Request) (f : Found) : State :=
  match f with
  | .bad k a b d => s.takeFault r q.pc (laneBit q.lane) k a b d
  | _ => s

/-- Halts that wait for their instruction, kept in its fibre (R327). -/
def State.keepHalts (s : State) (r : FibreRef) (halts : List (Nat × Nat × Nat)) : State :=
  if halts.isEmpty then s else s.onFibre r fun f => { f with halts := f.halts ++ halts }

/-- The fibre that holds a request's lane. -/
def State.requestFibre (s : State) (q : Request) : FibreRef :=
  let v := ((s.group q.gid).map fun g => g.weave q.weave).getD { size := 0 }
  ⟨q.gid, q.weave, ((v.fibres.find? fun f => f.lanes.getLsbD q.lane).map (·.id)).getD 0⟩

/-- The stages that an answer has run, counted (R72, R341). -/
def State.countStages (s : State) (q : Request) (v : Verdict) : State :=
  (s.countDie (socketOf q.gid) 8 (v.ran - q.stage)).countDie (socketOf q.gid) 9 (if 5 ≤ v.ran then 1 else 0)

/-- An XREF's interval lands in its register (R75). -/
def execXrefAnswer (bay idx : Nat) (s : State) : Host.Outcome State Fault Refusal :=
  match s.workOn bay idx with
  | none => .refused (.notEnabled "XREF_ANSWER")
  | some q =>
    let r := s.requestFibre q
    match q.kind, s.runRequest q with
    | .xref d _, (t, .refined b stage ran) =>
      let x : XReg := match b with
        | some (lo, hi) => { lo := lo, hi := hi, handle := q.a.handle, exact := lo == hi, opq := q.a.opq }
        | none => xInvalid
      let t := t.setX q.gid q.weave q.lane d x
      let t := if b.isNone then t.onLane q.gid q.weave q.lane fun y => { y with sticky := y.sticky ||| flagIV } else t
      let t := (((t.answered q).dropRequest bay q).enterRequests bay 64).countStages q (.refined b stage ran)
      let (t, halts) := t.answerEvent r q stage false
      .next (halts.foldl (fun t h => t.applyHalt q.gid q.weave h) t)
    | .xref _ _, (t, .faulted (.bad k a b d)) => .next (t.requestFault r q (.bad k a b d))
    | _, _ => .refused (.notEnabled "XREF_ANSWER")

/-- A read of the lapidary meets a page that is missing: its entry is posted, and the request alone waits (R76, R311). -/
def execLapidaryTranslationFault (bay idx : Nat) (s : State) : Host.Outcome State Fault Refusal :=
  match s.workOn bay idx with
  | none => .refused (.notEnabled "LAPIDARY_TRANSLATION_FAULT")
  | some q =>
    match s.runRequest q with
    | (t, .faulted (.late f)) =>
      .next (f.foldl (fun t e => t.takeEntry (socketOf q.gid)
        { va := e.1, mask := laneBit q.lane, pc := q.pc, gid := q.gid, weave := q.weave, engine := true, slot := q.slot
          hint := e.2.2, access := 4, kind := e.2.1, who := .request q.gid q.weave q.lane, taken := 0 }) t)
    | _ => .refused (.notEnabled "LAPIDARY_TRANSLATION_FAULT")

/-- Pending reclamation of a group done (R61). -/
def execLogReclaim (gid : Nat) (s : State) : Host.Outcome State Fault Refusal :=
  match s.group gid with
  | some g =>
    if g.nodes.any fun p => p.2.dead then .next (s.setGroup g.reclaimAll) else .refused (.notEnabled "LOG_RECLAIM")
  | none => .refused (.notEnabled "LOG_RECLAIM")

end Sys2Proof.Machine
end

