-- ==== Sys2Proof/Machine/Choice.lean ====
section
/-! DEFINITION. Choice stacks, the kerf, theft and cuts (R272 to R286) and the choice instructions (R287 to R294). -/
namespace Sys2Proof.Machine
open Sys2Proof

/-- Whether a token is in the group's cut set. -/
def Group.posted (g : Group) (t : Word) : Bool := g.cuts.any fun p => p.1 == t

/-- The STOLEN records of a group that hold a token (R283). -/
def Group.holders (g : Group) (t : Word) : Nat :=
  g.weaves.foldl (fun n p => p.2.lanes.foldl (fun n q =>
    n + (q.2.recs.filter fun r => r.stolen && r.token == t).length) n) 0

/-- The lowest STOLEN record of a lane whose token is posted (R283). -/
def Group.cutAt (g : Group) (x : Lane) : Option Nat := x.recs.findIdx? fun r => r.stolen && g.posted r.token

/-- The tokens of discarded records posted, those with CUT set that some STOLEN record holds (R283). -/
def Group.post (g : Group) (rs : List ChoiceRec) : Group :=
  rs.foldl (fun g r =>
    let n := g.holders r.token
    if r.cut && !g.posted r.token && n != 0 then { g with cuts := g.cuts ++ [(r.token, n)] } else g) g

/-- Records `k` and up of a lane discarded: the counts of posted tokens they held lowered, their own tokens posted
(R283). -/
def Group.discard (g : Group) (w l k : Nat) : Group :=
  let v := g.weave w
  let x := v.lane l
  let gone := x.recs.drop k
  ((g.setWeave w (v.setLane l { x with recs := x.recs.take k })).lowerFor gone).post gone

/-- The information of a KERFFULL record for a lane (Table 151). -/
def Ctx.kerfInfo (c : Ctx) (l tokens : Nat) : List Byte :=
  leBytes 4 c.g.recCap ++ leBytes 4 c.g.kerfCap ++ leBytes 4 (c.lane l).recs.length ++
  leBytes 4 (c.lane l).kerf.length ++ leBytes 4 tokens

/-- KERFFULL, cause CUTSET, when what the lanes do in turn would overflow the cut set (R283, R288, R292). `act` gives, for a
lane, the group after the discard it makes, if it makes one, and the group after all it does. -/
def Ctx.cutRoom (c : Ctx) (act : Group → Nat → Option Group × Group) (lanes : List Nat) : Ex Unit :=
  let (_, posts, isFull, lead) := lanes.foldl (fun (acc : Group × Nat × Bool × Option Nat) l =>
    match act acc.1 l with
    | (none, g) => (g, acc.2)
    | (some d, g) =>
      let n := (d.cuts.filter fun q => !acc.1.posted q.1).length
      (g, acc.2.1 + n, acc.2.2.1 || Config.cutSetSize < d.cuts.length, acc.2.2.2 <|> some l)) (c.g, 0, false, none)
  if isFull then c.trap 5 3 (c.kerfInfo (lead.getD 0) posts) else pure ()

/-- A lane's records after the loop of R279, its kerf aside. -/
def Group.advance (g : Group) (w l : Nat) : Nat → Group
  | 0 => g
  | k + 1 =>
    let v := g.weave w
    let x := v.lane l
    match x.recs.getLast? with
    | none => g
    | some r =>
      let rest := x.recs.dropLast
      if r.next < r.count then
        let q := { r with next := r.next + 1 }
        let keep := q.next != q.count || q.stolen || q.cut
        g.setWeave w (v.setLane l { x with recs := rest ++ if keep then [q] else [] })
      else ((g.setWeave w (v.setLane l { x with recs := rest })).lowerFor [r]).advance w l k

/-- A lane's records advanced until the loop of R279 ends. -/
def Group.advanced (g : Group) (w l : Nat) : Group := g.advance w l (((g.weave w).lane l).recs.length + 1)

/-- What a lane of TRY, FAIL, MARK or STEAL does to the records and the cut set, its kerf aside: it unwinds where it holds a
posted token or is in the midst of that (R283), else the instruction's own effect. -/
def Group.choiceAct (w : Nat) (own : Group → Nat → Group) (g : Group) (l : Nat) : Option Group × Group :=
  let x := (g.weave w).lane l
  if x.unwinding then (none, g.advanced w l)
  else match g.cutAt x with
    | none => (none, own g l)
    | some i =>
      let d := g.discard w l i
      (some d, d.advanced w l)

/-- KERFFULL, cause RECORDS, when a lane that would push has a full stack (R284). -/
def Ctx.recordRoom (c : Ctx) : Ex Unit :=
  match c.writers.find? fun l =>
      (c.g.cutAt (c.lane l)).isNone && !(c.lane l).unwinding && c.g.recCap ≤ (c.lane l).recs.length with
  | some l => c.trap 5 1 (c.kerfInfo l 0)
  | none => pure ()

/-- The room that the lanes which unwind need in the cut set, each as those before it leave it (R282, R288). -/
def Ctx.unwindRoom (c : Ctx) (own : Group → Nat → Group) : Ex Unit :=
  c.cutRoom (Group.choiceAct c.r.weave own) c.writers

/-- Where a lane goes after a choice instruction, or the pages its undo waits for. -/
inductive Next where
  | go (pc : DWord) (wb : Nat)
  | late (l : List Late)

/-- A lane as it is now. -/
def Ctx.now (c : Ctx) (l : Nat) : Ex Lane := fun s => .ok (s.lane c.r.gid c.r.weave l, s)

/-- What the undo stores of an issue have brought: the gauge events, the translations settled, which all its lanes share
(R184). -/
structure Undone where
  evs  : List LaneEvent := []
  memo : Memo := []

/-- The kerf of a lane undone to a mark, newest entry first (R278); answered are the pages it waits for. The first argument
after the mark bounds the entries. -/
def Ctx.undo (c : Ctx) (l m : Nat) : Nat → Undone → Ex (List Late × Undone)
  | 0, u => pure ([], u)
  | k + 1, u => do
    let x ← c.now l
    match x.kerf.getLast? with
    | none => pure ([], u)
    | some e =>
      if x.kerf.length ≤ m then pure ([], u)
      else
        let n := 2 ^ e.size.toNat
        let va : DWord := e.addr.setWidth 64
        let (t, memo, p) := c.place u.memo e.space.toNat va n .store (← get)
        set t
        match p with
        | .late f => pure (lateOf l .store f, { u with memo := memo })
        | .bad kd a b d => c.fail kd a b d
        | .ok loc =>
          let bs := leBytes n e.old.toNat
          c.store l va loc bs (scopeOf e.space.toNat 0 false)
          c.onLane l fun y => { y with kerf := y.kerf.dropLast }
          c.undo l m k { memo := memo
                         evs := u.evs ++ [(l, 1, gaugeAddr e.space.toNat va), (l, 3, BitVec.ofNat 64 (leNat bs))] }

/-- The registers that a record carries, restored in its window (R279, R281). -/
def Lane.restore (y : Lane) (r : ChoiceRec) : Lane :=
  (lanesOf (r.mask.setWidth 64)).foldl (fun y i => y.setG (r.wb + i) (tget 0 r.words i)) y

/-- The carried registers of a record restored in its window, and the alternative written (R279). -/
def Lane.resume (y : Lane) (r : ChoiceRec) (alt : Nat) : Lane :=
  (y.restore r).setG (r.wb + r.dest.toNat) (BitVec.ofNat 32 alt)

/-- The loop of R279 in one lane; with no record left it goes to `dry`. -/
def Ctx.failLane (c : Ctx) (l : Nat) (dry : DWord) : Nat → Undone → Ex (Next × Undone)
  | 0, u => pure (.go dry c.f.wb, u)
  | k + 1, u => do
    let x ← c.now l
    match x.recs.getLast? with
    | none => pure (.go dry c.f.wb, u)
    | some r =>
      let (late, u) ← c.undo l r.mark x.kerf.length u
      if !late.isEmpty then pure (.late late, u)
      else
        let top := x.recs.length - 1
        if r.next < r.count then
          let q := { r with next := r.next + 1 }
          let keep := q.next != q.count || q.stolen || q.cut
          c.onLane l fun y => ({ y with recs := y.recs.take top ++ (if keep then [q] else []) }).resume r r.next
          pure (.go r.resume r.wb, u)
        else
          modify fun s => s.onGroup c.r.gid fun g =>
            let v := g.weave c.r.weave
            (g.setWeave c.r.weave (v.setLane l { v.lane l with recs := (v.lane l).recs.take top })).lowerFor [r]
          c.failLane l dry k u

/-- Step 4 of R283 in a lane. Where an undo of it waits for a page, the lane goes on there at the replay (R278, R288). -/
def Ctx.unwindRest (c : Ctx) (l : Nat) (dry : DWord) (u : Undone) : Ex (Option (Next × Undone)) := do
  let x ← c.now l
  let (n, u) ← c.failLane l dry (x.recs.length + 1) u
  let waits := match n with
    | .late _ => true
    | .go _ _ => false
  c.onLane l fun y => { y with unwinding := waits }
  pure (some (n, u))

/-- The unwinding of R283 in a lane that holds a posted token, or that is in the midst of it; none in any other. -/
def Ctx.unwind (c : Ctx) (l : Nat) (dry : DWord) (memo : Memo) : Ex (Option (Next × Undone)) := do
  let x ← c.now l
  if x.unwinding then c.unwindRest l dry { memo := memo }
  else
    match (← get).group c.r.gid with
    | none => pure none
    | some g =>
      match g.cutAt x with
      | none => pure none
      | some i =>
        c.onLane l fun y => { y with recs := y.recs.modify i fun r => { r with originCut := true } }
        let m := ((x.recs[i]?).map (·.mark)).getD 0
        let (late, u) ← c.undo l m x.kerf.length { memo := memo }
        if !late.isEmpty then pure (some (.late late, u))
        else
          modify fun s => s.onGroup c.r.gid fun g => g.discard c.r.weave l i
          c.unwindRest l dry u

/-- What a drive of lanes has done: the lanes that moved, the gauge events, the translations settled, the pages one waits
for, the lanes that are left. -/
structure Driven where
  moved : List (Nat × DWord × Nat) := []
  evs   : List LaneEvent := []
  memo  : Memo := []
  late  : List Late := []
  rest  : List Nat := []

/-- Lanes acting in ascending order until one waits for a page (R282, R288, R290). -/
def Ctx.driveLanes (c : Ctx) (act : Memo → Nat → Ex (Next × Undone)) : List Nat → Driven → Ex Driven
  | [], d => pure d
  | l :: r, d => do
    let (n, u) ← act d.memo l
    let d := { d with evs := d.evs ++ u.evs, memo := u.memo }
    match n with
    | .late f => pure { d with late := f, rest := l :: r }
    | .go pc wb =>
      c.driveLanes act r (if pc = c.fall && wb = c.f.wb then d else { d with moved := d.moved ++ [(l, pc, wb)] })

/-- The lanes of a choice instruction driven and regrouped (R280); where one waits for a page, it and the lanes after it
stay as the replay mask, with those that `early` already wait (R202, R290). `token` stays with the fibre (R275). -/
def Ctx.drive (c : Ctx) (memo : Memo) (lanes : List Nat) (early : List Late) (token : Option Word)
    (act : Memo → Nat → Ex (Next × Undone)) : Ex Unit := do
  let d ← c.driveLanes act lanes { memo := memo }
  let late := early ++ d.late
  let waiting := maskOf (early.map (·.lane) ++ d.rest)
  c.watch (if late.isEmpty then 0 else waiting) d.evs
  let gone := maskOf (d.moved.map (·.1))
  if late.isEmpty then c.regroup (c.f.lanes &&& ~~~gone) d.moved
  else
    modify fun s => s.reweave c.r.gid c.r.weave fun v =>
      match v.fibre c.r.fid with
      | none => v
      | some f =>
        (v.regroup { f with step := if f.step = 0 then 0 else 2 } (f.lanes &&& ~~~gone) f.pc d.moved).onFibre f.id
          fun x => { x with step := f.step, token := token }
    c.waitFor waiting late
    modify fun s => s.settleHalts c.r.gid c.r.weave

/-- The next instruction. -/
def Ctx.onward (c : Ctx) : Next := .go c.fall c.f.wb

/-- Checks of cause 11 that choice instructions share (R288). -/
def Ctx.noJoiner (c : Ctx) : List Nat := if c.joiner then [11] else []

/-- The displacement or absolute target of FAIL and STEAL; ALIGN where it cannot be a PC (R290). -/
def Ctx.label (c : Ctx) : DWord :=
  match c.o.lit with
  | some v => v
  | none => c.f.pc + 4 * c.o.imm22.signExtend 64

/-- ALIGN of a label (R290, R293). -/
def Ctx.labelOk (c : Ctx) : Ex Unit :=
  c.aligned (if bitsAt c.label 0 2 != 0 || bitsAt c.label 57 7 != 0 then [(0, c.label, 4)] else [])

/-- The record that TRY pushes in a lane (R289). -/
def Ctx.tryRec (c : Ctx) (x : Lane) (n : Nat) (token : Word) : ChoiceRec :=
  { resume := c.fall, next := 1, count := n, mark := x.kerf.length
    dest := match c.o.d with
      | .g i => i.setWidth 8
      | _ => 0
    mask := c.o.mod, wb := c.f.wb, token := token
    words := ((List.range 16).filter fun i => c.o.mod.getLsbD i).map fun i => (i, x.gAt (c.f.wb + i)) }

/-- TRY (R289). An issue takes its token before the checks of R284, so that one which they trap has taken it (R275). -/
def execTryOpen (o : Op) (s : State) : Host.Outcome State Fault Refusal :=
  issue .tryOpen o s fun c => do
    c.check ((if (List.range 16).any fun i => o.mod.getLsbD i && c.g.gBudget ≤ c.f.wb + i then [9] else []) ++
      c.valueCheck [1] (fun v => !(1 ≤ (lowWord v.b).toNat && (lowWord v.b).toNat ≤ 65535)) ++ c.noJoiner)
    let g ← c.ready false none
    let token := c.f.token.getD c.g.push
    let count (s : State) : State :=
      if c.f.token.isNone then s.onGroup c.r.gid fun g => { g with push := g.push + 1 } else s
    modify count
    c.recordRoom
    c.unwindRoom fun g _ => g
    c.faults { g with st := count g.st }
    c.backing (96 * g.ins.length)
    c.drive g.memo (g.ins.map (·.lane)) g.late (some token) fun memo l => do
      match ← c.unwind l (c.lane l).stealPc memo with
      | some r => pure r
      | none =>
        let i := (g.ins.find? fun i => i.lane == l).getD { lane := l }
        c.onLane l fun y => { y with recs := y.recs ++ [c.tryRec y (lowWord i.vals.b).toNat token] }
        c.put l false o.d 0
        let _ ← c.putStream i 0
        pure (c.onward, { evs := i.evs, memo := memo })

/-- FAIL (R290). -/
def execFail (o : Op) (s : State) : Host.Outcome State Fault Refusal :=
  issue .fail o s fun c => do
    c.check c.noJoiner
    c.labelOk
    c.unwindRoom fun g l => g.advanced c.r.weave l
    c.backing 0
    c.drive [] c.writers [] none fun memo l => do
      match ← c.unwind l c.label memo with
      | some r => pure r
      | none => c.failLane l c.label ((c.lane l).recs.length + 1) { memo := memo }

/-- MARK (R291). -/
def execMark (o : Op) (s : State) : Host.Outcome State Fault Refusal :=
  issue .mark o s fun c => do
    c.check c.noJoiner
    let g ← c.ready false none
    c.unwindRoom fun g _ => g
    c.faults g
    c.backing 0
    c.drive g.memo (g.ins.map (·.lane)) g.late none fun memo l => do
      match ← c.unwind l (c.lane l).stealPc memo with
      | some r => pure r
      | none =>
        let i := (g.ins.find? fun i => i.lane == l).getD { lane := l }
        let x ← c.now l
        let evs ← c.result i (BitVec.ofNat 64 x.recs.length)
        pure (c.onward, { evs := i.evs ++ evs, memo := memo })

/-- CUT (R283, R292). -/
def execCut (o : Op) (s : State) : Host.Outcome State Fault Refusal :=
  issue .cut o s fun c => do
    c.check c.noJoiner
    let g ← c.ready false none
    let parts := (g.ins.map fun i => (i.lane, (lowWord i.vals.a).toNat)).filter fun p => p.2 < (c.lane p.1).recs.length
    c.cutRoom (fun g l => match parts.find? fun p => p.1 == l with
      | some p => (some (g.discard c.r.weave l p.2), g.discard c.r.weave l p.2)
      | none => (none, g)) (parts.map (·.1))
    c.faults g
    c.backing 0
    g.ins.forM fun i => do
      let _ ← c.putStream i 0
    parts.forM fun p => modify fun s => s.onGroup c.r.gid fun g => g.discard c.r.weave p.1 p.2
    c.finish g.late (g.ins.flatMap (·.evs))

/-- Whether a token is older than another (R275). -/
def olderToken (a b : Word) : Bool := 1 ≤ (b - a).toNat && (b - a).toNat < 2 ^ 31

/-- A record that a lane may steal: its weave, lane and place. -/
structure Victim where
  weave : Nat
  lane  : Nat
  at_   : Nat
  rec_  : ChoiceRec

/-- The victim of a lane (R281): the open record of the oldest token among the other lanes, the lowest lane on a tie. -/
def Group.victim (g : Group) (w l : Nat) : Option Victim :=
  let all := g.weaves.flatMap fun (k, v) => v.lanes.flatMap fun (n, x) =>
    if k == w && n == l then [] else
      (x.recs.zipIdx.filter fun p => p.1.next < p.1.count && !g.posted p.1.token).map fun p => Victim.mk k n p.2 p.1
  all.foldl (fun best v => match best with
    | none => some v
    | some b => if olderToken v.rec_.token b.rec_.token then some v else some b) none

/-- The first alternative that a theft takes (R281). -/
def ChoiceRec.first (r : ChoiceRec) : Nat := r.count - (r.count - r.next + 1) / 2

/-- The records of a victim split (R281): it keeps the lower alternatives, the thief's lane gets a copy. -/
def Group.split (g : Group) (w l : Nat) (v : Victim) : Group :=
  let from_ := g.weave v.weave
  let g := g.setWeave v.weave (from_.setLane v.lane
    { from_.lane v.lane with
      recs := (from_.lane v.lane).recs.modify v.at_ fun r => { r with count := v.rec_.first, cut := true } })
  let mine := g.weave w
  let x := mine.lane l
  g.setWeave w (mine.setLane l { x with
    recs := x.recs ++ [{ v.rec_ with
      next := v.rec_.first + 1, stolen := true, cut := false, originCut := false, mark := x.kerf.length }] })

/-- The records after the theft that a lane makes, if it finds a victim (R281). -/
def Group.stolen (g : Group) (w l : Nat) : Group :=
  match g.victim w l with
  | some v => g.split w l v
  | none => g

/-- A theft made (R281): the records split, the carried registers restored in the thief's lane. -/
def Ctx.take (c : Ctx) (l : Nat) (d : BitVec 6) (v : Victim) : Ex Next := do
  modify fun s => (s.onGroup c.r.gid fun g => g.split c.r.weave l v).countCore (s.coreOf c.r.gid) 14 1
  c.onLane l fun y =>
    ({ y with stealPc := c.f.pc }.restore v.rec_).setG (v.rec_.wb + d.toNat) (BitVec.ofNat 32 v.rec_.first)
  pure (.go v.rec_.resume v.rec_.wb)

/-- One lane of STEAL (R281, R293). -/
def Ctx.stealLane (c : Ctx) (d : BitVec 6) (memo : Memo) (l : Nat) : Ex (Next × Undone) := do
  match ← c.unwind l (c.lane l).stealPc memo with
  | some r => pure r
  | none =>
    match ((← get).group c.r.gid).bind fun g => g.victim c.r.weave l with
    | none => pure (.go c.label c.f.wb, { memo := memo })
    | some v => do
      let n ← c.take l d v
      pure (n, { memo := memo })

/-- Whether the copy that some lane would take puts STEAL's destination beyond the G budget: the lanes are worked out in
order on the state as it would be (R293). -/
def Ctx.stealBad (c : Ctx) (d : BitVec 6) (memo : Memo) : List Nat → Ex Bool
  | [] => pure false
  | l :: r => do
    let s ← get
    let x := s.lane c.r.gid c.r.weave l
    let holds := x.unwinding || (s.group c.r.gid).any fun g => (g.cutAt x).isSome
    let bad := !holds && (((s.group c.r.gid).bind fun g => g.victim c.r.weave l).any fun v =>
      c.g.gBudget ≤ v.rec_.wb + d.toNat)
    if bad then pure true
    else
      let (n, u) ← c.stealLane d memo l
      match n with
      | .late _ => pure false
      | .go _ _ => c.stealBad d u.memo r

/-- STEAL (R281, R293): its destination is checked in the window of the copy that a lane would take, not in its own. -/
def execSteal (o : Op) (s : State) : Host.Outcome State Fault Refusal :=
  issue .steal o s fun c => do
    let d : BitVec 6 := match o.d with
      | .g i => i
      | _ => 0
    let bad := match c.stealBad d [] c.writers (← get) with
      | .ok (b, _) => b
      | .error _ => false
    c.refuse ((if bad then [9] else []) ++ c.noJoiner)
    c.labelOk
    c.recordRoom
    c.unwindRoom fun g l => g.stolen c.r.weave l
    c.backing (96 * c.writers.length)
    c.drive [] c.writers [] none (c.stealLane d)

/-- TRAIL.ON and TRAIL.OFF (R294). -/
def execTrail (o : Op) (s : State) : Host.Outcome State Fault Refusal :=
  issue .trail o s fun c => do
    c.check c.noJoiner
    c.writers.forM fun l => c.onLane l fun y => { y with notrail := o.mod.getLsbD 0 }
    c.finish [] []

end Sys2Proof.Machine
end

