-- ==== Sys2Proof/Machine/Mem.lean ====
section
/-! DEFINITION. Loads, stores, atomics, fences, monitors and streams (R200 to R212). -/
namespace Sys2Proof.Machine
open Sys2Proof

/-- SPACE of a memory operand (R200). -/
def memSpace (o : Op) : Nat := bitsAt o.mod 4 2

/-- The effective address of a memory operand (Table 92). -/
def Ctx.memAddr (c : Ctx) (space scale : Nat) (v : Vals) : DWord :=
  let idx : DWord := if c.o.mod.getLsbD 12 then sext32 (lowWord v.b) <<< scale else 0
  if space = 0 then v.a + idx + c.o.own
  else zext32 (lowWord (zext32 (lowWord v.a) + idx + c.o.own))

/-- The memory operand of LD, ST, LDV, STV, ATOM, CAS and MON (R200, R201). -/
def Ctx.memUse (c : Ctx) (size align : Nat) (acc : Access) : MemUse :=
  { space := (memSpace c.o), size := size, align := align, acc := acc
    ea := fun _ v => some (c.memAddr (memSpace c.o) (bitsAt c.o.mod 9 3) v) }

/-- Whether a global store of a sealed piece names PEERS, SYSTEM or IO (R250). -/
def Ctx.sealedScope (c : Ctx) (space : Nat) : List Nat :=
  if c.s0.isSealed c.r.gid && space == 0 && 8 ≤ c.o.scope.toNat then [11] else []

/-- The gauge events of a load (Table 159). -/
def loadEvents (l : Nat) (va : DWord) (bs : List Byte) : List LaneEvent :=
  [(l, 0, va), (l, 2, BitVec.ofNat 64 (leNat bs))]

/-- The gauge events of a store (Table 159). -/
def storeEvents (l : Nat) (va : DWord) (bs : List Byte) : List LaneEvent :=
  [(l, 1, va), (l, 3, BitVec.ofNat 64 (leNat bs))]

/-- The leaf that a loaded value makes (Table 23). -/
def leafOf (ty lane : Nat) (v : DWord) : XMake := if ty == 7 then leaf64 lane v else leaf32 lane (lowWord v)

/-- The place of a lane's memory operand. -/
def LaneIn.place (i : LaneIn) : Loc := i.loc.getD (.phys [])

/-- LD and LDX (R203, R204): one value a lane, to a register, a stream, or an X register as a leaf. LOGFULL counts a
slot for every writing lane. -/
def loadOp (m : Major) (ty : Nat) (use : Ctx → MemUse) (o : Op) (s : State) : Host.Outcome State Fault Refusal :=
  issue m o s fun c => do
    c.check []
    let n := typeSize ty
    let u := use c
    let g ← c.ready false (some u)
    let isX := match o.d with
      | .x _ => true
      | _ => false
    let g ← if isX then c.logRoomFor c.doers.length 0 g else pure g
    c.faults g
    let evs ← g.ins.mapM fun i => do
      let bs ← c.loadWeak i.lane (c.scopeAt u.space) i.place n
      let seen := loadEvents i.lane (gaugeAddr u.space i.ea) bs
      let v := typeLoad ty bs
      if isX then
        let x := leafOf ty i.lane v
        c.makeX (xNum o.d) x
        c.sticky i.lane x.flags
        pure seen
      else
        let e ← c.result i v
        pure (seen ++ e)
    c.finish g.late evs.flatten

/-- LD (R203). -/
def ldOp (o : Op) (s : State) : Host.Outcome State Fault Refusal :=
  let ty := bitsAt o.mod 0 4
  loadOp .ld ty (fun c => c.memUse (typeSize ty) (typeSize ty) .load) o s
/-- LD, base form. -/
def execLd (o : Op) (s : State) : Host.Outcome State Fault Refusal := ldOp o s
/-- LD, extended and literal forms. -/
def execLdExt (o : Op) (s : State) : Host.Outcome State Fault Refusal := ldOp o s

/-- LDX (R204): the expected read count changes only which lines L1 keeps. -/
def execLdx (o : Op) (s : State) : Host.Outcome State Fault Refusal :=
  let ty := bitsAt o.mod 0 4
  loadOp .ldx ty (fun c =>
    { space := 0, size := typeSize ty, align := typeSize ty, acc := .load
      ea := fun _ v => some (c.memAddr 0 (bitsAt o.mod 13 2) v) }) o s

/-- Whether a .T store of a lane appends a kerf entry (R277). -/
def Lane.trails (x : Lane) : Bool := !x.recs.isEmpty && !x.notrail

/-- KERFFULL, cause ENTRIES, when a lane that trails has a full kerf (R284). -/
def Ctx.kerfRoom (c : Ctx) : Ex Unit :=
  match c.doers.find? fun l => (c.lane l).trails && c.g.kerfCap ≤ (c.lane l).kerf.length with
  | some l => c.trap 5 2 (c.kerfInfo l 0)
  | none => pure ()

/-- A kerf entry of a lane appended, holding the bytes about to be overwritten (R276, R277). -/
def Ctx.trailAt (c : Ctx) (i : LaneIn) (n : Nat) : Ex Unit := do
  let old ← c.load i.place n
  let e : KerfEntry :=
    { space := BitVec.ofNat 4 (memSpace c.o), size := BitVec.ofNat 2 n.log2, addr := i.ea.setWidth 57
      old := BitVec.ofNat 64 (leNat old) }
  c.onLane i.lane fun y => { y with kerf := y.kerf ++ [e] }
  modify fun s => s.countCore (s.coreOf c.r.gid) 13 1

/-- ST (R203, R277). -/
def stOp (o : Op) (s : State) : Host.Outcome State Fault Refusal :=
  issue .st o s fun c => do
    let n := typeSize (bitsAt o.mod 0 4)
    let isT := o.mod.getLsbD 8
    c.check ((if (memSpace o) == 1 || (isT && (memSpace o) == 3) then [11] else []) ++ c.sealedScope (memSpace o))
    let g ← c.ready true (some (c.memUse n n .store))
    if isT then c.kerfRoom else pure ()
    c.faults g
    if isT then c.backing (16 * g.ins.length) else pure ()
    let evs ← g.ins.mapM fun i => do
      let i ← c.refresh i
      let trails := isT && (c.lane i.lane).trails
      if trails then c.trailAt i n else pure ()
      let bs := leBytes n i.vals.d.toNat
      let va := gaugeAddr (memSpace o) i.ea
      c.store i.lane va i.place bs (c.scopeAt (memSpace o)) trails
      let _ ← c.putStream i 0
      pure (i.evs ++ storeEvents i.lane va bs)
    c.finish g.late evs.flatten
/-- ST, base form. -/
def execSt (o : Op) (s : State) : Host.Outcome State Fault Refusal := stOp o s
/-- ST, extended and literal forms. -/
def execStExt (o : Op) (s : State) : Host.Outcome State Fault Refusal := stOp o s

/-- The first register of a vector operand. -/
def gNum : Opnd → Nat
  | .g i => i.toNat
  | _ => 0

/-- Words of LDV and STV (R205). -/
def vecWords (o : Op) : Nat := 4 * 2 ^ bitsAt o.mod 0 2

/-- A part of a place: `n` bytes from `off` on. -/
def Loc.part (l : Loc) (off n : Nat) : Loc :=
  match l with
  | .phys segs => .phys ((segs.foldl (fun (acc : Nat × List (Nat × Nat)) sg =>
      let lo := max acc.1 off
      let hi := min (acc.1 + sg.2) (off + n)
      (acc.1 + sg.2, if lo < hi then acc.2 ++ [(sg.1 + (lo - acc.1), hi - lo)] else acc.2)) (0, [])).2)
  | .data g o => .data g (o + off)
  | .wst o => .wst (o + off)
  | .cst o => .cst (o + off)

/-- LDV (R190, R205): 16-byte units, which nothing orders among themselves. -/
def execLdv (o : Op) (s : State) : Host.Outcome State Fault Refusal :=
  issue .ldv o s fun c => do
    c.check (if gNum o.d % 4 == 0 then [] else [11])
    let (ins, late) ← c.gather false (some (c.memUse (4 * (vecWords o)) 16 .load))
    let evs ← ins.mapM fun i => do
      let bs ← c.loadWeak i.lane (c.scopeAt (memSpace o)) i.place (4 * vecWords o) 16
      let parts := (List.range (vecWords o)).map fun k => (k, (bs.drop (4 * k)).take 4)
      parts.forM fun p => (c.receivers i.lane).forM fun l =>
        c.onLane l fun y => y.setG (c.f.wb + gNum o.d + p.1) (BitVec.ofNat 32 (leNat p.2))
      pure (parts.flatMap fun p =>
        loadEvents i.lane (gaugeAddr (memSpace o) i.ea + BitVec.ofNat 64 (4 * p.1)) p.2)
    c.finish late evs.flatten

/-- STV (R190, R205): 16-byte units in ascending order. -/
def execStv (o : Op) (s : State) : Host.Outcome State Fault Refusal :=
  issue .stv o s fun c => do
    c.check ((if gNum o.d % 4 == 0 && (memSpace o) != 1 then [] else [11]) ++ c.sealedScope (memSpace o))
    let (ins, late) ← c.gather false (some (c.memUse (4 * (vecWords o)) 16 .store))
    let evs ← ins.mapM fun i => do
      let word (k : Nat) : List Byte := leBytes 4 ((c.lane i.lane).gAt (c.f.wb + gNum o.d + k)).toNat
      let va := gaugeAddr (memSpace o) i.ea
      (List.range ((vecWords o) / 4)).forM fun u =>
        c.store i.lane (va + BitVec.ofNat 64 (16 * u)) (i.place.part (16 * u) 16)
          ((List.range 4).flatMap fun k => word (4 * u + k)) (c.scopeAt (memSpace o))
      pure ((List.range (vecWords o)).flatMap fun k => storeEvents i.lane (va + BitVec.ofNat 64 (4 * k)) (word k))
    c.finish late evs.flatten

/-- The number of a K operand. -/
def kNum : Opnd → Nat
  | .k i => i.toNat
  | _ => 0

/-- Whether a lane of LDB or STB is in bounds (R206). -/
def Ctx.inBounds (c : Ctx) (n : Nat) (v : Vals) : Bool :=
  (lowWord v.b).toNat + n ≤ (c.g.kAt (kNum c.o.a + 2)).toNat

/-- The bounded operand of LDB and STB (R206). -/
def Ctx.boundUse (c : Ctx) (n : Nat) (acc : Access) : MemUse :=
  { space := 0, size := n, align := n, acc := acc
    ea := fun _ v => if c.inBounds n v then
        some (pairOf (c.g.kAt (kNum c.o.a)) (c.g.kAt (kNum c.o.a + 1)) + zext32 (lowWord v.b)) else none }

/-- LDB's and STB's check of their four K registers (Table 93). -/
def Ctx.fourK (c : Ctx) : List Nat := if kNum c.o.a % 4 == 0 then [] else [11]

/-- LDB (R206). -/
def execLdb (o : Op) (s : State) : Host.Outcome State Fault Refusal :=
  issue .ldb o s fun c => do
    let ty := bitsAt o.mod 0 4
    let n := typeSize ty
    c.check c.fourK
    let (ins, late) ← c.gather false (some (c.boundUse n .load))
    let evs ← ins.mapM fun i => do
      let isIn := i.loc.isSome
      let bs ← if isIn then c.loadWeak i.lane (c.scopeAt 0) i.place n else pure []
      let e ← c.result i (typeLoad ty bs)
      c.put i.lane false o.c (if isIn then 1 else 0)
      pure (i.evs ++ (if isIn then loadEvents i.lane i.ea bs else []) ++ e)
    c.finish late evs.flatten

/-- STB (R206). -/
def execStb (o : Op) (s : State) : Host.Outcome State Fault Refusal :=
  issue .stb o s fun c => do
    let n := typeSize (bitsAt o.mod 0 4)
    c.check (c.fourK ++ c.sealedScope 0)
    let isQ := match o.b with
      | .q _ => true
      | _ => false
    let (ins, late) ← c.gather (!isQ) (some (c.boundUse n .store))
    let evs ← ins.mapM fun i => do
      let i ← c.refresh i
      let isIn := i.loc.isSome
      let bs := leBytes n i.vals.d.toNat
      if isIn then c.store i.lane i.ea i.place bs (c.scopeAt 0) else pure ()
      let _ ← c.putStream i 0
      c.put i.lane false o.c (if isIn then 1 else 0)
      pure (i.evs ++ (if isIn then storeEvents i.lane i.ea bs else []))
    c.finish late evs.flatten

/-- The new value of ATOM, and the status FADD raises (R207). -/
def atomValue (op : Nat) (isWide isU : Bool) (old c : DWord) : DWord × Flags :=
  let w := if isWide then 64 else 32
  let m := (2 : Nat) ^ w
  let a := old.toNat % m
  let b := c.toNat % m
  let less : Bool := if isU then a < b else decide ((BitVec.ofNat w a).toInt < (BitVec.ofNat w b).toInt)
  match op with
  | 0 => (BitVec.ofNat 64 ((a + b) % m), 0)
  | 1 => (BitVec.ofNat 64 (a &&& b), 0)
  | 2 => (BitVec.ofNat 64 (a ||| b), 0)
  | 3 => (BitVec.ofNat 64 (a ^^^ b), 0)
  | 4 => (BitVec.ofNat 64 (if less then a else b), 0)
  | 5 => (BitVec.ofNat 64 (if less then b else a), 0)
  | 6 => (BitVec.ofNat 64 b, 0)
  | _ =>
    let r := faddV fmt32 .rn (fdecode fmt32 a) (fdecode fmt32 b)
    (BitVec.ofNat 64 r.1, r.2)

/-- Causes 11 of ATOM and CAS (R201, R207, R250). -/
def Ctx.atomRefusals (c : Ctx) : List Nat :=
  if (memSpace c.o) == 1 || (memSpace c.o) == 3 || ((memSpace c.o) == 0 && c.s0.isSealed c.r.gid) then [11] else []

/-- ATOM (R207). -/
def execAtom (o : Op) (s : State) : Host.Outcome State Fault Refusal :=
  issue .atom o s fun c => do
    let op := bitsAt o.mod 0 3
    let isWide := o.mod.getLsbD 3
    let n := if isWide then 8 else 4
    c.check ((if op == 7 && isWide then [11] else []) ++ c.atomRefusals)
    let (ins, late) ← c.gather true (some (c.memUse n n .atomic))
    let evs ← ins.mapM fun i => do
      let i ← c.refresh i
      let old ← c.load i.place n
      let was : DWord := BitVec.ofNat 64 (leNat old)
      let (v, fl) := atomValue op isWide (o.mod.getLsbD 6) was i.vals.c
      let va := gaugeAddr (memSpace o) i.ea
      let bs := leBytes n v.toNat
      c.store i.lane va i.place bs (c.scopeAt (memSpace o)) true
      let e ← if o.mod.getLsbD 7 then c.putStream i 0 else c.result i was
      c.sticky i.lane fl
      pure (i.evs ++ loadEvents i.lane va old ++ storeEvents i.lane va bs ++ e)
    c.finish late evs.flatten

/-- CAS (R208). One that fails still counts as the load of an atomic: it reads the newest value (R191, log entry 52). -/
def execCas (o : Op) (s : State) : Host.Outcome State Fault Refusal :=
  issue .cas o s fun c => do
    let n := if o.mod.getLsbD 3 then 8 else 4
    c.check c.atomRefusals
    let (ins, late) ← c.gather true (some (c.memUse n n .atomic))
    let evs ← ins.mapM fun i => do
      let i ← c.refresh i
      let old ← c.load i.place n
      let va := gaugeAddr (memSpace o) i.ea
      let bs := leBytes n i.vals.c.toNat
      let hit := leNat old == i.vals.d.toNat
      let scope := c.scopeAt (memSpace o)
      if hit then c.store i.lane va i.place bs scope true
      else modify fun s => (s.loadNewest (c.actor i.lane) scope c.r.gid i.place n).1
      let e ← c.result i (BitVec.ofNat 64 (leNat old))
      pure (i.evs ++ loadEvents i.lane va old ++ (if hit then storeEvents i.lane va bs else []) ++ e)
    c.finish late evs.flatten

/-- FENCE (R192, R209): what each writing lane did before it precedes what it does after it, at the scopes up to the one
named. -/
def execFence (o : Op) (s : State) : Host.Outcome State Fault Refusal :=
  issue .fence o s fun c => do
    c.check []
    c.writers.forM fun l => modify fun s => s.fence (c.actor l) o.scope.toNat
    c.finish [] []

/-- The physical line that a MON's operand lies in; none off physical memory. -/
def LaneIn.line (i : LaneIn) : Nat :=
  match i.loc with
  | some (.phys ((pa, _) :: _)) => pa / 64 * 64
  | _ => 0

/-- MON (R196, R210): the monitor of each lane armed on the 64-byte line of its address. -/
def execMon (o : Op) (s : State) : Host.Outcome State Fault Refusal :=
  issue .mon o s fun c => do
    c.check (if (memSpace o) == 0 then [] else [11])
    let (ins, late) ← c.gather false (some (c.memUse 1 1 .load))
    ins.forM fun i => c.onLane i.lane fun y =>
      { y with monArmed := true, monLine := i.ea / 64 * 64, monPa := i.line, monHit := false }
    c.finish late []

/-- The issuing fibre parked (R20): it completes when its wait is met. Halts wider than a lane's take effect now (R327). -/
def Ctx.park (c : Ctx) (w : Wait) : Ex Unit :=
  modify fun s => (s.onFibre c.r fun f =>
    { f with
      st := .parked, wait := w, len := c.len, waitCount := 0, aged := false, replay := 0, pcDue := 0
      waiters := f.waiters ||| c.wr }).settleHalts c.r.gid c.r.weave

/-- MWAIT (R196, R210). -/
def execMwait (o : Op) (s : State) : Host.Outcome State Fault Refusal :=
  issue .mwait o s fun c => do
    c.check []
    let armed := c.writers.filter fun l => (c.lane l).monArmed
    if armed.isEmpty || armed.any fun l => (c.lane l).monHit then c.finish [] []
    else
      c.watch 0 []
      c.park (.monitor (maskOf armed))

/-- Whether a stream-table entry keeps to Table 97. -/
def streamOk (e : List Byte) : Bool :=
  let base := fieldOf e 0 8
  let access := fieldOf e 20 4
  let ty := access % 16
  let scope := access / 2 ^ 9 % 16
  let space := base / 2 ^ 60
  space < 4 && base / 2 ^ 57 % 8 == 0 && access / 2 ^ 13 == 0 && access / 2 ^ 4 % 16 == 0 && (ty < 5 || ty == 6) &&
  (if space == 0 then scope < 11 else scope < 6) && fieldOf e 24 8 == 0

/-- The stream state of an entry, its step 0 (R211). -/
def streamOf (e : List Byte) : QStream :=
  { base := BitVec.ofNat 64 (fieldOf e 0 8), lane := BitVec.ofNat 32 (fieldOf e 8 4)
    stride := BitVec.ofNat 32 (fieldOf e 12 4), length := BitVec.ofNat 32 (fieldOf e 16 4)
    access := BitVec.ofNat 32 (fieldOf e 20 4), step := 0 }

/-- SBIND (R211). -/
def execSbind (o : Op) (s : State) : Host.Outcome State Fault Refusal :=
  issue .sbind o s fun c => do
    let q := match o.d with
      | .q i => i.toNat
      | _ => 0
    let isOff := o.mod.getLsbD 0
    let e := o.ownBits.toNat
    c.check (if e ≤ 255 then [] else [11])
    if isOff then
      c.writers.forM fun l => c.onLane l fun y => { y with q := tdel y.q q }
      c.finish [] []
    else
      let table (i : LaneIn) : Nat := (lowWord i.vals.a).toNat
      let g ← c.readyWith false fun g => g.ins.filterMap fun i =>
        if table i % 32 != 0 then some (i.lane, BitVec.ofNat 64 (table i), 32) else none
      c.faults g
      g.ins.forM fun i => do
        let off := table i + 32 * e
        match (← get).typedAt c.bent 2 off 32 with
        | .ok loc =>
          let bs ← c.loadWeak i.lane (scopeOf 2 0 false) loc 32
          if streamOk bs then
            let _ ← c.putStream i 0
            (c.receivers i.lane).forM fun l => c.onLane l fun y => { y with q := tins y.q q (streamOf bs) }
          else c.fail 4 (BitVec.ofNat 64 (table i)) (BitVec.ofNat 64 e) 0
        | .bad k a b d => c.fail k a b d
        | .late _ => pure ()
      c.finish g.late (g.ins.flatMap (·.evs))

/-- Whether a fibre waits at an MWAIT. -/
def Fibre.monitors (f : Fibre) : Bool :=
  f.isParked && (match f.wait with
    | .monitor _ => true
    | _ => false)

/-- A parked fibre's instruction completed, with the halts that waited for it (R20, R327). -/
def State.completeFibre (s : State) (r : FibreRef) : State :=
  (s.onFibre r Fibre.complete).settleHalts r.gid r.weave

/-- A join edge into the lanes of a fibre that execute its wait, from the updates that it has seen (R193). -/
def State.joined (s : State) (r : FibreRef) (pubs : List Nat) : State :=
  s.edge 10 pubs [] (s.lanesParty r.gid r.weave (((s.fibre r).map fun f => f.lanes &&& f.waiters).getD 0))

/-- An MWAIT wakes: a store, an eviction, a pre-emption, or no cause at all (R196). -/
def execMwaitWake (r : FibreRef) (s : State) : Host.Outcome State Fault Refusal :=
  match s.fibre r with
  | some f => if f.monitors then .next (s.completeFibre r) else .refused (.notEnabled "MWAIT_WAKE")
  | none => .refused (.notEnabled "MWAIT_WAKE")

end Sys2Proof.Machine
end

