-- ==== Sys2Proof/Machine/Sync.lean ====
section
/-! DEFINITION. Arrival words, kicks, pegs and the copy engine (R173 to R179, R214, R215). -/
namespace Sys2Proof.Machine
open Sys2Proof

/-- The A-space word that ASET, AWAIT and KICK name (R214). -/
def Ctx.wordUse (c : Ctx) (size align : Nat) (acc : Access) : MemUse :=
  { space := 2, size := size, align := align, acc := acc
    ea := fun _ v => some (zext32 (lowWord (zext32 (lowWord v.a) + c.o.own))), slots := [0] }

/-- ASET (R178, R214). -/
def execAset (o : Op) (s : State) : Host.Outcome State Fault Refusal :=
  issue .aset o s fun c => do
    let bad (v : Vals) : Bool := lowWord v.b == 0
    c.check (c.valueCheck [1] bad)
    let g ← c.ready false (some (c.wordUse 16 16 .store))
    c.faults g
    g.ins.forM fun i => do
      c.store i.lane i.ea i.place (leBytes 4 (lowWord i.vals.b).toNat ++ leBytes 8 0 ++ leBytes 4 1) 5
      let _ ← c.putStream i 0
    c.finish g.late (g.ins.flatMap (·.evs))

/-- Whether an arrival word at an A-space address has reached a generation (R178). -/
def State.arrived (s : State) (bent off : Nat) (n : Word) : Bool :=
  match s.typedAt bent 2 off 16 with
  | .ok (.data k o) =>
    let gen : Word := BitVec.ofNat 32 (fieldOf (((s.group k).map fun g => g.data.bytes o 16).getD []) 8 4)
    !(gen - n).getLsbD 31
  | _ => false

/-- The places in the memory order of the arrivals that made up the generations of an arrival word up to one (R178, R193):
those, since it was armed, that found it at an earlier generation. -/
def State.arrivalsOf (s : State) (bent off : Nat) (n : Word) : List Nat :=
  match s.typedAt bent 2 off 16 with
  | .ok (.data k o) =>
    s.past.zipIdx.foldl (fun l p =>
      let old (i : Nat) : List Byte := ((p.1.act.cells.find? fun c => c.1 == (1, k, o + i)).map (·.2)).toList
      let gen : Word := BitVec.ofNat 32 (leNat ((List.range 4).flatMap fun i => old (8 + i)))
      if !p.1.act.writes || (old 8).isEmpty then l
      else if !p.1.act.reads then []
      else if leNat (old 12) % 2 == 1 && gen != n && !(n - gen).getLsbD 31 then l ++ [p.2]
      else l) []
  | _ => []

/-- The words that lanes of an AWAIT wait for while others of its lanes are to be replayed (R202, R214). -/
def Fibre.awaited (f : Fibre) : List (Nat × Word) :=
  match f.wait with
  | .await words => words
  | _ => []

/-- The thresholds that lanes of a PWAIT wait for while others of its lanes are to be replayed (R202, R215). -/
def Fibre.thresholds (f : Fibre) : List DWord :=
  match f.wait with
  | .peg _ ts => ts
  | _ => []

/-- A wait put off until the lanes that lack a page have been replayed: what the others wait for stays with the fibre, which
parks for all of them then (R202, R214, R215). -/
def Ctx.putOff (c : Ctx) (w : Wait) (late : List Late) (evs : List LaneEvent) : Ex Unit := do
  c.watch (c.waiting late) evs
  modify fun s => s.onFibre c.r fun f => { f with wait := w, waiters := f.waiters ||| c.wr }
  c.wait late

/-- A join edge into the lanes that execute a wait, from the updates that it has seen (R193). -/
def Ctx.join (c : Ctx) (pubs : List Nat) : Ex Unit :=
  modify fun s => s.edge 10 pubs [] (s.lanesParty c.r.gid c.r.weave (c.wr ||| c.f.waiters))

/-- AWAIT (R178, R214). -/
def execAwait (o : Op) (s : State) : Host.Outcome State Fault Refusal :=
  issue .await o s fun c => do
    c.check []
    let g ← c.ready false (some (c.wordUse 16 16 .load))
    c.faults g
    g.ins.forM fun i => do
      let _ ← c.putStream i 0
    let words := c.f.awaited ++ g.ins.map fun i => (i.ea.toNat, lowWord i.vals.b)
    let s ← get
    if !g.late.isEmpty then c.putOff (.await words) g.late (g.ins.flatMap (·.evs))
    else if words.all fun p => s.arrived c.bent p.1 p.2 then
      c.join (words.flatMap fun p => s.arrivalsOf c.bent p.1 p.2)
      c.finish [] (g.ins.flatMap (·.evs))
    else
      c.watch 0 (g.ins.flatMap (·.evs))
      c.park (.await words)

/-- An arrival word's generation meets the condition (R178). -/
def execAwaitComplete (r : FibreRef) (s : State) : Host.Outcome State Fault Refusal :=
  match s.fibre r with
  | some f =>
    match f.isParked && s.isResident r.gid, f.wait with
    | true, .await words =>
      let bent := ((s.group r.gid).map (·.bent)).getD 0
      if words.all fun p => s.arrived bent p.1 p.2 then
        .next ((s.joined r (words.flatMap fun p => s.arrivalsOf bent p.1 p.2)).completeFibre r)
      else .refused (.notEnabled "AWAIT_COMPLETE")
    | _, _ => .refused (.notEnabled "AWAIT_COMPLETE")
  | none => .refused (.notEnabled "AWAIT_COMPLETE")

/-- Space, address and the rest of a copy record (Table 76). -/
def copySrcSpace (b : List Byte) : Nat := fieldOf b 0 8 / 2 ^ 60
/-- Source address. -/
def copySrc (b : List Byte) : Nat := fieldOf b 0 8 % 2 ^ 57
/-- Destination space. -/
def copyDstSpace (b : List Byte) : Nat := fieldOf b 8 8 / 2 ^ 60
/-- Destination address. -/
def copyDst (b : List Byte) : Nat := fieldOf b 8 8 % 2 ^ 57
/-- Bytes per row. -/
def copyBytes (b : List Byte) : Nat := fieldOf b 16 4 % 2 ^ 24
/-- Rows. -/
def copyRows (b : List Byte) : Nat := fieldOf b 20 2
/-- Arrival-word offset in bytes. -/
def copyWord (b : List Byte) : Nat := 16 * fieldOf b 22 2
/-- Source row stride. -/
def copySrcStride (b : List Byte) : Nat := fieldOf b 24 4
/-- Destination row stride in bytes. -/
def copyDstStride (b : List Byte) : Nat := 16 * fieldOf b 28 2
/-- Peg index. -/
def copyPeg (b : List Byte) : Nat := fieldOf b 30 1
/-- Whether the record has an arrival word. -/
def copyAW (b : List Byte) : Bool := fieldOf b 31 1 % 2 == 1
/-- Whether the record has a peg. -/
def copyPV (b : List Byte) : Bool := fieldOf b 31 1 / 2 % 2 == 1

/-- Whether some bytes of A-space lie in the data part of a group of a bent that has retired (R167). -/
def State.wasData (s : State) (bent off n : Nat) : Bool :=
  ((s.bent bent).map fun b => b.groups.any fun k => match s.group k with
    | none => false
    | some g => g.retired && g.logical ≤ off && off + n ≤ g.logical + g.dataLen).getD false

/-- Whether a copy record keeps to R174 and reaches typed stores within R167 and Table 72 (R176); one that
names the data part of a group that has retired is no record error but SPACE when it runs (R167). -/
def State.copyOk (s : State) (gid bent : Nat) (isJoiner : Bool) (b : List Byte) : Bool :=
  let ss := copySrcSpace b
  let ds := copyDstSpace b
  let n := copyBytes b
  let rows := copyRows b
  let data := ((s.group gid).map (·.dataLen)).getD 0
  let typed (space base stride : Nat) : Bool :=
    space == 0 || (base % 4 == 0 && n % 4 == 0 && stride % 4 == 0 &&
      (List.range rows).all fun r => match s.typedAt bent space (base + r * stride) n with
        | .ok _ => true
        | _ => space == 2 && s.wasData bent (base + r * stride) n)
  (ss == 0 || ss == 2 || ss == 3) && ds < 3 && fieldOf b 0 8 / 2 ^ 57 % 8 == 0 && fieldOf b 8 8 / 2 ^ 57 % 8 == 0 &&
  fieldOf b 19 1 == 0 && n != 0 && rows != 0 && fieldOf b 31 1 < 4 && copyPeg b < 64 && (copyPV b || copyPeg b == 0) &&
  (if copyAW b then !isJoiner && copyWord b + 16 ≤ data else copyWord b == 0) &&
  typed ss (copySrc b) (copySrcStride b) && typed ds (copyDst b) (copyDstStride b)

/-- Whether a bent is being pre-empted (R319): its engines start nothing more. -/
def State.isStopping (s : State) (bent : Nat) : Bool := ((s.bent bent).map fun b => b.st == .stopping).getD false

/-- Kicks that a core's kick register holds: those with a record not yet started (R173). -/
def Bay.kicksOf (y : Bay) (core : Nat) : Nat := (y.kicks.filter fun k => k.any fun c => c.core == core).length

/-- Whether a KICK of `n` lanes finds its kick register too full; one of more lanes than it holds waits until it is empty
(R173, log entry 15). -/
def Bay.kickFull (y : Bay) (core n : Nat) : Bool :=
  n != 0 && Config.kickDepth < y.kicksOf core + min n Config.kickDepth

/-- The records of one lane's kick fetched by the engine, at BAY scope: the kick, or the first record in error with its place
(R173, R175, R176). -/
def Ctx.fetchKick (c : Ctx) (s : State) (i : LaneIn) : State × Except (Nat × Nat) (List CopyRec) :=
  let (op, s) := s.forked 10 [] [.actor (c.actor i.lane)] (s.opActor c.r.gid)
  let (s, bs) := s.loadWeak (s.opActor c.r.gid op) 0 5 c.r.gid i.place (32 * (lowWord i.vals.b).toNat)
  (s, (List.range (lowWord i.vals.b).toNat).mapM fun k =>
    let b := (bs.drop (32 * k)).take 32
    if s.copyOk c.r.gid c.bent c.joiner b then
      .ok { bent := c.bent, gid := c.r.gid, core := c.g.core, pc := c.f.pc, weave := c.r.weave
            slot := c.f.slot.getD 0, bytes := b }
    else .error (i.ea.toNat + 32 * k, 32 * k))

/-- A lane's kick put into the kick register; each record is an operation that follows the lane's accesses so far (R173,
R193). -/
def State.submitKick (s : State) (bay : Nat) (a : Actor) (recs : List CopyRec) : State :=
  let (s, recs) := recs.foldl (fun (acc : State × List CopyRec) r =>
    let (op, s) := acc.1.forked 10 [] [.actor a] (acc.1.opActor r.gid)
    (s, acc.2 ++ [{ r with op := op }])) (s, [])
  s.onBay bay fun y => { y with kicks := y.kicks ++ [recs] }

/-- KICK (R173, R176, R214). -/
def execKick (o : Op) (s : State) : Host.Outcome State Fault Refusal :=
  issue .kick o s fun c => do
    let bay := s.bayOf c.r.gid
    if (s.bayAt bay).kickFull c.g.core c.doers.length then c.stall else pure ()
    let bad (v : Vals) : Bool := !(1 ≤ (lowWord v.b).toNat && (lowWord v.b).toNat ≤ 64)
    c.check (c.valueCheck [1] bad ++ (if s.isSealed c.r.gid then [11] else []))
    let first := c.wordUse 32 32 .load
    let g ← c.ready false (some first)
    c.faults g
    g.ins.forM fun i => do
      let s ← get
      match s.typedAt c.bent 2 i.ea.toNat (32 * (lowWord i.vals.b).toNat) with
      | .ok loc =>
        match c.fetchKick s { i with loc := some loc } with
        | (s, .ok recs) => set (s.submitKick bay (c.actor i.lane) recs)
        | (_, .error (a, off)) => c.fail 3 (BitVec.ofNat 64 a) (BitVec.ofNat 64 off) 0
      | .bad k a b d => c.fail k a b d
      | .late _ => pure ()
      let _ ← c.putStream i 0
    c.finish g.late (g.ins.flatMap (·.evs))

/-- The core whose record starts next: from the one whose turn it is on, the first that has a kick which may start (R173). -/
def Bay.nextCore (y : Bay) (may : CopyRec → Bool) : Option Nat :=
  ((List.range 5).map fun i => (y.turn + i) % 5).find? fun core => y.kicks.any fun k => k.any fun c => c.core == core && may c

/-- The next record of a core that may start, taken from the bay's kicks. -/
def popKick (core : Nat) (may : CopyRec → Bool) : List (List CopyRec) → Option (CopyRec × List (List CopyRec))
  | [] => none
  | k :: r =>
    match k with
    | [] => popKick core may r
    | c :: cs =>
      if c.core == core && may c then some (c, if cs.isEmpty then r else cs :: r)
      else (popKick core may r).map fun p => (p.1, k :: p.2)

/-- The copy engine starts a record in turn (R173); those of a bent that is being pre-empted are kept (R319). -/
def execCopyRecordStart (bay core : Nat) (s : State) : Host.Outcome State Fault Refusal :=
  let y := s.bayAt bay
  let may (c : CopyRec) : Bool := !s.isStopping c.bent
  if y.nextCore may != some core then .refused (.notEnabled "COPY_RECORD_START")
  else match popKick core may y.kicks with
    | some (c, kicks) =>
      .next (s.setBay bay { y with kicks := kicks, started := y.started ++ [c], turn := (core + 1) % 5 })
    | none => .refused (.notEnabled "COPY_RECORD_START")

/-- A non-recoverable fault of an engine operation, charged to a group at the instruction that issued it (R167, R179,
R311). -/
def State.takeEngineFault (s : State) (gid weave : Nat) (pc mask : DWord) (kind : Nat) (w1 w2 w3 : DWord) : State :=
  let conts := s.groupCont gid
  let body := header 16 kind (socketOf gid) conts.length gid (s.domOf gid).id weave 0 0 0 pc mask 0 ++
    leBytes 8 w1.toNat ++ leBytes 8 w2.toNat ++ leBytes 8 w3.toNat
  let s := s.deliver (s.domOf gid) (body :: conts)
  s.endBent (((s.group gid).map (·.bent)).getD 0) gid

/-- A place in any space for an engine operation of a bent. -/
def State.enginePlace (s : State) (memo : Memo) (gid bent space : Nat) (va : DWord) (n : Nat) (acc : Access) :
    State × Memo × Found :=
  if space = 0 then s.globalAt memo (s.engineOf gid) (s.spaceOf gid) va n acc
  else (s, memo, s.typedAt bent space va.toNat n)

/-- How the rows of a copy record end: all written, or stopped before a row by pages or by a fault. -/
inductive RowEnd where
  | done
  | late (row : Nat) (f : List (DWord × Nat × Nat × Nat))
  | bad (kind : Nat) (w1 w2 w3 : DWord)

/-- The pages that a place waits for, with the access code. -/
def latePages (f : Found) (code : Nat) : List (DWord × Nat × Nat × Nat) :=
  match f with
  | .late l => l.map fun e => (e.1, e.2.1, e.2.2, code)
  | _ => []

/-- The scope of an engine operation's accesses to a space: DEVICE, BAY in typed stores (R175, R185). -/
def engineScope (space : Nat) : Nat := if space = 0 then 7 else 5

/-- Rows copied from one on, each read whole and then written: R175 leaves the order of rows and bytes open, and what it
leaves open where rows or source and destination overlap the model settles so (log entry 51). -/
def State.copyRowsFrom (s : State) (memo : Memo) (c : CopyRec) : Nat → Nat → State × RowEnd
  | 0, _ => (s, .done)
  | k + 1, r =>
    let n := copyBytes c.bytes
    let src : DWord := BitVec.ofNat 64 (copySrc c.bytes + r * copySrcStride c.bytes)
    let dst : DWord := BitVec.ofNat 64 (copyDst c.bytes + r * copyDstStride c.bytes)
    let (s, memo, x) := s.enginePlace memo c.gid c.bent (copySrcSpace c.bytes) src n .engineRead
    let (s, memo, y) := s.enginePlace memo c.gid c.bent (copyDstSpace c.bytes) dst n .engineWrite
    match x, y with
    | .bad kd a b d, _ => (s, .bad kd a b d)
    | _, .bad kd a b d => (s, .bad kd a b d)
    | .ok p, .ok q =>
      let bay := s.bayOf c.gid
      let (s, bs) := s.loadWeak (s.opActor c.gid c.op) 0 (engineScope (copySrcSpace c.bytes)) c.gid p n
      ((s.storeAt bay q bs (s.opActor c.gid c.op) (engineScope (copyDstSpace c.bytes))).countDie (socketOf c.gid) 7 n).copyRowsFrom memo c k (r + 1)
    | x, y => (s, .late r (latePages x 4 ++ latePages y 5))

/-- Bytes added to an arrival word of a group's data part by an operation, as one atomic update at BAY scope (R178). At a
target of 0, which a store can leave in an armed word, R178's loop has no end: the model then adds no generation (log
entry 51). -/
def State.arrival (s : State) (gid off bytes : Nat) (a : Actor) : State :=
  let past := s.recorded a 5 true (s.cellsAt 0 (.data gid off) 16)
  ({ s with past := past } : State).onGroup gid fun g =>
    let w := g.data.bytes off 16
    let target := fieldOf w 0 4
    let flags := fieldOf w 12 4
    if flags % 2 == 1 then
      let count := fieldOf w 4 4 + bytes
      let gens := if target = 0 then 0 else count / target
      { g with data := g.data.putBytes (off + 4) (leBytes 4 (count - gens * target) ++
          leBytes 4 ((fieldOf w 8 4 + gens) % 2 ^ 32)) }
    else { g with data := g.data.putBytes (off + 12) (leBytes 4 (flags ||| 2)) }

/-- A peg advanced by an engine operation; a fault on the table is the group's (R179). -/
def State.enginePeg (s : State) (gid weave : Nat) (pc mask : DWord) (n : Nat) (v : DWord) (a : Actor) : State :=
  match s.pegAt [] (s.engineOf gid) gid n .atomic with
  | (s, _, .ok pa) => s.addPeg pa v a
  | (s, _, .error (.fault k a b d)) => s.takeEngineFault gid weave pc mask k a b d
  | (s, _, .error (.page _ _)) => s

/-- Whether a group's bent has been ended (R303). -/
def State.isEnding (s : State) (gid : Nat) : Bool := ((s.bentOf gid).map fun b => b.st == .ending || b.st == .ended).getD true

/-- Whether an engine operation still waits for entries (R315). -/
def State.engineWaits (s : State) (socket : Nat) (entries : List Word) (who : Faulter) : Bool :=
  !entries.isEmpty || (s.die socket).held.any fun e => e.who == who

/-- A record's bytes are written; its arrival word and peg are updated (R175). Where pages are missing the record waits,
its rows so far written, that of an ended bent too (R176). -/
def execCopyRecordComplete (bay idx : Nat) (s : State) : Host.Outcome State Fault Refusal :=
  match (s.bayAt bay).started[idx]? with
  | none => .refused (.notEnabled "COPY_RECORD_COMPLETE")
  | some c =>
    let who : Faulter := .copy c.gid c.bytes
    if s.engineWaits (socketOf c.gid) c.entries who then .refused (.notEnabled "COPY_RECORD_COMPLETE")
    else
      let drop (s : State) : State := s.onBay bay fun y => { y with started := y.started.eraseIdx idx }
      let (t, e) := s.copyRowsFrom [] c (copyRows c.bytes - c.row) c.row
      match e with
      | .done =>
        let t := drop t
        let a := s.opActor c.gid c.op
        let t := if copyAW c.bytes then t.arrival c.gid (copyWord c.bytes) (copyRows c.bytes * copyBytes c.bytes) a else t
        .next (if copyPV c.bytes then t.enginePeg c.gid c.weave c.pc 0 (copyPeg c.bytes) 1 a else t)
      | .bad k a b d => .next ((drop t).takeEngineFault c.gid c.weave c.pc 0 k a b d)
      | .late r f =>
        let t := t.onBay bay fun y => { y with started := y.started.modify idx fun c => { c with row := r } }
        .next (f.foldl (fun t p => t.takeEntry (socketOf c.gid)
          { va := p.1, mask := 0, pc := c.pc, gid := c.gid, weave := c.weave, engine := true, slot := c.slot
            hint := p.2.2.1, access := p.2.2.2, kind := p.2.1, who := who, taken := 0 }) t)

/-- The operand of PADV and PWAIT (R215). -/
def Ctx.pegValue (c : Ctx) (v : Vals) : DWord := if c.o.mod.getLsbD 6 then v.b else zext32 (lowWord v.b)

/-- The physical address of the instruction's peg; RESIDENT where it cannot be had (R179). -/
def Ctx.pegOf (c : Ctx) (memo : Memo) (acc : Access) : Ex (Nat × Memo) := do
  let (t, memo, x) := (← get).pegAt memo c.agent c.r.gid (bitsAt c.o.mod 0 6) acc
  set t
  match x with
  | .ok pa => pure (pa, memo)
  | .error (.fault k a b d) => c.fail k a b d
  | .error (.page _ _) => c.fail 10 (t.pegVa c.r.gid (bitsAt c.o.mod 0 6)) 0 0

/-- PADV (R179, R215): every lane sees one translation of the peg's page (R184). -/
def execPadv (o : Op) (s : State) : Host.Outcome State Fault Refusal :=
  issue .padv o s fun c => do
    c.check (if s.isSealed c.r.gid then [11] else [])
    let g ← c.ready false none
    c.faults g
    let _ ← g.ins.foldlM (fun memo i => do
      let (pa, memo) ← c.pegOf memo .atomic
      modify fun s => s.addPeg pa (c.pegValue i.vals) (c.actor i.lane)
      let _ ← c.putStream i 0
      pure memo) g.memo
    c.finish g.late (g.ins.flatMap (·.evs))

/-- PWAIT (R179, R215). -/
def execPwait (o : Op) (s : State) : Host.Outcome State Fault Refusal :=
  issue .pwait o s fun c => do
    c.check []
    let g ← c.ready false none
    c.faults g
    let evs := g.ins.flatMap (·.evs)
    g.ins.forM fun i => do
      let _ ← c.putStream i 0
    let ts := c.f.thresholds ++ g.ins.map fun i => c.pegValue i.vals
    let va := s.pegVa c.r.gid (bitsAt o.mod 0 6)
    if !g.late.isEmpty then c.putOff (.peg va ts) g.late evs
    else if ts.isEmpty then c.finish [] []
    else
      let (pa, _) ← c.pegOf g.memo .load
      let v := (← get).dword pa
      if ts.all fun t => pegMet v t then
        c.join ((← get).advancesOf pa)
        c.finish [] evs
      else
        c.watch 0 evs
        c.park (.peg va ts)

/-- A peg reaches the thresholds and the parked fibre becomes ready (R215); a fault on the table is RESIDENT (R179). -/
def execPwaitComplete (r : FibreRef) (s : State) : Host.Outcome State Fault Refusal :=
  match s.fibre r with
  | some f =>
    match f.isParked && s.isResident r.gid, f.wait with
    | true, .peg va ts =>
      let (t, x) := s.translate (s.agentOf r.gid) (s.spaceOf r.gid) va .load
      match x.mapError (tableFault 10 va) with
      | .ok pa =>
        if ts.all fun k => pegMet (t.dword pa) k then .next ((t.joined r (t.advancesOf pa)).completeFibre r)
        else .refused (.notEnabled "PWAIT_COMPLETE")
      | .error (.fault k a b d) => .next (t.takeFault r f.pc f.lanes k a b d)
      | .error (.page _ _) => .next (t.takeFault r f.pc f.lanes 10 va 0 0)
    | _, _ => .refused (.notEnabled "PWAIT_COMPLETE")
  | none => .refused (.notEnabled "PWAIT_COMPLETE")

end Sys2Proof.Machine
end

