-- ==== Sys2Proof/Machine/Matrix.lean ====
section
/-! DEFINITION. The bay's matrix engine: its commands at issue (R216 to R218, R220 to R223), guards (R181, R224), the
operand rows (R219 to R222, R99), the K step (R94 to R98), retirement (R100, R180). -/
namespace Sys2Proof.Machine
open Sys2Proof

/-- Bytes of a row of `k` elements in a format's element plane (R82, R84). -/
def planeBytes (fmt k : Nat) : Nat := if fmt == 6 then 2 * ((k + 2) / 3) else (k * elemBits fmt + 7) / 8

/-- Whether a format is one of the SX family. -/
def isSx (fmt : Nat) : Bool := 5 ≤ fmt && fmt ≤ 7

/-- Bytes of a row of `k` elements in a format's header plane (R84, R219). -/
def headerBytes (fmt k : Nat) : Nat := if isSx fmt then 2 * ((k + 15) / 16) else 0

/-- Format of A. -/
def MCmd.fa (c : MCmd) : Nat := bitsAt c.mod 0 4
/-- Format of B. -/
def MCmd.fb (c : MCmd) : Nat := bitsAt c.mod 4 4
/-- Space of operand A, of MLDC's source, or of MSTC's destination. -/
def MCmd.sa (c : MCmd) : Nat := bitsAt c.mod 10 2
/-- Space of operand B. -/
def MCmd.sb (c : MCmd) : Nat := bitsAt c.mod 12 2
/-- K of the shape word (R218). -/
def MCmd.k (c : MCmd) : Nat := bitsAt c.shape 0 16
/-- Row stride of A in bytes. -/
def MCmd.strideA (c : MCmd) : Nat := 16 * bitsAt c.shape 16 8
/-- Row stride of B in bytes. -/
def MCmd.strideB (c : MCmd) : Nat := 16 * bitsAt c.shape 24 8
/-- Whether the command computes K steps. -/
def MCmd.isStep (c : MCmd) : Bool := c.major == .mma || c.major == .mmas || c.major == .mconv

/-- Steps of a command: K steps (R94), or the rows of MLDC and MSTC. -/
def MCmd.total (c : MCmd) : Nat :=
  match c.major with
  | .mldc | .mstc => 64
  | .mzero => 0
  | _ => (c.k + stepElems c.fa - 1) / stepElems c.fa

/-- The typed ranges of 64 rows and their headers, as offset and length (R166, R167, R219). -/
def rowRanges (base stride fmt k : Nat) : List (Nat × Nat) :=
  (List.range 64).flatMap fun i =>
    (base + stride * i, planeBytes fmt k) ::
      (if isSx fmt then [(base + 64 * stride + headerBytes fmt k * i, headerBytes fmt k)] else [])

/-- The typed ranges that a command reaches: space, offset, length (R217, R220, R221, R223). -/
def MCmd.ranges (c : MCmd) : List (Nat × Nat × Nat) :=
  let rows (space : Nat) (l : List (Nat × Nat)) : List (Nat × Nat × Nat) :=
    if space = 0 then [] else l.map fun r => (space, r.1, r.2)
  let b := rows c.sb (rowRanges c.opB.toNat c.strideB c.fb c.k)
  match c.major with
  | .mma | .mmas =>
    (if c.sa = 3 then [] else rows c.sa (rowRanges c.opA.toNat c.strideA c.fa c.k)) ++ b ++
      (if c.major == .mmas then [(2, c.bitmap.toNat, (c.k + 7) / 8)] else [])
  | .mconv => rows c.sa [(c.opA.toNat, 64)] ++ b
  | .mldc => rows c.sa ((List.range 64).map fun i =>
      ((if c.sa = 3 then 16384 * c.stile else c.opA.toNat) + c.shape.toNat * i, 256))
  | .mstc => rows c.sa (rowRanges c.opA.toNat c.shape.toNat c.fa 64)
  | _ => []

/-- The command that an instruction makes of a lane's operands (R216, Table 99). -/
def Ctx.command (c : Ctx) (v : Vals) : MCmd :=
  let own := c.o.ownBits
  { bent := c.bent, gid := c.r.gid, pc := c.f.pc, major := c.m, mod := c.o.mod, tile := bitsAt own 0 6
    peg := if c.o.mod.getLsbD 9 then some (bitsAt own 6 6) else none
    guard := if c.o.mod.getLsbD 8 then some (bitsAt own 12 4) else none
    stile := bitsAt own 16 6, opA := v.a, opB := v.b, shape := lowWord v.c, bitmap := zext32 (lowWord v.d)
    slot := c.f.slot.getD 0 }

/-- Whether a command's register values and fields break its operand rules: ILLEGAL, cause 11 (R217, R218, R221,
R223). -/
def MCmd.broken (c : MCmd) : Bool :=
  let shape := c.k == 0
  match c.major with
  | .mma | .mmas => shape || (c.sa == 3 && (c.strideA != 256 || 64 < c.k || c.stile == c.tile))
  | .mconv => shape || c.strideA != 0
  | .mldc => c.shape.toNat % 16 != 0 || (c.sa == 3 && c.stile == c.tile)
  | .mstc => c.shape.toNat % 16 != 0 || c.sa == 1 || c.sa == 3
  | _ => false

/-- Operand bases that must be multiples of 16 (R218, R221). -/
def MCmd.bases (c : MCmd) : List DWord :=
  match c.major with
  | .mma | .mmas => (if c.sa = 3 then [] else [c.opA]) ++ [c.opB]
  | .mconv => [c.opB]
  | _ => []

/-- The first typed range of a command that does not lie in its store. -/
def State.rangeBad (s : State) (c : MCmd) : Option (Nat × DWord × DWord × DWord) :=
  c.ranges.findSome? fun r => match s.typedAt c.bent r.1 r.2.1 r.2.2 with
    | .bad k a b d => some (k, a, b, d)
    | _ => none

/-- A command put at the end of a bay's queue: an operation that follows the issuing lane's accesses so far (R180, R193). -/
def State.submitCommand (s : State) (bay : Nat) (a : Actor) (c : MCmd) : State :=
  let (op, s) := s.forked 10 [] [.actor a] (s.opActor c.gid)
  s.onBay bay fun y => { y with mq := y.mq ++ [{ c with op := op }] }

/-- One matrix command put into the bay's queue (R180, R216, R217): it waits at issue for room. -/
def commandOp (m : Major) (o : Op) (s : State) : Host.Outcome State Fault Refusal :=
  issue m o s fun c => do
    let bay := s.bayOf c.r.gid
    let y := s.bayAt bay
    let cmds := c.peek.map fun v => c.command v.2
    if c.joiner && Config.matrixQueue < y.mq.length + cmds.length then c.stall else pure ()
    let isFree (x : MCmd) : Bool := x.guard.any fun n => tget .free y.guards n == .free
    c.check ((if c.joiner then [] else [10]) ++ (if cmds.any fun x => x.broken || isFree x then [11] else []))
    c.aligned (cmds.flatMap fun x => (x.bases.filter fun a => a.toNat % 16 != 0).map fun a => (0, a, 16))
    let g ← c.ready false none
    c.faults { g with bad := firstBad g.bad (cmds.findSome? s.rangeBad) }
    g.ins.forM fun i => do
      modify fun s => s.submitCommand bay (c.actor i.lane) (c.command i.vals)
      let _ ← c.putStream i 0
    c.finish g.late (g.ins.flatMap (·.evs))

/-- MMA (R218). -/
def execMma (o : Op) (s : State) : Host.Outcome State Fault Refusal := commandOp .mma o s
/-- MMAS (R220). -/
def execMmas (o : Op) (s : State) : Host.Outcome State Fault Refusal := commandOp .mmas o s
/-- MCONV (R221). -/
def execMconv (o : Op) (s : State) : Host.Outcome State Fault Refusal := commandOp .mconv o s
/-- MZERO (R223). -/
def execMzero (o : Op) (s : State) : Host.Outcome State Fault Refusal := commandOp .mzero o s
/-- MLDC (R223). -/
def execMldc (o : Op) (s : State) : Host.Outcome State Fault Refusal := commandOp .mldc o s
/-- MSTC (R223). -/
def execMstc (o : Op) (s : State) : Host.Outcome State Fault Refusal := commandOp .mstc o s

/-- Whether GUARD of a slot waits at issue (Table 80). -/
def Bay.guardBusy (y : Bay) (n : Nat) : Bool := tget .free y.guards n == .opened || y.mq.any fun c => c.guard == some n

/-- GUARD (R181, R224). -/
def execGuard (o : Op) (s : State) : Host.Outcome State Fault Refusal :=
  issue .guard o s fun c => do
    let bay := s.bayOf c.r.gid
    let n := o.ownBits.toNat
    if c.joiner && n ≤ 15 && !c.doers.isEmpty && (s.bayAt bay).guardBusy n then c.stall else pure ()
    c.check ((if c.joiner then [] else [10]) ++ (if n ≤ 15 then [] else [11]))
    if c.doers.isEmpty then pure ()
    else modify fun s => s.onBay bay fun y => { y with guards := tput .free y.guards n .opened }
    c.finish [] []

/-- A guard slot of a bent as a meeting point of edges (Table 88). -/
def guardParty (bent n : Nat) : Party := .unit 2 (16 * bent + n)

/-- A GSET on a slot: the first to reach an OPEN slot resolves it, and every other is late (Table 80); one that resolves it
TRUE is a fork edge into the commands that it guards (R193). -/
def State.setGuard (s : State) (bay bent n : Nat) (v : Bool) (a : Actor) : State :=
  if tget .free (s.bayAt bay).guards n == .opened then
    let s := if v then s.edge 10 [] [.actor a] [guardParty bent n] else s
    s.onBay bay fun y => { y with guards := tput .free y.guards n (if v then .yes else .no) }
  else s.onBent bent fun b => { b with late := true }

/-- GSET (R181, R224). -/
def execGset (o : Op) (s : State) : Host.Outcome State Fault Refusal :=
  issue .gset o s fun c => do
    let bay := s.bayOf c.r.gid
    let claim := ((s.bent c.bent).map (·.claim)).getD false
    c.check ((if claim then [] else [11]) ++ c.valueCheck [0] fun v => 15 < (lowWord v.a).toNat)
    let (ins, late) ← c.gather false none
    ins.forM fun i => do
      modify fun s => s.setGuard bay c.bent (lowWord i.vals.a).toNat (i.vals.b != 0) (c.actor i.lane)
      let _ ← c.putStream i 0
    c.finish late (ins.flatMap (·.evs))

/-- Why a running command stops: pages that are missing, with the access code; a fault; an MCONV record in error. -/
inductive EngStop where
  | late (pages : List (DWord × Nat × Nat)) (code : Nat)
  | bad (kind : Nat) (w1 w2 w3 : DWord)
  | record

/-- A running command: the state and its translations; what has been done stays done when it stops. -/
abbrev Eng := ExceptT EngStop (StateM (State × Memo))

/-- Where a command's bytes lie. -/
def MCmd.place (c : MCmd) (space : Nat) (va : DWord) (n : Nat) (acc : Access) : Eng Loc := do
  let (s, memo) ← get
  let (s, memo, x) := s.enginePlace memo c.gid c.bent space va n acc
  set (s, memo)
  match x with
  | .ok p => pure p
  | .late l => throw (.late l acc.code)
  | .bad k a b d => throw (.bad k a b d)

/-- The scope of a command's accesses to a space: DEVICE, BENT in typed stores (R180, R223, R185). -/
def commandScope (space : Nat) : Nat := if space = 0 then 7 else 4

/-- Bytes that a command reads at a place. -/
def MCmd.load (c : MCmd) (space : Nat) (p : Loc) (n chunk : Nat) : Eng (List Byte) := do
  let (s, memo) ← get
  let (s, bs) := s.loadWeak (s.opActor c.gid c.op) 0 (commandScope space) c.gid p n chunk
  set (s, memo)
  pure bs

/-- Bytes that a command reads. -/
def MCmd.read (c : MCmd) (space : Nat) (va : DWord) (n : Nat) : Eng (List Byte) := do
  c.load space (← c.place space va n .engineRead) n n

/-- Where element `k` of a row lies in its plane: byte offset, first bit, bytes (R82, R84, Table 34). -/
def elemAt (fmt k : Nat) : Nat × Nat × Nat :=
  if fmt == 6 then (2 * (k / 3), 5 * (k % 3), 2)
  else
    let bit := elemBits fmt * k
    (bit / 8, bit % 8, (bit % 8 + elemBits fmt + 7) / 8)

/-- Element `k` of row `i` of an operand in a store or in memory (R219). -/
def MCmd.memElem (c : MCmd) (space : Nat) (base : DWord) (stride fmt i k : Nat) : Eng FVal := do
  let (lo, bit, n) := elemAt fmt k
  let code := leNat (← c.read space (base + BitVec.ofNat 64 (stride * i + lo)) n) / 2 ^ bit
  if isSx fmt then
    let h ← c.read space (base + BitVec.ofNat 64 (64 * stride + headerBytes fmt c.k * i + 2 * (k / 16))) 2
    pure (sxDecode fmt (leNat h) code (k % 16))
  else pure (typeVal fmt code)

/-- Whether a sparsity bitmap marks element `k` of row `i` (R220). -/
def MCmd.marked (c : MCmd) (isB : Bool) (i k : Nat) : Bool :=
  c.major == .mmas && c.mod.getLsbD 14 == isB && (c.map.getD (k / 8) 0).getLsbD (i / 8)

/-- The value +0. -/
def plusZero : FVal := .fin false 0 0

/-- The element at row `i` and column `k` of a C-space A operand, as its tile's INT bit has it (R99); one that the bitmap
marks is +0 from the start (R98). -/
def MCmd.tileElem (c : MCmd) (bay i k : Nat) : Eng FVal := do
  if c.marked false i k then pure plusZero
  else
    let w := leNat (← c.load 3 (.cst (16384 * c.stile + 256 * i + 4 * k)) 4 4)
    pure (typeVal (if (tget 0 ((← get).1.bayAt bay).tiles c.stile).getLsbD 4 then 12 else 0) w)

/-- Elements of a row of a C-space A operand, from K step `k0` on, converted to A's format, and the status that an SX
encoding raises (R99, R85). R85 encodes FP32 values and R99 does not say that an I32 element is rounded to FP32 first:
the model encodes its exact value (log entry 51). -/
def MCmd.tileRow (c : MCmd) (elems : List FVal) : List FVal × BitVec 5 :=
  if isSx c.fa then
    let blocks := (List.range ((elems.length + 15) / 16)).map fun b =>
      let (h, codes, _, fl) := sxEncode c.fa ((List.range 16).map fun j => elems.getD (16 * b + j) plusZero)
      (codes.zipIdx.map fun (m, j) => sxDecode c.fa h m j, fl)
    let fl := blocks.foldl (fun a b => a ||| b.2) (0 : Flags)
    ((blocks.flatMap (·.1)).take elems.length, (if fl &&& flagIV != 0 then 1 else 0) ||| (if fl &&& flagOF != 0 then 2 else 0))
  else (elems.map fun v => typeVal c.fa (convertTo .rn c.fa v).1, 0)

/-- A 16-bit field of a tensor shape record (Table 100). -/
def half (r : List Byte) (off : Nat) : Nat := fieldOf r off 2
/-- An 8-bit field of a tensor shape record. -/
def byteOf (r : List Byte) (off : Nat) : Nat := fieldOf r off 1

/-- Whether a tensor shape record is free of error for a command (R222, Table 100). Bits of the padding element above its
width, which Table 100 has as zero, are an error as reserved fields are (DESIGN CHOICE, log entry 40). -/
def MCmd.recordOk (c : MCmd) (r : List Byte) : Bool :=
  let space := fieldOf r 0 8 / 2 ^ 60
  [20, 22, 24, 26, 28, 30].all (fun o => half r o != 0) &&
  [32, 33, 34, 35, 38, 39].all (fun o => byteOf r o != 0) &&
  c.k == byteOf r 32 * byteOf r 33 * half r 24 &&
  space < 3 && fieldOf r 0 8 / 2 ^ 57 % 8 == 0 && fieldOf r 40 4 < 2 ^ elemBits c.fa && (r.drop 48).all (· == 0) &&
  (space == 0 || [0, 8, 12, 16].all fun o => fieldOf r o 4 % 4 == 0)

/-- Element `k` of row `i` of an implicit convolution's A operand (R221); one in the data part of a group that has retired is
no record error but SPACE (R167). -/
def MCmd.convElem (c : MCmd) (i k : Nat) : Eng FVal := do
  let r := c.record
  let ch := half r 24
  let pq := half r 28 * half r 30
  let m := fieldOf r 44 4 + i
  let q := m % half r 30
  let p := m % pq / half r 30
  let h : Int := (p * byteOf r 34 : Nat) - (byteOf r 36 : Int) + (k / (ch * byteOf r 33) * byteOf r 38 : Nat)
  let w : Int := (q * byteOf r 35 : Nat) - (byteOf r 37 : Int) + (k / ch % byteOf r 33 * byteOf r 39 : Nat)
  if half r 26 * pq ≤ m then pure plusZero
  else if h < 0 || (half r 20 : Int) ≤ h || w < 0 || (half r 22 : Int) ≤ w then pure (typeVal c.fa (fieldOf r 40 4))
  else
    let size := elemBits c.fa / 8
    let space := fieldOf r 0 8 / 2 ^ 60
    let at_ := fieldOf r 0 8 % 2 ^ 57 + m / pq * fieldOf r 8 4 + h.toNat * fieldOf r 12 4 + w.toNat * fieldOf r 16 4 +
      k % ch * size
    let va : DWord := BitVec.ofNat 64 at_
    if space != 0 then
      let s := (← get).1
      match s.typedAt c.bent space at_ size with
      | .ok _ => pure ()
      | _ => if space == 2 && s.wasData c.bent at_ size then pure () else throw .record
    pure (typeVal c.fa (leNat (← c.read space va size)))

/-- Row `n` of a K step's operands: rows 0 to 63 of A, then 0 to 63 of B, with the elements below K; and the status that
reading raises. -/
def MCmd.row (c : MCmd) (bay k0 cnt n : Nat) : Eng (List FVal × BitVec 5) := do
  let i := n % 64
  let ks := (List.range cnt).map (k0 + ·)
  if n < 64 then
    if c.major == .mconv then pure (← ks.mapM (c.convElem i), 0)
    else if c.sa = 3 then pure (c.tileRow (← ks.mapM (c.tileElem bay i)))
    else
      pure (← ks.mapM fun k =>
        if c.marked false i k then pure plusZero else c.memElem c.sa c.opA c.strideA c.fa i k, 0)
  else
    pure (← ks.mapM fun k =>
      if c.marked true i k then pure plusZero else c.memElem c.sb c.opB c.strideB c.fb i k, 0)

/-- A row of a K step made ready: its finite values as integers at one exponent. -/
structure MRow where
  vals : List FVal
  nan  : Bool
  inf  : Bool
  e    : Int
  ints : List Int

/-- A row made ready. -/
def MRow.of (vals : List FVal) : MRow :=
  let e := vals.foldl (fun e v => if v.isZero then e else min e v.exp) 0
  { vals := vals, nan := vals.any FVal.isNaN, inf := vals.any FVal.isInf, e := e
    ints := vals.map fun v => if v.isZero then 0 else v.intAt e }

/-- Exact sum of the products of two lists. -/
def sumProducts (a b : List Int) : Int := (a.zip b).foldl (fun t p => t + p.1 * p.2) 0

/-- The rounded step sum of R95 and R96: NaN, or t with its tile status. -/
def stepSum (a b : MRow) : Option (Nat × BitVec 5) :=
  let ps := if a.inf || b.inf then a.vals.zip b.vals else []
  let infs := (ps.filter fun p => p.1.isInf || p.2.isInf).map fun p => p.1.isNeg != p.2.isNeg
  if a.nan || b.nan || ps.any (fun p => zeroTimesInf p.1 p.2) || (infs.any id && infs.any not) then none
  else if !infs.isEmpty then some (infBits fmt32 (infs.any id), 0)
  else
    let s := sumProducts a.ints b.ints
    if s = 0 then some (0, 0)
    else
      let (t, fl) := froundFin fmt32 .rn (s < 0) s.natAbs (a.e + b.e)
      some (t, (if fl &&& flagOF != 0 then 2 else 0) ||| (if fl &&& flagNX != 0 then 8 else 0))

/-- One element of a float step: c := rne(c + t), and its tile status, to which the rounding of t to FP32 adds whatever
c holds (R95, R96, R100). -/
def floatElem (a b : MRow) (c : Word) : Word × BitVec 5 :=
  let v := fdecode fmt32 c.toNat
  match stepSum a b with
  | none => (0x7FC00000, 1)
  | some (t, f) =>
    let u := fdecode fmt32 t
    if v.isNaN || (v.isInf && u.isInf && v.isNeg != u.isNeg) then (0x7FC00000, f ||| 1)
    else
      let (r, fl) := faddV fmt32 .rn v u
      (BitVec.ofNat 32 r, f ||| (if fl &&& flagOF != 0 then 2 else 0) ||| (if fl &&& flagNX != 0 then 8 else 0))

/-- One element of an integer step: c := sat32(c + s) (R97). -/
def intElem (a b : MRow) (c : Word) : Word × BitVec 5 :=
  let v := c.toInt + sumProducts a.ints b.ints
  if v < -2147483648 then (0x80000000, 4) else if 2147483647 < v then (0x7FFFFFFF, 4) else (BitVec.ofInt 32 v, 0)

/-- One K step of a tile: rows of A in turn against every row of B. -/
def stepTile (isInt : Bool) (bs : List MRow) : List MRow → List Word → List (Word × BitVec 5)
  | [], _ => []
  | a :: as, acc =>
    ((bs.zip (acc.take 64)).map fun p => if isInt then intElem a p.1 p.2 else floatElem a p.1 p.2) ++
      stepTile isInt bs as (acc.drop 64)

/-- The words of a tile from a byte offset on, as a command reads them. -/
def MCmd.tileWords (c : MCmd) (tile off n : Nat) : Eng (List Word) := do
  let bs ← c.load 3 (.cst (16384 * tile + off)) (4 * n) 4
  pure ((List.range n).map fun i => BitVec.ofNat 32 (leNat ((bs.drop (4 * i)).take 4)))

/-- The edges into a command that begins (Table 88): from the earlier commands of its bay's queue, and from the GSET that
resolved its guard. -/
def State.commandEdges (s : State) (bay : Nat) (c : MCmd) : State :=
  let pubs := (c.guard.toList).flatMap fun n => s.lastEdge (guardParty c.bent n)
  s.edge 10 pubs [.unit 1 bay] [.actor (s.opActor c.gid c.op)]

/-- What a command reads as it starts at the head (R220, R221). -/
def MCmd.begin (c : MCmd) (bay : Nat) : Eng MCmd := do
  if c.started then pure c
  else
    modify fun st => (st.1.commandEdges bay c, st.2)
    let map ← if c.major == .mmas then c.read 2 c.bitmap ((c.k + 7) / 8) else pure []
    let record ← if c.major == .mconv then c.read c.sa c.opA 64 else pure []
    if c.major == .mconv && !c.recordOk record then throw .record
    let acc ← if c.isStep then c.tileWords c.tile 0 4096 else pure (List.replicate 4096 0)
    pure { c with started := true, map := map, record := record, acc := acc }

/-- Element of MSTC: a tile element converted to FD, as bits, with its status (R223, Table 37). -/
def storeElem (fmt : Nat) (v : FVal) (w : Nat) : Nat × BitVec 5 :=
  if fmt == 0 then (w, 0)
  else
    let (x, fl) := convertTo .rn fmt v
    let int := isIntType fmt
    (x % 2 ^ elemBits fmt,
      (if fl &&& flagIV != 0 then 1 else 0) ||| (if fl &&& flagOF != 0 then (if int then 4 else 2) else 0) |||
      (if fl &&& (flagUF ||| flagNX) != 0 then 8 else 0))

/-- The bytes that codes of a row take in their plane. -/
def packRow (fmt : Nat) (codes : List Nat) : List Byte :=
  if fmt == 6 then
    (List.range ((codes.length + 2) / 3)).flatMap fun h =>
      leBytes 2 (codes.getD (3 * h) 0 + codes.getD (3 * h + 1) 0 * 2 ^ 5 + codes.getD (3 * h + 2) 0 * 2 ^ 10)
  else leBytes (planeBytes fmt codes.length) (codes.zipIdx.foldl (fun n p => n + p.1 * 2 ^ (elemBits fmt * p.2)) 0)

/-- The bytes of a row of a tile as MSTC stores them: elements, headers, status (R223). -/
def MCmd.storeRow (c : MCmd) (ws : List Word) : List Byte × List Byte × BitVec 5 :=
  let isInt := c.mod.getLsbD 4
  let vals := ws.map fun w => typeVal (if isInt then 12 else 0) w.toNat
  if isSx c.fa then
    let blocks := (List.range 4).map fun b => sxEncode c.fa ((vals.drop (16 * b)).take 16)
    let fl := blocks.foldl (fun a b => a ||| b.2.2.2) (0 : Flags)
    (packRow c.fa (blocks.flatMap (·.2.1)), blocks.flatMap (fun b => leBytes 2 b.1),
      (if fl &&& flagIV != 0 then 1 else 0) ||| (if fl &&& flagOF != 0 then 2 else 0))
  else
    let es := (vals.zip ws).map fun p => storeElem c.fa p.1 p.2.toNat
    (packRow c.fa (es.map (·.1)), [], es.foldl (fun a e => a ||| e.2) 0)

/-- Bytes that a command stores, once every place is found. -/
def MCmd.write (c : MCmd) (bay : Nat) (l : List (Loc × List Byte)) : Eng Unit := do
  let (s, memo) ← get
  set (l.foldl (fun s p => s.storeAt bay p.1 p.2 (s.opActor c.gid c.op) (commandScope c.sa)) s, memo)

/-- One row of MLDC or MSTC (R223). -/
def MCmd.tileStep (c : MCmd) (bay : Nat) : Eng MCmd := do
  let i := c.step
  let at_ (off : Nat) : DWord := c.opA + BitVec.ofNat 64 off
  if c.major == .mldc then
    let va := if c.sa = 3 then BitVec.ofNat 64 (16384 * c.stile + c.shape.toNat * i) else at_ (c.shape.toNat * i)
    let bs ← c.read c.sa va 256
    let ws : List Word := (List.range 64).map fun j => BitVec.ofNat 32 (leNat ((bs.drop (4 * j)).take 4))
    let isInt := c.mod.getLsbD 0
    let nan := !isInt && ws.any fun w => (fdecode fmt32 w.toNat).isNaN
    pure { c with
      step := i + 1, acc := c.acc.take (64 * i) ++ ws ++ c.acc.drop (64 * i + 64)
      flags := c.flags ||| (if nan then 1 else 0) ||| (if isInt then 16 else 0) }
  else
    let (row, hdr, fl) := c.storeRow (← c.tileWords c.tile (256 * i) 64)
    let p ← c.place c.sa (at_ (c.shape.toNat * i)) row.length .engineWrite
    let h ← if hdr.isEmpty then pure []
      else pure [(← c.place c.sa (at_ (64 * c.shape.toNat + 8 * i)) 8 .engineWrite, hdr)]
    c.write bay ((p, row) :: h)
    pure { c with step := i + 1, flags := c.flags ||| fl }

/-- The operand rows of a K step fetched, from the first that is not held; a stop keeps those held (R217). -/
def MCmd.fetchRows (c : MCmd) (bay k0 cnt : Nat) : Nat → State × Memo → (MCmd × Option EngStop) × (State × Memo)
  | 0, st => ((c, none), st)
  | fuel + 1, st =>
    if 128 ≤ c.rows.length then ((c, none), st)
    else
      match c.row bay k0 cnt c.rows.length st with
      | (.ok (r, fl), st) => { c with rows := c.rows ++ [r], flags := c.flags ||| fl }.fetchRows bay k0 cnt fuel st
      | (.error e, st) => ((c, some e), st)

/-- One step of a started command. -/
def MCmd.oneStep (c : MCmd) (bay : Nat) (st : State × Memo) : (MCmd × Option EngStop) × (State × Memo) :=
  if c.isStep then
    let n := stepElems c.fa
    let k0 := c.step * n
    match c.fetchRows bay k0 (min n (c.k - k0)) 128 st with
    | ((c, some e), st) => ((c, some e), st)
    | ((c, none), st) =>
      let rows := c.rows.map MRow.of
      let isInt := isIntType c.fa && isIntType c.fb
      let out := stepTile isInt (rows.drop 64) (rows.take 64) c.acc
      let fl := out.foldl (fun a p => a ||| p.2) (0 : BitVec 5)
      (({ c with
          step := c.step + 1, rows := [], acc := out.map (·.1)
          flags := ((c.flags ||| fl) &&& 15) ||| (if isInt then 16 else 0) }, none), st)
  else
    match c.tileStep bay st with
    | (.ok d, st) => ((d, none), st)
    | (.error e, st) => ((c, some e), st)

/-- At most `n` steps of a started command. -/
def MCmd.steps (c : MCmd) (bay : Nat) : Nat → State × Memo → (MCmd × Option EngStop) × (State × Memo)
  | 0, st => ((c, none), st)
  | n + 1, st =>
    if c.total ≤ c.step then ((c, none), st)
    else
      match c.oneStep bay st with
      | ((c, none), st) => c.steps bay n st
      | r => r

/-- A command started and run for at most `n` steps. -/
def MCmd.run (c : MCmd) (bay n : Nat) (s : State) : (MCmd × Option EngStop) × State :=
  match c.begin bay (s, []) with
  | (.error e, st) => ((c, some e), st.1)
  | (.ok c, st) =>
    let (r, st) := c.steps bay n st
    (r, st.1)

/-- The head command written back. -/
def State.setHead (s : State) (bay : Nat) (c : MCmd) : State := s.onBay bay fun y => { y with mq := c :: y.mq.drop 1 }

/-- The head command leaves the queue, and its peg advances when it has one (R180, R181); later commands of the queue follow
it (R193). -/
def State.leaveQueue (s : State) (bay : Nat) (c : MCmd) : State :=
  let a := s.opActor c.gid c.op
  let s := (s.edge 10 [] [.actor a] [.unit 1 bay]).onBay bay fun y => { y with mq := y.mq.drop 1 }
  match c.peg with
  | some n => s.enginePeg c.gid 0 c.pc 1 n 1 a
  | none => s

/-- What becomes of a command that stops (R217, R222): an entry for the missing page, or a fault of the joiner's
group. -/
def State.stopCommand (s : State) (bay : Nat) (c : MCmd) (e : EngStop) : State :=
  match e with
  | .late pages code =>
    pages.foldl (fun s p => s.takeEntry (socketOf c.gid)
      { va := p.1, mask := 1, pc := c.pc, gid := c.gid, weave := 0, engine := true, slot := c.slot, hint := p.2.2
        access := code, kind := p.2.1, who := .matrix c.gid, taken := 0 }) (s.setHead bay c)
  | .bad k a b d => s.takeEngineFault c.gid 0 c.pc 1 k a b d
  | .record => (s.leaveQueue bay c).takeEngineFault c.gid 0 c.pc 1 5 c.opA 0 0

/-- The blocks below K that a bitmap marks in the K steps from one to another (R220). -/
def MCmd.zeroBlocks (c : MCmd) (first last : Nat) : Nat :=
  let per := stepElems c.fa / 8
  (((c.map.take ((c.k + 7) / 8)).take (last * per)).drop (first * per)).foldl (fun n b => n + popCount (b.setWidth 32)) 0

/-- The K steps that a command has run, and the zero blocks they skipped, counted (R341). -/
def State.countSteps (s : State) (before after : MCmd) : State :=
  if after.isStep then
    let die := socketOf before.gid
    (s.countDie die 5 (after.step - before.step)).countDie die 6 (after.zeroBlocks before.step after.step)
  else s

/-- The command at the head of a bay's queue: its guard applied, at most `steps` of its steps run (R180, R181,
R219). One of a bent that is being pre-empted goes on only to its next K-step boundary (R319). -/
def execMatrixCommandHead (bay steps : Nat) (s : State) : Host.Outcome State Fault Refusal :=
  match (s.bayAt bay).mq with
  | [] => .refused (.notEnabled "MATRIX_COMMAND_HEAD")
  | c :: _ =>
    let stops := s.isStopping c.bent
    let steps := if stops then 1 else steps
    if s.engineWaits (socketOf c.gid) c.entries (.matrix c.gid) || (c.started && c.total ≤ c.step) ||
        (stops && c.rows.isEmpty) then
      .refused (.notEnabled "MATRIX_COMMAND_HEAD")
    else
      match c.guard.map fun n => tget .free (s.bayAt bay).guards n with
      | some .no => .next (s.leaveQueue bay c)
      | some .opened | some .free => .refused (.notEnabled "MATRIX_COMMAND_HEAD")
      | _ =>
        match c.run bay steps s with
        | ((d, none), s) => .next ((s.setHead bay d).countSteps c d)
        | ((d, some e), s) => .next ((s.stopCommand bay d e).countSteps c d)

/-- A command's writes at retirement, at BENT scope: its tile and status bits, or MSTC's status (R100, R180, R223). -/
def State.retireWrites (s : State) (bay : Nat) (c : MCmd) : State :=
  let old := tget 0 (s.bayAt bay).tiles c.tile
  let past := s.recordedWords (s.opActor c.gid c.op) 4 (s.cellsAt bay (.cst (16384 * c.tile)) 16384)
  let tile (st : BitVec 5) : State := ({ s with past := past } : State).onBay bay fun y =>
    { y with
      c := y.c.putBytes (16384 * c.tile) (c.acc.flatMap fun w => leBytes 4 w.toNat), tiles := tput 0 y.tiles c.tile st }
  match c.major with
  | .mzero | .mldc => tile c.flags
  | .mstc =>
    let st := old ||| c.flags
    let s := s.onBay bay fun y => { y with tiles := tput 0 y.tiles c.tile st }
    s.onGroup c.gid fun g => { g with mstc := g.mstc ||| st.setWidth 4 }
  | _ => tile ((old &&& 15) ||| c.flags)

/-- The command at the head has run: it retires, and then its peg advances (R180), unless its bent is being pre-empted
(R319). -/
def execMatrixCommandRetire (bay : Nat) (s : State) : Host.Outcome State Fault Refusal :=
  match (s.bayAt bay).mq with
  | [] => .refused (.notEnabled "MATRIX_COMMAND_RETIRE")
  | c :: _ =>
    if c.started && c.total ≤ c.step && c.entries.isEmpty && !s.isStopping c.bent then .next ((s.retireWrites bay c).leaveQueue bay c)
    else .refused (.notEnabled "MATRIX_COMMAND_RETIRE")

end Sys2Proof.Machine
end

