-- ==== Sys2Proof/Machine/Search.lean ====
section
/-! DEFINITION. DIST (R257), top-k lists and their claims (R258 to R263), and the lapidary's answer to a decision (R74),
with which a TOPK.INS goes on. -/
namespace Sys2Proof.Machine
open Sys2Proof

/-- The query address of DIST in a lane (R257). -/
def Ctx.queryAt (c : Ctx) (v : Vals) : Nat := (lowWord v.b + lowWord c.o.own).toNat

/-- The row address of DIST in a lane: A[BASE] + u(Gi) * u(Kc) (R257). -/
def Ctx.rowAt (c : Ctx) (v : Vals) : DWord :=
  c.g.aAt (bitsAt c.o.mod 6 4) + zext32 (lowWord v.a) * zext32 (c.g.kAt (match c.o.c with
    | .k i => i.toNat
    | _ => 0))

/-- The dimension of DIST (R257). -/
def Ctx.dim (c : Ctx) : Nat :=
  (c.g.kAt ((match c.o.c with
    | .k i => i.toNat
    | _ => 0) + 1)).toNat

/-- The result of DIST in a lane from the query's and the row's bytes (R52, R57, R257). -/
def distMake (l fmt d : Nat) (isL2 isW : Bool) (query : Nat) (row : DWord) (q r : List Byte) : XMake :=
  match dotExact isL2 fmt d q r with
  | none => { lane := l, reg := xInvalid, flags := flagIV }
  | some (m, e) =>
    let b : Bnd := .num m e
    { lane := l, reg := xOf (bndTo32 false b) (bndTo32 true b) false
      node := some (nodeOf (if isL2 then opL2 else opDOT) (lowWord row) (BitVec.ofNat 32 (bitsAt row 32 25))
        (BitVec.ofNat 32 (fmt * 2 ^ 16 + d)))
      cont := some (nodeOf opCONT (BitVec.ofNat 32 ((if isW then 2 ^ 24 else 0) + query)) 0 0) }

/-- The places of the query and the row of each lane that can go on (R202, R257); of the others the query's space is still
checked (R299). -/
def Ctx.distPlaces (c : Ctx) (space size : Nat) (g : Gather) : Gather × List (LaneIn × Loc × Loc) :=
  let query : MemUse :=
    { space := space, size := size, align := 1, acc := .load, ea := fun _ v => some (BitVec.ofNat 64 (c.queryAt v))
      slots := [1] }
  g.ins.foldl (fun acc i =>
    let (g, l) := acc
    let (s, memo, x) := c.place g.memo space (BitVec.ofNat 64 (c.queryAt i.vals)) size .load g.st
    let (s, memo, y) := c.place memo 0 (c.rowAt i.vals) size .load s
    let g := { g with st := s, memo := memo }
    match x, y with
    | .ok p, .ok q => (g, l ++ [(i, p, q)])
    | .bad k a b d, .bad k' a' b' d' =>
      ({ g with bad := firstBad g.bad (firstBad (some (k, a, b, d)) (some (k', a', b', d'))) }, l)
    | .bad k a b d, _ => ({ g with bad := firstBad g.bad (some (k, a, b, d)) }, l)
    | _, .bad k a b d => ({ g with bad := firstBad g.bad (some (k, a, b, d)) }, l)
    | _, .late f => ({ g with late := g.late ++ lateOf i.lane .load f }, l)
    | _, _ => (g, l)) ({ g with ins := [], bad := firstBad g.bad (c.lateRange query g) }, [])

/-- The misaligned query and row addresses of DIST (R257), also of a lane whose stream for the other one waits. -/
def Ctx.distAlign (c : Ctx) (n : Nat) (g : Gather) : List (Nat × DWord × Nat) :=
  c.doers.flatMap fun l =>
    let at_ (slot : Nat) (ea : Vals → DWord) : List (Nat × DWord × Nat) :=
      ((g.valsIn l [slot]).map ea).toList.filterMap fun a => if a.toNat % n != 0 then some (l, a, n) else none
    at_ 1 (fun v => BitVec.ofNat 64 (c.queryAt v)) ++ at_ 0 c.rowAt

/-- DIST (R257). -/
def execDist (o : Op) (s : State) : Host.Outcome State Fault Refusal :=
  issue .dist o s fun c => do
    let fmt := bitsAt o.mod 0 4
    let d := c.dim
    let isW := o.mod.getLsbD 5
    let size := rowBytes fmt d
    let isOdd := (fmt == 10 || fmt == 11) && d % 2 == 1
    c.check (if d == 0 || 4096 < d || isOdd then [11] else [])
    let g ← c.readyWith false (c.distAlign (if elemBits fmt < 8 then 1 else elemBits fmt / 8))
    let g ← c.logRoomFor (2 * c.doers.length) c.doers.length g
    let (g, ready) := c.distPlaces (if isW then 1 else 2) size g
    c.faults g
    let evs ← ready.mapM fun (i, p, q) => do
      let query ← c.loadWeak i.lane (scopeOf (if isW then 1 else 2) 0 false) p size
      let row ← c.loadWeak i.lane 7 q size
      let x := distMake i.lane fmt d (o.mod.getLsbD 4) isW (c.queryAt i.vals) (c.rowAt i.vals) query row
      c.makeX (xNum o.d) x
      let _ ← c.putStream i 0
      c.sticky i.lane x.flags
      pure i.evs
    c.finish g.late evs.flatten

/-- An X register as its 16-byte slot (R49). -/
def XReg.bytes (x : XReg) : List Byte :=
  leBytes 4 x.lo.toNat ++ leBytes 4 x.hi.toNat ++
  leBytes 8 (x.handle.toNat + (if x.exact then 2 ^ 24 else 0) + (if x.opq then 2 ^ 25 else 0) +
    (if x.invalid then 2 ^ 26 else 0))

/-- The X register that a 16-byte slot holds (R49). -/
def xOfBytes (b : List Byte) : XReg :=
  { lo := BitVec.ofNat 32 (fieldOf b 0 4), hi := BitVec.ofNat 32 (fieldOf b 4 4), handle := BitVec.ofNat 24 (fieldOf b 8 3)
    exact := fieldBits b 11 1 0 1 == 1, opq := fieldBits b 11 1 1 1 == 1, invalid := fieldBits b 11 1 2 1 == 1 }

/-- Bytes of a list: `n` bytes at an offset of a group's data part. -/
def State.listBytes (s : State) (owner off n : Nat) : List Byte :=
  ((s.group owner).map fun g => g.data.bytes off n).getD []

/-- Bytes of a list written by a lane, at the default scope of A-space (R184). -/
def State.listPut (s : State) (owner off : Nat) (bs : List Byte) (a : Actor) : State := s.storeAt 0 (.data owner off) bs a 3

/-- k of a list header (Table 118). -/
def headK (h : List Byte) : Nat := fieldOf h 0 4 % 2048
/-- count of a list header. -/
def headCount (h : List Byte) : Nat := fieldOf h 4 4
/-- Whether a list is a MIN list. -/
def headMin (h : List Byte) : Bool := fieldBits h 0 4 16 1 == 1

/-- Whether a header is one that TOPK.INS and TOPK.RD accept from a group (R262). -/
def headOk (h : List Byte) (gid : Nat) : Bool :=
  fieldOf h 8 4 == gid && fieldBits h 0 4 11 5 == 0 && fieldBits h 0 4 17 15 == 0 && (h.drop 12).all (· == 0) &&
  1 ≤ headK h && headK h ≤ 1024 && headCount h ≤ headK h

/-- The address of the list a lane names (R256). -/
def Ctx.listAt (c : Ctx) (v : Vals) : Nat := (lowWord v.a + lowWord c.o.own).toNat

/-- The list a lane names: the group whose data part holds its header, and the offset there. -/
def Ctx.listOf (c : Ctx) (v : Vals) : Option (Nat × Nat) :=
  if c.listAt v % 32 = 0 then c.s0.dataAt c.bent (c.listAt v) 32 else none

/-- The header operand of a TOPK instruction (R258). -/
def Ctx.headUse (c : Ctx) : MemUse :=
  { space := 2, size := 32, align := 32, acc := .load, ea := fun _ v => some (BitVec.ofNat 64 (c.listAt v)), slots := [0] }

/-- The distinct lists a TOPK instruction names: those it needs claims on (R260). -/
def Ctx.listKeys (c : Ctx) : List (Nat × Nat) :=
  ((c.readied false c.s0).ins.filterMap fun i => c.listOf i.vals).distinct

/-- Whether the claims of a TOPK instruction are not to be had: it waits at issue (R260). -/
def Ctx.claimsBusy (c : Ctx) : Bool :=
  let y := c.s0.bayAt (c.s0.bayOf c.r.gid)
  let keys := c.listKeys
  Config.topkClaims < y.claims.length + keys.length || keys.any fun k => y.claims.any fun x => (x.owner, x.off) == k

/-- What every TOPK instruction does before its lanes act (R258, R260, R299): claims, causes 9 and 11, alignment, and
the whole list within the data parts, `kOf` being its k in a lane, which some slots give. A lane whose streams in other
slots wait is checked too. -/
def Ctx.topk (c : Ctx) (slots : List Nat) (bad : Vals → Bool) (before : Gather → Ex Unit) (kOf : Vals → Nat) :
    Ex Gather := do
  if c.claimsBusy then c.stall else pure ()
  c.check (c.valueCheck slots bad)
  let g ← c.ready false (some c.headUse)
  before g
  let reach := (c.peekOf slots).findSome? fun v => match c.s0.typedAt c.bent 2 (c.listAt v.2) (32 + 32 * kOf v.2) with
    | .bad k a b d => some (k, a, b, d)
    | _ => none
  c.faults { g with bad := firstBad g.bad reach }
  pure g

/-- The header that a lane names, as it was at issue; empty where it is out of reach. -/
def Ctx.headOf (c : Ctx) (v : Vals) : List Byte :=
  match c.listOf v with
  | some (k, off) => c.s0.listBytes k off 32
  | none => []

/-- Whether a lane's header is one that TOPK.INS and TOPK.RD refuse: ILLEGAL, cause 11 (R262). -/
def Ctx.headBad (c : Ctx) (v : Vals) : Bool := (c.listOf v).isSome && !headOk (c.headOf v) c.r.gid

/-- A list cleared (R261). -/
def State.clearList (s : State) (gid owner off k : Nat) (isMin : Bool) (a : Actor) : State :=
  let h := s.listBytes owner off 32
  let n := if fieldOf h 8 4 == gid then min (headCount h) 1024 else 0
  let s := (List.range n).foldl (fun s i =>
    let key := xOfBytes (s.listBytes owner (off + 32 + 32 * i) 16)
    s.onGroup gid fun g => g.decRef key.handle.toNat) s
  s.listPut owner off (leBytes 4 (k + if isMin then 2 ^ 16 else 0) ++ leBytes 4 0 ++ leBytes 4 gid ++ leBytes 20 0) a

/-- TOPK.CLR (R261). -/
def execTopkClr (o : Op) (s : State) : Host.Outcome State Fault Refusal :=
  issue .topkClr o s fun c => do
    let kOf (v : Vals) : Nat := (lowWord v.b).toNat
    let g ← c.topk [0, 1] (fun v => !(1 ≤ kOf v && kOf v ≤ 1024)) (fun _ => pure ()) kOf
    g.ins.forM fun i => do
      match c.listOf i.vals with
      | some (k, off) => modify fun s => s.clearList c.r.gid k off (kOf i.vals) (o.mod.getLsbD 2) (c.actor i.lane)
      | none => pure ()
      let _ ← c.putStream i 0
    c.finish g.late (g.ins.flatMap (·.evs))

/-- TOPK.RD (R263). -/
def execTopkRd (o : Op) (s : State) : Host.Outcome State Fault Refusal :=
  issue .topkRd o s fun c => do
    let g ← c.topk [0] c.headBad (fun _ => pure ()) fun v => headK (c.headOf v)
    let evs ← g.ins.mapM fun i => do
      let n := (lowWord i.vals.b).toNat
      let (id, key) : Word × XReg := match c.listOf i.vals with
        | some (k, off) =>
          if n < headCount (c.headOf i.vals) then
            let e := c.s0.listBytes k (off + 32 + 32 * n) 20
            (BitVec.ofNat 32 (fieldOf e 16 4), xOfBytes e)
          else (0xFFFFFFFF, {})
        | none => (0xFFFFFFFF, {})
      let e ← c.result i (zext32 id)
      (c.receivers i.lane).forM fun l => modify fun s => s.setX c.r.gid c.r.weave l (xNum o.c) key
      pure (i.evs ++ e)
    c.finish g.late evs.flatten

/-- Whether a pair ranks above another, from the order of their keys (R259). -/
def ranksAbove (isMin : Bool) (o : Ordering) (a b : Word) : Bool := o == (if isMin then .lt else .gt) || (o == .eq && a < b)

/-- The pair put at a position of its list (R262): the last entry of a full list goes with its key's reference, the entries
from that position on move down, the entry, its key's reference and the count are written. -/
def State.placePair (s : State) (gid w : Nat) (t : Pair) (k p : Nat) : State :=
  let a := s.laneActor gid w t.lane
  let n := headCount (s.listBytes t.owner t.off 32)
  let entry (i : Nat) : Nat := t.off + 32 + 32 * i
  let out := xOfBytes (s.listBytes t.owner (entry (k - 1)) 16)
  let s := if n = k then s.onGroup gid fun g => g.decRef out.handle.toNat else s
  let moved := s.listBytes t.owner (entry p) (32 * (min n (k - 1) - p))
  let s := s.listPut t.owner (entry (p + 1)) moved a
  let s := s.listPut t.owner (entry p) (t.key.bytes ++ leBytes 4 t.id.toNat ++ leBytes 12 0) a
  let s := s.listPut t.owner (t.off + 4) (leBytes 4 (min (n + 1) k)) a
  s.onGroup gid fun g => g.incRef t.key.handle.toNat

/-- Where the comparisons of one pair lead (R262): to a position, out of the list, or to a comparison that the intervals do
not settle, with the position, whether it is that of a full list's last entry, and the entry's key. -/
inductive Spot where
  | place (p : Nat)
  | discard
  | ask (pos : Nat) (full : Bool) (key : XReg)
deriving DecidableEq, Repr

/-- The comparisons of one pair from a position on (R262), `ans` the answer to the first of them where one has come. They
change nothing: a pair whose comparison traps leaves no trace (R299). -/
def State.findSpot (s : State) (t : Pair) (k : Nat) (isMin : Bool) : Nat → Nat → Bool → Option Ordering → Spot
  | 0, _, _, _ => .discard
  | n + 1, pos, full, ans =>
    if !full && pos = 0 then .place 0
    else
      let j := if full then k - 1 else pos - 1
      let e := s.listBytes t.owner (t.off + 32 + 32 * j) 32
      let key := xOfBytes e
      match ans.orElse fun _ => decideLane t.key key with
      | none => .ask pos full key
      | some o =>
        let up := ranksAbove isMin o t.id (BitVec.ofNat 32 (fieldOf e 16 4))
        if full then if up then s.findSpot t k isMin n (k - 1) false none else .discard
        else if up then s.findSpot t k isMin n j false none
        else .place pos

/-- The claim on a list released (R260). -/
def State.releaseClaim (s : State) (bay owner off : Nat) : State :=
  s.onBay bay fun y => { y with claims := y.claims.filter fun c => !((c.owner, c.off) == (owner, off)) }

/-- Where the insertions of an instruction have come to: the lanes that have inserted, and, at an undecided comparison,
the pairs left, the position, and the entry's key. -/
structure Inserted where
  done : List Nat := []
  stop : Option (List Pair × Nat × Bool × XReg) := none

/-- The pairs of an instruction inserted in lane order (R262); the claim on a list goes with the last lane that names
it (R260), and a lane's id stream is stepped as it inserts: a lane that a trap stops leaves no trace (R299). -/
def State.insertAll (s : State) (bay gid w : Nat) : List Pair → Option (Nat × Bool) → Option Ordering → State × Inserted
  | [], _, _ => (s, {})
  | t :: rest, start, ans =>
    let h := s.listBytes t.owner t.off 32
    let k := headK h
    let (pos, full) := start.getD (headCount h, headCount h == k)
    let go (s : State) : State × Inserted :=
      let s := if rest.any fun r => (r.owner, r.off) == (t.owner, t.off) then s else s.releaseClaim bay t.owner t.off
      let s := match t.stream with
        | some q => s.onLane gid w t.lane fun y => { y with q := useStream y.q q }
        | none => s
      let (s, r) := s.insertAll bay gid w rest none none
      (s, { r with done := t.lane :: r.done })
    match s.findSpot t k (headMin h) (k + 2) pos full ans with
    | .ask pos full key => (s, { stop := some (t :: rest, pos, full, key) })
    | .place p => go (s.placePair gid w t k p)
    | .discard => go s

/-- The request of a stopped insertion sent, and the insertion kept (R262). -/
def State.askNext (s : State) (bay : Nat) (i : Insertion) (key : XReg) : State :=
  match i.todo with
  | [] => s
  | t :: _ =>
    let s := s.onBay bay fun y => { y with inserts := y.inserts ++ [i] }
    s.sendRequests [{ gid := i.gid, weave := i.weave, lane := t.lane, pc := i.pc, slot := i.slot, kind := .topk, a := t.key
                      b := key }]

/-- TOPK.INS (R262). -/
def execTopkIns (o : Op) (s : State) : Host.Outcome State Fault Refusal :=
  issue .topkIns o s fun c => do
    let bay := s.bayOf c.r.gid
    let keyOf (l : Nat) : XReg := c.xSrc l o.b
    let valid (_ : Gather) : Ex Unit := match c.doers.find? fun l => (keyOf l).invalid with
      | some l => c.trap 7 0 (lapInfo 0 0 (keyOf l) {})
      | none => pure ()
    let g ← c.topk [0] c.headBad valid fun v => headK (c.headOf v)
    let stream := (c.uses.head?).map (·.1)
    let pairs := g.ins.filterMap fun i => (c.listOf i.vals).map fun p =>
      Pair.mk i.lane p.1 p.2 (lowWord i.vals.c) (keyOf i.lane) stream
    modify fun s => s.onBay bay fun y =>
      { y with claims := y.claims ++ (pairs.map fun p => (p.owner, p.off)).distinct.map fun p => ⟨c.r.gid, p.1, p.2⟩ }
    let (t, r) := (← get).insertAll bay c.r.gid c.r.weave pairs none none
    set t
    match r.stop with
    | none => c.finish g.late (g.ins.flatMap (·.evs))
    | some (todo, pos, full, key) =>
      let lanes := maskOf (todo.map (·.lane))
      c.watch (c.waiting g.late) (g.ins.flatMap (·.evs) ++ (todo.take 1).map fun p => (p.lane, 5, 0x75))
      if g.late.isEmpty then c.refine lanes
      else
        modify fun s => s.reweave c.r.gid c.r.weave fun v =>
          match v.fibre c.r.fid with
          | none => v
          | some f => v.part f lanes fun x =>
              { x.settled with st := .refining, len := c.len, waitCount := 0, aged := false }
        c.wait g.late
        modify fun s => s.settleHalts c.r.gid c.r.weave
      modify fun s => s.askNext bay
        { gid := c.r.gid, weave := c.r.weave, pc := c.f.pc, slot := c.f.slot.getD 0, todo := todo, pos := pos, full := full } key

/-- The parts of a refining fibre that one event answers (R19, R74): the lanes that a decision lets go on, after the
instruction as one fibre; those of each trap, at the instruction as one fibre. -/
structure Leaving where
  r     : FibreRef
  done  : DWord := 0
  traps : List (DWord × Nat × Nat × List Byte) := []
deriving DecidableEq, Repr

/-- The answered lanes out of their fibre, the halts that waited for them applied, and the traps taken (R19, R74, R299,
R327). A lane that traps does not complete its instruction, so its own lane halt falls away. -/
def State.leave (s : State) (x : Leaving) : State :=
  let stop (f : Fibre) : Fibre := { f.settled with st := .ready, step := 0, halts := f.halts.filter fun h => h.2.2 != 1 }
  let parts := (if x.done = 0 then [] else [(x.done, Fibre.complete)]) ++ x.traps.map fun t => (t.1, stop)
  if parts.isEmpty then s.settleHalts x.r.gid x.r.weave
  else
    let s := s.reweave x.r.gid x.r.weave fun v =>
      match v.fibre x.r.fid with
      | some f => v.partAll f parts
      | none => v
    let s := s.settleHalts x.r.gid x.r.weave
    x.traps.foldl (fun s t =>
      let fid := ((s.group x.r.gid).bind fun g => ((g.weave x.r.weave).holding ((lanesOf t.1).headD 0)).map (·.id)).getD x.r.fid
      s.takeTrap ⟨x.r.gid, x.r.weave, fid⟩ t.1 t.2.1 t.2.2.1 t.2.2.2 []) s

/-- A decision's answer for TOPK.INS: the insertion goes on where it stopped (R262). -/
def State.goOn (s : State) (bay : Nat) (r : FibreRef) (i : Insertion) (o : Ordering) : State :=
  let s := s.onBay bay fun y => { y with inserts := y.inserts.filter (· != i) }
  let (s, x) := s.insertAll bay i.gid i.weave i.todo (some (i.pos, i.full)) (some o)
  match x.stop with
  | none => s.leave { r := r, done := maskOf x.done }
  | some (todo, pos, full, key) =>
    let lane := ((todo.head?).map (·.lane)).getD 0
    let (s, halts) := s.gaugeEvents r i.pc false [(lane, 5, 0x75)]
    let s := s.keepHalts r halts
    let s := s.leave { r := r, done := maskOf x.done }
    s.askNext bay { i with todo := todo, pos := pos, full := full } key

/-- A TOPK.INS whose comparison traps: its lane and every later one stop, the claims are released (R262). -/
def State.giveUp (s : State) (bay : Nat) (r : FibreRef) (i : Insertion) (cls cause : Nat) (info : List Byte) : State :=
  let s := i.todo.foldl (fun s p => s.releaseClaim bay p.owner p.off) s
  let s := s.onBay bay fun y => { y with inserts := y.inserts.filter (· != i) }
  s.leave { r := r, traps := [(maskOf (i.todo.map (·.lane)), cls, cause, info)] }

/-- An answer as its verdict gives it: the last stage completed, and whether it is a trap. -/
def Verdict.told : Verdict → Option (Nat × Bool)
  | .decided _ n => some (n, false)
  | .trapped _ _ n _ => some (n, true)
  | _ => none

/-- The verdicts of some requests that the lapidary works on; none when one of them has no answer yet. -/
def State.verdicts (s : State) (bay : Nat) : List Nat → Option (State × List (Request × Verdict))
  | [] => some (s, [])
  | i :: rest =>
    match s.workOn bay i with
    | none => none
    | some q =>
      let (t, v) := s.runRequest q
      if q.kind.isXref || v.told.isNone then none
      else (t.verdicts bay rest).map fun (t, l) => (t, (q, v) :: l)

/-- An answer counted and seen by the gauges (R341, Table 159). -/
def State.tellAnswer (s : State) (a : Request × Verdict) : State :=
  let (stage, isTrap) := a.2.told.getD (0, false)
  let r := s.requestFibre a.1
  let (s, halts) := (s.countStages a.1 a.2).answerEvent r a.1 stage isTrap
  s.keepHalts r halts

/-- The answers for XSGN and XCMP of one fibre: the decisions written, the lanes of the decisions and of each trap leaving
it; a record gives the words of its lowest lane (R74, Table 151). -/
def State.answerLanes (s : State) (r : FibreRef) (l : List (Request × Verdict)) : State :=
  let s := l.foldl (fun s a => match a.2 with
    | .decided o _ => s.onLane a.1.gid a.1.weave a.1.lane fun y => y.decide a.1.kind o
    | _ => s) s
  let lanes (l : List (Request × Verdict)) : DWord := maskOf (l.map (·.1.lane))
  let done := l.filter fun a => match a.2 with
    | .decided _ _ => true
    | _ => false
  let traps := l.filterMap fun a => match a.2 with
    | .trapped cls cause stage nodes => some (a.1, cls, cause, lapInfo stage nodes a.1.a a.1.b)
    | _ => none
  let kinds := (traps.map fun t => (t.2.1, t.2.2.1)).distinct
  let trapOf (k : Nat × Nat) : DWord × Nat × Nat × List Byte :=
    let mine := sortBy (fun a b => decide (a.1.lane < b.1.lane)) (traps.filter fun t => (t.2.1, t.2.2.1) == k)
    (maskOf (mine.map (·.1.lane)), k.1, k.2, ((mine.head?).map (·.2.2.2)).getD [])
  s.leave { r := r, done := lanes done, traps := kinds.map trapOf }

/-- The answer for a TOPK.INS (R262). -/
def State.answerInsert (s : State) (bay : Nat) (a : Request × Verdict) : State :=
  let q := a.1
  let ins := (s.bayAt bay).inserts.find? fun i =>
    i.gid == q.gid && i.weave == q.weave && ((i.todo.head?).map (·.lane)) == some q.lane
  match ins, a.2 with
  | some i, .decided o _ => s.goOn bay (s.requestFibre q) i o
  | some i, .trapped cls cause stage nodes => s.giveUp bay (s.requestFibre q) i cls cause (lapInfo stage nodes q.a q.b)
  | _, _ => s

/-- The answers of one cycle: the requests leave their queue, the lanes their fibres (R19, R73, R74, R262). -/
def State.answerAll (s : State) (bay : Nat) (l : List (Request × Verdict)) : State :=
  let s := l.foldl (fun s a => (s.answered a.1).dropRequest bay a.1) s
  let s := l.foldl (fun s a => s.tellAnswer a) s
  let plain := l.filter fun a => a.1.kind != .topk
  let fibres := (plain.map fun a => s.requestFibre a.1).distinct
  let s := fibres.foldl (fun t r => t.answerLanes r (plain.filter fun a => s.requestFibre a.1 == r)) s
  let s := (l.filter fun a => a.1.kind == .topk).foldl (fun s a => s.answerInsert bay a) s
  let s := s.onBay bay fun y => { y with answered := some s.cycle }
  s.enterRequests bay 64

end Sys2Proof.Machine
end

