-- ==== Sys2Proof/Machine/Fetch.lean ====
section
/-! DEFINITION. Instruction fetch (R101 to R104), and a program put in place for the next step (log entry 5). -/
namespace Sys2Proof.Machine
open Sys2Proof

/-- The stores on record to a line of code that a core may not have seen, newest first: made while the launch runs, and not
made visible there since (R104). -/
def State.unseenCode (s : State) (core line launch : Nat) : List Nat :=
  ((s.past.zipIdx.filter fun p => p.1.act.writes && p.1.act.cells.any fun x => x.1.1 == 0 && x.1.2.2 / 128 == line).reverse.takeWhile
    fun p => launch < p.1.uid && !shownTo s.past core line p.2 p.1.actor).map (·.2)

/-- A 128-byte line of code as a core fetches it for a launch: as memory holds it, as the instruction cache holds it, or as it
was before stores not yet made visible (R104, log entries 8 and 52). -/
def State.codeLine (s : State) (core line launch : Nat) : State × List Byte :=
  let c := s.coreAt core
  let (s, now) := match s.physLoad (128 * line) 128 with
    | (t, .ok bs) => (t, bs)
    | (t, .error _) => (t, List.replicate 128 0)
  let unseen := s.unseenCode core line launch
  let cells := now.zipIdx.map fun (b, i) => (((0, 0, 128 * line + i) : ByteAt), b)
  let cached := (c.code.filter fun l => l.line == line).map (·.bytes)
  let older (k : Nat) : List Byte := cells.map (byteMissing s.past (unseen.take (k + 1)).reverse)
  let others := ((cached ++ (List.range unseen.length).map older).filter fun bs => bs != now).distinct
  let (k, s) := if others.isEmpty then (0, s) else s.choose (1 + others.length)
  let bs := (now :: others).getD k now
  (s.setCore core { c with code := { line := line, bytes := bs } :: c.code.filter fun l => l.line != line }, bs)

/-- What a fetch gives: the words of the instruction at the PC, or the state in which the fetch has faulted. -/
inductive Fetched where
  | words (s : State) (ws : List Word)
  | stop (s : State)

/-- A 32-bit word of a line of bytes. -/
def wordAt (bs : List Byte) (off : Nat) : Word := BitVec.ofNat 32 (fieldOf bs off 4)

/-- The lanes of a fibre that run: all, or those of its replay mask (R202). -/
def Fibre.running (f : Fibre) : DWord := if f.replay = 0 then f.lanes else f.replay

/-- A fault on fetch: every lane that runs waits for the page (R102, R311), or a non-recoverable fault. -/
def State.fetchFault (s : State) (r : FibreRef) (f : Fibre) (es : List (DWord × AccErr)) : State :=
  let s := s.payEvents r f
  let act := f.running
  match es.findSome? fun e => match e.2 with
      | .fault k a b d => some (k, a, b, d)
      | .page _ _ => none with
  | some (k, a, b, d) => s.takeFault r f.pc act k a b d
  | none =>
    let late := es.flatMap fun e => (lanesOf act).map fun l =>
      match e.2 with
      | .page k h => Late.mk l e.1 k h 0
      | .fault k _ _ _ => Late.mk l e.1 k 0 0
    (s.onFibre r fun f => { f with replay := act }).takeLate r late

/-- The words at a fibre's PC, both pages translated before any is read (R102). -/
def State.fetchWords (s : State) (r : FibreRef) (f : Fibre) : Fetched :=
  let space := s.spaceOf r.gid
  let core := s.coreOf r.gid
  let agent := s.agentOf r.gid
  let launch := ((s.launchOf r.gid).map (·.uid)).getD 0
  let (s, memo, x) := s.pageAt [] agent space f.pc .fetch
  match x with
  | .error e => .stop (s.fetchFault r f [(f.pc, e)])
  | .ok pa =>
    let (s, line) := s.codeLine core (pa / 128) launch
    let w0 := wordAt line (pa % 128)
    let n := lenBytes (bitsAt w0 0 2)
    let rest := (List.range (n / 4)).drop 1
    let (s, _, es, ws) := rest.foldl (fun (acc : State × (Memo × List (Nat × List Byte)) × List (DWord × AccErr) × List Word) k =>
      let va := f.pc + BitVec.ofNat 64 (4 * k)
      let (s, memo, x) :=
        if va.toNat / 4096 == f.pc.toNat / 4096 then (acc.1, acc.2.1.1, .ok (pa + 4 * k))
        else acc.1.pageAt acc.2.1.1 agent space va .fetch
      match x with
      | .error e =>
        let es := if acc.2.2.1.any fun p => p.1.toNat / 4096 == va.toNat / 4096 then acc.2.2.1 else acc.2.2.1 ++ [(va, e)]
        (s, (memo, acc.2.1.2), es, acc.2.2.2)
      | .ok pa =>
        match acc.2.1.2.find? fun p => p.1 == pa / 128 with
        | some p => (s, (memo, acc.2.1.2), acc.2.2.1, acc.2.2.2 ++ [wordAt p.2 (pa % 128)])
        | none =>
          let (s, bs) := s.codeLine core (pa / 128) launch
          (s, (memo, (pa / 128, bs) :: acc.2.1.2), acc.2.2.1, acc.2.2.2 ++ [wordAt bs (pa % 128)]))
      (s, (memo, [(pa / 128, line)]), [], [w0])
    if es.isEmpty then .words s ws else .stop (s.fetchFault r f es)

/-- What comes of a fetch: an instruction to execute, or the state in which the fetch or the decoder has stopped the
fibre; none without a fibre. -/
inductive Issued where
  | run (s : State) (i : Instr)
  | stop (s : State)
  | none

/-- The wait counts after an issue opportunity at which a fibre issues (R26). -/
def Weave.count (v : Weave) (fid : Nat) : Weave :=
  let n := v.fibres.length
  { v with
    issues := v.issues + 1
    fibres := v.fibres.map fun f =>
      if f.id == fid then { f with waitCount := 0, aged := false, lastIssue := v.issues + 1 }
      else if f.st == .ready then
        let w := min 127 (f.waitCount + 1)
        { f with waitCount := w, aged := f.aged || 64 - n ≤ w }
      else f }

/-- An instruction of some lanes of a fibre counted as issued: by the wait counts of its weave (R26, R141, R254) and by the
counters (R341). -/
def State.countIssue (s : State) (r : FibreRef) (act : DWord) : State :=
  ((s.onWeave r.gid r.weave fun v => { v.count r.fid with ready := s.cycle, yielded := false }).countCore
    (s.coreOf r.gid) 1 1).countCore (s.coreOf r.gid) 2 (lanesOf act).length

/-- Why an instruction of a fibre waits at issue, as a stall reason of Table 166; 0 when it can issue (R157, R388). -/
def State.stallAs (s : State) (r : FibreRef) (i : Instr) : Nat :=
  match i.major, i.op with
  | some (m, _), some o =>
    (match ctxOf m o { s with cur := some r } with
    | none => 0
    | some c =>
      let y := s.bayAt (s.bayOf r.gid)
      if c.scoreboard then 1
      else match m with
        | .kick => if y.kickFull c.g.core c.doers.length then 8 else 0
        | .mma | .mmas | .mconv | .mzero | .mldc | .mstc =>
          if c.joiner && Config.matrixQueue < y.mq.length + c.doers.length then 8 else 0
        | .topkClr | .topkIns | .topkRd => if c.claimsBusy then 9 else 0
        | .guard => if c.joiner && o.ownBits.toNat ≤ 15 && !c.doers.isEmpty && y.guardBusy o.ownBits.toNat then 11 else 0
        | _ => 0)
  | _, _ => 0

/-- The instruction at the PC of a fibre, decoded, and its issue counted (R26, R341), unless it waits at issue (R388); a
pattern that is no instruction raises ILLEGAL with its cause (R103, R120). Where the fetch faults nothing issues, and the
PC events of lanes already halted are made. -/
def fetch (r : FibreRef) (s : State) : Issued :=
  match s.fibre r with
  | none => .none
  | some f =>
    match s.fetchWords r f with
    | .stop t => .stop { t with cur := none }
    | .words t ws =>
      match decodeWords (t.isJoiner r.gid) ws with
      | .ok i => if t.stallAs r i = 0 then .run (t.countIssue r f.running) i else .stop { t with cur := none }
      | .error cause =>
        let t : State := { t.countIssue r f.running with cur := none }
        .stop ((t.pcEvents r f.pc (f.running ||| f.pcDue)).takeTrap r f.running 1 cause (wordsInfo ws) [])

/-- Physical address of a program put in place from nothing (log entry 5); its virtual address is the same. -/
def programAt : Nat := 0x1000000

/-- A group of one lane, privileged and holding its bay's claim, picked to issue at `programAt`: what a launch of one
bent, placed, would give (log entry 5). One 1 GiB page maps low memory to itself. -/
def State.withProgram (s : State) (bs : List Byte) : State :=
  let uid := s.uids
  let gid := uid % 2 ^ 28
  let put (s : State) (pa v : Nat) : State := s.putNat pa 8 v
  let s : State := { s with health := 0xFFFF }
  let s := put s 0x10000 0x20001
  let s := put s 0x10008 1
  let s := put s 0x20000 0x21001
  let s := put s 0x21000 0x22001
  let s := put s 0x22000 0xCF
  let s := s.putMem 0x30018 [96, 0, 64, 0, 0, 0, 0x7F]
  let s := s.putMem programAt bs
  let w : Weave := { size := 1, fibres := [{ id := 0, pc := BitVec.ofNat 64 programAt, lanes := 1 }] }
  let g : Group :=
    { gid := gid, bent := uid, role := 1, number := 0, size := 1, gBudget := 256, xBudget := 32, core := 0, slot := 0
      logical := 0, phys := 0, dataLen := 4096, weaves := [(0, w)], logStore := 4096, logSpill := 0, recCap := 32
      kerfCap := 256 }
  let b : Bent :=
    { uid := uid, number := 0, launch := uid, dcb := 0x30000, dom := some { shares := [(0x30000, 64)] }, socket := 0, st := .resident, holds := true, groups := [gid], claim := true }
  let l : Launch :=
    { uid := uid, origin := .device 0, addr := 0, record := List.replicate 256 0, space := 0, depth := 1, priv := true
      started := true, bents := [uid] }
  { s with
    astb := 0x10000, past := [], mgmt := { s.mgmt with phase := .running }, uids := uid + 1
    groups := tins s.groups gid g, bents := tins s.bents uid b, launches := tins s.launches uid l
    bays := tput {} s.bays 0 { s.bayAt 0 with holder := some uid }, cur := some ⟨gid, 0, 0⟩ }

/-- The physical addresses of the next `n` bytes a fibre fetches, by the page tables as they are. -/
def State.codeAt (s : State) (r : FibreRef) (pc : DWord) (n : Nat) : Option (List Nat) :=
  (List.range n).mapM fun i =>
    let va := pc + BitVec.ofNat 64 i
    match s.walkVa (s.spaceOf r.gid) va with
    | .ok l => if (l.check va .fetch).isOk then some (l.pa va) else none
    | .error _ => none

/-- Bytes put where the next fetch reads: at the PC of the fibre picked to issue, with the translations and code lines
cached for it, and the stores on record, dropped; where no fibre is picked, a program put in place from nothing. -/
def State.placeCode (s : State) (bs : List Byte) : State :=
  match s.cur with
  | none => s.withProgram bs
  | some r =>
    match s.fibre r with
    | none => s.withProgram bs
    | some f =>
      match s.codeAt r f.pc bs.length with
      | none => s.withProgram bs
      | some pas =>
        let mem := (pas.zip bs).foldl (fun m p => memPut m p.1 p.2) s.mem
        let s := { s with mem := mem, past := [] }
        let s := s.setCore (s.coreOf r.gid) { s.coreAt (s.coreOf r.gid) with code := [] }
        s.setDie (socketOf r.gid) { s.die (socketOf r.gid) with tlb := [], ptrs := [], roots := [] }

end Sys2Proof.Machine
end

