-- ==== Sys2Proof/Machine/Ctrl.lean ====
section
/-! DEFINITION. Branches, calls, lane life, barriers, staging, loops, votes and shuffles (R134 to R143). -/
namespace Sys2Proof.Machine
open Sys2Proof

/-- A displacement's target: the literal, or PC + 4 × sext(IMM22) (R134, R135). -/
def Ctx.target (c : Ctx) : DWord :=
  match c.o.lit with
  | some v => v
  | none => c.f.pc + 4 * c.o.imm22.signExtend 64

/-- Whether an address can be a PC (R102). -/
def badTarget (t : DWord) : Bool := bitsAt t 0 2 != 0 || bitsAt t 57 7 != 0

/-- ALIGN of the lowest lane whose target cannot be a PC (R135). -/
def Ctx.targets (c : Ctx) (ts : List (Nat × DWord)) : Ex Unit :=
  c.aligned (ts.filterMap fun p => if badTarget p.2 then some (p.1, p.2, 4) else none)

/-- BRA, BRX, CALL, CALLI and RET (R135): the target of each acting lane, and what becomes of its window. -/
def branch (m : Major) (o : Op) (s : State) (own : Ctx → List Nat) (target : Ctx → Nat → DWord) (window : Nat → Nat)
    (enter : Ctx → Lane → Lane) : Host.Outcome State Fault Refusal :=
  issue m o s fun c => do
    c.check (own c)
    let ts := c.writers.map fun l => (l, target c l)
    c.targets ts
    c.watch 0 []
    c.writers.forM fun l => c.onLane l (enter c)
    c.regroup (c.f.lanes &&& ~~~c.wr) (ts.map fun p => (p.1, p.2, window c.f.wb))

/-- CALL's limit (R42, R135). -/
def callLimit (c : Ctx) : List Nat := if c.wr != 0 && c.g.gBudget < c.f.wb + 32 then [9] else []

/-- CALL's return point, in the new window (R135). -/
def callEnter (c : Ctx) (x : Lane) : Lane :=
  (x.setG (c.f.wb + 16) (lowWord c.fall)).setG (c.f.wb + 17) (BitVec.ofNat 32 (bitsAt c.fall 32 25))

/-- The address of BRX and CALLI. -/
def indexTarget (c : Ctx) (l : Nat) : DWord :=
  let v := c.regVals l
  v.a + sext32 (lowWord v.b) + c.o.own

/-- The return address of RET. -/
def retTarget (c : Ctx) (l : Nat) : DWord :=
  let x := c.lane l
  pairOf (x.gAt c.f.wb) (BitVec.ofNat 32 (bitsAt (x.gAt (c.f.wb + 1)) 0 25))

/-- BRA (R135). -/
def braOp (o : Op) (s : State) : Host.Outcome State Fault Refusal :=
  branch .bra o s (fun _ => []) (fun c _ => c.target) id fun _ x => x
/-- BRA, base form. -/
def execBra (o : Op) (s : State) : Host.Outcome State Fault Refusal := braOp o s
/-- BRA, extended and literal forms. -/
def execBraExt (o : Op) (s : State) : Host.Outcome State Fault Refusal := braOp o s

/-- CALL (R135). -/
def callOp (o : Op) (s : State) : Host.Outcome State Fault Refusal :=
  branch .call o s callLimit (fun c _ => c.target) (· + 16) callEnter
/-- CALL, base form. -/
def execCall (o : Op) (s : State) : Host.Outcome State Fault Refusal := callOp o s
/-- CALL, extended and literal forms. -/
def execCallExt (o : Op) (s : State) : Host.Outcome State Fault Refusal := callOp o s

/-- RET (R135). -/
def retOp (o : Op) (s : State) : Host.Outcome State Fault Refusal :=
  branch .ret o s (fun c => if c.wr != 0 && c.f.wb = 0 then [9] else []) retTarget (· - 16) fun _ x => x
/-- RET, base form. -/
def execRet (o : Op) (s : State) : Host.Outcome State Fault Refusal := retOp o s
/-- RET, extended form. -/
def execRetExt (o : Op) (s : State) : Host.Outcome State Fault Refusal := retOp o s

/-- BRX (R135). -/
def execBrx (o : Op) (s : State) : Host.Outcome State Fault Refusal :=
  branch .brx o s (fun _ => []) indexTarget id fun _ x => x

/-- CALLI (R135). -/
def execCalli (o : Op) (s : State) : Host.Outcome State Fault Refusal :=
  branch .calli o s callLimit indexTarget (· + 16) callEnter

/-- FORK (R136): the dormant lanes that the mask names return to life as one new fibre. -/
def execFork (o : Op) (s : State) : Host.Outcome State Fault Refusal :=
  issue .fork o s fun c => do
    c.check (if o.pred != 7 then [11] else [])
    c.targets [(0, c.target)]
    let mask := c.reg 0 true o.a
    let woken := (lanesOf mask).filter fun l => l < c.v.size && (c.lane l).st == .dormant
    woken.forM fun l => c.onLane l fun x => { x with st := .live }
    if woken.isEmpty then pure ()
    else
      let born : Fibre :=
        { id := 0, parent := c.f.id, pc := c.target, lanes := maskOf woken, wb := c.f.wb, lastIssue := c.f.lastIssue }
      modify fun s => s.reweave c.r.gid c.r.weave fun v => v.addFibres c.f.id false [born]
    c.finish [] []

/-- The lanes of wr leave their fibre (R137). -/
def Ctx.leave (c : Ctx) (change : Lane → Lane) : Ex Unit := do
  c.watch 0 []
  c.writers.forM fun l => c.onLane l fun x => { change x with monArmed := false, monHit := false }
  if c.wr = 0 then pure ()
  else modify fun s => s.onGroup c.r.gid fun g => { g with exitPc := c.f.pc }
  c.regroup (c.f.lanes &&& ~~~c.wr) []
  modify fun s => s.checkBarriers c.r.gid

/-- QUIT: the lanes of wr become dormant (R15, R137). -/
def quitOp (o : Op) (s : State) : Host.Outcome State Fault Refusal :=
  issue .quit o s fun c => do
    c.check []
    c.leave fun x => { x with st := .dormant, quitPc := c.f.pc }
/-- QUIT, base form. -/
def execQuit (o : Op) (s : State) : Host.Outcome State Fault Refusal := quitOp o s
/-- QUIT, extended form. -/
def execQuitExt (o : Op) (s : State) : Host.Outcome State Fault Refusal := quitOp o s

/-- EXIT: the lanes of wr are exited, their status reported and their choice records gone (R137, R285, R305). -/
def exitOp (o : Op) (s : State) : Host.Outcome State Fault Refusal :=
  issue .exit o s fun c => do
    c.check []
    modify fun s => s.reportStatus c.r c.f.pc c.wr
    modify fun s => s.onGroup c.r.gid fun g => c.writers.foldl (fun g l => g.lowerFor (c.lane l).recs) g
    c.leave fun x => { x with st := .exited, recs := [], kerf := [] }
/-- EXIT, base form. -/
def execExit (o : Op) (s : State) : Host.Outcome State Fault Refusal := exitOp o s
/-- EXIT, extended form. -/
def execExitExt (o : Op) (s : State) : Host.Outcome State Fault Refusal := exitOp o s

/-- Arrival at a barrier (R31, R138). -/
def arriveOp (m : Major) (ofBent : Bool) (o : Op) (s : State) : Host.Outcome State Fault Refusal :=
  issue m o s fun c => do
    c.check []
    c.watch 0 []
    modify fun s => (s.arrive c.r ofBent o.ownBits.toNat c.len).settleHalts c.r.gid c.r.weave
/-- BAR, base form. -/
def execBar (o : Op) (s : State) : Host.Outcome State Fault Refusal := arriveOp .bar false o s
/-- BAR, extended form. -/
def execBarExt (o : Op) (s : State) : Host.Outcome State Fault Refusal := arriveOp .bar false o s
/-- BARB (R138). -/
def execBarb (o : Op) (s : State) : Host.Outcome State Fault Refusal := arriveOp .barb true o s

/-- SPAN: the entries it names are staged (R45, R139). -/
def execSpan (o : Op) (s : State) : Host.Outcome State Fault Refusal :=
  issue .span o s fun c => do
    let named := lanesOf o.ownBits
    c.check ((if named.all fun i => c.f.wb + i < c.g.gBudget then [] else [9]) ++
      (if 1 ≤ named.length && named.length ≤ 32 then [] else [11]))
    modify fun s => s.onWeave c.r.gid c.r.weave fun v => { v with staged := named.map (c.f.wb + ·) }
    c.finish [] []

/-- LOOP: the counter falls by one and the lanes whose count is not zero branch (R140). -/
def execLoop (o : Op) (s : State) : Host.Outcome State Fault Refusal :=
  issue .loop o s fun c => do
    c.check []
    c.targets (c.writers.map fun l => (l, c.target))
    let count (l : Nat) : Word := lowWord (c.reg l false o.d) - 1
    c.doers.forM fun l => c.put l false o.d (zext32 (count l))
    let taken := c.writers.filter fun l => count l != 0
    c.watch 0 []
    c.regroup (c.f.lanes &&& ~~~maskOf taken) (taken.map fun l => (l, c.target, c.f.wb))

/-- NOP (R141). -/
def nopOp (o : Op) (s : State) : Host.Outcome State Fault Refusal := issue .nop o s fun c => c.finish [] []
/-- NOP, base form. -/
def execNop (o : Op) (s : State) : Host.Outcome State Fault Refusal := nopOp o s
/-- NOP, extended form. -/
def execNopExt (o : Op) (s : State) : Host.Outcome State Fault Refusal := nopOp o s

/-- YIELD: the weave lets another on its port go first (R141). -/
def yieldOp (o : Op) (s : State) : Host.Outcome State Fault Refusal :=
  issue .yield o s fun c => do
    modify fun s => s.onWeave c.r.gid c.r.weave fun v => { v with yielded := true }
    c.finish [] []
/-- YIELD, base form. -/
def execYield (o : Op) (s : State) : Host.Outcome State Fault Refusal := yieldOp o s
/-- YIELD, extended form. -/
def execYieldExt (o : Op) (s : State) : Host.Outcome State Fault Refusal := yieldOp o s

/-- The value of a vote over the lanes of wr (R142). -/
def voteValue (mode : Nat) (bits : List (Nat × Bool)) : DWord :=
  let ones := bits.filter (·.2)
  match mode with
  | 0 => if ones.length = bits.length then 1 else 0
  | 1 => if ones.isEmpty then 0 else 1
  | 2 => if ones.isEmpty || ones.length = bits.length then 1 else 0
  | _ => maskOf (ones.map (·.1))

/-- VOTE (R142). -/
def execVote (o : Op) (s : State) : Host.Outcome State Fault Refusal :=
  compute .vote false (fun _ => []) (fun c _ _ =>
    (voteValue (bitsAt o.mod 0 2) (c.writers.map fun l => (l, c.reg l false o.a != 0)), 0)) o s

/-- The lane that SHFL reads in a lane, when it can (R143). -/
def shflLane (mode l n : Nat) (act : DWord) : Option Nat :=
  let j : Int := match mode with
    | 0 => n
    | 1 => (l : Int) - n
    | 2 => (l : Int) + n
    | _ => (l ^^^ n : Nat)
  if 0 ≤ j && j ≤ 63 && act.getLsbD j.toNat then some j.toNat else none

/-- SHFL (R143): every lane of act supplies its value, a stream's next element too; the lanes of wr receive. What a lane
receives from a stream whose element waits for a page, or was read before a replay, the spec does not say: it is a free
value (log entry 51). -/
def execShfl (o : Op) (s : State) : Host.Outcome State Fault Refusal :=
  issue .shfl o s fun c => do
    let isStream := match o.a with
      | .q _ => true
      | _ => false
    c.check (if isStream then (c.each.take 1).flatMap (slotRefusals { c with wr := c.act }) else [])
    let (ins, late) ← (if isStream then { c with wr := c.act, lend := c.act &&& ~~~c.wr } else c).gather false none
    let given (l : Nat) : Ex DWord :=
      match ins.find? fun i => i.lane == l with
      | some i => pure i.vals.a
      | none => if isStream then modifyGet State.free else pure (c.regVals l).a
    let evs ← ins.mapM fun i => do
      if c.wr.getLsbD i.lane then
        let from_ := shflLane (bitsAt o.mod 0 2) i.lane (lowWord i.vals.b).toNat c.f.lanes
        let v ← given (from_.getD i.lane)
        c.put i.lane false o.d v
        c.put i.lane false o.c (if from_.isSome then 1 else 0)
        let e ← c.putStream i v
        pure (i.evs ++ e)
      else
        let _ ← c.putStream { i with qd := none } 0
        pure i.evs
    c.finish late evs.flatten

end Sys2Proof.Machine
end

