-- ==== Sys2Proof/Machine/Launch.lean ====
section
/-! DEFINITION. Launch records and their rejection (R234 to R238), device-side launches and range tasks (R241 to R245,
R266 to R268), storage reads (R264, R265). -/
namespace Sys2Proof.Machine
open Sys2Proof

/-- A field of `n` bytes whose bits from `lo` to `hi` must be zero. -/
def zeroBits (r : List Byte) (off n lo hi : Nat) : Bool := fieldBits r off n lo (hi + 1 - lo) == 0

/-- Whether every reserved field and code of a launch record is zero (Table 113): reason 1. -/
def recShape (r : List Byte) : Bool :=
  ([0, 16, 32].all fun o => zeroBits r o 8 57 63 && zeroBits r (o + 8) 4 22 31 && zeroBits r (o + 8) 4 15 15 &&
    zeroBits r (o + 12) 4 16 31) &&
  zeroBits r 56 4 22 31 && zeroBits r 56 4 13 15 && fieldOf r 60 4 == 0 && zeroBits r 64 8 0 5 &&
  zeroBits r 80 4 11 31 && zeroBits r 80 4 7 7 && fieldBits r 80 4 8 3 ≤ 4 && fieldOf r 84 4 == 0 &&
  zeroBits r 88 8 0 2 && ([96, 97, 98, 99].all fun o => zeroBits r o 1 6 7) && fieldOf r 100 4 == 0 &&
  zeroBits r 136 4 16 31 && zeroBits r 152 4 24 31 && fieldOf r 156 4 == 0 && fieldOf r 168 8 ≤ 8 &&
  ((List.range 8).all fun i => zeroBits r (176 + 8 * i) 8 60 63) && (r.drop 240).all (· == 0)

/-- Bytes of the A-store region of a role's groups (Table 73). -/
def regionBytes (r : List Byte) (role : Nat) : Nat :=
  roleData r role + roleWeaves r role * (16384 + 1792) + 16 * recLog r

/-- The roles of a record that are present. -/
def rolesOf (r : List Byte) : List Nat := [0, 1, 2].filter fun i => roleLanes r i != 0

/-- Whether the roles keep to R34 and one group of each fits an empty core (R30): reason 2. -/
def recRoles (r : List Byte) : Bool :=
  let lanes := (rolesOf r).filter fun i => !roleScalar r i
  let scalars := (rolesOf r).filter fun i => roleScalar r i
  let total := (lanes.map (roleGroups r)).sum
  scalars.length ≤ 1 && scalars.all (fun i => roleLanes r i == 1 && roleGroups r i == 1) &&
  lanes.all (fun i => roleLanes r i ≤ 1024 && roleGroups r i ≤ 4) && 1 ≤ total && total ≤ 4 &&
  lanes.all fun i =>
    roleWeaves r i * roleG r i ≤ 4096 && roleWeaves r i * roleX r i ≤ 256 && regionBytes r i ≤ Config.aStoreBytes

/-- Whether the grid is in range (R235): reason 3. -/
def recGrid (r : List Byte) : Bool := 1 ≤ recBents r && recBents r < 2 ^ 28

/-- Whether the barrier time-out is in range (R33): reason 4. -/
def recClock (r : List Byte) : Bool :=
  let n := fieldBits r 56 4 16 6
  n == 0 || (10 ≤ n && n ≤ 40)

/-- The die range table: socket, first bent, end (Table 113). -/
def recDies (r : List Byte) : List (Nat × Nat × Nat) :=
  (List.range (fieldOf r 168 8)).map fun i =>
    let e := fieldOf r (176 + 8 * i) 8
    (e / 2 ^ 56 % 16, e % 2 ^ 28, e / 2 ^ 28 % 2 ^ 28)

/-- Whether ranges, sorted by their first bent, cover the bents from one number to another without overlap. -/
def covers : List (Nat × Nat × Nat) → Nat → Nat → Bool
  | [], at_, stop => at_ == stop
  | (_, a, b) :: r, at_, stop => a == at_ && a < b && covers r b stop

/-- Whether the die range table keeps to R238: reason 6. -/
def State.recTable (s : State) (r : List Byte) : Bool :=
  let t := recDies r
  t.isEmpty || (t.all (fun e => s.computeOk e.1) && (t.map (·.1)).distinct.length == t.length &&
    covers (sortBy (fun a b => decide (a.2.1 ≤ b.2.1)) t) 0 (recBents r))

/-- Whether log, kerf and argument sizes are within their limits (R59, R127): reason 7. -/
def recSizes (r : List Byte) : Bool :=
  256 ≤ recLog r && recLog r ≤ 16384 && recSpill r ≤ 2 ^ 24 - recLog r && recArgs r ≤ 512

/-- Whether every DCB of a domain's path can be read; the path ends at one that cannot. -/
def State.domainReadable (s : State) (pa : Nat) : Nat → Bool
  | 0 => true
  | k + 1 =>
    pa + 64 ≤ s.capacity &&
      (let p := dcbParent (s.dcb pa)
       p == 0 || s.domainReadable p k)

/-- The first of reasons 1 to 7 for which a launch record is rejected (Table 114); with `noArea` the resident runtime has no
backing area for its choice stacks (R272). -/
def State.rejectFirst (s : State) (r : List Byte) (noArea : Bool) : Option Nat :=
  if !recShape r then some 1
  else if !recRoles r || noArea then some 2
  else if !recGrid r then some 3
  else if !recClock r then some 4
  else if s.domainReadable (recDcb r) 16 && !s.domainOk (recDcb r) then some 5
  else if !s.recTable r then some 6
  else if !recSizes r then some 7
  else none

/-- Whether the resident runtime cannot allocate the backing area of a launch's choice stacks (R272): a choice that the model
leaves open (log entry 37). -/
def State.areaMissing (s : State) (r : List Byte) : State × Bool :=
  if recShape r && recRoles r then
    let (k, t) := s.choose 2
    (t, k == 1)
  else (s, false)

/-- Whether bytes of an address space can be read. -/
def State.readable (s : State) (a : Agent) (space : Nat) (va : DWord) (n : Nat) : State × Bool :=
  if n = 0 then (s, true)
  else
    let (s, _, x) := s.globalAt [] a space va n .load
    (s, match x with
      | .ok _ => true
      | _ => false)

/-- A group that no load is made for. -/
def noGroup : Nat := 2 ^ 32

/-- Bytes of an address space as hardware of the device reads them at DEVICE scope, where they can be read; it follows what
has come to a meeting point (R195, R199, R231). -/
def State.readVa (s : State) (a : Agent) (space : Nat) (va : DWord) (n : Nat) (after : Party) : State × Option (List Byte) :=
  if n = 0 then (s, some [])
  else
    let (s, _, x) := s.globalAt [] a space va n .load
    match x with
    | .ok (.phys segs) =>
      let (op, s) := s.forked 10 [] [after] deviceActor
      let (s, bs) := s.loadWeak (deviceActor op) 0 7 noGroup (.phys segs) n
      (s, some bs)
    | _ => (s, none)

/-- Whether the argument block, peg table and DCB of a record can be read, and the record names a peg table where it
must (R179): otherwise reason 8. -/
def State.recReads (s : State) (g : Agent) (space : Nat) (r : List Byte) : State × Bool :=
  let (s, a) := s.readable g space (BitVec.ofNat 64 (fieldOf r 48 8)) (recArgs r)
  let (s, p) := if recPegs r = 0 then (s, (recDone r).isNone && (recPairs r).isEmpty)
    else s.readable g space (recPegs r) 512
  (s, a && p && s.domainReadable (recDcb r) 16)

/-- The bents of each die (R237, R238): socket, first bent, end. -/
def State.cutDies (s : State) (r : List Byte) : List (Nat × Nat × Nat) :=
  let t := recDies r
  if !t.isEmpty then t
  else
    let socks := (List.range Config.computeDies).filter s.computeOk
    let n := socks.length
    (socks.zipIdx.map fun (k, i) => (k, i * recBents r / n, (i + 1) * recBents r / n)).filter fun e => e.2.1 < e.2.2

/-- The records that are in use of a die's launch pool (R241). -/
def State.poolUsed (s : State) (socket : Nat) : Nat :=
  (s.launches.filter fun p => p.2.origin == .device socket && !p.2.done).length +
    (s.tasks.filter fun p => p.2.socket == socket).length

/-- Depth of a group's work (R241). -/
def State.depthOf (s : State) (gid : Nat) : Nat :=
  match (s.pieceOf gid).bind fun p => tfind s.tasks p.task with
  | some t => t.depth
  | none => ((s.launchOf gid).map (·.depth)).getD 0

/-- The operand of STLOAD, TASK and LAUNCH: A[a] + sext(IMM22) (R264, R266, R268). -/
def Ctx.recordUse (c : Ctx) (size align : Nat) : MemUse :=
  { space := 0, size := size, align := align, acc := .load, ea := fun _ v => some (v.a + c.o.own) }

/-- A launch put into the die's pool, to start when its pairs hold (R241, R268); where its pool record lies is a free value
(log entry 4). It is a fork edge at DEVICE scope from the lane into the launch (R195). -/
def State.addLaunch (s : State) (gid : Nat) (va : DWord) (r : List Byte) (a : Actor) : State :=
  let parent := s.launchOf gid
  let (pool, s) := s.free
  let l : Launch :=
    { uid := s.uids, origin := .device (socketOf gid), addr := va, record := r, pool := pool, space := s.spaceOf gid
      depth := s.depthOf gid + 1, priv := s.privOf gid, pid := (parent.map (·.pid)).getD 0
      tid := (parent.map (·.tid)).getD 0 }
  { (s.edge 7 [] [.actor a] [.launch s.uids, .unit 5 s.uids]) with
    uids := s.uids + 1, launches := tins s.launches s.uids l }

/-- The outcome of LAUNCH in a lane: its status word, and the state (R241, R268). -/
def State.launchOne (s : State) (gid : Nat) (va : DWord) (r : List Byte) (a : Actor) : State × Nat :=
  if Config.depthLimit < s.depthOf gid + 1 then (s, 2)
  else
    let (s, noArea) := s.areaMissing r
    match s.rejectFirst r noArea with
    | some n => (s, 3 + 256 * n)
    | none =>
      if Config.launchPool ≤ s.poolUsed (socketOf gid) then (s, 1) else (s.addLaunch gid va r a, 0)

/-- Whether a task record keeps to R243; a task always names a peg, so its launch must have a table (R179). -/
def taskShape (r : List Byte) (pegs : DWord) : Bool :=
  zeroBits r 0 8 57 63 && taskGrain r != 0 && zeroBits r 28 4 10 31 && fieldBits r 28 4 0 3 ≤ 4 && zeroBits r 32 8 0 5 &&
  ([40, 41, 42, 43].all fun o => zeroBits r o 1 6 7) && fieldOf r 44 4 == 0 && pegs != 0

/-- A task created, not yet ready (R244); where its pool record lies is a free value (log entry 4). It is a fork edge from the
lane into its pieces (R193). -/
def State.addTask (s : State) (gid : Nat) (r : List Byte) (a : Actor) : State :=
  match s.group gid, s.bentOf gid, s.launchOf gid with
  | some g, some b, some l =>
    let (pool, s) := s.free
    let t : Task :=
      { uid := s.uids, socket := socketOf gid, launch := l.uid, gid := gid, record := r, pool := pool
        dcb := if fieldOf r 32 8 = 0 then recDcb l.record else fieldOf r 32 8
        depth := s.depthOf gid + 1, role := g.role, number := g.number, bent := b.number }
    { (s.edge 10 [] [.actor a] [.unit 3 s.uids]) with uids := s.uids + 1, tasks := tins s.tasks s.uids t }
  | _, _, _ => s

/-- The outcome of TASK in a lane (R266). -/
def State.taskOne (s : State) (gid : Nat) (r : List Byte) (a : Actor) : State × Nat :=
  let pegs := ((s.launchOf gid).map fun l => recPegs l.record).getD 0
  let dcb := fieldOf r 32 8
  if Config.depthLimit < s.depthOf gid + 1 then (s, 2)
  else if !taskShape r pegs then (s, 3 + 256 * 9)
  else if dcb != 0 && !s.domainOk dcb then (s, 3 + 256 * 5)
  else if Config.launchPool ≤ s.poolUsed (socketOf gid) then (s, 1)
  else (s.addTask gid r a, 0)

/-- LAUNCH and TASK: a record read at issue in each lane, at DEVICE scope, and a status written (R184, R266, R268). -/
def submitOp (m : Major) (size : Nat) (own : Ctx → List Nat) (one : State → Nat → DWord → List Byte → Actor → State × Nat)
    (o : Op) (s : State) : Host.Outcome State Fault Refusal :=
  issue m o s fun c => do
    c.check (own c)
    let (ins, late) ← c.gather false (some (c.recordUse size 64))
    let evs ← ins.mapM fun i => do
      let r ← c.loadWeak i.lane 7 i.place size
      let (t, st) := one (← get) c.r.gid i.ea r (c.actor i.lane)
      set t
      c.result i (BitVec.ofNat 64 st)
    c.finish late (ins.flatMap (·.evs) ++ evs.flatten)

/-- LAUNCH (R241, R268). -/
def execLaunch (o : Op) (s : State) : Host.Outcome State Fault Refusal :=
  submitOp .launch 256 (fun c => if s.isSealed c.r.gid then [11] else []) State.launchOne o s

/-- TASK (R243, R266). -/
def execTask (o : Op) (s : State) : Host.Outcome State Fault Refusal :=
  submitOp .task 64 (fun c => if s.isSealed c.r.gid || c.joiner then [11] else []) (fun s g _ r a => s.taskOne g r a) o s

/-- The next chunk of a piece taken (R245): its bounds, and the piece after it. -/
def Piece.take (p : Piece) (grain : Nat) : Option ((Nat × Nat) × Piece) :=
  if p.next < p.stop then
    let e := min (p.next + grain) p.stop
    some ((p.next, e), { p with next := e, taken := p.taken ++ [(p.next, e)] })
  else none

/-- TNEXT (R245, R267). -/
def execTnext (o : Op) (s : State) : Host.Outcome State Fault Refusal :=
  issue .tnext o s fun c => do
    let d := kNum o.d
    c.check (if d % 4 == 0 then [] else [11])
    c.targets [(0, c.target)]
    let grain := (((s.pieceOf c.r.gid).bind fun p => tfind s.tasks p.task).map fun t => taskGrain t.record).getD 1
    match (s.pieceOf c.r.gid).bind fun p => p.take grain with
    | some ((b, e), p) =>
      modify fun s => s.onBent c.bent fun x => { x with piece := some p }
      modify fun s => s.onGroup c.r.gid fun g =>
        (((g.setK d (BitVec.ofNat 32 b)).setK (d + 1) (BitVec.ofNat 32 (b / 2 ^ 32))).setK (d + 2)
          (BitVec.ofNat 32 e)).setK (d + 3) (BitVec.ofNat 32 (e / 2 ^ 32))
      c.finish [] []
    | none =>
      c.watch 0 []
      c.regroup 0 ((lanesOf c.f.lanes).map fun l => (l, c.target, c.f.wb))

/-- A storage read descriptor (Table 120). -/
structure StDesc where
  dst   : DWord
  slba  : Nat
  nlb   : Nat
  nsid  : Nat
  qp    : Nat
  bytes : Nat
deriving DecidableEq, Repr

/-- A descriptor's fields, where it keeps to R264 and to what the host granted (R265); none is STORAGE-DESC. -/
def State.stDesc (s : State) (d : List Byte) : Option StDesc :=
  let ok := zeroBits d 0 8 57 63 && fieldOf d 0 8 % 4 == 0 && fieldOf d 18 2 == 0 && zeroBits d 24 4 8 31 &&
    fieldOf d 28 4 == 0
  match tfind s.pairs (fieldOf d 24 1) with
  | none => none
  | some q =>
    let bytes := (fieldOf d 16 2 + 1) * q.lbaSize
    if ok && q.nsids.contains (fieldOf d 20 4) && bytes ≤ q.maxXfer then
      some { dst := BitVec.ofNat 64 (fieldOf d 0 8), slba := fieldOf d 8 8, nlb := fieldOf d 16 2
             nsid := fieldOf d 20 4, qp := fieldOf d 24 1, bytes := bytes }
    else none

/-- How a lane of STLOAD goes: issued, stopped by pages, out of submission entries, or in error (R265). -/
inductive StLane where
  | done (s : State) (memo : Memo)
  | late (s : State) (memo : Memo) (l : List Late)
  | full
  | bad (s : State) (kind : Nat) (w1 w2 w3 : DWord)

/-- One lane of STLOAD: the descriptor checked, its destination pinned, the Read put into its queue pair (R265). -/
def Ctx.stLane (c : Ctx) (s : State) (memo : Memo) (i : LaneIn) : StLane :=
  let (s, d) := s.loadWeak (c.actor i.lane) c.f.lanes 7 c.r.gid i.place 32
  match s.stDesc d with
  | none => .bad s 6 i.ea 0 0
  | some e =>
    let (s, memo, x) := s.globalAt memo (s.engineOf c.r.gid) c.space e.dst e.bytes .engineWrite
    match x with
    | .bad k a b w => .bad s k a b w
    | .late f => .late s memo (lateOf i.lane .engineWrite f)
    | .ok (.phys segs) =>
      match tfind s.pairs e.qp with
      | none => .full
      | some q =>
        if q.free = 0 then .full
        else
          let (op, s) := s.forked 10 [] [.actor (c.actor i.lane)] deviceActor
          let s := s.edge 10 [] [.actor (c.actor i.lane)] [.actor (driveActor op)]
          let cmd : StCmd :=
            { launch := ((s.launchOf c.r.gid).map (·.uid)).getD 0, dom := s.domOf c.r.gid, fibre := c.r, pc := c.f.pc
              lane := i.lane, qp := e.qp, desc := i.ea, nsid := e.nsid, slba := e.slba, nlb := e.nlb, dst := segs
              bytes := e.bytes, op := op
              peg := if c.o.mod.getLsbD 6 then some (bitsAt c.o.mod 0 6) else none }
          .done { s with stcmds := s.stcmds ++ [cmd], pairs := tins s.pairs e.qp { q with free := q.free - 1 } } memo
    | .ok _ => .full

/-- The lanes of STLOAD in turn: the pages that some lanes wait for, and the lanes from the first that finds its queue
pair full (R265). -/
def Ctx.stLanes (c : Ctx) : List LaneIn → Memo → List Late → Ex (List Late × List Nat)
  | [], _, late => pure (late, [])
  | i :: rest, memo, late => fun s =>
    match c.stLane s memo i with
    | .done t memo => c.stLanes rest memo late t
    | .late t memo l => c.stLanes rest memo (late ++ l) t
    | .full => .ok ((late, (i :: rest).map (·.lane)), s)
    | .bad t k a b e => .error ((t.payEvents c.r c.f).takeFault c.r c.f.pc c.act k a b e)

/-- STLOAD (R264, R265). -/
def execStload (o : Op) (s : State) : Host.Outcome State Fault Refusal :=
  issue .stload o s fun c => do
    c.check (if s.isSealed c.r.gid then [11] else [])
    let g ← c.ready false (some (c.recordUse 32 32))
    c.faults g
    let (late, full) ← c.stLanes g.ins g.memo g.late
    if late.isEmpty && full.isEmpty then c.finish [] []
    else
      let waiting := if o.un then c.wr else maskOf (late.map (·.lane) ++ full)
      c.watch waiting []
      c.waitFor waiting late

/-- A peg of a launch translated for hardware of a die; RESIDENT where it cannot be (R179). -/
def State.launchPeg (s : State) (a : Agent) (l : Launch) (n : Nat) (acc : Access) : State × Except AccErr Nat :=
  let va := recPegs l.record + BitVec.ofNat 64 (8 * n)
  if recPegs l.record = 0 then (s, .error (.fault 10 va 0 0))
  else
    let (s, x) := s.translate a l.space va acc
    (s, x.mapError (tableFault 10 va))

/-- The kind and words of a FAULT record (Table 155). -/
def AccErr.words (e : AccErr) : Nat × DWord × DWord × DWord :=
  match e with
  | .fault k a b d => (k, a, b, d)
  | .page k _ => (k, 0, 0, 0)

/-- A record about work whose group may be gone (Table 151): the header names the group, weave and lane it came from. -/
def StCmd.record (c : StCmd) (cls cause : Nat) (info : List Byte) : List Byte :=
  padTo 64 (header cls cause (socketOf c.fibre.gid) 0 c.fibre.gid c.dom.id c.fibre.weave c.fibre.fid 0 0 c.pc
    (laneBit c.lane) 0 ++ info)

/-- The peg of a storage command advanced; a fault on the table is RESIDENT of its group, if there is one still
(R179). -/
def State.storagePeg (s : State) (c : StCmd) (n : Nat) : State :=
  match tfind s.launches c.launch with
  | none => s
  | some l =>
    match s.launchPeg { socket := socketOf c.fibre.gid } l n .atomic with
    | (s, .ok pa) => s.addPeg pa 1 (deviceActor c.op)
    | (s, .error x) =>
      let (k, w1, w2, w3) := x.words
      let s := s.deliver c.dom [c.record 16 k (leBytes 8 w1.toNat ++ leBytes 8 w2.toNat ++ leBytes 8 w3.toNat)]
      s.endBent (((s.group c.fibre.gid).map (·.bent)).getD s.uids) c.fibre.gid

/-- A storage command completes (R265): its bytes are written by the drive, at IO scope, undefined ones when it reports an
error, with a storage error record; then its peg advances (R193, R198). -/
def execStloadCompletion (idx : Nat) (status : BitVec 16) (data : List Byte) (s : State) :
    Host.Outcome State Fault Refusal :=
  match s.stcmds[idx]? with
  | none => .refused (.notEnabled "STLOAD_COMPLETION")
  | some c =>
    let bytes := if status = 0 then padTo c.bytes data else (List.range c.bytes).map fun i => Config.freeByte s.fresh i
    let s := { s with
      fresh := s.fresh + 1, stcmds := s.stcmds.eraseIdx idx
      pairs := tmod s.pairs c.qp fun q => { q with free := q.free + 1 } }
    let s := s.storeAt 0 (.phys c.dst) bytes (driveActor c.op) 10
    let s := s.edge 10 [] [.actor (driveActor c.op)] [.actor (deviceActor c.op)]
    let s := if status = 0 then s
      else s.deliver c.dom [c.record 18 0 (leBytes 8 c.desc.toNat ++ leBytes 4 status.toNat ++ leBytes 4 (c.peg.getD 0))]
    .next (match c.peg with
      | some n => s.storagePeg c n
      | none => s)

end Sys2Proof.Machine
end

