-- ==== Sys2Proof/Machine/Place.lean ====
section
/-! DEFINITION. The life of a bent: what it needs of a bay (R30, R36, R40), the order of placement (R251, R252), groups at
their start (R35, R44, R47), pre-emption and restore (R253, R319 to R323), the retirement of groups and bents (R29, R36,
R247, R248, R305). -/
namespace Sys2Proof.Machine
open Sys2Proof

/-- One group of a bent: its role, its number within it, its entry PC, and whether it is the joiner stream (R35, R37). -/
structure Member where
  role     : Nat
  number   : Nat
  pc       : DWord
  isStream : Bool := false
deriving DecidableEq, Repr

/-- The task of a bent that is a piece. -/
def State.taskOf (s : State) (b : Bent) : Option Task := b.piece.bind fun p => tfind s.tasks p.task

/-- The groups a bent starts with (R35, R244). -/
def State.members (s : State) (b : Bent) (l : Launch) : List Member :=
  match s.taskOf b with
  | some t => [{ role := t.role, number := t.number, pc := BitVec.ofNat 64 (fieldOf t.record 0 8) }]
  | none =>
    (rolesOf l.record).flatMap fun i =>
      (List.range (roleGroups l.record i)).map fun k =>
        { role := i, number := b.number * roleGroups l.record i + k, pc := roleEntry l.record i
          isStream := roleScalar l.record i }

/-- What a group takes of a core (R30). -/
structure Demand where
  weaves : Nat
  g      : Nat
  x      : Nat
  region : Nat
deriving DecidableEq, Repr

/-- What the groups of a core take of it (R30). -/
structure Load where
  weaves  : Nat := 0
  slots   : Nat := 0
  g       : Nat := 0
  x       : Nat := 0
  regions : List (Nat × Nat) := []
deriving DecidableEq, Repr

/-- What a group of a role takes. -/
def demandOf (r : List Byte) (role : Nat) : Demand :=
  { weaves := roleWeaves r role, g := roleWeaves r role * roleG r role, x := roleWeaves r role * roleX r role
    region := regionBytes r role }

/-- Weaves of a group (R14). -/
def Group.weaveCount (g : Group) : Nat := (g.size + 63) / 64

/-- What a started group takes. -/
def Group.demand (g : Group) : Demand :=
  { weaves := g.weaveCount, g := g.weaveCount * g.gBudget, x := g.weaveCount * g.xBudget, region := g.regions }

/-- A group added to a core's load, its region at a base. -/
def Load.add (l : Load) (d : Demand) (base : Nat) : Load :=
  { weaves := l.weaves + d.weaves, slots := l.slots + 1, g := l.g + d.g, x := l.x + d.x
    regions := (base, d.region) :: l.regions }

/-- Whether a region lies free in the A-store (R30). -/
def Load.isFree (l : Load) (base n : Nat) : Bool :=
  base % 4096 == 0 && base + n ≤ Config.aStoreBytes && l.regions.all fun r => base + n ≤ r.1 || r.1 + r.2 ≤ base

/-- Whether a group fits a core but for its region (R30). -/
def Load.admits (l : Load) (d : Demand) : Bool :=
  l.weaves + d.weaves ≤ Config.weavesPerCore && l.slots + 1 ≤ Config.groupSlots && l.g + d.g ≤ 4096 && l.x + d.x ≤ 256

/-- The lowest free place of a region. -/
def Load.gap (l : Load) (n : Nat) : Option Nat :=
  bestOf (fun a b => decide (a < b))
    ((0 :: l.regions.map fun r => (r.1 + r.2 + 4095) / 4096 * 4096).filter fun b => l.isFree b n)

/-- Places for groups beside the loads of a bay's cores, if there are any (R36). The architecture leaves open which cores and
A-store regions these are (R164): a run may name any that fit, and where it names none, the model takes the first cores in
order and the lowest free base (log entry 51). -/
def findPlaces : List Demand → List Load → Option (List Place)
  | [], _ => some []
  | d :: rest, loads =>
    (List.range loads.length).findSome? fun c =>
      match loads[c]? with
      | none => none
      | some l =>
        if l.admits d then
          match l.gap d.region with
          | some base => (findPlaces rest (loads.set c (l.add d base))).map (⟨c, base⟩ :: ·)
          | none => none
        else none

/-- Whether given places fit (R36). -/
def placesFit : List Demand → List Place → List Load → Bool
  | [], [], _ => true
  | d :: rest, p :: ps, loads =>
    match loads[p.core]? with
    | none => false
    | some l => l.admits d && l.isFree p.base d.region && placesFit rest ps (loads.set p.core (l.add d p.base))
  | _, _, _ => false

/-- The groups on a core that have not retired; those of `gone` are not counted. -/
def State.coreGroups (s : State) (bay core : Nat) (gone : List Nat) : List Group :=
  (s.groups.map (·.2)).filter fun g => !g.retired && g.core == core && !gone.contains g.bent && (match s.bent g.bent with
    | some b => b.holds && b.bay == bay
    | none => false)

/-- The loads of the four lane cores of a bay. -/
def State.loads (s : State) (bay : Nat) (gone : List Nat) : List Load :=
  (List.range Config.coresPerBay).map fun c =>
    (s.coreGroups bay c gone).foldl (fun l g => l.add g.demand g.phys) {}

/-- A bent's groups that need a lane core: those it starts with, or those left of a saved bent. -/
def State.demands (s : State) (b : Bent) : List Demand :=
  if b.st == .saved then
    b.groups.filterMap fun k => (s.group k).bind fun g =>
      if g.retired || b.joiner == some k then none else some g.demand
  else
    match tfind s.launches b.launch with
    | none => []
    | some l => ((s.members b l).filter fun m => !m.isStream).map fun m => demandOf l.record m.role

/-- Whether a bent takes its bay's claim (R36): a range-task piece does not (log entry 20). -/
def State.needsClaim (s : State) (b : Bent) : Bool :=
  b.piece.isNone && (match tfind s.launches b.launch with
    | none => false
    | some l => recClaim l.record || (rolesOf l.record).any (roleScalar l.record))

/-- Whether a bent awaits placement (R252, R321). -/
def Bent.awaits (b : Bent) : Bool := b.st == .waiting || b.st == .saved

/-- The bays that bents of a domain's subtree hold (R40). -/
def State.baysHeld (s : State) (dcb : Nat) (gone : List Nat) : List Nat :=
  ((s.bents.filter fun p => p.2.holds && !gone.contains p.1 && ((s.viewOf p.2).shares.map (·.1)).contains dcb).map fun p => p.2.bay).distinct

/-- Whether the budgets of a domain's path allow one of its bents on a bay (R40). -/
def State.inBudget (s : State) (dcb bay : Nat) (gone : List Nat) : Bool :=
  (s.path dcb).all fun d =>
    (s.baysHeld d gone).contains bay || (s.baysHeld d gone).length + 1 ≤ s.bayBudget d

/-- Whether the claim of a bay can be taken (R36). -/
def State.claimFree (s : State) (bay : Nat) (gone : List Nat) : Bool :=
  match (s.bayAt bay).holder with
  | none => true
  | some h => gone.contains h

/-- Whether no other bent that still waits has chosen the bay (R252). -/
def State.unchosen (s : State) (b : Bent) (bay : Nat) : Bool :=
  (s.die b.socket).chosen.all fun c =>
    c.2 != bay || c.1 == b.uid || !((s.bent c.1).map Bent.awaits).getD false

/-- Whether a bay admits a bent but for room on its cores (R36, R40, R252). -/
def State.admits (s : State) (b : Bent) (bay : Nat) (gone : List Nat) (budget : Bool) : Bool :=
  s.unchosen b bay && (!s.needsClaim b || s.claimFree bay gone) && (!budget || s.inBudget b.dcb bay gone)

/-- Places for a bent on a bay, with some resident bents taken away (R30, R36, R40). -/
def State.fit (s : State) (b : Bent) (bay : Nat) (gone : List Nat) (budget : Bool) : Option (List Place) :=
  if s.admits b bay gone budget then findPlaces (s.demands b) (s.loads bay gone) else none

/-- The bays of a die; none while the die is not in use (R353). -/
def State.baysOf (s : State) (socket : Nat) : List Nat :=
  if s.computeOk socket && !(s.die socket).offline then (List.range Config.baysPerDie).map (bayKey socket) else []

/-- Whether a bent fits somewhere on its die. -/
def State.fitsDie (s : State) (b : Bent) (budget : Bool) : Bool :=
  (s.baysOf b.socket).any fun k => (s.fit b k [] budget).isSome

/-- Whether only a bay budget keeps a bent from being placed: it does not age (R252). -/
def State.budgetBlocked (s : State) (b : Bent) : Bool := !s.fitsDie b true && s.fitsDie b false

/-- Effective class of a bent that waits; a resident one waits for nothing (R251). -/
def State.classOf (s : State) (b : Bent) : Nat :=
  if b.awaits then (s.view b.dcb).classAt (s.cycle - b.since) else (s.viewOf b).classAt 0

/-- Whether one waiting bent is taken before another: by class, then by waiting time (R252). -/
def State.bentBefore (s : State) (a b : Bent) : Bool :=
  s.classOf b < s.classOf a || (s.classOf a == s.classOf b && (a.since < b.since || (a.since == b.since && a.uid < b.uid)))

/-- Whether it is a bent's turn: those before it fit nowhere (R252). -/
def State.inTurn (s : State) (b : Bent) : Bool :=
  s.bents.all fun p =>
    !(p.2.awaits && p.2.socket == b.socket && s.bentBefore p.2 b && s.fitsDie p.2 true)

/-- Whether a bent may go to places of a bay now. -/
def State.mayPlace (s : State) (b : Bent) (bay : Nat) (places : List Place) : Bool :=
  (s.baysOf b.socket).contains bay && s.inTurn b && s.admits b bay [] true && placesFit (s.demands b) places (s.loads bay [])

/-- The lowest numbers below a bound that are not taken. -/
def freeNumbers (bound : Nat) (taken : List Nat) : List Nat := (List.range bound).filter fun i => !taken.contains i

/-- The next GID of a die: the count of groups started, past the values that groups still hold (R44). -/
def State.nextGid (s : State) (socket : Nat) : Nat × Nat :=
  let at_ (i : Nat) : Nat := ((s.die socket).gidCount + i) % 2 ^ 28
  let i := ((List.range (s.groups.length + 1)).find? fun i => (s.group (socket * 2 ^ 28 + at_ i)).isNone).getD 0
  (socket * 2 ^ 28 + at_ i, at_ i + 1)

/-- A typed store whose last holder was of the same domain is undefined, any other is zero (R36). -/
def storeFor (last : Option Nat) (dcb seed : Nat) : Store := if last = some dcb then { fill := some seed } else {}

/-- The claim of a bay taken (R36, R181). -/
def State.takeClaim (s : State) (b : Bent) (bay : Nat) : State :=
  let y := s.bayAt bay
  let tiles : Table (BitVec 5) :=
    if y.lastDomain = some b.dcb then
      (List.range 64).foldl (fun t i => tput 0 t i ((Config.freeDWord (s.fresh + 2 + i)).setWidth 5)) []
    else []
  { s.setBay bay { y with
      holder := some b.uid, lastDomain := some b.dcb, w := storeFor y.lastDomain b.dcb s.fresh
      c := storeFor y.lastDomain b.dcb (s.fresh + 1), tiles := tiles, guards := [] } with
    fresh := s.fresh + 66 }

/-- The data part of a region, page by page as its last holder left it (R36). -/
def State.regionData (s : State) (bay core base len dcb : Nat) : Store :=
  let last (i : Nat) : Option Nat := tfind (s.bayAt bay).aDomain (128 * core + base / 4096 + i)
  let n := len / 4096
  let same := (List.range n).filter fun i => last i = some dcb
  if same.isEmpty then {}
  else
    { fill := some s.fresh
      cells := ((List.range n).filter fun i => last i ≠ some dcb).flatMap fun i =>
        (List.range 4096).map fun j => (4096 * i + j, (0 : Byte)) }

/-- A region's pages held by a domain from now on (R36). -/
def State.holdRegion (s : State) (bay core base len dcb : Nat) : State :=
  let y := s.bayAt bay
  s.setBay bay { y with
    aDomain := (List.range ((len + 4095) / 4096)).foldl (fun t i => tins t (128 * core + base / 4096 + i) dcb) y.aDomain }

/-- The weaves of a group at its start (R14, R47). -/
def freshWeaves (size : Nat) (pc : DWord) (slots : List Nat) (now : Nat) : Table Weave :=
  (List.range ((size + 63) / 64)).map fun w =>
    let n := min 64 (size - 64 * w)
    (w, { size := n, slot := slots.getD w 0, ready := now
          fibres := [{ id := 0, pc := pc, lanes := BitVec.ofNat 64 (2 ^ n - 1) }] })

/-- A group started on a core (R44, R47): the state of Table 21. -/
def State.startGroup (s : State) (b : Bent) (l : Launch) (bay : Nat) (m : Member) (p : Place) : State × Nat :=
  let (gid, count) := s.nextGid b.socket
  let r := l.record
  let here := s.coreGroups bay p.core []
  let region := if m.isStream then 0 else regionBytes r m.role
  let base := if m.isStream then 0 else p.core * 2 ^ 22 + p.base
  let size := roleLanes r m.role
  let k := (List.range ((l.args.length + 3) / 4)).foldl (fun t i => tput (0 : Word) t i (BitVec.ofNat 32 (fieldOf l.args (4 * i) 4))) []
  let a := tput (0 : DWord) (tput 0 (tput 0 [] 0 (BitVec.ofNat 64 (fieldOf r 48 8))) 1 l.addr) 2 (BitVec.ofNat 64 base)
  let slots := freeNumbers Config.weavesPerCore (here.flatMap fun g => g.weaves.map fun w => w.2.slot)
  let g : Group :=
    { gid := gid, bent := b.uid, role := m.role, number := m.number, size := size, gBudget := roleG r m.role
      xBudget := roleX r m.role, core := p.core, slot := (freeNumbers Config.groupSlots (here.map (·.slot))).headD 0
      logical := base, phys := p.base, dataLen := if m.isStream then 0 else roleData r m.role
      data := if m.isStream then {} else s.regionData bay p.core p.base (roleData r m.role) b.dcb
      regions := region, weaves := freshWeaves size m.pc slots s.cycle, k := k, a := a
      logStore := if m.isStream then 256 else recLog r, logSpill := if m.isStream then 0 else recSpill r
      spillVa := BitVec.ofNat 64 (fieldOf r 144 8), recCap := recRecords r, kerfCap := recKerf r }
  let s := s.setDie b.socket { s.die b.socket with gidCount := count }
  let s := if m.isStream then s else s.holdRegion bay p.core p.base region b.dcb
  ({ (s.setGroup g) with fresh := s.fresh + 1 }, gid)

/-- The groups of a bent started, those of lane cores at the given places. -/
def State.startGroups (s : State) (b : Bent) (l : Launch) (bay : Nat) : List Member → List Place → State × List (Nat × Bool)
  | [], _ => (s, [])
  | m :: rest, ps =>
    let (p, ps) := if m.isStream then (⟨4, 0⟩, ps) else (ps.headD ⟨0, 0⟩, ps.drop 1)
    let (s, gid) := s.startGroup b l bay m p
    let (s, r) := s.startGroups b l bay rest ps
    (s, (gid, m.isStream) :: r)

/-- A bent that no longer waits for the bay it chose (R252). -/
def State.unchoose (s : State) (b : Bent) : State :=
  let d := s.die b.socket
  s.setDie b.socket { d with chosen := d.chosen.filter fun c => c.1 != b.uid }

/-- A waiting bent placed: all its roles start together (R36). -/
def State.placeBent (s : State) (b : Bent) (bay : Nat) (places : List Place) : State :=
  match tfind s.launches b.launch with
  | none => s
  | some l =>
    let claim := s.needsClaim b
    let s := if claim then s.takeClaim b bay else s
    let s := s.onBent b.uid fun b =>
      { b with
        st := .resident, holds := true, bay := bay, placed := s.cycle, claim := claim, seven := false
        dom := some (s.view b.dcb) }
    let (s, gids) := s.startGroups b l bay (s.members b l) places
    let s := s.onBent b.uid fun b =>
      { b with groups := gids.map (·.1), joiner := (gids.find? (·.2)).map (·.1) }
    (gids.foldl (fun s p => s.syncTable p.1) (s.unchoose b)).countDie b.socket 10 1

/-- A waiting bent is placed on a bay by class and waiting time (R252). -/
def execBentPlacement (uid bay : Nat) (places : List Place) (s : State) : Host.Outcome State Fault Refusal :=
  match s.bent uid with
  | some b =>
    if b.st == .waiting && s.mayPlace b bay places then .next (s.placeBent b bay places)
    else .refused (.notEnabled "BENT_PLACEMENT")
  | none => .refused (.notEnabled "BENT_PLACEMENT")

/-- The bents that hold cores of a bay. -/
def State.residents (s : State) (bay : Nat) : List Bent := (s.bents.map (·.2)).filter fun r => r.holds && r.bay == bay

/-- The ways to take `k` elements of a list. -/
def selections : List Nat → Nat → List (List Nat)
  | _, 0 => [[]]
  | [], _ + 1 => []
  | x :: r, k + 1 => (selections r k).map (x :: ·) ++ selections r (k + 1)

/-- The smallest number of resident bents whose removal lets a bent fit on a bay (R252). -/
def State.removals (s : State) (b : Bent) (bay : Nat) : Option Nat :=
  let all := (s.residents bay).map (·.uid)
  (List.range (all.length + 1)).find? fun k => (selections all k).any fun gone => (s.fit b bay gone true).isSome

/-- The first of some bays with the smallest count. -/
def fewest (l : List (Nat × Nat)) : Option Nat := (bestOf (fun a b => decide (a.2 < b.2 || (a.2 = b.2 && a.1 < b.1))) l).map (·.1)

/-- The bay that a bent of class 7 chooses (R252): among those whose claim it may take, the one with the fewest removals. -/
def State.chooseBay (s : State) (b : Bent) : Option Nat :=
  fewest ((s.baysOf b.socket).filterMap fun k =>
    if !s.needsClaim b || s.claimFree k [] then (s.removals b k).map fun n => (k, n) else none)

/-- A waiting bent's effective class reaches 7 through ageing, and it chooses its bay, once (R252). -/
def execEffectiveClassReaches7 (uid bay : Nat) (s : State) : Host.Outcome State Fault Refusal :=
  match s.bent uid with
  | some b =>
    if b.awaits && !b.seven && s.classOf b == 7 && s.chooseBay b == some bay then
      let d := s.die b.socket
      .next ((s.setDie b.socket { d with chosen := d.chosen ++ [(uid, bay)] }).onBent uid fun b => { b with seven := true })
    else .refused (.notEnabled "EFFECTIVE_CLASS_REACHES_7")
  | none => .refused (.notEnabled "EFFECTIVE_CLASS_REACHES_7")

/-- The bents of a bay that a bent of class `e` may have removed, lowest class first, then youngest (R253). -/
def State.victims (s : State) (bay e : Nat) : List Bent :=
  sortBy (fun a b => decide ((s.viewOf a).priority < (s.viewOf b).priority ||
      ((s.viewOf a).priority = (s.viewOf b).priority && (b.placed < a.placed || (a.placed = b.placed && b.uid < a.uid)))))
    ((s.residents bay).filter fun r => (r.st == .resident || r.st == .stopping) && (s.viewOf r).priority + 2 ≤ e)

/-- How many victims of a bay must go for a bent to fit (R253). -/
def State.victimCount (s : State) (b : Bent) (bay : Nat) : Option Nat :=
  let all := (s.victims bay (s.classOf b)).map (·.uid)
  (List.range all.length).findSome? fun k => if (s.fit b bay (all.take (k + 1)) true).isSome then some (k + 1) else none

/-- The next resident bent that a waiting bent has pre-empted (R253). -/
def State.nextVictim (s : State) (b : Bent) : Option Bent :=
  if s.fitsDie b true then none
  else
    (fewest ((s.baysOf b.socket).filterMap fun k => (s.victimCount b k).map fun n => (k, n))).bind fun k =>
      (s.victims k (s.classOf b)).head?

/-- Whether some waiting bent has this one pre-empted (R253). -/
def State.isVictim (s : State) (v : Bent) : Bool :=
  s.bents.any fun p => p.2.awaits && p.2.socket == v.socket && ((s.nextVictim p.2).map (·.uid)) == some v.uid

/-- What a bay's engines hold of a bent, for its save area, and what is left (R319, R320). -/
def Bay.save (y : Bay) (b : Bent) : Bay × Bay :=
  let mine (g : Nat) : Bool := b.groups.contains g
  let kept : Bay :=
    { mq := y.mq.filter fun c => c.bent == b.uid
      kicks := (y.kicks.map fun k => k.filter fun c => c.bent == b.uid).filter fun k => !k.isEmpty
      lap := y.lap.filter fun q => mine q.gid
      lapWait := y.lapWait.filter fun q => mine q.gid
      claims := y.claims.filter fun c => mine c.gid
      inserts := y.inserts.filter fun i => mine i.gid
      w := if b.claim then y.w else {}
      c := if b.claim then y.c else {}
      tiles := if b.claim then y.tiles else []
      guards := if b.claim then y.guards else [] }
  let left : Bay :=
    { y with
      holder := if b.claim then none else y.holder
      mq := y.mq.filter fun c => c.bent != b.uid
      kicks := y.kicks.map fun k => k.filter fun c => c.bent != b.uid
      lap := y.lap.filter fun q => !mine q.gid
      lapWait := y.lapWait.filter fun q => !mine q.gid
      claims := y.claims.filter fun c => !mine c.gid
      inserts := y.inserts.filter fun i => !mine i.gid }
  (kept, left)

/-- The register banks of the cores that a bent's groups are on exchange their roles (R318): the shadow bank holds the
context that left, or no longer holds the one that came back. -/
def State.switchBanks (s : State) (b : Bent) (shadow : Option Nat) : State :=
  let cores := (b.groups.filterMap fun k => (s.group k).map fun g => coreKey b.bay g.core).distinct
  cores.foldl (fun s k => s.setCore k { s.coreAt k with bank := !(s.coreAt k).bank, shadow := shadow }) s

/-- A fault of a bent's save area ends the bent (R318, R323): kind RESIDENT, or CONTEXT at restore. -/
def State.areaFault (s : State) (b : Bent) (kind : Nat) : State :=
  (s.reportEnd b kind b.area.toNat 0 0).endBent b.uid b.reportGid

/-- A bent saved: the banks switch, its engines' work goes with it, its cores, claim and guard slots are free (R319 steps 4
and 5). Where its save area lies is a free value, and whether its pages are there an open choice (log entry 37). -/
def State.saveBent (s : State) (b : Bent) : State :=
  let n := s.choose 2
  let area := n.2.free.1 &&& 0x01FFFFFFFFFFFFC0
  let s := n.2.free.2.onBent b.uid fun b => { b with area := area }
  if n.1 = 1 then s.areaFault { b with area := area } 10
  else
    let s := b.groups.foldl (fun s g => s.clearTable g) (s.switchBanks b (some b.uid))
    let (kept, left) := (s.bayAt b.bay).save b
    ((s.setBay b.bay left).onBent b.uid fun b =>
      { b with st := .saved, holds := false, saved := kept, since := s.cycle }) |>.countDie b.socket 11 1

/-- A bent is pre-empted (R319): it stops; once its started copy records have completed, it is saved. -/
def execPreemption (uid : Nat) (s : State) : Host.Outcome State Fault Refusal :=
  match s.bent uid with
  | none => .refused (.notEnabled "PREEMPTION")
  | some b =>
    let busy := (s.bayAt b.bay).started.any fun c => c.bent == uid
    if b.st == .stopping && !busy then .next (s.saveBent b)
    else if b.st == .resident && s.isVictim b then
      .next (if busy then s.onBent uid fun b => { b with st := .stopping } else s.saveBent b)
    else .refused (.notEnabled "PREEMPTION")

/-- A group of a saved bent mapped onto its new core and region (R321). -/
def State.moveGroup (s : State) (b : Bent) (gid bay : Nat) (p : Place) : State :=
  match s.group gid with
  | none => s
  | some g =>
    let here := s.coreGroups bay p.core []
    let slots := freeNumbers Config.weavesPerCore (here.flatMap fun x => x.weaves.map fun w => w.2.slot)
    let s := if b.joiner == some gid then s else s.holdRegion bay p.core p.base g.regions b.dcb
    s.setGroup { g with
      core := p.core, phys := p.base, slot := (freeNumbers Config.groupSlots (here.map (·.slot))).headD 0
      weaves := g.weaves.map fun (w, v) => (w, { v with slot := slots.getD w 0, ready := s.cycle }) }

/-- Whether a fibre is parked at the service request of a tag. -/
def Fibre.asks (f : Fibre) (tag : Nat) : Bool :=
  match f.wait with
  | .sysc t _ => t == tag
  | _ => false

/-- A service answer landed (R366): Kd written, and every fibre that is parked with its tag, which a lane step may have
parted (R331), at its next instruction; a fork edge at DEVICE scope from the store that answered. -/
def State.landAnswer (s : State) (q : SvcReq) (v : Word) : State :=
  match s.group q.gid with
  | none => s
  | some g =>
    ((g.weave q.weave).fibres.filter fun f => f.asks q.tag).foldl (fun s f =>
      let d := match f.wait with
        | .sysc _ d => d
        | _ => 0
      let s := (s.onGroup q.gid fun g => g.setK d v).onFibre ⟨q.gid, q.weave, f.id⟩ Fibre.complete
      (s.edge 7 q.pubs [] (s.lanesParty q.gid q.weave f.lanes)).settleHalts q.gid q.weave) s

/-- The service answers that came while a bent was saved (R366). -/
def State.landAnswers (s : State) (b : Bent) : State :=
  let d := s.die b.socket
  let mine := d.svc.filter fun q => b.groups.contains q.gid && q.answer.isSome
  let s := s.setDie b.socket { d with svc := d.svc.filter fun q => !(b.groups.contains q.gid && q.answer.isSome) }
  mine.foldl (fun s q => s.landAnswer q (q.answer.getD 0)) s

/-- What a bent's save area holds, put back into a bay's engines, its kicks in the kick registers of the cores that
its groups are now on (R77, R173, R320). Its requests go before those that wait to enter there, which R77 does not order
among them; its kicks stay in the registers also where these then hold more than 16, for which R173 gives no rule (log entry
51). -/
def Bay.restore (y : Bay) (b : Bent) (core : Nat → Nat) : Bay :=
  { y with
    holder := if b.claim then some b.uid else y.holder
    lastDomain := if b.claim then some b.dcb else y.lastDomain
    w := if b.claim then b.saved.w else y.w
    c := if b.claim then b.saved.c else y.c
    tiles := if b.claim then b.saved.tiles else y.tiles
    guards := if b.claim then b.saved.guards else y.guards
    mq := y.mq ++ b.saved.mq
    kicks := y.kicks ++ b.saved.kicks.map fun k => k.map fun c => { c with core := core c.gid }
    lapWait := b.saved.lap ++ b.saved.lapWait ++ y.lapWait
    claims := y.claims ++ b.saved.claims
    inserts := y.inserts ++ b.saved.inserts }

/-- The groups of a saved bent moved to their new places, in order. -/
def State.moveGroups (s : State) (b : Bent) (bay : Nat) : List Nat → List Place → State
  | [], _ => s
  | gid :: rest, ps =>
    let live := ((s.group gid).map fun g => !g.retired).getD false
    if !live then s.moveGroups b bay rest ps
    else if b.joiner == some gid then (s.moveGroup b gid bay ⟨4, 0⟩).moveGroups b bay rest ps
    else (s.moveGroup b gid bay (ps.headD ⟨0, 0⟩)).moveGroups b bay rest (ps.drop 1)

/-- A saved bent put back on a bay of its die (R321). -/
def State.restoreBent (s : State) (b : Bent) (bay : Nat) (places : List Place) : State :=
  let s := s.moveGroups b bay b.groups places
  let s := s.onBay bay fun y => y.restore b fun k => ((s.group k).map (·.core)).getD 0
  let s := s.onBent b.uid fun b =>
    { b with
      st := .resident, holds := true, bay := bay, placed := s.cycle, saved := {}, seven := false
      dom := some (s.view b.dcb) }
  let s := (s.enterRequests bay (b.saved.lap.length + b.saved.lapWait.length)).landAnswers b
  b.groups.foldl (fun s g => s.syncTable g) ((s.unchoose b).switchBanks { b with bay := bay } none)

/-- A saved bent is restored (R321). Whether its save area's pages are there and the area passes its check are open
choices (R318, R323, log entry 37). -/
def execRestore (uid bay : Nat) (places : List Place) (s : State) : Host.Outcome State Fault Refusal :=
  match s.bent uid with
  | some b =>
    if b.st == .saved && s.mayPlace b bay places then
      let (n, s) := s.choose 3
      .next (if n = 1 then s.areaFault b 10 else if n = 2 then s.areaFault b 13 else s.restoreBent b bay places)
    else .refused (.notEnabled "RESTORE")
  | none => .refused (.notEnabled "RESTORE")

/-- Copies that a group has kicked and that have not completed (R29). -/
def State.copiesOf (s : State) (gid : Nat) : Bool :=
  let y := s.bayAt (s.bayOf gid)
  y.started.any (fun c => c.gid == gid) || y.kicks.any (fun k => k.any fun c => c.gid == gid)

/-- Whether a group retires now (R29): no lane is live, or its bent is ended and its started copies are done (R303);
its own copies are done. -/
def State.canRetire (s : State) (g : Group) : Bool :=
  match s.bent g.bent with
  | none => false
  | some b =>
    !g.retired && !s.copiesOf g.gid &&
      ((b.st == .ending && !(s.bayAt b.bay).started.any fun c => c.bent == b.uid) || ((b.st == .resident || b.st == .stopping) && g.weaves.all fun w => w.2.fibres.isEmpty))

/-- The status of a group's dormant lanes, a record for each weave and PC of the last QUIT (R15, R305). -/
def State.reportDormant (s : State) (g : Group) : State :=
  g.weaves.foldl (fun s (w, v) =>
    let asleep := (List.range v.size).filter fun l => (v.lane l).st == .dormant
    ((asleep.map fun l => (v.lane l).quitPc).distinct).foldl (fun s pc =>
      s.reportStatus ⟨g.gid, w, 0⟩ pc (maskOf (asleep.filter fun l => (v.lane l).quitPc == pc))) s) s

/-- Pieces of a version as stores: the bytes of one aligned doubleword that adjoin (R248). -/
def versionRuns : Table Byte → List (Nat × List Byte)
  | [] => []
  | (pa, b) :: rest =>
    match versionRuns rest with
    | [] => [(pa, [b])]
    | (q, bs) :: more => if q = pa + 1 && q % 8 != 0 then (pa, b :: bs) :: more else (pa, [b]) :: (q, bs) :: more

/-- The version of a sealed piece committed by an operation, in one event (R248). -/
def State.commitVersion (s : State) (p : Piece) (a : Actor) : State :=
  let cells := p.version.flatMap fun c => physCells s.mem c.1 1
  let t := (versionRuns p.version).foldl (fun s r => (s.physStore r.1 r.2).1) s
  if p.version.isEmpty then s
  else ({ t with past := s.past } : State).note { actor := a, scope := 7, act := .access false true cells [], whole := true }

/-- Iterations of the chunks a piece received (R247). -/
def Piece.credit (p : Piece) : Nat := p.taken.foldl (fun n c => n + (c.2 - c.1)) 0

/-- A piece's version committed, then its credit given on its task's peg, after everything that it has done (R193, R247,
R248). -/
def State.creditPiece (s : State) (gid : Nat) (b : Bent) : State :=
  match b.piece with
  | none => s
  | some p =>
    let (op, s) := s.forked 10 [] [.bent b.uid] deviceActor
    let s := s.commitVersion p (deviceActor op)
    match tfind s.tasks p.task with
    | none => s
    | some t =>
      if p.credit = 0 then s
      else s.enginePeg gid 0 0 0 (taskPeg t.record) (BitVec.ofNat 64 p.credit) (deviceActor op)

/-- The lapidary requests of a group, which nothing waits for any more, withdrawn. -/
def State.withdraw (s : State) (gid : Nat) : State :=
  let s := s.onEngines gid fun y =>
    { y with lap := y.lap.filter fun q => q.gid != gid, lapWait := y.lapWait.filter fun q => q.gid != gid }
  let d := s.die (socketOf gid)
  let isReq (e : FaultEntry) : Bool := match e.who with
    | .request g _ _ => g == gid
    | _ => false
  s.setDie (socketOf gid) { d with
    entries := d.entries.filter fun e => !isReq e, held := d.held.filter fun e => !isReq e }

/-- A group that has retired, noted for the next sample tick (R334). -/
def State.noteRetired (s : State) (g : Group) : State :=
  let socket := socketOf g.gid
  let d := s.die socket
  if d.sample.isNone then s
  else
    let n := s.nameOf g.gid
    let x : Retiree := { bay := s.bayOf g.gid, core := g.core, gid := g.gid, pid := n.1, tid := n.2, pc := g.exitPc }
    s.setDie socket { d with retirees := d.retirees ++ [x] }

/-- What a retired group keeps: its name, for the commands and copies that may still name it. -/
def Group.husk (g : Group) : Group :=
  { g with
    retired := true, weaves := [], k := [], a := [], data := {}, nodes := [], cuts := [], bars := [], entries := [] }

/-- A group with no live lane and drained copies retires and frees its resources (R29). -/
def execGroupRetire (gid : Nat) (s : State) : Host.Outcome State Fault Refusal :=
  match s.group gid with
  | none => .refused (.notEnabled "GROUP_RETIRE")
  | some g =>
    if !s.canRetire g then .refused (.notEnabled "GROUP_RETIRE")
    else
      let s := s.onGroup gid fun g => { g with weaves := g.weaves.map fun (w, v) => (w, { v with fibres := [] }) }
      let s := (s.reportDormant g).withdraw gid
      let s := match s.bent g.bent with
        | some b => s.creditPiece gid b
        | none => s
      let s := (s.noteRetired g).clearTable gid
      .next (s.onGroup gid Group.husk)

/-- The status that a bent reports at its retirement (R223, R305): tile bits of its joiner group, GUARD-LATE. -/
def State.reportBent (s : State) (b : Bent) : State :=
  let en := s.statusEnable (s.viewOf b)
  let name := b.joiner.getD ((bestOf (fun x y => decide (x < y)) b.groups).getD 0)
  let tile := if en / 2 ^ 5 % 2 == 1 then (((b.joiner.bind s.group).map fun g => g.mstc.toNat).getD 0) else 0
  let late := if en / 2 ^ 6 % 2 == 1 && b.late then 1 else 0
  let bits := tile * 2 ^ 5 + late * 2 ^ 9
  if bits = 0 then s
  else
    s.deliver (s.viewOf b) [padTo 64 (header 17 0 b.socket 0 name (s.viewOf b).id 0 0 0 0 0 0 0 ++ leBytes 4 bits)]

/-- A bent retires once its groups, its joiner and its commands are done, and its claim is free (R36). -/
def execBentRetire (uid : Nat) (s : State) : Host.Outcome State Fault Refusal :=
  match s.bent uid with
  | none => .refused (.notEnabled "BENT_RETIRE")
  | some b =>
    let y := s.bayAt b.bay
    let live := b.groups.any fun k => ((s.group k).map fun g => !g.retired).getD false
    let started := b.st == .resident || b.st == .stopping || b.st == .ending
    if !started || live || y.mq.any (fun c => c.bent == uid) then .refused (.notEnabled "BENT_RETIRE")
    else
      let s := s.reportBent b
      let s := if b.holds && b.claim then s.onBay b.bay fun y => { y with holder := none } else s
      let s := { s with groups := b.groups.foldl (fun t k => tdel t k) s.groups }
      let s := (s.dropEntries b.groups true).onBent uid fun b => { b with holds := false }
      .next (s.finishBent uid)

end Sys2Proof.Machine
end

