-- ==== Sys2Proof/Machine/Sys.lean ====
section
/-! DEFINITION. The SYS group (R355 to R372): traps and service requests, system registers, translation and cache
maintenance, waits. -/
namespace Sys2Proof.Machine
open Sys2Proof

/-- TRAP (R364): the precise trap of the lanes of wr; with none it continues. -/
def execTrap (o : Op) (s : State) : Host.Outcome State Fault Refusal :=
  issue .trap o s fun c => do
    c.check []
    if c.wr = 0 then c.finish [] []
    else fun s => .error ((s.pcEvents c.r c.f.pc (c.act ||| c.f.pcDue)).takeTrap c.r c.wr 9 0
      (leBytes 4 (lowWord o.own).toNat) [])

/-- The 32 bytes of a service queue entry (Table 178). -/
def SvcReq.bytes (q : SvcReq) (seq : Nat) : List Byte :=
  leBytes 4 q.code ++ leBytes 4 q.gid ++ leBytes 8 q.arg.toNat ++ leBytes 8 (bitsAt q.pc 0 57) ++ leBytes 4 seq ++
  leBytes 4 (q.weave % 16 * 2 ^ 28 + q.fid % 64 * 2 ^ 16 + socketOf q.gid * 2 ^ 8)

/-- One service request posted (R365): the entry, then the producer index and the notify peg. -/
def State.postRequest (s : State) (socket : Nat) (q : SvcReq) : State :=
  let cb := (s.die socket).svcb.toNat
  let prod := memNat s (cb + 12) 4
  let count := 2 ^ (memNat s (cb + 8) 4 % 32)
  let s := s.putMem (memNat s cb 8 + 32 * (prod % count)) (q.bytes prod)
  let s := s.putNat (cb + 12) 4 (prod + 1)
  let peg := memNat s (cb + 32) 8
  let s := if peg = 0 then s else s.addPeg peg 1
  let d := s.die socket
  s.setDie socket { d with svc := d.svc ++ [{ q with seq := some (BitVec.ofNat 32 prod) }] }

/-- Held service requests posted while there is room (R365). -/
def State.postRequests (s : State) (socket : Nat) : Nat → State
  | 0 => s
  | k + 1 =>
    let d := s.die socket
    match d.svcHeld with
    | [] => s
    | q :: r =>
      if d.svcb != 0 && s.ringRoom d.svcb.toNat then
        ((s.setDie socket { d with svcHeld := r }).postRequest socket q).postRequests socket k
      else s

/-- A service request posted, or held until the ring has room (R365). -/
def State.request (s : State) (socket : Nat) (q : SvcReq) : State :=
  let d := s.die socket
  let s := s.setDie socket { d with svcHeld := d.svcHeld ++ [q] }
  (s.postRequests socket (d.svcHeld.length + 1)).syncHeld socket

/-- SYSC (R365). -/
def execSysc (o : Op) (s : State) : Host.Outcome State Fault Refusal :=
  issue .sysc o s fun c => do
    c.check (if s.isSealed c.r.gid then [11] else [])
    if (s.die c.socket).svcb = 0 then
      c.put 0 false o.d 0xFFFFFFFF
      c.finish [] []
    else
      let s ← get
      let q : SvcReq :=
        { code := (lowWord o.own).toNat % 2 ^ 22, gid := c.r.gid, arg := (c.regVals 0).a, pc := c.f.pc, weave := c.r.weave
          fid := c.r.fid, tag := s.fresh }
      set { s with fresh := s.fresh + 1 }
      c.watch 0 []
      c.park (.sysc q.tag (kNum o.d))
      modify fun s => s.request c.socket q

/-- Where a system or debug instruction acts from: a lane of a group, or a debug window (R357, R386), which has no core
and no weave of its own; `memo` are the translations that the lanes before it have settled (R184). -/
structure Site where
  socket : Nat
  space  : Nat
  core   : Option Nat := none
  own    : Option (Nat × Nat) := none
  pid    : Word := 0
  tid    : Word := 0
  gid    : Nat := 0xFFFFFFFF
  place  : Nat := 0
  pc     : DWord := 0
  memo   : Memo := []

/-- Whose TLBs such an instruction goes through. -/
def Site.agent (t : Site) : Agent := { socket := t.socket, bay := t.core.map (· / 5), core := t.core }

/-- How such an instruction ends in a lane: done, with what it writes to D and to its result predicate; refused with a
cause; waiting for pages; a fault. The translations it has settled come with it. -/
inductive Done where
  | ok (s : State) (d : DWord) (p : Bool) (memo : Memo := [])
  | illegal (cause : Nat)
  | late (s : State) (pages : List (DWord × Nat × Nat)) (memo : Memo := [])
  | bad (kind : Nat) (w1 w2 w3 : DWord)

/-- The site of an issuing group. -/
def Ctx.site (c : Ctx) : Site :=
  let n := c.s0.nameOf c.r.gid
  { socket := c.socket, space := c.space, core := some (c.s0.coreOf c.r.gid), own := some (c.r.gid, c.r.weave)
    pid := n.1, tid := n.2, gid := c.r.gid, place := c.s0.bayOf c.r.gid % 12 * 16 + c.g.core, pc := c.f.pc }

/-- What the lanes of a system or debug instruction have met in turn: pages they wait for, gauge events, causes of ILLEGAL, a
fault, the translations settled. -/
structure Turn where
  late : List Late := []
  evs  : List LaneEvent := []
  ill  : List Nat := []
  bad  : Option Bad := none
  memo : Memo := []

/-- The lanes of a system or debug instruction in turn, each seeing the effect of those before it (R359). -/
def Ctx.inTurn (c : Ctx) (acc : Access) (act : Memo → State → Nat → Vals → Done) : List LaneIn → Turn → Ex Turn
  | [], x => pure x
  | i :: rest, x => fun s =>
    match act x.memo s i.lane i.vals with
    | .ok t d p memo =>
      (do
        let e ← if c.m.dests.1 then c.result i d else c.putStream i 0
        if c.m.dests.2.2.2 then c.put i.lane false c.o.c (if p then 1 else 0) else pure ()
        c.inTurn acc act rest { x with evs := x.evs ++ i.evs ++ e, memo := memo ++ x.memo }).run t
    | .illegal n => c.inTurn acc act rest { x with ill := n :: x.ill } s
    | .late t pages memo =>
      c.inTurn acc act rest { x with late := x.late ++ lateOf i.lane acc pages, memo := memo ++ x.memo } t
    | .bad k a b d => c.inTurn acc act rest { x with bad := firstBad x.bad (some (k, a, b, d)) } s

/-- What the lanes have met raised, in the order of R299, from the state at issue: a refusal or a fault leaves no lane's
effect. -/
def Ctx.turned (c : Ctx) (misaligned : List (Nat × DWord × Nat)) (early : Option Bad) (x : Turn) : Ex Unit := fun s =>
  let raise : Ex Unit := do
    c.refuse x.ill
    c.aligned misaligned
    c.faults { st := { c.s0 with cur := none }, bad := firstBad early x.bad }
  match raise { c.s0 with cur := none } with
  | .ok _ => .ok ((), s)
  | .error t => .error t

/-- A system or debug instruction issued by a group (R356, R359): privilege, causes 9 to 11, alignment, the lanes. A value that a
lane's stream does not have yet is not judged. -/
def siteOp (m : Major) (acc : Access) (isPriv : Ctx → Bool) (own : Ctx → List Nat)
    (bad : State → Site → Op → Vals → List Nat → List Nat) (align : Op → Vals → Option (DWord × Nat))
    (act : State → Site → Op → Nat → Vals → Done) (o : Op) (s : State) : Host.Outcome State Fault Refusal :=
  issue m o s fun c => do
    if isPriv c then c.privileged else pure ()
    let site := c.site
    c.check (own c ++ c.view.flatMap fun v => bad s site o v.2.1 v.2.2)
    let g := c.readied false (← get)
    set g.st
    let off (l : Nat) : Option (DWord × Nat) := (g.valsIn l [0]).bind (align o)
    let misaligned := c.doers.flatMap fun l => c.streamAlign l ++ ((off l).map fun a => (l, a.1, a.2)).toList
    let x ← c.inTurn acc (fun memo s l v => act s { site with memo := memo } o l v)
      (g.ins.filter fun i => (off i.lane).isNone) { late := g.late, memo := g.memo }
    c.turned misaligned g.bad x
    c.finish x.late x.evs

/-- Cause 11 of the instructions that a sealed piece may not use (R250, R359). -/
def Ctx.noSealed (c : Ctx) : List Nat := if c.s0.isSealed c.r.gid then [11] else []

/-- Every instruction of these two groups is privileged but for those that R356 names. -/
def always (_ : Ctx) : Bool := true

/-- No alignment rule. -/
def noAlign (_ : Op) (_ : Vals) : Option (DWord × Nat) := none

/-- A register index of MFSR and MTSR (R361). -/
def regIndex (o : Op) (v : Vals) : Nat := if o.mod.getLsbD 12 then bitsAt v.b 0 12 else bitsAt o.ownBits 0 12

/-- Whether a system register exists (Table 176). -/
def regKnown (i : Nat) : Bool := i ≤ 7 || (0x10 ≤ i && i ≤ 0x12)

/-- Whether unprivileged groups may read a register (Table 176, column U). -/
def regUser (i : Nat) : Bool := 0x10 ≤ i && i ≤ 0x12

/-- The bent that a GID stored to PREEMPT or KILL names (R363). -/
def State.named (s : State) (socket : Nat) (v : DWord) : Option Bent :=
  if socketOf v.toNat == socket && v.toNat < 2 ^ 31 then
    match s.group v.toNat with
    | some g => if g.retired then none else s.bent g.bent
    | none => none
  else none

/-- A store to PREEMPT (R363): no fibre of the bent issues again (R319). -/
def State.preempt (s : State) (socket : Nat) (v : DWord) : State :=
  match s.named socket v with
  | some b => if b.st == .resident then s.onBent b.uid fun b => { b with st := .stopping } else s
  | none => s

/-- A store to KILL (R363): each group of the bent reports, and the bent ends. -/
def State.kill (s : State) (socket : Nat) (v : DWord) : State :=
  match s.named socket v with
  | none => s
  | some b =>
    if !b.alive then s
    else
      let record (s : State) (k : Nat) : State :=
        if ((s.group k).map (·.retired)).getD true then s
        else
          let conts := s.groupCont k
          let body := padTo 64 (header 16 11 b.socket conts.length k (s.viewOf b).id 0 0 0 0 0 0 0 ++
            leBytes 8 0 ++ leBytes 8 0xFFFFFFFF)
          s.deliver (s.viewOf b) (body :: conts)
      (b.groups.foldl record s).endBent b.uid v.toNat

/-- A system register written (R360 to R363), by MTSR or by a system core. -/
def State.writeReg (s : State) (socket i : Nat) (v : DWord) : State :=
  let t := s.putReg socket i v
  match i with
  | 2 => (t.postHeld socket (t.die socket).held.length).syncHeld socket
  | 3 => (t.postRequests socket (t.die socket).svcHeld.length).syncHeld socket
  | 4 => t.groups.foldl (fun t p => if socketOf p.1 == socket then t.syncTable p.1 else t) t
  | 6 => s.preempt socket v
  | 7 => s.kill socket v
  | _ => t

/-- Whether the register index of MFSR and MTSR comes from a register that is not to be had. -/
def noIndex (o : Op) (miss : List Nat) : Bool := o.mod.getLsbD 12 && miss.contains 1

/-- Causes of MFSR. -/
def mfsrBad (_ : State) (_ : Site) (o : Op) (v : Vals) (miss : List Nat) : List Nat :=
  if noIndex o miss || regKnown (regIndex o v) then [] else [11]

/-- MFSR in a lane. -/
def mfsrAct (s : State) (t : Site) (o : Op) (_ : Nat) (v : Vals) : Done :=
  .ok s (s.sysReg t.socket (regIndex o v)) false

/-- Whether MFSR names a register not marked U (R356): by its own field, whatever the lanes, or by a register in some
lane. -/
def Ctx.mfsrPriv (c : Ctx) : Bool :=
  if c.o.mod.getLsbD 12 then (c.peekOf [1]).any fun v => !regUser (regIndex c.o v.2) else !regUser (regIndex c.o {})

/-- MFSR (R361). -/
def execMfsr (o : Op) (s : State) : Host.Outcome State Fault Refusal :=
  siteOp .mfsr .load Ctx.mfsrPriv (fun _ => []) mfsrBad noAlign mfsrAct o s

/-- Causes of MTSR. -/
def mtsrBad (_ : State) (_ : Site) (o : Op) (v : Vals) (miss : List Nat) : List Nat :=
  if noIndex o miss || regWritable (regIndex o v) (if miss.contains 3 then 0 else v.d) then [] else [11]

/-- MTSR in a lane. -/
def mtsrAct (s : State) (t : Site) (o : Op) (_ : Nat) (v : Vals) : Done :=
  .ok (s.writeReg t.socket (regIndex o v) v.d) 0 false

/-- MTSR (R361). -/
def execMtsr (o : Op) (s : State) : Host.Outcome State Fault Refusal :=
  siteOp .mtsr .store always Ctx.noSealed mtsrBad noAlign mtsrAct o s

/-- The sockets of a scope instance: the issuing die, or all (R368). -/
def scopeDies (o : Op) (socket : Nat) : List Nat :=
  if o.mod.getLsbD 15 && o.scope == 6 then [socket] else List.range 18

/-- The address of TLBI, CFLUSH, CINV, GAUGE and SAMPLE. -/
def siteAddr (o : Op) (v : Vals) : DWord := v.a + o.own

/-- Whether TLBI covers a pinned page of a sink (R336): `size` is that of the page it names. -/
def Sink.covered (k : Sink) (op asid : Nat) (va : DWord) (size : Nat) : Bool :=
  match op with
  | 0 => true
  | 1 => k.asid == asid
  | _ => k.asid == asid && k.pins.any fun p => p.1 / 2 ^ size == va.toNat / 2 ^ size

/-- Cached translations of one die removed (R368), and the sinks that lose a page (R336). -/
def State.dropTlb (s : State) (op asid : Nat) (va : DWord) (socket : Nat) : State :=
  let d := s.die socket
  let hit (e : TlbEntry) : Bool :=
    match op with
    | 0 => true
    | 1 => e.asid == asid
    | _ => e.asid == asid && e.around va
  let tagged (k : Nat) : Bool := op == 0 || k == asid
  let size := ((d.tlb.filter fun e => e.asid == asid && e.covers va).map TlbEntry.reach).foldl max 12
  let lost (k : Option Sink) : Bool := (k.map fun k => k.covered op asid va size).getD false
  let s := if lost d.sample then s.sinkLose socket false else s
  let s := if lost d.trace then s.sinkLose socket true else s
  let d := s.die socket
  s.setDie socket { d with
    tlb := d.tlb.filter fun e => !hit e, ptrs := d.ptrs.filter fun p => !tagged p.asid
    roots := d.roots.filter fun r => !tagged r.2.1 }

/-- TLBI in a lane (R368). -/
def tlbiAct (s : State) (t : Site) (o : Op) (_ : Nat) (v : Vals) : Done :=
  .ok ((scopeDies o t.socket).foldl (fun s k => s.dropTlb (bitsAt o.mod 0 2) (bitsAt v.b 0 16) (siteAddr o v) k) s) 0 false

/-- TLBI (R368). -/
def execTlbi (o : Op) (s : State) : Host.Outcome State Fault Refusal :=
  siteOp .tlbi .load always Ctx.noSealed (fun _ _ _ _ _ => []) noAlign tlbiAct o s

/-- The pieces of physical memory of the range of CFLUSH and CINV, or why it cannot be had (R369). -/
def State.rangeOf (s : State) (t : Site) (o : Op) (v : Vals) : State × Memo × Found :=
  let n := (lowWord v.b).toNat
  if n = 0 then (s, t.memo, .ok (.phys [])) else s.globalAt t.memo t.agent t.space (siteAddr o v) n .maint

/-- CFLUSH in a lane (R369): it changes no value that any agent reads. At DEVICE scope its lines are flushed everywhere. -/
def cflushAct (s : State) (t : Site) (o : Op) (_ : Nat) (v : Vals) : Done :=
  match s.rangeOf t o v with
  | (s, memo, .late f) => .late s f memo
  | (_, _, .bad k a b d) => .bad k a b d
  | (s, memo, .ok (.phys segs)) =>
    let s := if o.mod.getLsbD 15 && o.scope == 6 then s else segs.foldl (fun s g => s.flushLines g.1 g.2) s
    .ok s 0 false memo
  | (s, memo, _) => .ok s 0 false memo

/-- CFLUSH (R369). -/
def execCflush (o : Op) (s : State) : Host.Outcome State Fault Refusal :=
  siteOp .cflush .maint (fun _ => false) (fun _ => []) (fun _ _ _ _ _ => []) noAlign cflushAct o s

/-- The cores whose instruction caches CINV names (R370). -/
def scopeCores (o : Op) (core : Nat) : Nat → Bool := fun k =>
  let scope := if o.mod.getLsbD 15 then o.scope.toNat else 7
  if scope ≤ 4 then k == core
  else if scope == 5 then k / 5 == core / 5
  else if scope == 6 then k / 60 == core / 60
  else true

/-- CINV in a lane (R370): the caches it names drop the lines of the range. -/
def cinvAct (s : State) (t : Site) (o : Op) (_ : Nat) (v : Vals) : Done :=
  match s.rangeOf t o v with
  | (s, memo, .late f) => .late s f memo
  | (_, _, .bad k a b d) => .bad k a b d
  | (s, memo, .ok (.phys segs)) =>
    let hit (l : CodeLine) : Bool := segs.any fun g => g.1 / 128 ≤ l.line && l.line ≤ (g.1 + g.2 - 1) / 128
    let named := scopeCores o (t.core.getD 0)
    let cores := (List.range (Config.computeDies * Config.baysPerDie * 5)).filter named
    .ok { (s.note { actor := hardware, scope := 7, act := .cinv segs cores }) with
      cores := s.cores.map fun (k, c) => (k, if named k then { c with code := c.code.filter fun l => !hit l } else c) } 0 false memo
  | (s, memo, _) => .ok s 0 false memo

/-- CINV (R370). -/
def execCinv (o : Op) (s : State) : Host.Outcome State Fault Refusal :=
  siteOp .cinv .maint (fun _ => false) (fun _ => []) (fun _ _ _ _ _ => []) noAlign cinvAct o s

/-- WAITI (R371). -/
def execWaiti (o : Op) (s : State) : Host.Outcome State Fault Refusal :=
  issue .waiti o s fun c => do
    c.check []
    let (ins, late) ← c.gather false none
    let evs := ins.flatMap (·.evs)
    ins.forM fun i => do
      let _ ← c.putStream i 0
    let n := ins.foldl (fun n i => max n (lowWord i.vals.a).toNat) 0
    if !late.isEmpty || n = 0 then c.finish late evs
    else
      c.watch 0 evs
      c.park (.clock (s.cycle + n))

/-- CLOCK reaches the WAITI deadline and the fibre becomes ready (R371). -/
def execWaitiExpire (r : FibreRef) (s : State) : Host.Outcome State Fault Refusal :=
  match s.fibre r with
  | some f =>
    match f.isParked && s.isResident r.gid, f.wait with
    | true, .clock due => if due ≤ s.cycle then .next (s.completeFibre r) else .refused (.notEnabled "WAITI_EXPIRE")
    | _, _ => .refused (.notEnabled "WAITI_EXPIRE")
  | none => .refused (.notEnabled "WAITI_EXPIRE")

/-- ACCT.ON and ACCT.OFF (R372): once an issue, whatever the lanes. -/
def execAcct (o : Op) (s : State) : Host.Outcome State Fault Refusal :=
  issue .acct o s fun c => do
    c.check []
    modify fun s => s.onGroup c.r.gid fun g => { g with extWait := !o.mod.getLsbD 0 }
    c.finish [] []

end Sys2Proof.Machine
end

