-- ==== Sys2Proof/Machine/Dbg.lean ====
section
/-! DEFINITION. The DBG group (R373 to R385): debug items, gauges, stepping and running halted work, sinks, counters. -/
namespace Sys2Proof.Machine
open Sys2Proof

/-- A debug target word (Table 179). -/
structure Target where
  gid   : Nat
  weave : Nat
  fid   : Nat
  lane  : Nat
  scope : Nat
deriving DecidableEq, Repr

/-- The target that a word names. -/
def targetOf (w : DWord) : Target :=
  { gid := bitsAt w 0 32, weave := bitsAt w 32 4, fid := bitsAt w 36 6, lane := bitsAt w 42 6, scope := bitsAt w 48 3 }

/-- Causes of a target word (R373): the scope must be 0 but for HRUN and HSTAT. -/
def targetBad (isScoped : Bool) (w : DWord) : List Nat :=
  if bitsAt w 51 13 != 0 || 4 < bitsAt w 48 3 || (!isScoped && bitsAt w 48 3 != 0) then [11] else []

/-- The group of a target, resident on or saved from a die (R357). -/
def State.targetGroup (s : State) (t : Target) : Option Group :=
  (s.group t.gid).bind fun g => if g.retired then none else some g

/-- Whether a fibre is halted and reported (R329). -/
def Fibre.shown (f : Fibre) : Bool := f.st == .halted && f.reported

/-- Whether every fibre of a group is halted and reported. -/
def Group.allShown (g : Group) : Bool := g.weaves.all fun p => p.2.fibres.all Fibre.shown

/-- The class of an item word (R374). -/
def itemClass (w : Word) : Nat := bitsAt w 26 6
/-- The index of an item word. -/
def itemIndex (w : Word) : Nat := bitsAt w 0 26

/-- A choice record as the words of Table 130. The word of a register that the record does not carry is reserved and reads 0
(R6). -/
def ChoiceRec.word (r : ChoiceRec) (w : Nat) : Word :=
  match w with
  | 0 => lowWord r.resume
  | 1 => BitVec.ofNat 32 (r.count * 2 ^ 16 + r.next)
  | 2 => BitVec.ofNat 32 r.mark
  | 3 => BitVec.ofNat 32 ((if r.originCut then 2 ^ 26 else 0) + (if r.cut then 2 ^ 25 else 0) +
      (if r.stolen then 2 ^ 24 else 0) + r.dest.toNat * 2 ^ 16 + r.mask.toNat)
  | 4 => BitVec.ofNat 32 r.wb
  | 5 => r.token
  | 6 => BitVec.ofNat 32 (bitsAt r.resume 32 25)
  | 7 => 0
  | n => if r.mask.getLsbD (n - 8) then tget 0 r.words (n - 8) else 0

/-- A kerf entry as the words of Table 131. -/
def KerfEntry.word (e : KerfEntry) (w : Nat) : Word :=
  match w with
  | 0 => BitVec.ofNat 32 (bitsAt e.addr 0 32)
  | 1 => BitVec.ofNat 32 (bitsAt e.addr 32 25 + e.size.toNat * 2 ^ 25 + e.space.toNat * 2 ^ 28)
  | 2 => lowWord e.old
  | _ => highWord e.old

/-- Whether a node's op is a leaf's (Table 25). -/
def Node.isLeaf (n : Node) : Bool := (1 ≤ n.op && n.op ≤ 5) || n.op == opDOT || n.op == opL2

/-- A node that a handle names: the second slot of a DOT or L2 node has none (R57). -/
def Group.named (g : Group) (h : Nat) : Option Node := (tfind g.nodes h).bind fun n => if n.op == opCONT then none else some n

/-- A log node as the words of Table 24. -/
def Node.word (n : Node) (w : Nat) : Word :=
  match w with
  | 0 => BitVec.ofNat 32 (n.op + (if n.isLeaf then 2 ^ 6 else 0) + (if n.pinned then 2 ^ 7 else 0) +
      n.refs * 2 ^ 8)
  | 1 => n.left
  | 2 => n.right
  | _ => n.aux

/-- The wait descriptor of a fibre (R23, Table 15). Where the lanes of one AWAIT wait on different words, the manual does not
say which address it names: the model gives that of the lowest lane (log entry 51). -/
def State.waitWord (s : State) (gid : Nat) (v : Weave) (f : Fibre) : DWord :=
  match f.wait with
  | .bar _ n => BitVec.ofNat 64 n
  | .await ws => BitVec.ofNat 64 ((ws.headD (0, 0)).1 / 8 * 8)
  | .peg va _ => va &&& ~~~7
  | .monitor lanes => (v.lane ((lanesOf lanes).headD 0)).monLine &&& ~~~7
  | .clock due => BitVec.ofNat 64 (due + (s.die (socketOf gid)).clockOff)
  | _ => 0

/-- A fibre as the words of Table 15, with its replay mask and halt cause (Table 180, class 8). -/
def State.fibreWord (s : State) (gid : Nat) (v : Weave) (f : Fibre) (w : Nat) : Word :=
  let st : Nat := match f.st with
    | .ready => 0 | .parked => 1 | .refining => 2
    | .halted => 3
  match w with
  | 0 => lowWord f.pc
  | 1 => BitVec.ofNat 32 (bitsAt f.pc 32 25)
  | 2 => lowWord f.lanes
  | 3 => highWord f.lanes
  | 4 => BitVec.ofNat 32 (st * 2 ^ 24 + f.parent * 2 ^ 16 + f.id * 2 ^ 8 + f.wb)
  | 5 => BitVec.ofNat 32 ((if f.aged then 2 ^ 7 else 0) + f.waitCount % 2 ^ 7)
  | 6 => lowWord (s.waitWord gid v f)
  | 7 => highWord (s.waitWord gid v f)
  | 8 => lowWord f.replay
  | 9 => highWord f.replay
  | _ => BitVec.ofNat 32 (f.cause + f.detail * 2 ^ 8)

/-- A stream as the words of Table 180, class 3. -/
def QStream.word (q : QStream) (w : Nat) : Word :=
  match w with
  | 0 => lowWord q.base
  | 1 => highWord q.base
  | 2 => q.lane
  | 3 => q.stride
  | 4 => q.length
  | 5 => q.access
  | 8 => q.step
  | 9 => 1
  | _ => 0

/-- A lane-state word (Table 180, class 2) of a lane that a weave has. -/
def Lane.stateWord (x : Lane) (w : Nat) : Word :=
  match w with
  | 0 => BitVec.ofNat 32 (x.p.toNat + 2 ^ 7)
  | 5 => BitVec.ofNat 32 (x.sticky.toNat + x.reported.toNat * 2 ^ 8)
  | 6 => lowWord x.monLine
  | 7 => BitVec.ofNat 32 (bitsAt x.monLine 32 25 + if x.monArmed then 2 ^ 31 else 0)
  | 8 => match x.st with
    | .live => 0 | .dormant => 1
    | .exited => 2
  | n => x.eAt (n - 1)

/-- The bytes of a typed store word of a bent (Table 180, class 12): on its bay, or in its save area. -/
def State.storeWord (s : State) (b : Bent) (l : Loc) : Word :=
  let y := if b.st == .saved then b.saved else s.bayAt b.bay
  let bs := match l with
    | .data k o => ((s.group k).map fun g => g.data.bytes o 4).getD []
    | .wst o => y.w.bytes o 4
    | .cst o => y.c.bytes o 4
    | .phys _ => []
  BitVec.ofNat 32 (leNat bs)

/-- The word of state that an item names (Table 180); none when the index is out of range or the class is refused. -/
def State.itemRead (s : State) (g : Group) (t : Target) (cls i : Nat) : Option Word :=
  let v := g.weave t.weave
  let x := v.lane t.lane
  match cls with
  | 0 => if i < g.gBudget then some (x.gAt i) else none
  | 1 => if i / 4 < g.xBudget then some (BitVec.ofNat 32 (fieldOf ((x.xAt (i / 4)).bytes ++ [0, 0, 0, 0]) (4 * (i % 4)) 4)) else none
  | 2 => if i ≤ 8 then some (if i = 8 && v.size ≤ t.lane then 3 else x.stateWord i) else none
  | 3 => if i / 16 < 8 && i % 16 < 10 then some (((tfind x.q (i / 16)).map fun q => q.word (i % 16)).getD 0) else none
  | 4 => match i with
    | 0 => some (BitVec.ofNat 32 (x.recs.length + x.kerf.length * 2 ^ 16))
    | 1 => some (if x.notrail then 1 else 0)
    | 2 => some (lowWord x.stealPc)
    | 3 => some (highWord x.stealPc)
    | _ => none
  | 5 => (x.recs[i / 24]?).map fun r => r.word (i % 24)
  | 6 => (x.kerf[i / 4]?).map fun e => e.word (i % 4)
  | 8 => if i ≤ 10 then (v.fibre t.fid).map fun f => s.fibreWord t.gid v f i else none
  | 9 =>
    if i < 128 then some (g.kAt i)
    else if i < 160 then some ((if i % 2 = 0 then lowWord else highWord) (g.aAt ((i - 128) / 2)))
    else if i < 176 then some (BitVec.ofNat 32 (tget {} g.bars (i - 160)).count)
    else if i < 192 then some (BitVec.ofNat 32 (tget {} g.bars (i - 176)).gen)
    else if i = 192 then some g.push
    else if 256 ≤ i then (g.cuts[(i - 256) / 2]?).map fun p => if i % 2 = 0 then p.1 else BitVec.ofNat 32 p.2
    else none
  | 10 => (g.named (i / 4)).map fun n => n.word (i % 4)
  | 12 => match s.bent g.bent, s.typedAt g.bent (i / 2 ^ 24) (i % 2 ^ 22 * 4) 4 with
    | some b, .ok l => if 1 ≤ i / 2 ^ 24 && i / 2 ^ 22 % 4 = 0 then some (s.storeWord b l) else none
    | _, _ => none
  | _ => none

/-- The first of reasons 1 to 3 for which an item cannot be reached (Table 181). -/
def State.itemRefused (s : State) (t : Target) (cls i : Nat) (isWrite : Bool) : Option Nat :=
  match s.targetGroup t with
  | none => some 1
  | some g =>
    let hasWeave := t.weave < g.weaveCount
    let fibre := if cls = 8 then (g.weave t.weave).fibre t.fid else (g.weave t.weave).holding t.lane
    if cls ≤ 6 || cls = 8 then
      if !hasWeave then some 2
      else match fibre with
        | some f => if f.shown then none else some 3
        | none => if cls = 2 && i = 8 then none else some 2
    else if !isWrite then none
    else if cls = 9 then (if g.allShown then none else some 3)
    else if cls = 12 then
      match s.bent g.bent with
      | some b => if b.groups.all fun k => ((s.group k).map Group.allShown).getD true then none else some 3
      | none => none
    else none

/-- Whether a target lies in the debug context's own weave (R357). -/
def Site.isOwn (d : Site) (t : Target) : Bool := d.own == some (t.gid, t.weave)

/-- Whether the class of an item reaches into a weave: those that reason 8 concerns. -/
def inWeave (cls : Nat) : Bool := cls ≤ 6 || cls = 8

/-- The result predicate and word of a debug request: a reason for which it failed, or what it gives (R375). -/
def reasonOr (s : State) (x : Option Nat) : Done :=
  match x with
  | some n => .ok s (BitVec.ofNat 64 n) false
  | none => .ok s 0 true

/-- Causes of HREAD and HWRITE. -/
def itemBad (_ : State) (_ : Site) (_ : Op) (v : Vals) (miss : List Nat) : List Nat :=
  if miss.contains 0 then [] else targetBad false v.a

/-- HREAD in a lane (R375, R377). -/
def hreadAct (s : State) (d : Site) (_ : Op) (_ : Nat) (v : Vals) : Done :=
  let t := targetOf v.a
  let cls := itemClass (lowWord v.b)
  let i := itemIndex (lowWord v.b)
  match s.itemRefused t cls i false, s.targetGroup t with
  | some n, _ => reasonOr s (some n)
  | none, none => reasonOr s (some 1)
  | none, some g =>
    match s.itemRead g t cls i with
    | none => reasonOr s (some 4)
    | some w => if d.isOwn t && inWeave cls then reasonOr s (some 8) else .ok s (zext32 w) true

/-- HREAD (R377). -/
def execHread (o : Op) (s : State) : Host.Outcome State Fault Refusal :=
  siteOp .hread .load always (fun _ => []) itemBad noAlign hreadAct o s

/-- A word of a doubleword replaced. -/
def setHalf (v : DWord) (isHigh : Bool) (w : Word) : DWord := if isHigh then pairOf (lowWord v) w else pairOf w (highWord v)

/-- An X register with the bytes of a slot word replaced, as R66 takes it. A node whose count is 0 and whose reclamation is
still pending counts as live, and the reference revives it (log entry 51). -/
def Group.xWritten (g : Group) (x : XReg) (i : Nat) (w : Word) : XReg :=
  let bs := x.bytes
  let y := xOfBytes (bs.take (4 * i) ++ leBytes 4 w.toNat ++ bs.drop (4 * i + 4))
  if y.handle = 0 then (if y.lo = y.hi then y else { y with opq := true })
  else if (g.named y.handle.toNat).isNone then xInvalid
  else y

/-- A choice record with a word replaced; none when the value is beyond its limits (Table 180, class 5). -/
def ChoiceRec.setWord (r : ChoiceRec) (i : Nat) (w : Word) : Option ChoiceRec :=
  match i with
  | 0 => some { r with resume := setHalf r.resume false w }
  | 1 =>
    let next := bitsAt w 0 16
    let count := bitsAt w 16 16
    if next ≤ count && count ≤ r.count then some { r with next := next, count := count } else none
  | 6 => if bitsAt w 25 7 = 0 then some { r with resume := setHalf r.resume true w } else none
  | n => some (if r.mask.getLsbD (n - 8) then { r with words := tput 0 r.words (n - 8) w } else r)

/-- A kerf entry with a word replaced (Table 131). -/
def KerfEntry.setWord (e : KerfEntry) (i : Nat) (w : Word) : Option KerfEntry :=
  match i with
  | 0 => some { e with addr := BitVec.ofNat 57 (bitsAt e.addr 32 25 * 2 ^ 32 + w.toNat) }
  | 1 =>
    if bitsAt w 27 1 = 0 then
      some { e with
        addr := BitVec.ofNat 57 (bitsAt w 0 25 * 2 ^ 32 + bitsAt e.addr 0 32)
        size := BitVec.ofNat 2 (bitsAt w 25 2), space := BitVec.ofNat 4 (bitsAt w 28 4) }
    else none
  | n => some { e with old := setHalf e.old (n == 3) w }

/-- A lane written by a debug context, in one of classes 0 to 4 (Table 180): reason 4 beyond the limits. -/
def Lane.itemWrite (x : Lane) (cls i : Nat) (w : Word) : Option Lane :=
  match cls, i with
  | 0, _ => some (x.setG i w)
  | 2, 0 => some { x with p := BitVec.ofNat 7 w.toNat }
  | 2, 5 => some { x with sticky := BitVec.ofNat 5 (bitsAt w 0 5), reported := BitVec.ofNat 5 (bitsAt w 8 5) }
  | 2, _ => some { x with e := tput 0 x.e (i - 1) w }
  | 3, _ => if (tfind x.q (i / 16)).isSome then some { x with q := tmod x.q (i / 16) fun q => { q with step := w } } else none
  | 4, 1 => if bitsAt w 1 31 = 0 then some { x with notrail := w != 0 } else none
  | 4, 2 => some { x with stealPc := setHalf x.stealPc false w }
  | 4, _ => if bitsAt w 25 7 = 0 then some { x with stealPc := setHalf x.stealPc true w } else none
  | _, _ => none

/-- Whether a word of an item may be written (Table 180). -/
def itemWritable (cls i : Nat) : Bool :=
  match cls with
  | 0 | 6 | 12 => true
  | 1 => i % 4 != 3
  | 2 => i ≤ 5
  | 3 => i % 16 == 8
  | 4 => true
  | 5 => i % 24 ≤ 1 || i % 24 == 6 || 8 ≤ i % 24
  | 8 => i ≤ 1 || i == 4
  | 9 => i < 160
  | _ => false

/-- A fibre's PC or window base written (Table 180, class 8). -/
def Fibre.itemWrite (f : Fibre) (gBudget i : Nat) (w : Word) : Option Fibre :=
  match i with
  | 0 => if bitsAt w 0 2 = 0 then some { f with pc := setHalf f.pc false w } else none
  | 1 => if bitsAt w 25 7 = 0 then some { f with pc := setHalf f.pc true w } else none
  | _ =>
    let wb := bitsAt w 0 8
    if wb % 16 = 0 && wb + 16 ≤ gBudget then some { f with wb := wb } else none

/-- The choice header's counts lowered (R378): records discarded as CUT does, without posting. -/
def Group.lowerHeader (g : Group) (w l : Nat) (v : Word) : Option Group :=
  let x := (g.weave w).lane l
  let depth := bitsAt v 0 16
  let used := bitsAt v 16 16
  if depth ≤ x.recs.length && used ≤ x.kerf.length then
    let y := { x with recs := x.recs.take depth, kerf := x.kerf.take used }
    some ((g.setWeave w ((g.weave w).setLane l y)).lowerFor (x.recs.drop depth))
  else none

/-- The record of the memory order with a debug context's store to a word of a typed store, at BAY scope (R378). -/
def State.typedStored (s : State) (a : Actor) (b : Bent) (l : Loc) : List Ev :=
  let old := leBytes 4 (s.storeWord b l).toNat
  let cells (kind owner off : Nat) : List (ByteAt × Byte) := old.zipIdx.map fun p => ((kind, owner, off + p.2), p.1)
  match l with
  | .data k o => s.recorded a 5 false (cells 1 k o)
  | .wst o => s.recorded a 5 false (cells 2 b.uid o)
  | .cst o => s.recorded a 5 false (cells 3 b.uid o)
  | .phys _ => s.past

/-- A word of state written by a debug context (R378, Table 180), where it is writable; none beyond its limits. -/
def State.itemWrite (s : State) (g : Group) (t : Target) (cls i : Nat) (w : Word) (a : Actor) : Option State :=
  let v := g.weave t.weave
  let x := v.lane t.lane
  let lane (y : Lane) : State := s.onLane t.gid t.weave t.lane fun _ => y
  match cls with
  | 1 =>
    let y := g.xWritten (x.xAt (i / 4)) (i % 4) w
    some (s.setX t.gid t.weave t.lane (i / 4) y)
  | 4 => if i = 0 then (g.lowerHeader t.weave t.lane w).map s.setGroup else (x.itemWrite 4 i w).map lane
  | 5 => (x.recs[i / 24]?).bind fun r => (r.setWord (i % 24) w).map fun r => lane { x with recs := x.recs.set (i / 24) r }
  | 6 => (x.kerf[i / 4]?).bind fun e => (e.setWord (i % 4) w).map fun e => lane { x with kerf := x.kerf.set (i / 4) e }
  | 8 => (v.fibre t.fid).bind fun f => (f.itemWrite g.gBudget i w).map fun f =>
      s.onFibre ⟨t.gid, t.weave, t.fid⟩ fun _ => f
  | 9 =>
    some (s.setGroup (if i < 128 then g.setK i w
      else g.setA ((i - 128) / 2) (setHalf (g.aAt ((i - 128) / 2)) (i % 2 = 1) w)))
  | 12 =>
    let bs := leBytes 4 w.toNat
    match s.typedAt g.bent (i / 2 ^ 24) (i % 2 ^ 22 * 4) 4, s.bent g.bent with
    | .ok l, some b =>
      let u : State := { s with past := s.typedStored a b l }
      match l with
      | .data k o => some (u.onGroup k fun g => { g with data := g.data.putBytes o bs })
      | .wst o => some (u.onEngines t.gid fun y => { y with w := y.w.putBytes o bs })
      | .cst o => some (u.onEngines t.gid fun y => { y with c := y.c.putBytes o bs })
      | .phys _ => none
    | _, _ => none
  | _ => (x.itemWrite cls i w).map lane

/-- A debug context as an agent: its lane, or for a window the system core that drives it (R357). -/
def State.siteActor (s : State) (d : Site) (l : Nat) : Actor :=
  match d.own with
  | some (gid, w) => s.laneActor gid w l
  | none => coreActor 0

/-- What precedes a debug action: the accesses of its lane; a window makes none (R382). -/
def State.siteParty (s : State) (d : Site) (l : Nat) : List Party :=
  match d.own with
  | some (gid, w) => [.actor (s.laneActor gid w l)]
  | none => []

/-- HWRITE in a lane (R375, R378). -/
def hwriteAct (s : State) (d : Site) (_ : Op) (l : Nat) (v : Vals) : Done :=
  let t := targetOf v.a
  let cls := itemClass (lowWord v.b)
  let i := itemIndex (lowWord v.b)
  match s.itemRefused t cls i true, s.targetGroup t with
  | some n, _ => reasonOr s (some n)
  | none, none => reasonOr s (some 1)
  | none, some g =>
    if (s.itemRead g t cls i).isNone then reasonOr s (some 4)
    else if !itemWritable cls i then reasonOr s (some 5)
    else
      match s.itemWrite g t cls i (lowWord v.d) (s.siteActor d l) with
      | none => reasonOr s (some 4)
      | some u => if d.isOwn t && inWeave cls then reasonOr s (some 8) else .ok u 0 true

/-- HWRITE (R378). -/
def execHwrite (o : Op) (s : State) : Host.Outcome State Fault Refusal :=
  siteOp .hwrite .store always (fun _ => []) itemBad noAlign hwriteAct o s

/-- A halted fibre let go, back in its resume state (R330); a group or bent halt holds it during a step. -/
def Fibre.release (f : Fibre) (step : Nat) : Fibre :=
  { f with
    st := f.resume, cause := 0, detail := 0, reported := false, step := step, wide := f.wide && step != 0, waitCount := 0
    aged := false }

/-- The fibre that a lane-scoped target names, by its lane, or a fibre-scoped one, by its identifier (R373). -/
def State.targetFibre (s : State) (t : Target) (byLane : Bool) : Option Fibre :=
  (s.targetGroup t).bind fun g =>
    if t.weave < g.weaveCount then
      if byLane then (g.weave t.weave).holding t.lane else (g.weave t.weave).fibre t.fid
    else none

/-- Why a step or ERET is refused, or the fibre (Table 181). -/
def State.haltedFibre (s : State) (d : Site) (t : Target) : Except Nat Fibre :=
  match s.targetGroup t, s.targetFibre t true with
  | none, _ => .error 1
  | some _, none => .error 2
  | some _, some f => if !f.shown then .error 3 else if d.isOwn t then .error 8 else .ok f

/-- Causes of HSTEP and ERET. -/
def stepBad (_ : State) (_ : Site) (_ : Op) (v : Vals) (miss : List Nat) : List Nat :=
  if miss.contains 0 then [] else targetBad false v.a

/-- HSTEP in a lane (R331, R379), a fork edge into the lanes it lets go (R382): of the target's lane, or under F of the whole
fibre that holds it. -/
def hstepAct (s : State) (d : Site) (o : Op) (l : Nat) (v : Vals) : Done :=
  let t := targetOf v.a
  let isFibre := o.mod.getLsbD 0
  match s.haltedFibre d t with
  | .error n => reasonOr s (some n)
  | .ok f =>
    let s := s.edge 7 [] (s.siteParty d l) (s.lanesParty t.gid t.weave (if isFibre then f.lanes else laneBit t.lane))
    let s := if isFibre then s.onFibre ⟨t.gid, t.weave, f.id⟩ fun f => f.release 1
      else s.reweave t.gid t.weave fun v => (v.detach f (laneBit t.lane) fun f => f.release 1).1
    .ok (s.syncTable t.gid) 0 true

/-- HSTEP (R379). -/
def execHstep (o : Op) (s : State) : Host.Outcome State Fault Refusal :=
  siteOp .hstep .load always (fun _ => []) stepBad noAlign hstepAct o s

/-- ERET in a lane (R367): the fibre halted at a TRAP goes on past it. -/
def eretAct (s : State) (d : Site) (_ : Op) (_ : Nat) (v : Vals) : Done :=
  let t := targetOf v.a
  match s.haltedFibre d t with
  | .error 8 => (match s.targetFibre t true with
    | some f => reasonOr s (some (if f.cause == 2 && f.detail == 9 then 8 else 4))
    | none => reasonOr s (some 8))
  | .error n => reasonOr s (some n)
  | .ok f =>
    if f.cause == 2 && f.detail == 9 then .ok ((s.eretFibre ⟨t.gid, t.weave, f.id⟩).syncTable t.gid) 0 true
    else reasonOr s (some 4)

/-- ERET (R367). -/
def execEret (o : Op) (s : State) : Host.Outcome State Fault Refusal :=
  siteOp .eret .load always (fun _ => []) stepBad noAlign eretAct o s

/-- The fibres that a scoped target covers: group, weave, fibre (R373, R380). -/
def State.covered (s : State) (t : Target) : List (Nat × Nat × Fibre) :=
  match s.targetGroup t with
  | none => []
  | some g =>
    let ofGroup (g : Group) : List (Nat × Nat × Fibre) := g.weaves.flatMap fun p => p.2.fibres.map fun f => (g.gid, p.1, f)
    let mine := (ofGroup g).filter fun x => x.2.1 == t.weave
    match t.scope with
    | 0 => mine.filter fun x => x.2.2.lanes.getLsbD t.lane
    | 1 => mine.filter fun x => x.2.2.id == t.fid
    | 2 => mine
    | 3 => ofGroup g
    | _ => match s.bent g.bent with
      | some b => b.groups.flatMap fun k => match s.group k with
        | some g => ofGroup g
        | none => []
      | none => []

/-- Causes of HRUN and HSTAT. -/
def scopeBad (_ : State) (_ : Site) (_ : Op) (v : Vals) (miss : List Nat) : List Nat :=
  if miss.contains 0 then [] else targetBad true v.a

/-- HRUN in a lane (R380), a fork edge into the lanes it lets go (R382). -/
def hrunAct (s : State) (d : Site) (_ : Op) (l : Nat) (v : Vals) : Done :=
  let t := targetOf v.a
  match s.targetGroup t with
  | none => reasonOr s (some 1)
  | some g =>
    let all := s.covered t
    let isNarrow := t.scope ≤ 2
    if isNarrow && (g.weaveCount ≤ t.weave || (t.scope ≤ 1 && all.isEmpty)) then reasonOr s (some 2)
    else
      let go := all.filter fun x => x.2.2.shown && !(d.own == some (x.1, x.2.1))
      if isNarrow && d.isOwn t then reasonOr s (some (if all.any fun x => x.2.2.shown then 8 else 3))
      else if go.isEmpty then reasonOr s (some 3)
      else
        let s := go.foldl (fun s x =>
          (s.edge 7 [] (s.siteParty d l) (s.lanesParty x.1 x.2.1 x.2.2.lanes)).onFibre ⟨x.1, x.2.1, x.2.2.id⟩ fun f =>
            f.release 0) s
        let gids := (go.map (·.1)).distinct
        .ok (gids.foldl (fun s k => s.syncTable k) s) 0 true

/-- HRUN (R380). -/
def execHrun (o : Op) (s : State) : Host.Outcome State Fault Refusal :=
  siteOp .hrun .load always (fun _ => []) scopeBad noAlign hrunAct o s

/-- The status word of a fibre (Table 183). -/
def State.statusWord (s : State) (gid : Nat) (f : Fibre) : Nat :=
  let st := if f.step != 0 then 4 else match f.st with
    | .ready => 0 | .parked => 1 | .refining => 2
    | .halted => 3
  st + (if f.st == .halted then f.cause * 2 ^ 8 + f.detail * 2 ^ 16 else 0) + (if f.shown then 2 ^ 24 else 0) +
    (if s.faultParked gid then 2 ^ 25 else 0)

/-- HSTAT of a target (R381). -/
def State.hstat (s : State) (t : Target) : DWord :=
  let none_ : DWord := 0xFF
  match s.targetGroup t with
  | none => none_
  | some g =>
    let v := g.weave t.weave
    if t.scope ≤ 1 then
      match s.targetFibre t (t.scope == 0) with
      | some f => pairOf (BitVec.ofNat 32 (s.statusWord t.gid f)) (lowWord f.pc)
      | none => none_
    else if t.scope = 2 then
      if t.weave < g.weaveCount then maskOf ((v.fibres.filter Fibre.shown).map (·.id)) else none_
    else maskOf ((g.weaves.filter fun p => p.2.fibres.any Fibre.shown).map (·.1))

/-- HSTAT in a lane: where it finds a reported halt, a join edge into the lane (R382). -/
def hstatAct (s : State) (d : Site) (_ : Op) (l : Nat) (v : Vals) : Done :=
  let t := targetOf v.a
  let halted := ((s.covered t).filter fun x => x.2.2.shown).flatMap fun x => s.lanesParty x.1 x.2.1 x.2.2.lanes
  let u := if halted.isEmpty then s else s.edge 10 [] halted (s.siteParty d l)
  .ok u (s.hstat t) true

/-- HSTAT (R381). -/
def execHstat (o : Op) (s : State) : Host.Outcome State Fault Refusal :=
  siteOp .hstat .load always (fun _ => []) scopeBad noAlign hstatAct o s

/-- Whether a core selector keeps to Table 182. -/
def State.selectorOk (s : State) (d : Site) (w : Word) (allowAll : Bool) : Bool :=
  bitsAt w 14 18 == 0 && bitsAt w 11 1 == 0 && bitsAt w 3 1 == 0 &&
  (if w.getLsbD 13 then bitsAt w 0 13 == 0 && d.core.isSome
   else s.computeOk (bitsAt w 8 3) && bitsAt w 4 4 < 12 && bitsAt w 0 3 ≤ 4 && (!w.getLsbD 12 || allowAll))

/-- The cores that a selector names (Table 182). -/
def selectorCores (d : Site) (w : Word) : List Nat :=
  let socket := bitsAt w 8 3
  if w.getLsbD 13 then d.core.toList
  else if w.getLsbD 12 then (List.range 12).flatMap fun b => (List.range 4).map fun c => coreKey (bayKey socket b) c
  else [coreKey (bayKey socket (bitsAt w 4 4)) (bitsAt w 0 3)]

/-- The operation of GAUGE and CNTR. -/
def dbgOp (o : Op) : Nat := bitsAt o.mod 0 2

/-- Causes of GAUGE (R376). -/
def gaugeBad (s : State) (d : Site) (o : Op) (v : Vals) (miss : List Nat) : List Nat :=
  if (miss.contains 1 || (lowWord v.b).toNat ≤ 15) &&
      (miss.contains 2 || s.selectorOk d (lowWord v.c) (dbgOp o != 2)) then [] else [11]

/-- The alignment of GAUGE.ARM. -/
def gaugeAlign (o : Op) (v : Vals) : Option (DWord × Nat) :=
  if dbgOp o = 0 && (siteAddr o v).toNat % 32 != 0 then some (siteAddr o v, 32) else none

/-- The gauge that a descriptor gives; none when arming it is refused (R376, Table 158). -/
def gaugeOf (b : List Byte) : Option Gauge :=
  let ctrl : Word := BitVec.ofNat 32 (fieldOf b 16 4)
  if bitsAt ctrl 22 10 == 0 && bitsAt ctrl 4 3 == 0 && bitsAt ctrl 0 4 < 8 && bitsAt ctrl 7 3 < 5 && bitsAt ctrl 10 3 < 6 then
    some { opA := BitVec.ofNat 64 (fieldOf b 0 8), opB := BitVec.ofNat 64 (fieldOf b 8 8), ctrl := ctrl
           gid := BitVec.ofNat 32 (fieldOf b 20 4), lanes := BitVec.ofNat 64 (fieldOf b 24 8) }
  else none

/-- A gauge of some cores changed. -/
def State.setGauges (s : State) (cores : List Nat) (i : Nat) (f : Gauge → Gauge) : State :=
  cores.foldl (fun s k =>
    let c := s.coreAt k
    s.setCore k { c with gauges := tput {} c.gauges i (f (tget {} c.gauges i)) }) s

/-- The lanes of the fibre that holds a lane, or none. -/
def State.lanesWith (s : State) (gid w l : Nat) : DWord :=
  (((s.group gid).bind fun g => (g.weave w).holding l).map (·.lanes)).getD 0

/-- A record of `n` bytes that an instruction reads at its address, at DEVICE scope (R376). -/
def State.siteRead (s : State) (d : Site) (l : Nat) (va : DWord) (n : Nat) : State × Memo × Found × List Byte :=
  let (s, memo, x) := s.globalAt d.memo d.agent d.space va n .load
  match x, d.own with
  | .ok p, some (gid, w) =>
    let (s, bs) := s.loadWeak (s.laneActor gid w l) (s.lanesWith gid w l) 7 gid p n
    (s, memo, x, bs)
  | .ok p, none =>
    let (s, bs) := s.loadAt noGroup 0 p n
    (s, memo, x, bs)
  | x, _ => (s, memo, x, [])

/-- GAUGE in a lane (R376). -/
def gaugeAct (s : State) (d : Site) (o : Op) (l : Nat) (v : Vals) : Done :=
  let cores := selectorCores d (lowWord v.c)
  let i := (lowWord v.b).toNat
  match dbgOp o with
  | 0 =>
    match s.siteRead d l (siteAddr o v) 32 with
    | (s, memo, .late f, _) => .late s f memo
    | (_, _, .bad k a b e, _) => .bad k a b e
    | (s, memo, .ok _, bs) => match gaugeOf bs with
      | some g => .ok (s.setGauges cores i fun _ => g) 0 true memo
      | none => .ok s 6 true memo
  | 1 => .ok (s.setGauges cores i fun g => { g with ctrl := g.ctrl &&& ~~~0x2000 }) 0 true
  | _ => .ok s (tget {} (s.coreAt (cores.headD 0)).gauges i).hits true

/-- GAUGE (R376). -/
def execGauge (o : Op) (s : State) : Host.Outcome State Fault Refusal :=
  siteOp .gauge .load always Ctx.noSealed gaugeBad gaugeAlign gaugeAct o s

/-- Whether SAMPLE works on the trace sink. -/
def sinkTrace (o : Op) : Bool := o.mod.getLsbD 1

/-- Causes of SAMPLE that its operands alone show (R383). -/
def sampleBad (_ : State) (_ : Site) (_ : Op) (v : Vals) (miss : List Nat) : List Nat :=
  if miss.contains 1 || (lowWord v.b).toNat ≤ 7 then [] else [11]

/-- The alignment of SAMPLE.ARM. -/
def sampleAlign (o : Op) (v : Vals) : Option (DWord × Nat) :=
  if !o.mod.getLsbD 0 && (siteAddr o v).toNat % 64 != 0 then some (siteAddr o v, 64) else none

/-- An armed sink stopped (R383). -/
def State.stopSink (s : State) (socket : Nat) (isTrace : Bool) : State :=
  match (s.die socket).sink isTrace with
  | none => s
  | some k =>
    let s := s.sinkStatus k 1
    let d := s.die socket
    s.setDie socket (if isTrace then { d with trace := none } else { d with sample := none })

/-- The pages of a ring, pinned (R333). -/
def State.pinPages (s : State) (d : Site) (base : DWord) : Nat → State × Memo × Found × List (Nat × Nat)
  | 0 => (s, d.memo, .ok (.phys []), [])
  | k + 1 =>
    let va := base + BitVec.ofNat 64 (4096 * k)
    let (s, memo, x, pins) := s.pinPages d base k
    let (s, memo, y) := s.globalAt memo d.agent d.space va 4096 .store
    (s, memo, x.join y, pins ++ (match y with
      | .ok (.phys segs) => [(va.toNat, (segs.headD (0, 0)).1)]
      | _ => []))

/-- The page-table entries on the way to the page of an address (R307). -/
def State.ptesOf (s : State) (space : Nat) (va : DWord) : List Nat :=
  let root := bitsAt (s.spaceEntry space).1 12 40 * 4096
  ((4, root) :: (s.walkSpace space va).path).map fun p => p.2 + 8 * bitsAt va (leafBits p.1) 9

/-- SAMPLE in a lane (R383). -/
def sampleAct (s : State) (d : Site) (o : Op) (_ : Nat) (v : Vals) : Done :=
  let socket := (lowWord v.b).toNat
  let isTrace := sinkTrace o
  if o.mod.getLsbD 0 then .ok (s.stopSink socket isTrace) 0 true
  else
    let va := siteAddr o v
    let (s, memo, x) := s.globalAt d.memo d.agent d.space va 64 .store
    match x with
    | .late f => .late s f memo
    | .bad k a b e => .bad k a b e
    | .ok (.phys segs) =>
      let pa := (segs.headD (0, 0)).1
      let count := memNat s (pa + 8) 4 % 32
      let period := memNat s (pa + 24) 4 / 2 ^ 8 % 32
      let base := memNat s pa 8
      if count < 7 || 20 < count || base % 4096 != 0 || (!isTrace && (period < 10 || 24 < period)) then .illegal 11
      else
        match s.pinPages { d with memo := memo } (BitVec.ofNat 64 base) ((32 * 2 ^ count + 4095) / 4096) with
        | (s, memo, .late f, _) => .late s f memo
        | (_, _, .bad k a b e, _) => .bad k a b e
        | (s, memo, .ok _, pins) =>
          let s := s.stopSink socket isTrace
          let k : Sink :=
            { pa := pa, pins := (va.toNat / 4096 * 4096, pa / 4096 * 4096) :: pins
              ptes := ((va :: pins.map fun p => BitVec.ofNat 64 p.1).flatMap (s.ptesOf d.space)).distinct, space := d.space
              asid := s.asid d.space, period := period, due := s.cycle + 2 ^ period }
          let s := s.putNat (pa + 20) 4 0
          .ok ((s.sinkStatus k 0).setDie socket (((s.sinkStatus k 0).die socket).setSink isTrace k)) 0 true memo
    | .ok _ => .ok s 0 true memo

/-- SAMPLE (R383). -/
def execSample (o : Op) (s : State) : Host.Outcome State Fault Refusal :=
  siteOp .sample .store always Ctx.noSealed sampleBad sampleAlign sampleAct o s

/-- TRACE in a lane (R384). -/
def traceAct (s : State) (d : Site) (o : Op) (l : Nat) (v : Vals) : Done :=
  let position := (0xF0 + bitsAt o.ownBits 0 4) * 2 ^ 24 + l * 2 ^ 16 + d.socket * 2 ^ 8 + d.place
  .ok (s.sinkPut d.socket true (sinkRecord d.pid d.tid d.gid position 2 d.pc v.a)) 0 true

/-- TRACE (R384). -/
def execTrace (o : Op) (s : State) : Host.Outcome State Fault Refusal :=
  siteOp .trace .store (fun _ => false) (fun _ => []) (fun _ _ _ _ _ => []) noAlign traceAct o s

/-- Whether a counter's value is one that the model keeps: the others count caches, walks and waits, whose counts the
manual leaves open (R341, log entry 21). -/
def counterKept (isDie : Bool) (source : Nat) : Bool :=
  if isDie then [0, 4, 5, 6, 7, 8, 9, 10, 11, 12, 13, 14, 15].contains source
  else [0, 1, 2, 4, 5, 6, 10, 12, 13, 14, 15].contains source

/-- What a counter reads: cycles count from its clearing on. -/
def Counter.read (c : Counter) (now : Nat) : DWord := if c.source = 0 then c.value + BitVec.ofNat 64 now else c.value

/-- A counter cleared, for a source. -/
def Counter.fresh (source now : Nat) : Counter := { source := source, value := if source = 0 then 0 - BitVec.ofNat 64 now else 0 }

/-- The selector of CNTR for a counter of a die or of a core (R385, Table 182). -/
def State.counterSelectorOk (s : State) (d : Site) (sel : Word) (isDie : Bool) : Bool :=
  if isDie then
    bitsAt sel 14 18 == 0 && bitsAt sel 11 2 == 0 && bitsAt sel 3 1 == 0 &&
      (if sel.getLsbD 13 then bitsAt sel 0 13 == 0 else s.computeOk (bitsAt sel 8 3))
  else s.selectorOk d sel false

/-- Whether the counter word of CNTR keeps to R385. -/
def counterWordOk (w : Word) : Bool :=
  bitsAt w 16 16 == 0 && bitsAt w 5 3 == 0 && bitsAt w 8 8 < 16 && (w.getLsbD 4 || bitsAt w 0 4 < 8)

/-- Causes of CNTR (R385). -/
def cntrBad (s : State) (d : Site) (_ : Op) (v : Vals) (miss : List Nat) : List Nat :=
  let w := lowWord v.b
  let sel := s.counterSelectorOk d (lowWord v.a)
  let ofWord := if miss.contains 1 then sel true || sel false else sel (w.getLsbD 4)
  if (miss.contains 0 || ofWord) && (miss.contains 1 || counterWordOk w) then [] else [11]

/-- CNTR in a lane (R385). -/
def cntrAct (s : State) (d : Site) (o : Op) (_ : Nat) (v : Vals) : Done :=
  let w := lowWord v.b
  let sel := lowWord v.a
  let isDie := w.getLsbD 4
  let i := bitsAt w 0 4
  let socket := if sel.getLsbD 13 then d.socket else bitsAt sel 8 3
  let core := (selectorCores d sel).headD 0
  let c : Counter := if isDie then tget {} (s.die socket).counters i else tget {} (s.coreAt core).counters i
  let put (x : Counter) : State :=
    if isDie then s.setDie socket { s.die socket with counters := tput {} (s.die socket).counters i x }
    else s.setCore core { s.coreAt core with counters := tput {} (s.coreAt core).counters i x }
  match dbgOp o with
  | 0 =>
    if counterKept isDie c.source then .ok s (c.read s.cycle) true
    else
      let (x, s) := s.free
      .ok s x true
  | 1 => .ok (put (Counter.fresh (bitsAt w 8 8) s.cycle)) 0 true
  | _ => .ok (put (Counter.fresh c.source s.cycle)) 0 true

/-- Whether CNTR needs privilege (R356): all but CNTR.RD with SELF set do. A selector that is immediate counts whatever the
lanes. -/
def Ctx.cntrPriv (c : Ctx) : Bool :=
  let other (v : Vals) : Bool := !(lowWord v.a).getLsbD 13
  dbgOp c.o != 0 || (if c.o.a == .imm then other (c.regVals 0) else (c.peekOf [0]).any fun v => other v.2)

/-- CNTR (R385). -/
def execCntr (o : Op) (s : State) : Host.Outcome State Fault Refusal :=
  siteOp .cntr .load Ctx.cntrPriv (fun c => if dbgOp c.o = 1 then c.noSealed else []) cntrBad noAlign cntrAct o s

end Sys2Proof.Machine
end

