-- ==== Sys2Proof/Machine/Queue.lean ====
section
/-! DEFINITION. Host queues and their ring entries (R229 to R233), launches from their taking to their completion
(R234 to R242, R339), range tasks (R244 to R246). -/
namespace Sys2Proof.Machine
open Sys2Proof

/-- The socket whose agents take ring entries and launch records (Table 169). -/
def ioSocket : Nat := 16

/-- The queue hardware as it translates. -/
def ioAgent : Agent := { socket := ioSocket }

/-- A queue. -/
def State.queue (s : State) (q : Nat) : HostQ := tget {} s.queues q

/-- A queue written. -/
def State.setQueue (s : State) (q : Nat) (x : HostQ) : State := { s with queues := tput {} s.queues q x }

/-- Where a queue's QCB lies: the manual does not say how the device learns it, so the first use takes it from the open
choices (log entry 22). -/
def State.qcbPlace (s : State) (q : Nat) : State × Nat :=
  match (s.queue q).place with
  | some pa => (s, pa)
  | none =>
    let (n, s) := s.choose (2 ^ 42)
    (s.setQueue q { s.queue q with place := some (64 * n) }, 64 * n)

/-- Entries of a ring (Table 111). -/
def ringCount (qcb : List Byte) : Nat := 2 ^ (fieldOf qcb 8 4 % 32)

/-- The domain of a queue. -/
def qcbDomain (qcb : List Byte) : Nat := fieldOf qcb 16 8

/-- Whether a QCB may be admitted (R229). A ring base that is no multiple of 64, for which R229 gives no outcome, is refused as
reserved fields are (DESIGN CHOICE, log entry 23). -/
def State.qcbOk (s : State) (b : List Byte) : Bool :=
  zeroBits b 0 8 57 63 && fieldOf b 0 8 % 64 == 0 && zeroBits b 8 4 5 31 && 4 ≤ fieldOf b 8 4 && fieldOf b 8 4 ≤ 16 &&
  fieldOf b 12 4 == 0 && zeroBits b 16 8 0 5 && zeroBits b 32 8 0 2 && (b.drop 40).all (· == 0) &&
  s.domainOk (qcbDomain b)

/-- Whether a launch has been taken and not started: its wait pairs are watched (R240). -/
def State.launchWaits (s : State) (uid : Nat) : Bool := ((tfind s.launches uid).map fun l => !l.started && !l.done).getD false

/-- Whether a queue has something to start or to wait for (R233). -/
def State.queueBusy (s : State) (x : HostQ) : Bool :=
  x.head != x.announced || x.pend.any fun p => match p.2 with
    | .wait _ _ => true
    | .launch uid => s.launchWaits uid

/-- The state field of a queue's QCB written (Table 111). -/
def State.qcbState (s : State) (q n : Nat) : State :=
  match (s.queue q).place with
  | some pa => s.putNat (pa + 28) 4 n
  | none => s

/-- A queue that has nothing left to start or wait for leaves its slot (R233). -/
def State.settleQueue (s : State) (q : Nat) : State :=
  let x := s.queue q
  if x.active && !s.queueBusy x then (s.setQueue q { x with active := false }).qcbState q 0 else s

/-- A store to a queue's notify register (R231, R346): the entries up to an index are announced; a store that moves the
end back, or too far ahead, or comes over another host's port, is counted. One over a port that is disabled goes nowhere
(R350). It is an enqueue: what precedes the store, at `pubs` in the memory order, precedes what it starts (R199). -/
def State.notifyStore (s : State) (queue : Nat) (value : DWord) (port : Nat) (pubs : List Nat) : State :=
  if (tget {} s.links (pcieKey port)).down then s
  else
    let (s, pa) := s.qcbPlace queue
    let x := s.queue queue
    let v := lowWord value
    let count := ringCount (memBytes s.mem pa 64)
    let head : Word := if x.active || !x.pend.isEmpty then x.head else BitVec.ofNat 32 (memNat s (pa + 24) 4)
    let foreign := s.mgmt.straps.split && queue % 2 != port % 2
    if foreign || (v - x.announced).msb || count < (v - head).toNat then
      s.setQueue queue { x with errors := x.errors + 1 }
    else
      (s.edge 10 pubs [] [.unit 4 queue]).setQueue queue { x with
        announced := v, head := head, since := if s.queueBusy { x with head := head } then x.since else s.cycle }

/-- A host thread's store to a notify register over a PCIe port (R231, R346): as its processor orders it, only a fence
brings earlier stores before it (R197). -/
def execNotifyStore (queue : Nat) (value : DWord) (host : HostThread) (s : State) : Host.Outcome State Fault Refusal :=
  if s.mgmt.phase != .running || 4096 ≤ queue then .refused (.notEnabled "NOTIFY_STORE")
  else .next ((s.registerStore (hostActor host.port host.thread)).notifyStore queue value host.port s.nextPub)

/-- Effective class of a queue that waits (R251). -/
def State.queueClass (s : State) (x : HostQ) : Nat :=
  (s.view (qcbDomain (memBytes s.mem (x.place.getD 0) 64))).classAt (s.cycle - x.since)

/-- Whether a queue competes for a slot of the queue mapper (R233). -/
def State.competes (s : State) (x : HostQ) : Bool := !x.active && !x.failed && s.queueBusy x

/-- Whether one competing queue is served before another (R233). -/
def State.queueBefore (s : State) (a b : Nat × HostQ) : Bool :=
  s.queueClass b.2 < s.queueClass a.2 ||
    (s.queueClass a.2 == s.queueClass b.2 && (a.2.since < b.2.since || (a.2.since == b.2.since && a.1 < b.1)))

/-- A slot of the queue mapper for a queue of a class: a free one, or that of an admitted queue of a lower class, as read
at its admission (R39), which leaves (R233). Which of several leaves is not said: that of the lowest class, of these the one
of the highest number (DESIGN CHOICE, log entry 51). -/
def State.freeSlotFor (s : State) (cls : Nat) : Option State :=
  let active := s.queues.filter fun p => p.2.active
  if active.length < 64 then some s
  else
    match bestOf (fun a b => decide (a.2.prio < b.2.prio ||
        (a.2.prio = b.2.prio && b.1 < a.1))) active with
    | some v =>
      if v.2.prio < cls then
        some ((s.setQueue v.1 { v.2 with active := false, since := s.cycle }).qcbState v.1 0)
      else none
    | none => none

/-- A queue wins an active slot of the queue mapper (R233); one whose QCB is refused takes error state (R229). -/
def execQueueAdmission (queue : Nat) (s : State) : Host.Outcome State Fault Refusal :=
  let x := s.queue queue
  let isFirst := s.queues.all fun p => !s.competes p.2 || p.1 == queue || s.queueBefore (queue, x) p
  if s.mgmt.phase != .running || !s.competes x || !isFirst then .refused (.notEnabled "QUEUE_ADMISSION")
  else
    match s.freeSlotFor (s.queueClass x) with
    | none => .refused (.notEnabled "QUEUE_ADMISSION")
    | some s =>
      let pa := x.place.getD 0
      let b := memBytes s.mem pa 64
      if s.qcbOk b then
        let head : Word := if x.pend.isEmpty then BitVec.ofNat 32 (fieldOf b 24 4) else x.head
        .next (((s.setQueue queue { x with active := true, qcb := b, prio := s.priority (qcbDomain b), head := head }).qcbState queue 1).settleQueue queue)
      else .next ((s.setQueue queue { x with failed := true }).qcbState queue 2)

/-- The address of a ring entry. -/
def HostQ.entryAt (x : HostQ) (i : Word) : DWord :=
  BitVec.ofNat 64 (fieldOf x.qcb 0 8 + 32 * (i.toNat % ringCount x.qcb))

/-- A number stored at a virtual address of a queue's space, where it can be. -/
def State.storeVa (s : State) (space : Nat) (va : DWord) (bs : List Byte) (a : Actor) : State :=
  let (s, _, x) := s.globalAt [] ioAgent space va bs.length .store
  match x with
  | .ok l => s.storeAt 0 l bs a
  | _ => s

/-- A peg at a virtual address of a queue's space advanced, where it can be. -/
def State.advanceVa (s : State) (space : Nat) (va v : DWord) (a : Actor) : State :=
  let (s, x) := s.translate ioAgent space va .atomic
  match x with
  | .ok pa => s.addPeg pa v a
  | .error _ => s

/-- A ring entry is done (R232): its status, then the head, then the queue's completion peg, by the agent that did it. -/
def State.entryDone (s : State) (q : Nat) (i : Word) (status reason : Nat) (a : Actor) : State :=
  let x := s.queue q
  let s := s.storeVa q (x.entryAt i + 4) (leBytes 4 (status + reason * 2 ^ 8)) a
  let s := match x.place with
    | some pa => s.putMem (pa + 24) (leBytes 4 x.head.toNat) a
    | none => s
  let peg := fieldOf x.qcb 32 8
  let s := if peg = 0 then s else s.advanceVa q (BitVec.ofNat 64 peg) 1 a
  s.settleQueue q

/-- An operation of the task and launch hardware begun after what has come to a meeting point. -/
def State.deviceOp (s : State) (after : List Party) : Actor × State :=
  let (op, s) := s.forked 10 [] after deviceActor
  (deviceActor op, s)

/-- The next entry of an admitted queue, when it may start (R232): its index and its bytes. An entry that cannot be read
puts the queue into error state (log entry 23). -/
def State.nextEntry (s : State) (q : Nat) : State × Except State (Option (Word × List Byte)) :=
  let x := s.queue q
  if !x.active || x.head == x.announced then (s, .ok none)
  else
    match s.readVa ioAgent q (x.entryAt x.head) 32 (.unit 4 q) with
    | (s, none) => (s, .error ((s.setQueue q { s.queue q with active := false, failed := true }).qcbState q 2))
    | (s, some b) =>
      let isOrder := fieldBits b 0 4 8 1 == 1
      let prevOpen := x.pend.any fun p => p.1 == x.head - 1
      if prevOpen && !isOrder then (s, .ok none) else (s, .ok (some (x.head, b)))

/-- Kind of a ring entry (Table 112). -/
def entryKind (b : List Byte) : Nat := fieldOf b 0 1

/-- What an entry of some kinds does as it starts, by an operation of the queue hardware; the head has moved past it. -/
def startEntry (name : String) (kinds : Nat → Bool) (q : Nat) (s : State) (f : State → Word → List Byte → Actor → State) :
    Host.Outcome State Fault Refusal :=
  match s.nextEntry q with
  | (_, .error t) => .next t
  | (_, .ok none) => .refused (.notEnabled name)
  | (s, .ok (some (i, b))) =>
    if kinds (entryKind b) then
      let x := s.queue q
      let (a, s) := s.deviceOp [.unit 4 q]
      .next (f (s.setQueue q { x with head := x.head + 1 }) i b a)
    else .refused (.notEnabled name)

/-- A NOP entry is done at its start; a reserved kind is rejected with reason 1 (R232). -/
def execRingEntryNop (queue : Nat) (s : State) : Host.Outcome State Fault Refusal :=
  startEntry "RING_ENTRY_NOP" (fun k => k == 0 || 3 < k) queue s fun s i b a =>
    if entryKind b = 0 then s.entryDone queue i 1 0 a else s.entryDone queue i 2 1 a

/-- A WAIT entry starts waiting (R232). -/
def execRingEntryWait (queue : Nat) (s : State) : Host.Outcome State Fault Refusal :=
  startEntry "RING_ENTRY_WAIT" (· == 2) queue s fun s i b _ =>
    let va : DWord := BitVec.ofNat 64 (fieldOf b 8 8)
    let x := s.queue queue
    s.setQueue queue { x with pend := x.pend ++ [(i, .wait va (BitVec.ofNat 64 (fieldOf b 16 8)))] }

/-- An ADVANCE entry adds to a peg and is done (R232); where the peg cannot be had it is rejected (log entry 23). -/
def execRingEntryAdvance (queue : Nat) (s : State) : Host.Outcome State Fault Refusal :=
  startEntry "RING_ENTRY_ADVANCE" (· == 3) queue s fun s i b a =>
    let va : DWord := BitVec.ofNat 64 (fieldOf b 8 8)
    let (s, x) := s.translate ioAgent queue va .atomic
    match x with
    | .ok pa => if va.toNat % 8 = 0 then (s.addPeg pa (BitVec.ofNat 64 (fieldOf b 16 8)) a).entryDone queue i 1 0 a
      else s.entryDone queue i 2 1 a
    | .error _ => s.entryDone queue i 2 8 a

/-- A WAIT entry's peg condition holds and the entry is done, a join edge with the advances of the peg (R232). A peg address
that is no multiple of 8 is read as it stands: the manual gives no outcome for it (log entry 23). -/
def execQueueWaitDone (queue idx : Nat) (s : State) : Host.Outcome State Fault Refusal :=
  let x := s.queue queue
  match x.active, x.pend[idx]? with
  | true, some (i, .wait va t) =>
    let (s, y) := s.translate ioAgent queue va .load
    match y with
    | .ok pa =>
      if pegMet (s.dword pa) t then
        let (a, t) := (s.edge 10 (s.advancesOf pa) [] [.unit 4 queue]).deviceOp [.unit 4 queue]
        .next ((t.setQueue queue { t.queue queue with pend := x.pend.eraseIdx idx }).entryDone queue i 1 0 a)
      else .refused (.notEnabled "QUEUE_WAIT_DONE")
    | .error _ => .refused (.notEnabled "QUEUE_WAIT_DONE")
  | _, _ => .refused (.notEnabled "QUEUE_WAIT_DONE")

/-- Whether the address-space entry of a space has V set: a launch asks no more of it (R306, log entry 10). -/
def State.spaceValid (s : State) (space : Nat) : Bool := (s.spaceEntry space).1.getLsbD 0

/-- Whether the address-space entry of a space is valid and no reserved bit of it is set, as a debug window asks (R387). -/
def State.spaceOk (s : State) (space : Nat) : Bool :=
  let e := s.spaceEntry space
  e.1.getLsbD 0 && bitsAt e.1 52 12 == 0 && bitsAt e.1 1 11 == 0 && bitsAt e.2 16 48 == 0

/-- A REJECT record delivered to a launch's domain (R302, R268): the launch has no group, so the header's name is a free
value (log entry 24). -/
def State.reportReject (s : State) (dcb : Nat) (addr : DWord) (reason : Nat) : State :=
  if s.domainReadable dcb 16 && s.domainOk dcb then
    let (x, s) := s.free
    s.deliver (s.view dcb) [padTo 64 (header 19 reason (bitsAt x 32 3) 0 (bitsAt x 0 32) (s.domainId dcb) 0 0 0 0 0 0 0 ++
      leBytes 8 addr.toNat)]
  else s

/-- Why a launch record taken from a queue is rejected (R236): the record itself, reasons 1 to 7, what it names. -/
def State.takeRecord (s : State) (space : Nat) (va : DWord) : State × Except Nat (List Byte) × List Byte :=
  if va.toNat % 64 != 0 || !s.spaceValid space then (s, .error 8, [])
  else
    match s.readVa ioAgent space va 256 (.unit 4 space) with
    | (s, none) => (s, .error 8, [])
    | (s, some r) =>
      let (s, noArea) := s.areaMissing r
      match s.rejectFirst r noArea with
      | some n => (s, .error n, r)
      | none =>
        let (s, ok) := s.recReads ioAgent space r
        if ok then (s, .ok r, r) else (s, .error 8, r)

/-- Whether a queue's launches are privileged (R355). -/
def State.queuePriv (s : State) (q : Nat) : Bool := bitsAt s.qpriv 0 13 ≤ q && q < bitsAt s.qpriv 16 13

/-- A LAUNCH entry takes and checks a launch record (R232, R236): what the queue's hardware has come after precedes the
launch (R199). -/
def execRingEntryLaunch (queue : Nat) (s : State) : Host.Outcome State Fault Refusal :=
  startEntry "RING_ENTRY_LAUNCH" (· == 1) queue s fun s i b a =>
    let va : DWord := BitVec.ofNat 64 (fieldOf b 8 8)
    match s.takeRecord queue va with
    | (s, .error n, r) =>
      let s := if r.isEmpty then s else s.reportReject (recDcb r) va n
      s.entryDone queue i 2 n a
    | (s, .ok r, _) =>
      let l : Launch :=
        { uid := s.uids, origin := .queue queue i.toNat, addr := va, record := r, space := queue, depth := 1
          priv := s.queuePriv queue }
      let x := s.queue queue
      let s := s.setQueue queue { x with pend := x.pend ++ [(i, .launch l.uid)] }
      { (s.edge 10 [] [.unit 4 queue] [.launch l.uid, .unit 5 l.uid]) with
        uids := s.uids + 1, launches := tins s.launches l.uid l }

/-- Who makes a launch's own accesses: the queue hardware, or the die that issued it. -/
def Launch.agent (l : Launch) : Agent :=
  match l.origin with
  | .queue _ _ => ioAgent
  | .device k => { socket := k }

/-- Whether a launch's wait pairs hold, or why one of their pegs cannot be read (R179, R240). -/
def State.pairsHold (s : State) (a : Agent) (l : Launch) : List (Nat × DWord) → State × Except AccErr Bool
  | [] => (s, .ok true)
  | (n, t) :: rest =>
    match s.launchPeg a l n .load with
    | (s, .error x) => (s, .error x)
    | (s, .ok pa) =>
      let met := pegMet (s.dword pa) t
      let (s, y) := s.pairsHold a l rest
      (s, y.map (met && ·))

/-- The advances so far of the pegs of some wait pairs, as places of the memory order (R179, R240). -/
def State.pairAdvances (s : State) (a : Agent) (l : Launch) (ps : List (Nat × DWord)) : List Nat :=
  ps.flatMap fun p => match (s.launchPeg a l p.1 .load).2 with
    | .ok pa => s.advancesOf pa
    | .error _ => []

/-- The ring entry of a launch that is over: done, or rejected. -/
def State.closeEntry (s : State) (l : Launch) (status reason : Nat) (a : Actor) : State :=
  match l.origin with
  | .device _ => s
  | .queue q i =>
    let x := s.queue q
    let s := s.setQueue q { x with pend := x.pend.filter fun p => p.2 != .launch l.uid }
    s.entryDone q (BitVec.ofNat 32 i) status reason a

/-- A launch rejected at its start (R268): no peg advances, and the handler receives the rejection. -/
def State.rejectStart (s : State) (l : Launch) (reason : Nat) : State :=
  let (a, s) := s.deviceOp [.unit 5 l.uid]
  let s := { s with launches := tins s.launches l.uid { l with done := true } }
  (s.reportReject (recDcb l.record) l.addr reason).closeEntry l 2 reason a

/-- The bents of a launch, die by die in ascending order (R237, R238). -/
def State.cutBents (s : State) (l : Launch) : List (Nat × Nat × Nat) → State × List Nat
  | [] => (s, [])
  | (socket, first, stop) :: rest =>
    let (s, ids) := (List.range (stop - first)).foldl (fun (acc : State × List Nat) i =>
      let b : Bent :=
        { uid := acc.1.uids, number := first + i, launch := l.uid, dcb := recDcb l.record, socket := socket
          since := acc.1.cycle }
      ({ acc.1 with uids := acc.1.uids + 1, bents := tins acc.1.bents b.uid b }, acc.2 ++ [b.uid])) (s, [])
    let (s, more) := s.cutBents l rest
    (s, ids ++ more)

/-- A launch started (R237 to R240, R339): its name read, its arguments fetched once, its bents cut over dies. -/
def State.startLaunch (s : State) (l : Launch) (args : List Byte) : State :=
  let acct : DWord := BitVec.ofNat 64 (fieldOf l.record 160 8)
  let (s, name) := if acct = 0 then (s, none) else s.readVa l.agent l.space acct 8 (.unit 5 l.uid)
  let (pid, tid) : Word × Word := match name with
    | some b => (BitVec.ofNat 32 (fieldOf b 0 4), BitVec.ofNat 32 (fieldOf b 4 4))
    | none => (l.pid, l.tid)
  let dies := s.cutDies l.record
  let (s, bents) := s.cutBents l dies
  let s := (dies.map (·.1)).distinct.foldl (fun s k => s.countDie k 13 1) s
  { s with
    launches := tins s.launches l.uid { l with started := true, args := args, pid := pid, tid := tid, bents := bents } }

/-- Whether a launch's queue, if it has one, still watches its wait pairs (R233). -/
def State.watched (s : State) (l : Launch) : Bool :=
  match l.origin with
  | .queue q _ => (s.queue q).active
  | .device _ => true

/-- A launch whose wait pairs hold starts, a join edge with the advances that met them (R240); one whose arguments, peg table or DCB cannot be read is rejected
(R268), and so is one whose die range table names a die that is not healthy as it begins cutting (R238, R353). -/
def execLaunchStart (launch : Nat) (s : State) : Host.Outcome State Fault Refusal :=
  match tfind s.launches launch with
  | none => .refused (.notEnabled "LAUNCH_START")
  | some l =>
    if l.started || l.done || !s.watched l then .refused (.notEnabled "LAUNCH_START")
    else
      match s.pairsHold l.agent l (recPairs l.record) with
      | (s, .error _) => .next (s.rejectStart l 8)
      | (_, .ok false) => .refused (.notEnabled "LAUNCH_START")
      | (s, .ok true) =>
        let s := s.edge 10 (s.pairAdvances l.agent l (recPairs l.record)) [] [.launch l.uid, .unit 5 l.uid]
        let (s, ok) := s.recReads l.agent l.space l.record
        let (s, args) :=
          s.readVa l.agent l.space (BitVec.ofNat 64 (fieldOf l.record 48 8)) (recArgs l.record) (.unit 5 l.uid)
        if !s.recTable l.record then .next (s.rejectStart l 6)
        else match ok && s.spaceValid l.space, args with
        | true, some a =>
          let s := s.startLaunch l a
          .next (match l.origin with
            | .queue q _ => s.settleQueue q
            | .device _ => s)
        | _, _ => .next (s.rejectStart l 8)

/-- The device's cycle count, as a launch's accounting record has it (R339). -/
def State.deviceClock (s : State) : Nat := s.clock (((List.range 8).find? s.computeOk).getD 0)

/-- The accounting record's stamps written at completion (R339, R340): what no other stamp is credited with is driver
queueing. -/
def State.writeAccount (s : State) (l : Launch) (a : Actor) : State :=
  let acct : DWord := BitVec.ofNat 64 (fieldOf l.record 160 8)
  if acct = 0 then s
  else
    match s.readVa l.agent l.space acct 24 (.unit 5 l.uid) with
    | (s, none) => s
    | (s, some b) =>
      let t1 := s.deviceClock
      let fault := l.stamps.getD 0 0
      let storage := l.stamps.getD 1 0
      let engine := l.stamps.getD 2 0
      let driver : DWord := BitVec.ofNat 64 t1 - BitVec.ofNat 64 (fieldOf b 8 8) - BitVec.ofNat 64 (fieldOf b 16 8) -
        BitVec.ofNat 64 (fault + storage + engine)
      let (s, _, x) := s.globalAt [] l.agent l.space (acct + 24) 40 .store
      match x with
      | .ok p => s.storeAt 0 p (leBytes 8 driver.toNat ++ leBytes 8 fault ++ leBytes 8 storage ++ leBytes 8 engine ++
          leBytes 8 t1) a
      | _ => s

/-- The completion peg of a launch advanced; where its table cannot be reached, a FAULT record, kind RESIDENT, that names
no group (R179, log entry 25). -/
def State.donePeg (s : State) (l : Launch) (a : Actor) : State :=
  match recDone l.record with
  | none => s
  | some n =>
    match s.launchPeg l.agent l n .atomic with
    | (s, .ok pa) => s.addPeg pa 1 a
    | (s, .error x) =>
      let (k, w1, w2, w3) := x.words
      s.deliver (s.view (recDcb l.record)) [padTo 64 (header 16 k 0 0 0xFFFFFFFF (s.domainId (recDcb l.record)) 0 0 0 0 0 0 0 ++
        leBytes 8 w1.toNat ++ leBytes 8 w2.toNat ++ leBytes 8 w3.toNat)]

/-- All bents of a launch have retired: the accounting record, then the completion peg, then its ring entry (R240,
R339), all after every access of the launch (R195). -/
def execLaunchComplete (launch : Nat) (s : State) : Host.Outcome State Fault Refusal :=
  match tfind s.launches launch with
  | none => .refused (.notEnabled "LAUNCH_COMPLETE")
  | some l =>
    let isOver (u : Nat) : Bool := ((s.bent u).map fun b => b.st == .ended).getD true
    if !l.started || l.done || !l.bents.all isOver then .refused (.notEnabled "LAUNCH_COMPLETE")
    else
      let (a, s) := s.deviceOp [.launch l.uid]
      let s := (s.writeAccount l a).donePeg l a
      let s := { s with
        bents := l.bents.foldl (fun t u => tdel t u) s.bents
        launches := tins s.launches launch { l with done := true, bents := [] } }
      .next (s.closeEntry l 1 0 a)

/-- A task's wait pairs hold, a join edge with the advances that met them: its first piece is created, or it completes empty
(R244). -/
def execTaskReady (task : Nat) (s : State) : Host.Outcome State Fault Refusal :=
  match tfind s.tasks task with
  | none => .refused (.notEnabled "TASK_READY")
  | some t =>
    match t.ready, tfind s.launches t.launch with
    | false, some l =>
      match s.pairsHold { socket := t.socket } l (taskPairs t.record) with
      | (s, .error x) =>
        let (k, w1, w2, w3) := x.words
        .next ({ s with tasks := tdel s.tasks task }.takeEngineFault t.gid 0 0 0 k w1 w2 w3)
      | (_, .ok false) => .refused (.notEnabled "TASK_READY")
      | (s, .ok true) =>
        let s := s.edge 10 (s.pairAdvances { socket := t.socket } l (taskPairs t.record)) [] [.unit 3 task]
        let first := fieldOf t.record 8 8
        let stop := fieldOf t.record 16 8
        if stop ≤ first then .next { s with tasks := tdel s.tasks task }
        else .next ({ s with tasks := tins s.tasks task { t with ready := true } }.newPiece task first stop)
    | _, _ => .refused (.notEnabled "TASK_READY")

/-- What remains of a piece (R246). -/
def Piece.left (p : Piece) : Nat := p.stop - p.next

/-- The running piece of a die with the most iterations left, the oldest of equals (R246). -/
def State.largestPiece (s : State) (socket : Nat) : Option (Bent × Piece) :=
  bestOf (fun a b => decide (b.2.left < a.2.left || (a.2.left = b.2.left && a.1.uid < b.1.uid)))
    ((s.bents.map (·.2)).filterMap fun b =>
      if b.socket == socket && b.st == .resident then b.piece.map fun p => (b, p) else none)

/-- A core asks for work and the largest piece is split in half on grain boundaries (R246): the new piece goes to the
asking core. -/
def execTaskSplit (core : Nat) (place : Place) (s : State) : Host.Outcome State Fault Refusal :=
  let bay := core / 5
  let socket := bay / 12
  match s.largestPiece socket with
  | none => .refused (.notEnabled "TASK_SPLIT")
  | some (b, p) =>
    match tfind s.tasks p.task with
    | none => .refused (.notEnabled "TASK_SPLIT")
    | some t =>
      let grain := taskGrain t.record
      let c := grainsOf p.next p.stop grain
      let cut := splitPoint p.next grain c
      let waiting := s.bents.any fun q =>
        q.2.awaits && q.2.socket == socket && (s.viewOf b).priority ≤ s.classOf q.2 && s.fitsDie q.2 true
      if c < 2 || waiting || place.core != core % 5 || !(s.baysOf socket).contains bay then
        .refused (.notEnabled "TASK_SPLIT")
      else
        let uid := s.uids
        let u := (s.onBent b.uid fun b => { b with piece := some { p with stop := cut } }).newPiece p.task cut p.stop
        match u.bent uid with
        | none => .refused (.notEnabled "TASK_SPLIT")
        | some n =>
          if s.admits n bay [] true && placesFit (u.demands n) [place] (u.loads bay []) then
            .next ((u.placeBent n bay [place]).countDie socket 12 1)
          else .refused (.notEnabled "TASK_SPLIT")

end Sys2Proof.Machine
end

