-- ==== Sys2Proof/Machine/Sched.lean ====
section
/-! DEFINITION. The issue choice (R24 to R27, R254, R388), the passing of cycles (R33, R251, R252, R340), the answers of the
lapidary (R70 to R74), barrier time-outs, halt reports (R329), steps (R331), sample ticks (R334, R335). -/
namespace Sys2Proof.Machine
open Sys2Proof

/-- Whether two fibres of a table merge (R24). -/
def Fibre.merges (a b : Fibre) : Bool :=
  let ok (f : Fibre) : Bool := f.slot.isSome && f.st == .ready && f.replay == 0 && f.step == 0
  ok a && ok b && a.pc == b.pc && a.wb == b.wb

/-- Two fibres as one, under the lower identifier (R24). -/
def Fibre.merge (a b : Fibre) : Fibre :=
  { a with
    lanes := a.lanes ||| b.lanes, waitCount := max a.waitCount b.waitCount, aged := a.aged || b.aged
    lastIssue := max a.lastIssue b.lastIssue, pcStop := a.pcStop <|> b.pcStop, halts := a.halts ++ b.halts
    pcDue := a.pcDue ||| b.pcDue }

/-- A fibre merged into the first of a list that it merges with, or put at its end. -/
def mergeInto (f : Fibre) : List Fibre → List Fibre
  | [] => [f]
  | x :: r => if x.merges f then x.merge f :: r else x :: mergeInto f r

/-- The regang rule (R24), and the spilled records that take the slots it frees (R25). -/
def Weave.regang (v : Weave) : Weave :=
  ({ v with fibres := v.fibres.foldl (fun l f => mergeInto f l) [] }).refill Config.fibreSlots

/-- Whether one ready fibre is chosen before another (R27). -/
def Fibre.chosenBefore (a b : Fibre) : Bool :=
  if a.aged != b.aged then a.aged
  else if a.aged then b.waitCount < a.waitCount || (a.waitCount == b.waitCount && a.id < b.id)
  else a.pc < b.pc || (a.pc == b.pc && a.id < b.id)

/-- The fibre a weave chooses to issue (R27). -/
def Weave.chosen (v : Weave) : Option Fibre :=
  bestOf Fibre.chosenBefore (v.fibres.filter fun f => f.st == .ready && f.step != 2)

/-- Which table fibre is exchanged out for a spilled one that is chosen (R25). Where wait count and last issue are equal too, R25
names none, and the model sends out the higher identifier (log entry 51). -/
def exchangedBefore (a b : Fibre) : Bool :=
  a.waitCount < b.waitCount || (a.waitCount == b.waitCount && (a.lastIssue < b.lastIssue ||
    (a.lastIssue == b.lastIssue && b.id < a.id)))

/-- A spilled fibre brought into the table (R25). -/
def Weave.exchange (v : Weave) (f : Fibre) : Weave :=
  if f.slot.isSome then v
  else
    match bestOf exchangedBefore (v.fibres.filter fun x => x.slot.isSome) with
    | some x => (v.onFibre x.id fun y => { y with slot := none }).onFibre f.id fun y => { y with slot := x.slot }
    | none => v.onFibre f.id fun y => { y with slot := some 0 }

/-- The instruction a fibre would issue, as its weave sees it. -/
def State.peek (s : State) (r : FibreRef) : Option Instr :=
  match s.fibre r with
  | none => none
  | some f =>
    match s.fetchWords r f with
    | .words _ ws => (decodeWords (s.isJoiner r.gid) ws).toOption
    | .stop _ => none

/-- Why a fibre's instruction waits at issue; 0 when it can issue (R157, R388). -/
def State.stallOf (s : State) (r : FibreRef) : Nat := ((s.peek r).map fun i => s.stallAs r i).getD 0

/-- A weave that a port may choose: its group, number, the weave after the regang rule, the chosen fibre. -/
structure Contender where
  gid   : Nat
  weave : Nat
  v     : Weave
  f     : Fibre

/-- The weave of a group as a contender, when its chosen fibre can issue, or, with `stalled`, waits at issue (R254, R388). -/
def State.contender (s : State) (gid w : Nat) (v : Weave) (stalled : Bool := false) : Option Contender :=
  if !s.canIssue gid then none
  else
    let v := v.reage.regang
    match v.chosen with
    | none => none
    | some f =>
      let t := s.onWeave gid w fun _ => v
      if stalled || t.stallOf ⟨gid, w, f.id⟩ == 0 then some { gid := gid, weave := w, v := v, f := f } else none

/-- The contenders of a core's port (R254, R255). -/
def State.contenders (s : State) (core port : Nat) : List Contender :=
  (s.coreGroups (core / 5) (core % 5) []).flatMap fun g =>
    (g.weaves.filter fun p => p.2.slot % 2 == port).filterMap fun p => s.contender g.gid p.1 p.2

/-- Effective class of a weave that is ready and not issued (R251). -/
def State.weaveClass (s : State) (c : Contender) : Nat := (s.domOf c.gid).classAt (s.cycle - c.v.ready)

/-- Whether a port takes one weave before another (R254): the higher class, ready the longest, the lower slot. -/
def State.takenBefore (s : State) (a b : Contender) : Bool :=
  s.weaveClass b < s.weaveClass a || (s.weaveClass a == s.weaveClass b &&
    (a.v.ready < b.v.ready || (a.v.ready == b.v.ready && a.v.slot < b.v.slot)))

/-- The contender that a port takes; one that has yielded only when there is no other (R141, R254). -/
def State.taken (s : State) (core port : Nat) : Option Contender :=
  let l := s.contenders core port
  let others := l.filter fun c => !c.v.yielded
  bestOf s.takenBefore (if others.isEmpty then l else others)

/-- Live barriers aged by some cycles (R33). -/
def ageBars (n : Nat) (t : Table Bar) : Table Bar := t.map fun p => (p.1, { p.2 with age := p.2.age.map (· + n) })

/-- Barrier ages of a group; they count only while its bent is resident and no halt of the group holds (R33, R330). -/
def State.ageGroup (s : State) (n : Nat) (g : Group) : Group :=
  if s.isResident g.gid && !g.isHeld then { g with bars := ageBars n g.bars } else g

/-- What waiting and barriers make of a bent in some cycles (R33, R252, R330). -/
def State.ageBent (s : State) (n : Nat) (b : Bent) : Bent :=
  if b.awaits then (if s.budgetBlocked b then { b with since := b.since + n } else b)
  else
    let allHalted := b.groups.all fun k => ((s.group k).map fun g => g.isHeld || g.retired).getD true
    if b.st == .resident && !allHalted then { b with bars := ageBars n b.bars } else b

/-- Where a peg at an address of a space lies in memory, by the page tables (R179). -/
def State.pegPlace (s : State) (space : Nat) (va : DWord) : Option Nat :=
  match s.walkVa space va with
  | .ok l => some (l.pa va)
  | .error _ => none

/-- Whether an outstanding storage command, of any launch, names the peg at an address of a space (R340). -/
def State.storageNames (s : State) (space : Nat) (va : DWord) : Bool :=
  s.stcmds.any fun c =>
    match c.peg, tfind s.launches c.launch with
    | some n, some l =>
      let at_ := recPegs l.record + BitVec.ofNat 64 (8 * n)
      (l.space == space && at_ == va) ||
        ((s.pegPlace space va).isSome && s.pegPlace space va == s.pegPlace l.space at_)
    | _, _ => false

/-- Whether a fibre waits externally, or on a peg that an outstanding storage command names (R340, R372). -/
def State.waitsOutside (s : State) (l : Launch) (g : Group) (f : Fibre) : Bool :=
  f.isParked && (match f.wait with
    | .peg va _ => g.extWait || s.storageNames l.space va
    | .await _ | .monitor _ | .clock _ | .sysc _ _ => g.extWait
    | _ => false)

/-- The stamp that a cycle of a launch is credited to: 0 fault service, 1 storage or network wait, 2 engine execution, 3
none of these (R340). -/
def State.stampOf (s : State) (l : Launch) : Nat :=
  let bents := (s.bents.map (·.2)).filter fun b => b.launch == l.uid
  let groups := (bents.flatMap (·.groups)).filterMap s.group
  let here := groups.filter fun g => !g.retired && s.isResident g.gid
  if groups.any fun g => s.faultParked g.gid then 0
  else if !here.isEmpty && here.all fun g => g.weaves.all fun p => p.2.fibres.all (s.waitsOutside l g) then 1
  else if bents.any fun b => b.holds then 2
  else 3

/-- A launch's time account after some cycles (R340). -/
def State.account (s : State) (n : Nat) (l : Launch) : Launch :=
  if l.started && !l.done then { l with stamps := l.stamps.modify (s.stampOf l) (· + n) } else l

/-- Weaves that are not ready: they are ready since the next cycle at the earliest (R254). -/
def State.idleWeaves (s : State) (now : Nat) (g : Group) : Group :=
  { g with weaves := g.weaves.map fun (w, v) =>
      (w, if (s.contender g.gid w v).isSome then v else { v with ready := now }) }

/-- The sinks whose page-table entries have changed stop (R336). -/
def State.loseSinks (s : State) : State :=
  s.dies.foldl (fun s p => (s.loseMoved p.1 false).loseMoved p.1 true) s

/-- Some cycles pass. -/
def State.pass (s : State) (n : Nat) : State :=
  if n = 0 then s
  else
    let s := s.loseSinks
    { s with
      cycle := s.cycle + n
      groups := s.groups.map fun p => (p.1, s.idleWeaves (s.cycle + n) (s.ageGroup n p.2))
      bents := s.bents.map fun p => (p.1, s.ageBent n p.2)
      launches := s.launches.map fun p => (p.1, s.account n p.2) }

/-- A fibre picked to issue. -/
def State.issued (s : State) (r : FibreRef) : State := { s with cur := some r }

/-- The lanes that a PC event halts before the instruction, halted (R325 to R327). Where a wider halt stops the fibre, or no
lane is left to run, nothing issues, and the PC events of that issue are made at once; else the lanes left issue, and the
halted ones' events are made with theirs, in lane order. -/
def State.pickFibre (s : State) (r : FibreRef) : State :=
  match s.fibre r with
  | none => s
  | some f =>
    let halts := if f.step != 0 || f.pcStop == some f.pc then [] else s.pcHalts r f.pc f.running
    if halts.isEmpty then s.issued r
    else
      let gone := maskOf (halts.map (·.1))
      let isWide := halts.any fun h => h.2.2 != 1
      let atEnd := isWide || f.running &&& ~~~gone == 0
      let s := if atEnd then s.pcEvents r f.pc (if isWide then f.running else gone) else s
      let s := (halts.foldl (fun s h => s.applyHalt r.gid r.weave h (some f.pc)) s).syncTable r.gid
      if atEnd then s else (s.onFibre r fun f => { f with pcDue := gone }).issued r

/-- A port of a core chooses a weave by class and age, and the weave its fibre, which issues next (R27, R254); `dt` cycles
pass first. The wait counts follow where its instruction does issue. -/
def execIssueChoice (core port dt : Nat) (s : State) : Host.Outcome State Fault Refusal :=
  let s := s.pass dt
  if s.cur.isSome then .refused (.notEnabled "ISSUE_CHOICE")
  else
    match s.taken core port with
    | none => .refused (.notEnabled "ISSUE_CHOICE")
    | some c =>
      let calm (g : Group) : Group :=
        { g with weaves := g.weaves.map fun (w, v) => (w, if v.slot % 2 == port then { v with yielded := false } else v) }
      let here := (s.coreGroups (core / 5) (core % 5) []).map (·.gid)
      let s := here.foldl (fun s k => s.onGroup k calm) s
      let merged := (((s.group c.gid).map fun g => (g.weave c.weave).fibres.length).getD 0) - c.v.fibres.length
      let s := s.countCore core 5 merged
      let s := s.countCore core 6 (if c.f.slot.isNone then 1 else 0)
      let s := s.onWeave c.gid c.weave fun _ => c.v.exchange c.f
      .next (s.pickFibre ⟨c.gid, c.weave, c.f.id⟩)

/-- A barrier generation's time-out expires (R33). `owner` is a group, or a bent for its bent barriers. -/
def execBartime (ofBent : Bool) (owner barrier : Nat) (s : State) : Host.Outcome State Fault Refusal :=
  let gid := if ofBent then ((s.bent owner).map fun b => b.groups.headD 0).getD 0 else owner
  let limit := ((s.launchOf gid).map fun l => recTimeout l.record).getD 0
  match (s.barrier gid ofBent barrier).age with
  | none => .refused (.notEnabled "BARTIME")
  | some n =>
    if s.isResident gid && limit ≤ n then .next (s.timeoutBarrier gid ofBent barrier)
    else .refused (.notEnabled "BARTIME")

/-- A halt becomes visible, and HALTPG advances (R329, R360). -/
def execHaltReport (r : FibreRef) (s : State) : Host.Outcome State Fault Refusal :=
  match s.fibre r with
  | none => .refused (.notEnabled "HALT_REPORT")
  | some f =>
    if f.st != .halted || f.reported then .refused (.notEnabled "HALT_REPORT")
    else
      let s := s.onFibre r fun f => { f with reported := true }
      let peg := (s.die (socketOf r.gid)).haltpg.toNat
      let s := if peg = 0 then s else s.addPeg peg 1
      .next (s.syncTable r.gid)

/-- A stepped fibre has finished its instruction and halts with cause 3 (R331, R379). -/
def execStepComplete (r : FibreRef) (s : State) : Host.Outcome State Fault Refusal :=
  match s.fibre r with
  | none => .refused (.notEnabled "STEP_COMPLETE")
  | some f =>
    if f.step != 2 then .refused (.notEnabled "STEP_COMPLETE")
    else .next ((s.onFibre r fun f => f.halt 3 0).syncTable r.gid)

/-- The fibre that a sample describes (R334): the one the issue choice would take next among the group's weaves, one that
waits at issue only where no other is ready; else that of the lowest weave and identifier. -/
def State.sampled (s : State) (g : Group) : Option (Nat × Fibre × Bool) :=
  let find (stalled : Bool) : Option Contender :=
    bestOf s.takenBefore (g.weaves.filterMap fun p => s.contender g.gid p.1 p.2 stalled)
  match find false, find true with
  | some c, _ => some (c.weave, c.f, true)
  | none, some c => some (c.weave, c.f, false)
  | none, none => g.weaves.findSome? fun p => (p.2.fibres.head?).map fun f => (p.1, f, false)

/-- State code and stall reason of a sampled fibre (Table 166). A fibre that can issue is ISSUED, waits for the port, for
staging or for memory, or awaits its fetch: timing, so an open choice. -/
def State.sampleCode (s : State) (g : Group) (w : Nat) (f : Fibre) (isReady : Bool) : State × Nat × Nat :=
  if s.faultParked g.gid then (s, 5, 0)
  else match f.st with
    | .halted => (s, 4, 0)
    | .refining => (s, 3, 4)
    | .parked => (s, 2, match f.wait with
      | .bar _ _ => 5
      | .await _ | .peg _ _ => 6
      | .monitor _ => 7
      | _ => 0)
    | .ready =>
      if isReady then
        match s.choose 5 with
        | (0, s) => (s, 0, 0)
        | (1, s) => (s, 1, 10)
        | (2, s) => (s, 1, 2)
        | (3, s) => (s, 1, 3)
        | (_, s) => (s, 6, 0)
      else (s, 1, s.stallOf ⟨g.gid, w, f.id⟩)

/-- A period-change record (R335). -/
def State.changePeriod (s : State) (socket n : Nat) : State :=
  match (s.die socket).sample with
  | none => s
  | some k =>
    let s := s.setDie socket { s.die socket with sample := some { k with period := n } }
    s.sinkPut socket false (sinkRecord 0 0 0 (socket * 2 ^ 8) 1 0 (BitVec.ofNat 64 n))

/-- A sample record written; one that leaves the ring more than three quarters full doubles the period (R335). -/
def State.putSample (s : State) (socket : Nat) (body : List Byte) : State :=
  let stored (s : State) : Option Nat := (s.die socket).sample.map fun k => memNat s (k.pa + 12) 4
  let before := stored s
  let s := s.sinkPut socket false body
  match (s.die socket).sample with
  | none => s
  | some k =>
    if stored s != before && !k.lost && 3 * s.sinkCount k < 4 * s.sinkUsed k && k.period < 24 then s.changePeriod socket (k.period + 1) else s

/-- The sample record of a group (R334). One that has no live fibre and has not retired yet is given as RETIRED, at its exit PC:
Table 166 has no other code for it (log entry 53). -/
def State.sampleGroup (s : State) (socket bay : Nat) (g : Group) : State :=
  let n := s.nameOf g.gid
  let (s, st, why, pc) : State × Nat × Nat × DWord := match s.sampled g with
    | none => (s, 7, 0, g.exitPc)
    | some (w, f, isReady) =>
      let (s, st, why) := s.sampleCode g w f isReady
      (s, st, why, f.pc)
  let position := st * 2 ^ 24 + why * 2 ^ 16 + socket * 2 ^ 8 + bay % 12 * 16 + g.core
  s.putSample socket (sinkRecord n.1 n.2 g.gid position 0 pc (BitVec.ofNat 64 (s.clock socket)))

/-- The records of one core at a tick: its occupied slots, then the groups retired since the last one (R334). -/
def State.sampleCore (s : State) (socket bay core : Nat) : State :=
  let groups := sortBy (fun (a b : Group) => decide (a.slot < b.slot)) (s.coreGroups bay core [])
  let s := groups.foldl (fun s g => s.sampleGroup socket bay g) s
  let gone := (s.die socket).retirees.filter fun r => r.bay == bay && r.core == core
  gone.foldl (fun s r =>
    let position := 7 * 2 ^ 24 + socket * 2 ^ 8 + bay % 12 * 16 + core
    s.putSample socket (sinkRecord r.pid r.tid r.gid position 0 r.pc (BitVec.ofNat 64 (s.clock socket)))) s

/-- Every period, each core of a die writes its sample records (R334); a tick that finds the ring less than a quarter full
halves the period (R335). -/
def execSampleTick (socket : Nat) (s : State) : Host.Outcome State Fault Refusal :=
  match (s.die socket).sample with
  | none => .refused (.notEnabled "SAMPLE_TICK")
  | some k =>
    if s.cycle < k.due then .refused (.notEnabled "SAMPLE_TICK")
    else
      let s := if !k.lost && 4 * s.sinkUsed k < s.sinkCount k && 10 < k.period then s.changePeriod socket (k.period - 1) else s
      let cores := (List.range Config.baysPerDie).flatMap fun b => (List.range 5).map fun c => (bayKey socket b, c)
      let s := cores.foldl (fun s c => s.sampleCore socket c.1 c.2) s
      .next (match (s.die socket).sample with
        | none => s
        | some k =>
          s.setDie socket { s.die socket with
            retirees := [], sample := some { k with due := k.due + 2 ^ k.period } })

/-- The lapidary answers decisions, those of one cycle together (R19, R70 to R74); after a cycle with answers another one
passes first. A read of a single request may meet a fault that ends its bent (R76). -/
def execLapidaryAnswer (bay : Nat) (idxs : List Nat) (s : State) : Host.Outcome State Fault Refusal :=
  let s := if (s.bayAt bay).answered == some s.cycle then s.pass 1 else s
  match if idxs.distinct.length = idxs.length then s.verdicts bay idxs else none with
  | some (t, a :: l) => .next (t.answerAll bay (a :: l))
  | _ =>
    match idxs with
    | [i] => match s.workOn bay i with
      | some q => match s.runRequest q with
        | (t, .faulted (.bad k a b d)) =>
          if q.kind.isXref then .refused (.notEnabled "LAPIDARY_ANSWER")
          else .next (t.requestFault (t.requestFibre q) q (.bad k a b d))
        | _ => .refused (.notEnabled "LAPIDARY_ANSWER")
      | none => .refused (.notEnabled "LAPIDARY_ANSWER")
    | _ => .refused (.notEnabled "LAPIDARY_ANSWER")

end Sys2Proof.Machine
end

