-- ==== Sys2Proof/Machine/Host.lean ====
section
/-! DEFINITION. What system cores, hosts and peers do to the device: accesses and register blocks (R345 to R348, R360),
resolutions and answers (R314, R366), the debug aperture (R386, R387), held entries (R312, R365). -/
namespace Sys2Proof.Machine
open Sys2Proof

/-- A resolution or an answer that is ignored, counted in its control block (R314, R345, R366). -/
def State.countIgnored (s : State) (cb : DWord) : State :=
  if cb = 0 then s else s.putNat (cb.toNat + 24) 4 (memNat s (cb.toNat + 24) 4 + 1)

/-- Held faults and held service requests posted where a ring has room (R312, R365): the device watches the consumer
indexes. -/
def State.postDie (s : State) (socket : Nat) : State :=
  let d := s.die socket
  if d.held.isEmpty && d.svcHeld.isEmpty then s
  else ((s.postHeld socket d.held.length).postRequests socket d.svcHeld.length).syncHeld socket

/-- The same on every die. -/
def State.postAll (s : State) : State := (List.range Config.computeDies).foldl State.postDie s

/-- What a system core or a host does, which it can do only once the boot is over (R349, R350). -/
def whileRunning (event : String) (s t : State) : Host.Outcome State Fault Refusal :=
  if s.mgmt.phase == .running then .next t else .refused (.notEnabled event)

/-- A consumer index stored by system software, and what is then posted (R312). -/
def execFaultQueueConsumerUpdate (socket : Nat) (value : Word) (s : State) : Host.Outcome State Fault Refusal :=
  let cb := (s.die socket).fqcb
  if cb = 0 || s.mgmt.phase != .running then .refused (.notEnabled "FAULT_QUEUE_CONSUMER_UPDATE")
  else .next ((s.putMem (cb.toNat + 16) (leBytes 4 value.toNat) (coreActor 0)).postDie socket)

/-- The same for the service queue (R365). -/
def execServiceQueueConsumerUpdate (socket : Nat) (value : Word) (s : State) : Host.Outcome State Fault Refusal :=
  let cb := (s.die socket).svcb
  if cb = 0 || s.mgmt.phase != .running then .refused (.notEnabled "SERVICE_QUEUE_CONSUMER_UPDATE")
  else .next ((s.putMem (cb.toNat + 16) (leBytes 4 value.toNat) (coreActor 0)).postDie socket)

/-- The outstanding entry of a sequence number. -/
def State.entryOf (s : State) (socket : Nat) (seq : Word) : Option FaultEntry :=
  (s.die socket).entries.find? fun e => e.seq == some seq

/-- An entry that is outstanding no more (R314, R315): its group or operation goes on once it has no other. -/
def State.closeFault (s : State) (socket : Nat) (seq : Word) (e : FaultEntry) : State :=
  let d := s.die socket
  let s := s.setDie socket { d with entries := d.entries.filter fun x => x.seq != some seq }
  (s.onWaits e.who fun l => l.filter (· != seq)).syncTable e.gid

/-- The engines that work for a group: its bay's, or those of its save area. -/
def State.enginesOf (s : State) (gid : Nat) : Bay :=
  match s.bentOf gid with
  | none => {}
  | some b => if b.st == .saved then b.saved else s.bayAt b.bay

/-- The agents whose accesses an entry's retry makes again (R315). -/
def State.retriers (s : State) (e : FaultEntry) : List Party :=
  match e.who with
  | .group gid => s.lanesParty gid e.weave e.mask
  | .copy gid bytes =>
    ((s.enginesOf gid).started.filter fun c => c.gid == gid && c.bytes == bytes).map fun c => .actor (s.opActor gid c.op)
  | .matrix gid => (((s.enginesOf gid).mq.take 1).filter fun c => c.gid == gid).map fun c => .actor (s.opActor gid c.op)
  | .request gid w l =>
    (((s.enginesOf gid).lap ++ (s.enginesOf gid).lapWait).filter fun q => q.gid == gid && q.weave == w && q.lane == l).map
      fun q => .actor (s.requestActor gid q.op)

/-- An entry resolved with RETRY (R314, R315): a fork edge at DEVICE scope, from what precedes the resolution's store, into the
retries (R316). -/
def State.retryEntry (s : State) (socket : Nat) (seq : Word) (pubs : List Nat) : State :=
  match s.entryOf socket seq with
  | none => s.countIgnored (s.die socket).fqcb
  | some e => (s.edge 7 pubs [] (s.retriers e)).closeFault socket seq e

/-- The fibre that an entry of a lane access concerns. -/
def State.faulting (s : State) (e : FaultEntry) : Nat :=
  match s.group e.gid with
  | none => 0
  | some g => (((g.weave e.weave).fibres.find? fun f => f.lanes &&& e.mask != 0).map (·.id)).getD 0

/-- An entry resolved with ABORT (R314, R317): the FAULT record, kind ABORTED, and the end of the bent; a copy record that
waited for it is given up (log entry 15). -/
def State.abortEntry (s : State) (socket : Nat) (seq : Word) : State :=
  match s.entryOf socket seq with
  | none => s.countIgnored (s.die socket).fqcb
  | some e =>
    let s := s.closeFault socket seq e
    let s := match e.who with
      | .copy gid bytes => s.onEngines gid fun y =>
          { y with started := y.started.filter fun c => !(c.gid == gid && c.bytes == bytes) }
      | _ => s
    if e.engine then s.takeEngineFault e.gid e.weave e.pc e.mask 11 e.va (zext32 seq) 0
    else s.takeFault ⟨e.gid, e.weave, s.faulting e⟩ e.pc e.mask 11 e.va (zext32 seq) 0

/-- A resolve-register store with RETRY (R314), by system core 0 (log entry 52). -/
def execResolveRetry (socket : Nat) (seq : Word) (s : State) : Host.Outcome State Fault Refusal :=
  whileRunning "RESOLVE_RETRY" s ((s.registerStore (coreActor 0)).retryEntry socket seq s.nextPub)

/-- A resolve-register store with ABORT (R314). -/
def execResolveAbort (socket : Nat) (seq : Word) (s : State) : Host.Outcome State Fault Refusal :=
  whileRunning "RESOLVE_ABORT" s (s.abortEntry socket seq)

/-- A store to the resolve register (R314, R345). -/
def State.resolve (s : State) (socket : Nat) (v : DWord) (pubs : List Nat) : State :=
  match bitsAt v 32 32 with
  | 0 => s.retryEntry socket (lowWord v) pubs
  | 1 => s.abortEntry socket (lowWord v)
  | _ => s.countIgnored (s.die socket).fqcb

/-- An answer to a service request (R366): it lands at once, or at the restore of a saved bent; one that names no
outstanding request is ignored and counted. `pubs` is the place of the store in the memory order. -/
def State.answerRequest (s : State) (socket : Nat) (seq value : Word) (pubs : List Nat) : State :=
  let d := s.die socket
  match d.svc.find? fun q => q.seq == some seq && q.answer == none with
  | none => s.countIgnored d.svcb
  | some q =>
    let isSaved := ((s.bentOf q.gid).map fun b => b.st == .saved).getD false
    if isSaved then
      s.setDie socket { d with svc := d.svc.map fun x => if x.tag == q.tag then { x with answer := some value, pubs := pubs } else x }
    else (s.setDie socket { d with svc := d.svc.filter fun x => x.tag != q.tag }).landAnswer { q with pubs := pubs } value

/-- What a store does to a register block while its die is reset: nothing (R353). -/
def State.unlessOffline (s : State) (socket : Nat) (t : State) : State := if (s.die socket).offline then s else t

/-- An answer-register store by system core 0 (R366, log entry 52); while the die is reset it is ignored and counted (R353). -/
def execSyscAnswer (socket : Nat) (seq value : Word) (s : State) : Host.Outcome State Fault Refusal :=
  whileRunning "SYSC_ANSWER" s
    (if (s.die socket).offline then s.countIgnored (s.die socket).svcb else (s.registerStore (coreActor 0)).answerRequest socket seq value s.nextPub)

/-- A store to PREEMPT (R363). -/
def execPreemptRegister (socket : Nat) (gid : Word) (s : State) : Host.Outcome State Fault Refusal :=
  whileRunning "PREEMPT_REGISTER" s (s.unlessOffline socket (s.preempt socket (zext32 gid)))

/-- A store to KILL (R363). -/
def execKillRegister (socket : Nat) (gid : Word) (s : State) : Host.Outcome State Fault Refusal :=
  whileRunning "KILL_REGISTER" s (s.unlessOffline socket (s.kill socket (zext32 gid)))

/-- A system core's store to a system register (R360): one that MTSR would refuse is ignored. -/
def State.coreWritesReg (s : State) (socket index : Nat) (v : DWord) : State :=
  if regWritable index v then s.writeReg socket index v else s

/-- A system register written by a system core (R360). -/
def execSysregWrite (socket index : Nat) (value : DWord) (s : State) : Host.Outcome State Fault Refusal :=
  whileRunning "SYSREG_WRITE" s (s.unlessOffline socket (s.coreWritesReg socket index value))

/-- How a window's instruction ends (R387): the outcome and the cause field; what it writes. -/
inductive WindowEnd where
  | done (s : State) (d : Option DWord) (p : Bool)
  | stop (outcome cause : Nat)

/-- A window. -/
def State.window (s : State) (socket c : Nat) : Window := tget {} (s.die socket).windows c

/-- A window written. -/
def State.setWindow (s : State) (socket c : Nat) (w : Window) : State :=
  let d := s.die socket
  s.setDie socket { d with windows := tput {} d.windows c w }

/-- The value of a slot: an immediate as encoded, else the window's (R387). -/
def windowVal (o : Op) (wide : Bool) (x : Opnd) (v : DWord) : DWord :=
  match x with
  | .imm => if wide then o.immVal else zext32 (lowWord o.immVal)
  | .none => 0
  | .a _ => v
  | _ => if wide then v else zext32 (lowWord v)

/-- The values of the slots that a window gives (R387). -/
def Window.vals (w : Window) (m : Major) (o : Op) : Vals :=
  let l := m.slots o.mod
  { d := windowVal o (wideSlot l.1) o.d w.d, a := windowVal o (wideSlot l.2.1) o.a w.a
    b := windowVal o (wideSlot l.2.2.1) o.b w.b, c := windowVal o (wideSlot l.2.2.2) o.c w.c }

/-- How an instruction of a window ends, after its checks (R299, R387). -/
def windowEndOf (m : Major) (o : Op) (causes : List Nat) (align : Option (DWord × Nat)) (act : Done) : WindowEnd :=
  match lowestCause causes, align with
  | some n, _ => .stop 1 n
  | none, some _ => .stop 3 0
  | none, none =>
    match act with
    | .ok s d p _ => .done s (if m.dests.1 && o.d != .none then some d else none) (p && m.dests.2.2.2)
    | .illegal n => .stop 1 n
    | .late _ pages _ => .stop (if pages.any fun x => x.2.1 == 1 then 32 else 33) 0
    | .bad k _ _ _ => .stop 16 k

/-- Whether an instruction uses the window's address space. -/
def usesSpace (m : Major) (o : Op) : Bool :=
  match m with
  | .gauge => dbgOp o == 0
  | .sample => !o.mod.getLsbD 0
  | _ => false

/-- The instruction of a window executed as one lane (R387); an opcode that a window does not accept is cause 11. -/
def State.windowRun (s : State) (t : Site) (m : Major) (o : Op) (v : Vals) : WindowEnd :=
  if usesSpace m o && !s.spaceOk t.space then .stop 34 0
  else match m with
    | .hread => windowEndOf m o (itemBad s t o v []) none (hreadAct s t o 0 v)
    | .hwrite => windowEndOf m o (itemBad s t o v []) none (hwriteAct s t o 0 v)
    | .hstep => windowEndOf m o (stepBad s t o v []) none (hstepAct s t o 0 v)
    | .hrun => windowEndOf m o (scopeBad s t o v []) none (hrunAct s t o 0 v)
    | .hstat => windowEndOf m o (scopeBad s t o v []) none (hstatAct s t o 0 v)
    | .gauge => windowEndOf m o (gaugeBad s t o v []) (gaugeAlign o v) (gaugeAct s t o 0 v)
    | .sample => windowEndOf m o (sampleBad s t o v []) (sampleAlign o v) (sampleAct s t o 0 v)
    | .trace => windowEndOf m o [] none (traceAct s t o 0 v)
    | .cntr => windowEndOf m o (cntrBad s t o v []) none (cntrAct s t o 0 v)
    | .mfsr => windowEndOf m o (mfsrBad s t o v []) none (mfsrAct s t o 0 v)
    | .mtsr => windowEndOf m o (mtsrBad s t o v []) none (mtsrAct s t o 0 v)
    | .tlbi => windowEndOf m o [] none (tlbiAct s t o 0 v)
    | _ => .stop 1 11

/-- The end of a window's instruction written into the window (Table 185). -/
def State.windowEnd (s : State) (socket c : Nat) (v : WindowEnd) : State :=
  match v with
  | .stop n cause =>
    s.setWindow socket c { s.window socket c with status := BitVec.ofNat 64 (n * 2 ^ 16 + cause * 2 ^ 8) }
  | .done t d p =>
    let w := t.window socket c
    t.setWindow socket c { w with result := d.getD w.result, status := if p then 2 else 0 }

/-- A store to GO (R386, R387): a predicate other than P7 is cause 4, whatever else is wrong beyond the causes 1 to 3. -/
def State.windowGo (s : State) (socket c : Nat) : State :=
  let w := s.window socket c
  let w0 := w.words.getD 0 0
  let w2 := w.words.getD 2 0
  let predBad := bitsAt w0 0 2 != 0 && bitsAt w2 0 4 != 7
  let t : Site := { socket := socket, space := bitsAt w.space 0 12 }
  s.windowEnd socket c (match decodeWords false w.words with
    | .error n => .stop 1 (if predBad then min n 4 else n)
    | .ok i =>
      if predBad then .stop 1 4
      else match i.major, i.op with
        | some (m, _), some o => s.windowRun t m o (w.vals m o)
        | _, _ => .stop 1 11)

/-- A store to GO executes the window's instruction as a debug context (R386). -/
def execDebugWindowGo (socket window : Nat) (s : State) : Host.Outcome State Fault Refusal :=
  if 8 ≤ socket || 16 ≤ window || s.mgmt.phase != .running then .refused (.notEnabled "DEBUG_WINDOW_GO")
  else .next (s.unlessOffline socket (s.windowGo socket window))

/-- An aligned 8-byte store to a window (Table 185). -/
def State.windowStore (s : State) (socket c off : Nat) (v : DWord) : State :=
  if off = 0x30 then s.windowGo socket c else s.setWindow socket c ((s.window socket c).write off v)

/-- A store to a compute die's register block (R345, R360, R386); while the die is reset, resolutions and answers are
ignored and counted (R353). `pubs` is the place of the store in the memory order. -/
def State.regStore (s : State) (pa n : Nat) (v : DWord) (pubs : List Nat) : State :=
  let socket := pa / 2 ^ 20 % 2 ^ 28
  let off := pa % 2 ^ 20
  let d := s.die socket
  if 8 ≤ socket then s
  else if d.offline then if off < 8 then s.countIgnored d.fqcb else if off < 16 then s.countIgnored d.svcb else s
  else if n != 8 || off % 8 != 0 then
    let s := if off < 8 then s.countIgnored d.fqcb else s
    if off < 16 && 8 < off + n then s.countIgnored d.svcb else s
  else if off = 0 then s.resolve socket v pubs
  else if off = 8 then s.answerRequest socket (lowWord v) (highWord v) pubs
  else if 0x1000 ≤ off && off < 0x9000 then s.coreWritesReg socket ((off - 0x1000) / 8) v
  else if 0x80000 ≤ off && off < 0x80800 then s.windowStore socket ((off - 0x80000) / 0x80) (off % 0x80) v
  else s

/-- A lane's store to a device register or the notify aperture taken there (R199, R231): in the aperture only aligned 8-byte
stores to a queue's register do anything. `pubs` is the place of the store in the memory order. -/
def State.laneAccess (s : State) (pa n v : Nat) (pubs : List Nat) : State :=
  match s.notifyPort pa with
  | some (port, off) =>
    if n = 8 && off % 4096 = 0 then s.notifyStore (off / 4096) (BitVec.ofNat 64 v) port pubs else s
  | none => s.regStore pa n (BitVec.ofNat 64 v) pubs

/-- An access of an agent outside the compute dies, at the scope that it counts as naming (R197, R198, R347): what it loads
goes to the agent; an access with nothing behind it has no effect. `reach` are the addresses it may go to; a peer's own memory
is behind them for its own agents whatever its link. -/
def State.outsideAccess (s : State) (reach : Nat → Bool) (by_ : Actor) (a : BusAccess) : State :=
  match a with
  | .fence => s.fence by_ by_.level
  | .lane _ _ _ _ => s
  | .load pa n =>
    if !reach pa || (s.physBad pa).isSome then s else (s.loadWeak by_ 0 by_.level noGroup (.phys [(pa, n)]) n).1
  | .store pa n v =>
    if !reach pa then s
    else if pa / 2 ^ 48 = 15 then
      let t : State := { s with past := s.recorded by_ by_.level false (physCells s.mem pa n) }
      t.regStore pa n (BitVec.ofNat 64 v) s.nextPub
    else if pa / 2 ^ 48 = 2 && by_.level == 8 then s.setMem pa (leBytes n v) by_ by_.level false
    else if (s.physBad pa).isSome then s
    else (s.putMem pa (leBytes n v) by_ by_.level).postAll

/-- A system core's access at DEVICE scope (R347); a store that a lane made to a register block or the notify aperture comes
here too (R199). -/
def execSystemCoreAccess (a : Nat × BusAccess) (s : State) : Host.Outcome State Fault Refusal :=
  match a.2 with
  | .lane pa n v place => .next (s.laneAccess pa n v [place])
  | _ => if s.mgmt.phase != .running then .refused (.notEnabled "SYSTEM_CORE_ACCESS")
  else .next (s.outsideAccess (fun _ => true) (coreActor a.1) a.2)

/-- Whether a host reaches an address (R344, R346): its own memory, and over its PCIe port, where that is up (R350), device
memory and through BAR0 the register blocks. -/
def State.hostReaches (s : State) (port pa : Nat) : Bool :=
  let region := pa / 2 ^ 48
  region == 1 || ((region == 0 || region == 15) && !(tget {} s.links (pcieKey port)).down)

/-- A host thread's access (R197, R346). -/
def execHostAccess (a : HostThread × BusAccess) (s : State) : Host.Outcome State Fault Refusal :=
  if s.mgmt.phase != .running then .refused (.notEnabled "HOST_ACCESS")
  else .next (s.outsideAccess (s.hostReaches a.1.port) (hostActor a.1.port a.1.thread) a.2)

/-- Whether a peer reaches an address (R344, R350): its own memory, and over its Rhaut port, where that is up, device memory. -/
def State.peerReaches (s : State) (port pa : Nat) : Bool :=
  (pa / 2 ^ 48 == 2 && pa / 2 ^ 44 % 16 == port) || (pa / 2 ^ 48 == 0 && !(tget {} s.links (rhautKey port)).down)

/-- A peer device's access to this device's memory, or one of its own agents to its own (R198). -/
def execPeerAccess (a : Nat × BusAccess) (s : State) : Host.Outcome State Fault Refusal :=
  if s.mgmt.phase != .running then .refused (.notEnabled "PEER_ACCESS")
  else .next (s.outsideAccess (s.peerReaches a.1) (peerActor a.1) a.2)

end Sys2Proof.Machine
end

