-- ==== Sys2Proof/Machine/Boot.lean ====
section
/-! DEFINITION. The package: boot, safe mode and firmware (R349 to R351), attestation (R352), warm reset (R353), links and
ports (R343, R348). -/
namespace Sys2Proof.Machine
open Sys2Proof

/-- Times the alternative of a boot step is taken for a socket or port. -/
def Mgmt.level (m : Mgmt) (step unit : Nat) : Nat := (m.alts.filter (· == (step, unit))).length

/-- The steps of Table 171 with their sockets and ports, in order. -/
def bootUnits (b : BootInput) : List (Nat × Nat) :=
  let named (step base n : Nat) (m : Nat) : List (Nat × Nat) :=
    ((List.range n).filter fun i => m.testBit (base + i)).map fun i => (step, base + i)
  let sockets := b.straps.sockets.toNat
  let ports := b.straps.ports.toNat
  [(1, 0), (2, 0)] ++ named 3 0 18 sockets ++ named 4 8 8 sockets ++ named 5 0 8 sockets ++ [(6, 0)] ++ named 7 0 2 ports ++
    named 8 2 16 ports

/-- Whether a step passes for a socket or port at a level of its alternatives; at the last level of steps 4, 5, 7 and 8
the unit is fenced or disabled, which does not fail. -/
def bootPasses (m : Mgmt) (b : BootInput) (step unit level : Nat) : Bool :=
  match step, level with
  | 1, k => if (m.images.getD k []).isEmpty then b.firmwareOk.getLsbD k else true
  | 2, _ => match m.topo with
    | some t => t.straps == b.straps
    | none => true
  | 3, 0 => b.linksPass.getLsbD unit
  | 3, _ => b.linksHalf.getLsbD unit
  | 4, 0 => b.memoryPass.getLsbD (unit - 8)
  | 5, 0 => b.computePass.getLsbD unit
  | 6, k => b.runtimeOk.getLsbD k
  | 7, 0 => b.portsPass.getLsbD unit
  | 7, 1 => b.portsLow.getLsbD unit
  | 8, 0 => b.portsPass.getLsbD unit
  | _, _ => true

/-- How many alternatives a step has (Table 171). -/
def bootAlternatives (step : Nat) : Nat :=
  match step with
  | 2 => 0
  | 7 => 2
  | _ => 1

/-- An entry of the boot log, which holds the last 64 (R350); a Rhaut port is entered by its own number (Table 170). -/
def Mgmt.log (m : Mgmt) (step unit result cause : Nat) : Mgmt :=
  let named := if step = 8 then unit - 2 else unit
  let e : DWord := BitVec.ofNat 64 (step + named * 2 ^ 8 + result * 2 ^ 16 + m.attempts % 256 * 2 ^ 24 + cause * 2 ^ 32)
  let l := m.bootLog ++ [e]
  { m with bootLog := l.drop (l.length - 64) }

/-- How a run of the boot steps ends. -/
inductive BootEnd where
  | complete | failed | safe
deriving DecidableEq, Repr

/-- The boot steps in order (R350): a step that fails is entered in the log and ends the start; the cause in its entry is
a free value. -/
def State.bootSteps (s : State) (b : BootInput) : List (Nat × Nat) → State × BootEnd
  | [] => (s, .complete)
  | (step, unit) :: rest =>
    let level := s.mgmt.level step unit
    if bootPasses s.mgmt b step unit level then
      { s with mgmt := s.mgmt.log step unit (if level = 0 then 0 else 2) 0 }.bootSteps b rest
    else
      let (x, s) := s.free
      let m := s.mgmt.log step unit 1 (bitsAt x 0 32)
      if level < bootAlternatives step then ({ s with mgmt := { m with failed := m.failed ++ [(step, unit)] } }, .failed)
      else ({ s with mgmt := m }, .safe)

/-- Sockets from a base that are populated and not fenced by a step. -/
def Mgmt.admitted (m : Mgmt) (b : BootInput) (step base : Nat) : BitVec 8 :=
  BitVec.ofNat 8 (((List.range 8).filter fun i =>
    b.straps.sockets.getLsbD (base + i) && m.level step (base + i) == 0).foldl (fun n i => n + 2 ^ i) 0)

/-- The links and ports as the boot leaves them (Table 171). -/
def Mgmt.trained (m : Mgmt) (b : BootInput) : Table Link :=
  let half := (List.range 18).filter fun i => m.level 3 i != 0
  let shut := (List.range 18).filter fun i =>
    !b.straps.ports.getLsbD i || (if i < 2 then m.level 7 i == 2 else m.level 8 i != 0)
  let t := half.foldl (fun t i => tput {} t i { halfRate := true }) []
  shut.foldl (fun t i => tput {} t (if i < 2 then pcieKey i else rhautKey (i - 2)) { down := true }) t

/-- Whether an event comes from outside the package: a lane's store on its way is lost with the power. -/
def Instr.fromOutside : Instr → Bool
  | .systemCoreAccess (_, .lane _ _ _ _) => false
  | _ => true

/-- Power-on (R349, R350): everything but the management function's own record is as State.reset has it; then the
strap check and the boot steps. A boot that admits no compute die or no memory die does not complete. The dies' counters
agree within 256 cycles after boot (R44). -/
def execPowerOn (b : BootInput) (s : State) : Host.Outcome State Fault Refusal :=
  let m : Mgmt :=
    { s.mgmt with
      phase := .off, straps := b.straps, attempts := s.mgmt.attempts + 1, alts := s.mgmt.alts ++ s.mgmt.failed
      failed := [], spdm := [], spdmStage := 0, notifyAt := b.notifyAt }
  let s := { State.reset with
    mgmt := m, agenda := s.agenda.filter Instr.fromOutside, oracle := s.oracle, fresh := s.fresh }
  match s.bootSteps b (bootUnits b) with
  | (s, .failed) => .next s
  | (s, .safe) => .next { s with mgmt := { s.mgmt with phase := .safe } }
  | (s, .complete) =>
    let compute := s.mgmt.admitted b 5 0
    let memory := s.mgmt.admitted b 4 8
    if compute = 0 || memory = 0 then .next s
    else
      let m := s.mgmt.log 9 0 0 0
      let dies := (List.range 8).foldl (fun t i => tput {} t i { clockOff := b.clockOffsets.getD i 0 % 257 }) []
      .next { s with
        mgmt := { m with phase := .running, topo := some { straps := b.straps, compute := compute, memory := memory } }
        health := BitVec.ofNat 64 (compute.toNat + 256 * memory.toNat), links := s.mgmt.trained b, dies := dies }

/-- Whether a firmware image is accepted (R351, Table 172). -/
def Mgmt.accepts (m : Mgmt) (image : List Byte) : Bool :=
  let body := image.drop 256
  let digest := Config.sha512 body
  fieldOf image 0 4 == 0x58465A44 && 256 ≤ image.length && fieldOf image 8 8 == body.length &&
  fieldOf image 16 64 == digest.toNat && m.minVersion ≤ fieldOf image 4 2 &&
  Config.signatureValid (fieldOf image 6 2) digest ((image.drop 80).take 64)

/-- Whether the management function answers (R349). -/
def Mgmt.awake (m : Mgmt) : Bool := m.phase != .off

/-- A firmware image for a slot (R351): it is kept when it is accepted. -/
def execFirmwareUpdate (slotB : Bool) (image : List Byte) (s : State) : Host.Outcome State Fault Refusal :=
  if !s.mgmt.awake then .refused (.notEnabled "FIRMWARE_UPDATE")
  else if s.mgmt.accepts image then
    .next { s with mgmt := { s.mgmt with images := s.mgmt.images.set (if slotB then 1 else 0) image } }
  else .next s

/-- The safe-mode command that clears the topology record (R349). -/
def execClearTopologyRecord (s : State) : Host.Outcome State Fault Refusal :=
  if s.mgmt.phase != .safe then .refused (.notEnabled "CLEAR_TOPOLOGY_RECORD")
  else .next { s with mgmt := { s.mgmt with topo := none } }

/-- An SPDM request (R352): requests come in order (log entry 12), and the answer is kept; a request out of order gets an
error answer. An answer begins with a code of the model and holds the fields that R352 names. -/
def spdmStep (name : String) (needs stage : Nat) (answer : State → List Byte) (s : State) : Host.Outcome State Fault Refusal :=
  if !s.mgmt.awake then .refused (.notEnabled name)
  else if s.mgmt.spdmStage < needs then .next { s with mgmt := { s.mgmt with spdm := s.mgmt.spdm ++ [[0x7F]] } }
  else .next { s with mgmt := { s.mgmt with
    spdm := s.mgmt.spdm ++ [answer s], spdmStage := max stage s.mgmt.spdmStage } }

/-- GET_VERSION (R352): version 1.3; it begins a new exchange. -/
def execGetVersion (s : State) : Host.Outcome State Fault Refusal :=
  spdmStep "GET_VERSION" 0 1 (fun _ => [0x04, 0x13]) { s with mgmt := { s.mgmt with spdm := [], spdmStage := 0 } }

/-- GET_CAPABILITIES (R352): certificates, challenge and measurements, and no session. -/
def execGetCapabilities (s : State) : Host.Outcome State Fault Refusal :=
  spdmStep "GET_CAPABILITIES" 1 2 (fun _ => [0x61, 1, 1, 1, 0]) s

/-- NEGOTIATE_ALGORITHMS (R352): Ed25519 and SHA-512, where the requester offers them; the offers are masks whose bit 0 is
that algorithm. -/
def execNegotiateAlgorithms (asym hash : Nat) (s : State) : Host.Outcome State Fault Refusal :=
  if asym % 2 = 1 && hash % 2 = 1 then spdmStep "NEGOTIATE_ALGORITHMS" 2 3 (fun _ => [0x63, 1, 1]) s
  else spdmStep "NEGOTIATE_ALGORITHMS" 4 0 (fun _ => []) s

/-- The certificate chain's bytes from an offset. -/
def chainBytes (offset n : Nat) : List Byte := (List.range n).map fun i => Config.certificate (offset + i)

/-- GET_DIGESTS (R352): the digest of the certificate chain. -/
def execGetDigests (s : State) : Host.Outcome State Fault Refusal :=
  spdmStep "GET_DIGESTS" 3 3 (fun _ => 0x01 :: leBytes 64 (Config.sha512 (chainBytes 0 Config.certificateLength)).toNat) s

/-- GET_CERTIFICATE (R352). -/
def execGetCertificate (offset length : Nat) (s : State) : Host.Outcome State Fault Refusal :=
  spdmStep "GET_CERTIFICATE" 3 3 (fun _ => 0x02 :: chainBytes offset (min length (Config.certificateLength - offset))) s

/-- CHALLENGE (R352): the device signs what was said, and the nonce, with its identity key. -/
def execChallenge (nonce : List Byte) (s : State) : Host.Outcome State Fault Refusal :=
  spdmStep "CHALLENGE" 3 3 (fun s => 0x03 :: leBytes 64 (Config.deviceSign (s.mgmt.spdm.flatten ++ nonce)).toNat) s

/-- The straps as bytes. -/
def strapBytes (t : Straps) : List Byte := leBytes 3 t.sockets.toNat ++ leBytes 3 t.ports.toNat ++ [if t.split then 1 else 0]

/-- Measurements 1 to 4 (R352): boot firmware, runtime image, topology record, straps. -/
def Mgmt.measurement (m : Mgmt) (i : Nat) : BitVec 512 :=
  match i with
  | 1 =>
    let k := m.level 1 0
    let image := m.images.getD k []
    if image.isEmpty then Config.imageDigest k else Config.sha512 image
  | 2 => Config.imageDigest (2 + m.level 6 0)
  | 3 => Config.sha512 (match m.topo with
    | some t => strapBytes t.straps ++ leBytes 1 t.compute.toNat ++ leBytes 1 t.memory.toNat
    | none => [])
  | _ => Config.sha512 (strapBytes m.straps)

/-- GET_MEASUREMENTS (R352): one measurement by its index, or, with another index, all four. -/
def execGetMeasurements (index : Nat) (s : State) : Host.Outcome State Fault Refusal :=
  let wanted := if 1 ≤ index && index ≤ 4 then [index] else [1, 2, 3, 4]
  spdmStep "GET_MEASUREMENTS" 3 3 (fun s => 0x60 :: wanted.flatMap fun i =>
    leBytes 1 i ++ leBytes 64 (s.mgmt.measurement i).toNat) s

/-- A link changed. -/
def State.onLink (s : State) (k : Nat) (f : Link → Link) : State := { s with links := tput {} s.links k (f (tget {} s.links k)) }

/-- A flit that fails its CRC is sent again (R343, R348): only time passes. -/
def execLinkCrcRetry (link : Nat) (s : State) : Host.Outcome State Fault Refusal :=
  .next ((s.onLink link fun l => { l with retries := l.retries + 1 }).countDie link 14 1)

/-- A link out of retries retrains (R343): at the same rate, then at half the rate. -/
def execLinkRetrain (link : Nat) (s : State) : Host.Outcome State Fault Refusal :=
  .next (s.onLink link fun l =>
    { l with
      retries := 0, retrains := l.retrains + 1, halfRate := l.halfRate || l.retrains != 0 })

/-- A Rhaut port fails (R348): its accesses end in DIE-OFFLINE from now on. -/
def execRhautPortFailure (port : Nat) (s : State) : Host.Outcome State Fault Refusal :=
  if 16 ≤ port then .refused (.notEnabled "RHAUT_PORT_FAILURE") else .next (s.onLink (rhautKey port) fun l => { l with down := true })

/-- A bent ended by the reset of its die (R353): its FAULT record, kind DIE-OFFLINE, whose physical address is a free
value, then its end. -/
def State.endOffline (s : State) (b : Bent) : State :=
  match s.bent b.uid with
  | none => s
  | some b =>
    if !b.alive then s else (s.free.2.reportEnd b 12 (bitsAt s.free.1 0 52) b.socket 0).closeBent b

/-- A compute die reset while the others run (R353), in two steps (log entry 16): it goes offline, its bents that are not
saved end, each with kind DIE-OFFLINE before any fault domain follows, and its fault entries are discarded; then it is
readmitted, its links retrained and its caches empty. -/
def execWarmReset (socket : Nat) (s : State) : Host.Outcome State Fault Refusal :=
  let d := s.die socket
  let bit : DWord := 1 <<< socket
  if s.mgmt.phase != .running || 8 ≤ socket then .refused (.notEnabled "WARM_RESET")
  else if d.offline then
    let cores := s.cores.map fun (k, c) => (k, if k / 60 == socket then { c with code := [] } else c)
    .next ({ s.setDie socket { d with offline := false, tlb := [], ptrs := [], roots := [] } with
      cores := cores, health := s.health ||| bit }.onLink socket fun l => { l with retries := 0, retrains := 0 })
  else if !s.computeOk socket then .refused (.notEnabled "WARM_RESET")
  else
    let s := { s.setDie socket { d with offline := true } with
      health := s.health &&& ~~~bit }
    let mine := (s.bents.map (·.2)).filter fun b => b.socket == socket && b.st != .saved && b.alive
    let views := mine.map fun b => (b, s.viewOf b)
    let s := mine.foldl State.endOffline s
    let s := views.foldl (fun s v => s.endDomain v.1.uid v.1.reportGid v.2) s
    let drop (s : State) (e : FaultEntry) : State :=
      match e.seq with
      | some q => s.closeFault socket q e
      | none => s
    let s := (s.die socket).entries.foldl drop s
    .next ((s.setDie socket { s.die socket with held := [] }).syncHeld socket)

end Sys2Proof.Machine
end

