-- ==== Sys2Proof/Machine/Flt.lean ====
section
/-! DEFINITION. The lane float instructions (R149 to R152, Tables 59 and 60). -/
namespace Sys2Proof.Machine
open Sys2Proof

/-- FADD (R150). -/
def faddOp (o : Op) (s : State) : Host.Outcome State Fault Refusal :=
  compute .fadd true (fun _ => []) (fun _ _ v => arith32 0 o.mod v) o s

/-- FADD, base form. -/
def execFadd (o : Op) (s : State) : Host.Outcome State Fault Refusal := faddOp o s

/-- FADD, extended and literal forms. -/
def execFaddExt (o : Op) (s : State) : Host.Outcome State Fault Refusal := faddOp o s

/-- FSUB (R150). -/
def fsubOp (o : Op) (s : State) : Host.Outcome State Fault Refusal :=
  compute .fsub true (fun _ => []) (fun _ _ v => arith32 1 o.mod v) o s

/-- FSUB, base form. -/
def execFsub (o : Op) (s : State) : Host.Outcome State Fault Refusal := fsubOp o s

/-- FSUB, extended and literal forms. -/
def execFsubExt (o : Op) (s : State) : Host.Outcome State Fault Refusal := fsubOp o s

/-- FMUL (R150). -/
def fmulOp (o : Op) (s : State) : Host.Outcome State Fault Refusal :=
  compute .fmul true (fun _ => []) (fun _ _ v => arith32 2 o.mod v) o s

/-- FMUL, base form. -/
def execFmul (o : Op) (s : State) : Host.Outcome State Fault Refusal := fmulOp o s

/-- FMUL, extended and literal forms. -/
def execFmulExt (o : Op) (s : State) : Host.Outcome State Fault Refusal := fmulOp o s

/-- FFMA: one rounding of x × y + z (R150). -/
def execFfma (o : Op) (s : State) : Host.Outcome State Fault Refusal :=
  compute .ffma true (fun _ => []) (fun _ _ v => arith32 4 o.mod v) o s

/-- FMIN (R88, R150). -/
def fminOp (o : Op) (s : State) : Host.Outcome State Fault Refusal :=
  compute .fmin true (fun _ => []) (fun _ _ v => floatMinMax false o.mod v) o s

/-- FMIN, base form. -/
def execFmin (o : Op) (s : State) : Host.Outcome State Fault Refusal := fminOp o s

/-- FMIN, extended and literal forms. -/
def execFminExt (o : Op) (s : State) : Host.Outcome State Fault Refusal := fminOp o s

/-- FMAX (R88, R150). -/
def fmaxOp (o : Op) (s : State) : Host.Outcome State Fault Refusal :=
  compute .fmax true (fun _ => []) (fun _ _ v => floatMinMax true o.mod v) o s

/-- FMAX, base form. -/
def execFmax (o : Op) (s : State) : Host.Outcome State Fault Refusal := fmaxOp o s

/-- FMAX, extended and literal forms. -/
def execFmaxExt (o : Op) (s : State) : Host.Outcome State Fault Refusal := fmaxOp o s

/-- FDIV (R150). -/
def fdivOp (o : Op) (s : State) : Host.Outcome State Fault Refusal :=
  compute .fdiv true (fun _ => []) (fun _ _ v => arith32 3 o.mod v) o s

/-- FDIV, base form. -/
def execFdiv (o : Op) (s : State) : Host.Outcome State Fault Refusal := fdivOp o s

/-- FDIV, extended and literal forms. -/
def execFdivExt (o : Op) (s : State) : Host.Outcome State Fault Refusal := fdivOp o s

/-- FSQRT: √x (R151, Table 60). -/
def fsqrtOp (o : Op) (s : State) : Host.Outcome State Fault Refusal :=
  compute .fsqrt true (fun _ => []) (fun _ _ v => unary32 0 o.mod v) o s

/-- FSQRT, base form. -/
def execFsqrt (o : Op) (s : State) : Host.Outcome State Fault Refusal := fsqrtOp o s

/-- FSQRT, extended and literal forms. -/
def execFsqrtExt (o : Op) (s : State) : Host.Outcome State Fault Refusal := fsqrtOp o s

/-- FRCP: 1 / x (R151, Table 60). -/
def frcpOp (o : Op) (s : State) : Host.Outcome State Fault Refusal :=
  compute .frcp true (fun _ => []) (fun _ _ v => unary32 1 o.mod v) o s

/-- FRCP, base form. -/
def execFrcp (o : Op) (s : State) : Host.Outcome State Fault Refusal := frcpOp o s

/-- FRCP, extended and literal forms. -/
def execFrcpExt (o : Op) (s : State) : Host.Outcome State Fault Refusal := frcpOp o s

/-- FRSQ: 1 / √x (R151, Table 60). -/
def frsqOp (o : Op) (s : State) : Host.Outcome State Fault Refusal :=
  compute .frsq true (fun _ => []) (fun _ _ v => unary32 2 o.mod v) o s

/-- FRSQ, base form. -/
def execFrsq (o : Op) (s : State) : Host.Outcome State Fault Refusal := frsqOp o s

/-- FRSQ, extended and literal forms. -/
def execFrsqExt (o : Op) (s : State) : Host.Outcome State Fault Refusal := frsqOp o s

/-- FEXP2: 2^x (R151, Table 60). -/
def fexp2Op (o : Op) (s : State) : Host.Outcome State Fault Refusal :=
  compute .fexp2 true (fun _ => []) (fun _ _ v => unary32 3 o.mod v) o s

/-- FEXP2, base form. -/
def execFexp2 (o : Op) (s : State) : Host.Outcome State Fault Refusal := fexp2Op o s

/-- FEXP2, extended and literal forms. -/
def execFexp2Ext (o : Op) (s : State) : Host.Outcome State Fault Refusal := fexp2Op o s

/-- FLOG2: log2 x (R151, Table 60). -/
def flog2Op (o : Op) (s : State) : Host.Outcome State Fault Refusal :=
  compute .flog2 true (fun _ => []) (fun _ _ v => unary32 4 o.mod v) o s

/-- FLOG2, base form. -/
def execFlog2 (o : Op) (s : State) : Host.Outcome State Fault Refusal := flog2Op o s

/-- FLOG2, extended and literal forms. -/
def execFlog2Ext (o : Op) (s : State) : Host.Outcome State Fault Refusal := flog2Op o s

/-- FSIN: sin(π x) (R151, Table 60). -/
def fsinOp (o : Op) (s : State) : Host.Outcome State Fault Refusal :=
  compute .fsin true (fun _ => []) (fun _ _ v => unary32 5 o.mod v) o s

/-- FSIN, base form. -/
def execFsin (o : Op) (s : State) : Host.Outcome State Fault Refusal := fsinOp o s

/-- FSIN, extended and literal forms. -/
def execFsinExt (o : Op) (s : State) : Host.Outcome State Fault Refusal := fsinOp o s

/-- FCOS: cos(π x) (R151, Table 60). -/
def fcosOp (o : Op) (s : State) : Host.Outcome State Fault Refusal :=
  compute .fcos true (fun _ => []) (fun _ _ v => unary32 6 o.mod v) o s

/-- FCOS, base form. -/
def execFcos (o : Op) (s : State) : Host.Outcome State Fault Refusal := fcosOp o s

/-- FCOS, extended and literal forms. -/
def execFcosExt (o : Op) (s : State) : Host.Outcome State Fault Refusal := fcosOp o s

/-- FSET (R152). -/
def execFset (o : Op) (s : State) : Host.Outcome State Fault Refusal :=
  compute .fset true (fun _ => []) (fun _ _ v => floatSet false o.mod v) o s

/-- FCLASS: one set bit, the class of the operand (R152). -/
def execFclass (o : Op) (s : State) : Host.Outcome State Fault Refusal :=
  compute .fclass true (fun _ => []) (fun _ _ v =>
    (BitVec.ofNat 64 (fclassV (if o.mod.getLsbD 0 then fmt64 else fmt32) v.a.toNat), 0)) o s

/-- DADD (R150). -/
def execDadd (o : Op) (s : State) : Host.Outcome State Fault Refusal :=
  compute .dadd true (fun _ => []) (fun _ _ v => arith64 0 o.mod v) o s

/-- DMUL (R150). -/
def execDmul (o : Op) (s : State) : Host.Outcome State Fault Refusal :=
  compute .dmul true (fun _ => []) (fun _ _ v => arith64 2 o.mod v) o s

/-- DFMA (R150). -/
def execDfma (o : Op) (s : State) : Host.Outcome State Fault Refusal :=
  compute .dfma true (fun _ => []) (fun _ _ v => arith64 4 o.mod v) o s

/-- DDIV (R150). -/
def execDdiv (o : Op) (s : State) : Host.Outcome State Fault Refusal :=
  compute .ddiv true (fun _ => []) (fun _ _ v => arith64 3 o.mod v) o s

/-- DSET (R152). -/
def execDset (o : Op) (s : State) : Host.Outcome State Fault Refusal :=
  compute .dset true (fun _ => []) (fun _ _ v => floatSet true o.mod v) o s

/-- HADD2: two F16 sums (R150). -/
def execHadd2 (o : Op) (s : State) : Host.Outcome State Fault Refusal :=
  compute .hadd2 true (fun _ => []) (fun _ _ v => arith16 0 o.mod v) o s

/-- HMUL2: two F16 products (R150). -/
def execHmul2 (o : Op) (s : State) : Host.Outcome State Fault Refusal :=
  compute .hmul2 true (fun _ => []) (fun _ _ v => arith16 2 o.mod v) o s

/-- HFMA2: two F16 fused multiply-adds (R150). -/
def execHfma2 (o : Op) (s : State) : Host.Outcome State Fault Refusal :=
  compute .hfma2 true (fun _ => []) (fun _ _ v => arith16 4 o.mod v) o s

end Sys2Proof.Machine
end

