-- ==== Sys2Proof/Machine/Int.lean ====
section
/-! DEFINITION. The integer, logic and move instructions (R144 to R148, Tables 56 to 58). -/
namespace Sys2Proof.Machine
open Sys2Proof

/-- A word result without status. -/
def wordOut (w : Word) : DWord × Flags := (zext32 w, 0)
/-- A word result with its status. -/
def statusOut (r : Word × Flags) : DWord × Flags := (zext32 r.1, r.2)
/-- A predicate result. -/
def boolOut (b : Bool) : DWord × Flags := (if b then 1 else 0, 0)

/-- MOV's own cause 11: to an A register, the source is an A register or an even K register (R146). -/
def movRefusals (o : Op) : List Nat :=
  match o.d, o.a with
  | .a _, .k i => if i.toNat % 2 == 1 then [11] else []
  | .a _, .a _ => []
  | .a _, _ => [11]
  | _, _ => []

/-- MOV's value: an A destination takes a K pair whole (R146). -/
def movValue (c : Ctx) (o : Op) (v : Vals) : DWord :=
  match o.d, o.a with
  | .a _, .k i => pairOf (c.g.kAt i.toNat) (c.g.kAt (i.toNat + 1))
  | _, _ => v.a

/-- PLOP's value: in base form the mode stands for its table (R147). -/
def plopValue (o : Op) (v : Vals) : Bool :=
  let table := match o.form with
    | .base => plopTable (bitsAt o.mod 0 3)
    | _ => o.ownBits.toNat
  let i := (if v.a = 0 then 0 else 4) + (if v.b = 0 then 0 else 2) + (if v.c = 0 then 0 else 1)
  table.testBit i

/-- A special value (Tables 20 and 58). -/
def special (c : Ctx) (l code : Nat) : DWord :=
  let nat (n : Nat) : DWord := BitVec.ofNat 64 n
  let clock := nat (c.s0.clock c.socket)
  match code with
  | 0 => nat l
  | 1 => nat c.r.weave
  | 2 => nat c.g.number
  | 3 => nat (((c.s0.bent c.bent).map (·.number)).getD 0)
  | 4 => nat c.g.role
  | 5 => nat c.g.gid
  | 6 => nat c.f.id
  | 7 => zext32 (lowWord c.f.lanes)
  | 8 => zext32 (highWord c.f.lanes)
  | 9 => nat c.socket
  | 10 => nat (c.s0.bayOf c.r.gid % 12)
  | 11 => nat c.g.core
  | 12 => clock
  | _ => zext32 (highWord clock)

/-- IADD: a + b, saturated with SAT (R145). -/
def iaddOp (o : Op) (s : State) : Host.Outcome State Fault Refusal :=
  compute .iadd false (fun _ => []) (fun _ _ v => statusOut (addWord false (o.mod.getLsbD 0) (o.mod.getLsbD 1) (lowWord v.a) (lowWord v.b))) o s

/-- IADD, base form. -/
def execIadd (o : Op) (s : State) : Host.Outcome State Fault Refusal := iaddOp o s

/-- IADD, extended and literal forms. -/
def execIaddExt (o : Op) (s : State) : Host.Outcome State Fault Refusal := iaddOp o s

/-- ISUB: a − b, saturated with SAT (R145). -/
def isubOp (o : Op) (s : State) : Host.Outcome State Fault Refusal :=
  compute .isub false (fun _ => []) (fun _ _ v => statusOut (addWord true (o.mod.getLsbD 0) (o.mod.getLsbD 1) (lowWord v.a) (lowWord v.b))) o s

/-- ISUB, base form. -/
def execIsub (o : Op) (s : State) : Host.Outcome State Fault Refusal := isubOp o s

/-- ISUB, extended and literal forms. -/
def execIsubExt (o : Op) (s : State) : Host.Outcome State Fault Refusal := isubOp o s

/-- IMUL: the low word of a × b (R145). -/
def imulOp (o : Op) (s : State) : Host.Outcome State Fault Refusal :=
  compute .imul false (fun _ => []) (fun _ _ v => wordOut (lowWord v.a * lowWord v.b)) o s

/-- IMUL, base form. -/
def execImul (o : Op) (s : State) : Host.Outcome State Fault Refusal := imulOp o s

/-- IMUL, extended and literal forms. -/
def execImulExt (o : Op) (s : State) : Host.Outcome State Fault Refusal := imulOp o s

/-- IMAD: the low word of a × b + c (R145). -/
def execImad (o : Op) (s : State) : Host.Outcome State Fault Refusal :=
  compute .imad false (fun _ => []) (fun _ _ v => wordOut (lowWord v.a * lowWord v.b + lowWord v.c)) o s

/-- IMULH: bits [63:32] of e(a) × e(b) (R145). -/
def imulhOp (o : Op) (s : State) : Host.Outcome State Fault Refusal :=
  compute .imulh false (fun _ => []) (fun _ _ v => wordOut (mulHigh (o.mod.getLsbD 0) (lowWord v.a) (lowWord v.b))) o s

/-- IMULH, base form. -/
def execImulh (o : Op) (s : State) : Host.Outcome State Fault Refusal := imulhOp o s

/-- IMULH, extended and literal forms. -/
def execImulhExt (o : Op) (s : State) : Host.Outcome State Fault Refusal := imulhOp o s

/-- IDIV (R145). -/
def idivOp (o : Op) (s : State) : Host.Outcome State Fault Refusal :=
  compute .idiv false (fun _ => []) (fun _ _ v => statusOut (divWord (o.mod.getLsbD 0) (lowWord v.a) (lowWord v.b))) o s

/-- IDIV, base form. -/
def execIdiv (o : Op) (s : State) : Host.Outcome State Fault Refusal := idivOp o s

/-- IDIV, extended and literal forms. -/
def execIdivExt (o : Op) (s : State) : Host.Outcome State Fault Refusal := idivOp o s

/-- IREM (R145). -/
def iremOp (o : Op) (s : State) : Host.Outcome State Fault Refusal :=
  compute .irem false (fun _ => []) (fun _ _ v => statusOut (remWord (o.mod.getLsbD 0) (lowWord v.a) (lowWord v.b))) o s

/-- IREM, base form. -/
def execIrem (o : Op) (s : State) : Host.Outcome State Fault Refusal := iremOp o s

/-- IREM, extended and literal forms. -/
def execIremExt (o : Op) (s : State) : Host.Outcome State Fault Refusal := iremOp o s

/-- IMIN (R145). -/
def iminOp (o : Op) (s : State) : Host.Outcome State Fault Refusal :=
  compute .imin false (fun _ => []) (fun _ _ v => wordOut (minMax false (o.mod.getLsbD 0) (lowWord v.a) (lowWord v.b))) o s

/-- IMIN, base form. -/
def execImin (o : Op) (s : State) : Host.Outcome State Fault Refusal := iminOp o s

/-- IMIN, extended and literal forms. -/
def execIminExt (o : Op) (s : State) : Host.Outcome State Fault Refusal := iminOp o s

/-- IMAX (R145). -/
def imaxOp (o : Op) (s : State) : Host.Outcome State Fault Refusal :=
  compute .imax false (fun _ => []) (fun _ _ v => wordOut (minMax true (o.mod.getLsbD 0) (lowWord v.a) (lowWord v.b))) o s

/-- IMAX, base form. -/
def execImax (o : Op) (s : State) : Host.Outcome State Fault Refusal := imaxOp o s

/-- IMAX, extended and literal forms. -/
def execImaxExt (o : Op) (s : State) : Host.Outcome State Fault Refusal := imaxOp o s

/-- IABS (R145). -/
def iabsOp (o : Op) (s : State) : Host.Outcome State Fault Refusal :=
  compute .iabs false (fun _ => []) (fun _ _ v => statusOut (absWord (o.mod.getLsbD 1) (lowWord v.a))) o s

/-- IABS, base form. -/
def execIabs (o : Op) (s : State) : Host.Outcome State Fault Refusal := iabsOp o s

/-- IABS, extended and literal forms. -/
def execIabsExt (o : Op) (s : State) : Host.Outcome State Fault Refusal := iabsOp o s

/-- AND (R145). -/
def andOp (o : Op) (s : State) : Host.Outcome State Fault Refusal :=
  compute .and false (fun _ => []) (fun _ _ v => wordOut (lowWord v.a &&& lowWord v.b)) o s

/-- AND, base form. -/
def execAnd (o : Op) (s : State) : Host.Outcome State Fault Refusal := andOp o s

/-- AND, extended and literal forms. -/
def execAndExt (o : Op) (s : State) : Host.Outcome State Fault Refusal := andOp o s

/-- OR (R145). -/
def orOp (o : Op) (s : State) : Host.Outcome State Fault Refusal :=
  compute .or false (fun _ => []) (fun _ _ v => wordOut (lowWord v.a ||| lowWord v.b)) o s

/-- OR, base form. -/
def execOr (o : Op) (s : State) : Host.Outcome State Fault Refusal := orOp o s

/-- OR, extended and literal forms. -/
def execOrExt (o : Op) (s : State) : Host.Outcome State Fault Refusal := orOp o s

/-- XOR (R145). -/
def xorOp (o : Op) (s : State) : Host.Outcome State Fault Refusal :=
  compute .xor false (fun _ => []) (fun _ _ v => wordOut (lowWord v.a ^^^ lowWord v.b)) o s

/-- XOR, base form. -/
def execXor (o : Op) (s : State) : Host.Outcome State Fault Refusal := xorOp o s

/-- XOR, extended and literal forms. -/
def execXorExt (o : Op) (s : State) : Host.Outcome State Fault Refusal := xorOp o s

/-- ANDN: a AND NOT b (R145). -/
def andnOp (o : Op) (s : State) : Host.Outcome State Fault Refusal :=
  compute .andn false (fun _ => []) (fun _ _ v => wordOut (lowWord v.a &&& ~~~lowWord v.b)) o s

/-- ANDN, base form. -/
def execAndn (o : Op) (s : State) : Host.Outcome State Fault Refusal := andnOp o s

/-- ANDN, extended and literal forms. -/
def execAndnExt (o : Op) (s : State) : Host.Outcome State Fault Refusal := andnOp o s

/-- SHL: shift by u(b), 0 from 32 on (R145). -/
def shlOp (o : Op) (s : State) : Host.Outcome State Fault Refusal :=
  compute .shl false (fun _ => []) (fun _ _ v => wordOut (shiftWord 0 (lowWord v.a) (lowWord v.b))) o s

/-- SHL, base form. -/
def execShl (o : Op) (s : State) : Host.Outcome State Fault Refusal := shlOp o s

/-- SHL, extended and literal forms. -/
def execShlExt (o : Op) (s : State) : Host.Outcome State Fault Refusal := shlOp o s

/-- SHR (R145). -/
def shrOp (o : Op) (s : State) : Host.Outcome State Fault Refusal :=
  compute .shr false (fun _ => []) (fun _ _ v => wordOut (shiftWord 1 (lowWord v.a) (lowWord v.b))) o s

/-- SHR, base form. -/
def execShr (o : Op) (s : State) : Host.Outcome State Fault Refusal := shrOp o s

/-- SHR, extended and literal forms. -/
def execShrExt (o : Op) (s : State) : Host.Outcome State Fault Refusal := shrOp o s

/-- SAR: all sign from 32 on (R145). -/
def sarOp (o : Op) (s : State) : Host.Outcome State Fault Refusal :=
  compute .sar false (fun _ => []) (fun _ _ v => wordOut (shiftWord 2 (lowWord v.a) (lowWord v.b))) o s

/-- SAR, base form. -/
def execSar (o : Op) (s : State) : Host.Outcome State Fault Refusal := sarOp o s

/-- SAR, extended and literal forms. -/
def execSarExt (o : Op) (s : State) : Host.Outcome State Fault Refusal := sarOp o s

/-- ROL: rotate left by u(b) mod 32 (R145). -/
def rolOp (o : Op) (s : State) : Host.Outcome State Fault Refusal :=
  compute .rol false (fun _ => []) (fun _ _ v => wordOut ((lowWord v.a).rotateLeft ((lowWord v.b).toNat % 32))) o s

/-- ROL, base form. -/
def execRol (o : Op) (s : State) : Host.Outcome State Fault Refusal := rolOp o s

/-- ROL, extended and literal forms. -/
def execRolExt (o : Op) (s : State) : Host.Outcome State Fault Refusal := rolOp o s

/-- POPC: count of ones (R145). -/
def popcOp (o : Op) (s : State) : Host.Outcome State Fault Refusal :=
  compute .popc false (fun _ => []) (fun _ _ v => wordOut (BitVec.ofNat 32 (popCount (lowWord v.a)))) o s

/-- POPC, base form. -/
def execPopc (o : Op) (s : State) : Host.Outcome State Fault Refusal := popcOp o s

/-- POPC, extended and literal forms. -/
def execPopcExt (o : Op) (s : State) : Host.Outcome State Fault Refusal := popcOp o s

/-- CLZ: leading zeros, 32 for 0 (R145). -/
def clzOp (o : Op) (s : State) : Host.Outcome State Fault Refusal :=
  compute .clz false (fun _ => []) (fun _ _ v => wordOut (BitVec.ofNat 32 (leadingZeros (lowWord v.a)))) o s

/-- CLZ, base form. -/
def execClz (o : Op) (s : State) : Host.Outcome State Fault Refusal := clzOp o s

/-- CLZ, extended and literal forms. -/
def execClzExt (o : Op) (s : State) : Host.Outcome State Fault Refusal := clzOp o s

/-- BREV: bit reversal (R145). -/
def brevOp (o : Op) (s : State) : Host.Outcome State Fault Refusal :=
  compute .brev false (fun _ => []) (fun _ _ v => wordOut (reverseBits (lowWord v.a))) o s

/-- BREV, base form. -/
def execBrev (o : Op) (s : State) : Host.Outcome State Fault Refusal := brevOp o s

/-- BREV, extended and literal forms. -/
def execBrevExt (o : Op) (s : State) : Host.Outcome State Fault Refusal := brevOp o s

/-- BFX (R145). -/
def bfxOp (o : Op) (s : State) : Host.Outcome State Fault Refusal :=
  compute .bfx false (fun _ => []) (fun _ _ v => wordOut (extractField (o.mod.getLsbD 0) (lowWord v.a) (lowWord v.b))) o s

/-- BFX, base form. -/
def execBfx (o : Op) (s : State) : Host.Outcome State Fault Refusal := bfxOp o s

/-- BFX, extended and literal forms. -/
def execBfxExt (o : Op) (s : State) : Host.Outcome State Fault Refusal := bfxOp o s

/-- BFI (R145). -/
def execBfi (o : Op) (s : State) : Host.Outcome State Fault Refusal :=
  compute .bfi false (fun _ => []) (fun _ _ v => wordOut (insertField (lowWord v.a) (lowWord v.b) (lowWord v.c))) o s

/-- ISET: Pd := e(a) cond e(b) (R145). -/
def isetOp (o : Op) (s : State) : Host.Outcome State Fault Refusal :=
  compute .iset false (fun _ => []) (fun _ _ v =>
    boolOut (compareInt (bitsAt o.mod 5 3) (eval32 (o.mod.getLsbD 0) (lowWord v.a)) (eval32 (o.mod.getLsbD 0) (lowWord v.b)))) o s

/-- ISET, base form. -/
def execIset (o : Op) (s : State) : Host.Outcome State Fault Refusal := isetOp o s

/-- ISET, extended and literal forms. -/
def execIsetExt (o : Op) (s : State) : Host.Outcome State Fault Refusal := isetOp o s

/-- SEL: a where Pc is set, else b (R145). -/
def execSel (o : Op) (s : State) : Host.Outcome State Fault Refusal :=
  compute .sel false (fun _ => []) (fun _ _ v => (if v.c = 0 then v.b else v.a, 0)) o s

/-- MOV (R146). -/
def movOp (o : Op) (s : State) : Host.Outcome State Fault Refusal :=
  compute .mov false (fun _ => movRefusals o) (fun c _ v => (movValue c o v, 0)) o s

/-- MOV, base form. -/
def execMov (o : Op) (s : State) : Host.Outcome State Fault Refusal := movOp o s

/-- MOV, extended and literal forms. -/
def execMovExt (o : Op) (s : State) : Host.Outcome State Fault Refusal := movOp o s

/-- MOVI: bits [31:0] of the immediate, or all of it to an A register (R146). -/
def moviOp (o : Op) (s : State) : Host.Outcome State Fault Refusal :=
  compute .movi false (fun _ => []) (fun _ _ _ => (o.immVal, 0)) o s

/-- MOVI, base form. -/
def execMovi (o : Op) (s : State) : Host.Outcome State Fault Refusal := moviOp o s

/-- MOVI, extended and literal forms. -/
def execMoviExt (o : Op) (s : State) : Host.Outcome State Fault Refusal := moviOp o s

/-- LEA: A[a] + sext(b) × s + sext(offset) (R145, R146). -/
def execLea (o : Op) (s : State) : Host.Outcome State Fault Refusal :=
  compute .lea false (fun _ => []) (fun _ _ v =>
    (v.a + sext32 (lowWord v.b) * BitVec.ofNat 64 (2 ^ bitsAt o.mod 0 3) + o.own, 0)) o s

/-- PLOP: the entry of the table at 4a + 2b + c (R147). -/
def plopOp (o : Op) (s : State) : Host.Outcome State Fault Refusal :=
  compute .plop false (fun _ => []) (fun _ _ v => boolOut (plopValue o v)) o s

/-- PLOP, base form. -/
def execPlop (o : Op) (s : State) : Host.Outcome State Fault Refusal := plopOp o s

/-- PLOP, extended and literal forms. -/
def execPlopExt (o : Op) (s : State) : Host.Outcome State Fault Refusal := plopOp o s

/-- MFS: a special value (R44, R146). -/
def mfsOp (o : Op) (s : State) : Host.Outcome State Fault Refusal :=
  compute .mfs false (fun _ => []) (fun c l _ => (special c l o.immVal.toNat, 0)) o s

/-- MFS, base form. -/
def execMfs (o : Op) (s : State) : Host.Outcome State Fault Refusal := mfsOp o s

/-- MFS, extended and literal forms. -/
def execMfsExt (o : Op) (s : State) : Host.Outcome State Fault Refusal := mfsOp o s

/-- IADDW: pair(a) + e(b) (R145, R148). -/
def iaddwOp (o : Op) (s : State) : Host.Outcome State Fault Refusal :=
  compute .iaddw false (fun _ => []) (fun _ _ v =>
    (v.a + BitVec.ofInt 64 (eval32 (o.mod.getLsbD 0) (lowWord v.b)), 0)) o s

/-- IADDW, base form. -/
def execIaddw (o : Op) (s : State) : Host.Outcome State Fault Refusal := iaddwOp o s

/-- IADDW, extended and literal forms. -/
def execIaddwExt (o : Op) (s : State) : Host.Outcome State Fault Refusal := iaddwOp o s

/-- IMADW: e(a) × e(b) + pair(c) (R145, R148). -/
def execImadw (o : Op) (s : State) : Host.Outcome State Fault Refusal :=
  compute .imadw false (fun _ => []) (fun _ _ v =>
    (BitVec.ofInt 64 (eval32 (o.mod.getLsbD 0) (lowWord v.a) * eval32 (o.mod.getLsbD 0) (lowWord v.b)) + v.c, 0)) o s

end Sys2Proof.Machine
end

