-- ==== Sys2Proof/Machine/Dispatch.lean ====
section
/-! DEFINITION. One arm per row of the table, each a call of that row's meaning. -/
namespace Sys2Proof.Machine
open Sys2Proof

/-- The effect of one instruction or event in a state. -/
def exec (i : Instr) (s : State) : Host.Outcome State Fault Refusal :=
  match i with
  | .nop o => Sys2Proof.Machine.execNop o s
  | .nopExt o => Sys2Proof.Machine.execNopExt o s
  | .bra o => Sys2Proof.Machine.execBra o s
  | .braExt o => Sys2Proof.Machine.execBraExt o s
  | .call o => Sys2Proof.Machine.execCall o s
  | .callExt o => Sys2Proof.Machine.execCallExt o s
  | .ret o => Sys2Proof.Machine.execRet o s
  | .retExt o => Sys2Proof.Machine.execRetExt o s
  | .quit o => Sys2Proof.Machine.execQuit o s
  | .quitExt o => Sys2Proof.Machine.execQuitExt o s
  | .exit o => Sys2Proof.Machine.execExit o s
  | .exitExt o => Sys2Proof.Machine.execExitExt o s
  | .bar o => Sys2Proof.Machine.execBar o s
  | .barExt o => Sys2Proof.Machine.execBarExt o s
  | .yield o => Sys2Proof.Machine.execYield o s
  | .yieldExt o => Sys2Proof.Machine.execYieldExt o s
  | .iadd o => Sys2Proof.Machine.execIadd o s
  | .iaddExt o => Sys2Proof.Machine.execIaddExt o s
  | .isub o => Sys2Proof.Machine.execIsub o s
  | .isubExt o => Sys2Proof.Machine.execIsubExt o s
  | .imul o => Sys2Proof.Machine.execImul o s
  | .imulExt o => Sys2Proof.Machine.execImulExt o s
  | .imulh o => Sys2Proof.Machine.execImulh o s
  | .imulhExt o => Sys2Proof.Machine.execImulhExt o s
  | .idiv o => Sys2Proof.Machine.execIdiv o s
  | .idivExt o => Sys2Proof.Machine.execIdivExt o s
  | .irem o => Sys2Proof.Machine.execIrem o s
  | .iremExt o => Sys2Proof.Machine.execIremExt o s
  | .imin o => Sys2Proof.Machine.execImin o s
  | .iminExt o => Sys2Proof.Machine.execIminExt o s
  | .imax o => Sys2Proof.Machine.execImax o s
  | .imaxExt o => Sys2Proof.Machine.execImaxExt o s
  | .iabs o => Sys2Proof.Machine.execIabs o s
  | .iabsExt o => Sys2Proof.Machine.execIabsExt o s
  | .and o => Sys2Proof.Machine.execAnd o s
  | .andExt o => Sys2Proof.Machine.execAndExt o s
  | .or o => Sys2Proof.Machine.execOr o s
  | .orExt o => Sys2Proof.Machine.execOrExt o s
  | .xor o => Sys2Proof.Machine.execXor o s
  | .xorExt o => Sys2Proof.Machine.execXorExt o s
  | .andn o => Sys2Proof.Machine.execAndn o s
  | .andnExt o => Sys2Proof.Machine.execAndnExt o s
  | .shl o => Sys2Proof.Machine.execShl o s
  | .shlExt o => Sys2Proof.Machine.execShlExt o s
  | .shr o => Sys2Proof.Machine.execShr o s
  | .shrExt o => Sys2Proof.Machine.execShrExt o s
  | .sar o => Sys2Proof.Machine.execSar o s
  | .sarExt o => Sys2Proof.Machine.execSarExt o s
  | .rol o => Sys2Proof.Machine.execRol o s
  | .rolExt o => Sys2Proof.Machine.execRolExt o s
  | .popc o => Sys2Proof.Machine.execPopc o s
  | .popcExt o => Sys2Proof.Machine.execPopcExt o s
  | .clz o => Sys2Proof.Machine.execClz o s
  | .clzExt o => Sys2Proof.Machine.execClzExt o s
  | .brev o => Sys2Proof.Machine.execBrev o s
  | .brevExt o => Sys2Proof.Machine.execBrevExt o s
  | .bfx o => Sys2Proof.Machine.execBfx o s
  | .bfxExt o => Sys2Proof.Machine.execBfxExt o s
  | .iset o => Sys2Proof.Machine.execIset o s
  | .isetExt o => Sys2Proof.Machine.execIsetExt o s
  | .mov o => Sys2Proof.Machine.execMov o s
  | .movExt o => Sys2Proof.Machine.execMovExt o s
  | .movi o => Sys2Proof.Machine.execMovi o s
  | .moviExt o => Sys2Proof.Machine.execMoviExt o s
  | .plop o => Sys2Proof.Machine.execPlop o s
  | .plopExt o => Sys2Proof.Machine.execPlopExt o s
  | .mfs o => Sys2Proof.Machine.execMfs o s
  | .mfsExt o => Sys2Proof.Machine.execMfsExt o s
  | .iaddw o => Sys2Proof.Machine.execIaddw o s
  | .iaddwExt o => Sys2Proof.Machine.execIaddwExt o s
  | .fadd o => Sys2Proof.Machine.execFadd o s
  | .faddExt o => Sys2Proof.Machine.execFaddExt o s
  | .fsub o => Sys2Proof.Machine.execFsub o s
  | .fsubExt o => Sys2Proof.Machine.execFsubExt o s
  | .fmul o => Sys2Proof.Machine.execFmul o s
  | .fmulExt o => Sys2Proof.Machine.execFmulExt o s
  | .fmin o => Sys2Proof.Machine.execFmin o s
  | .fminExt o => Sys2Proof.Machine.execFminExt o s
  | .fmax o => Sys2Proof.Machine.execFmax o s
  | .fmaxExt o => Sys2Proof.Machine.execFmaxExt o s
  | .fdiv o => Sys2Proof.Machine.execFdiv o s
  | .fdivExt o => Sys2Proof.Machine.execFdivExt o s
  | .fsqrt o => Sys2Proof.Machine.execFsqrt o s
  | .fsqrtExt o => Sys2Proof.Machine.execFsqrtExt o s
  | .frcp o => Sys2Proof.Machine.execFrcp o s
  | .frcpExt o => Sys2Proof.Machine.execFrcpExt o s
  | .frsq o => Sys2Proof.Machine.execFrsq o s
  | .frsqExt o => Sys2Proof.Machine.execFrsqExt o s
  | .fexp2 o => Sys2Proof.Machine.execFexp2 o s
  | .fexp2Ext o => Sys2Proof.Machine.execFexp2Ext o s
  | .flog2 o => Sys2Proof.Machine.execFlog2 o s
  | .flog2Ext o => Sys2Proof.Machine.execFlog2Ext o s
  | .fsin o => Sys2Proof.Machine.execFsin o s
  | .fsinExt o => Sys2Proof.Machine.execFsinExt o s
  | .fcos o => Sys2Proof.Machine.execFcos o s
  | .fcosExt o => Sys2Proof.Machine.execFcosExt o s
  | .xmov o => Sys2Proof.Machine.execXmov o s
  | .xmovExt o => Sys2Proof.Machine.execXmovExt o s
  | .xadd o => Sys2Proof.Machine.execXadd o s
  | .xaddExt o => Sys2Proof.Machine.execXaddExt o s
  | .xsub o => Sys2Proof.Machine.execXsub o s
  | .xsubExt o => Sys2Proof.Machine.execXsubExt o s
  | .xmul o => Sys2Proof.Machine.execXmul o s
  | .xmulExt o => Sys2Proof.Machine.execXmulExt o s
  | .ld o => Sys2Proof.Machine.execLd o s
  | .ldExt o => Sys2Proof.Machine.execLdExt o s
  | .st o => Sys2Proof.Machine.execSt o s
  | .stExt o => Sys2Proof.Machine.execStExt o s
  | .brx o => Sys2Proof.Machine.execBrx o s
  | .calli o => Sys2Proof.Machine.execCalli o s
  | .fork o => Sys2Proof.Machine.execFork o s
  | .barb o => Sys2Proof.Machine.execBarb o s
  | .span o => Sys2Proof.Machine.execSpan o s
  | .loop o => Sys2Proof.Machine.execLoop o s
  | .vote o => Sys2Proof.Machine.execVote o s
  | .shfl o => Sys2Proof.Machine.execShfl o s
  | .imad o => Sys2Proof.Machine.execImad o s
  | .bfi o => Sys2Proof.Machine.execBfi o s
  | .sel o => Sys2Proof.Machine.execSel o s
  | .lea o => Sys2Proof.Machine.execLea o s
  | .imadw o => Sys2Proof.Machine.execImadw o s
  | .ffma o => Sys2Proof.Machine.execFfma o s
  | .fset o => Sys2Proof.Machine.execFset o s
  | .fclass o => Sys2Proof.Machine.execFclass o s
  | .dadd o => Sys2Proof.Machine.execDadd o s
  | .dmul o => Sys2Proof.Machine.execDmul o s
  | .dfma o => Sys2Proof.Machine.execDfma o s
  | .ddiv o => Sys2Proof.Machine.execDdiv o s
  | .dset o => Sys2Proof.Machine.execDset o s
  | .hadd2 o => Sys2Proof.Machine.execHadd2 o s
  | .hmul2 o => Sys2Proof.Machine.execHmul2 o s
  | .hfma2 o => Sys2Proof.Machine.execHfma2 o s
  | .xdiv o => Sys2Proof.Machine.execXdiv o s
  | .xsqrt o => Sys2Proof.Machine.execXsqrt o s
  | .xmin o => Sys2Proof.Machine.execXmin o s
  | .xmax o => Sys2Proof.Machine.execXmax o s
  | .xsgn o => Sys2Proof.Machine.execXsgn o s
  | .xcmp o => Sys2Proof.Machine.execXcmp o s
  | .xbnd o => Sys2Proof.Machine.execXbnd o s
  | .sever o => Sys2Proof.Machine.execSever o s
  | .snap o => Sys2Proof.Machine.execSnap o s
  | .xref o => Sys2Proof.Machine.execXref o s
  | .cvt o => Sys2Proof.Machine.execCvt o s
  | .cvtf o => Sys2Proof.Machine.execCvtf o s
  | .ldx o => Sys2Proof.Machine.execLdx o s
  | .ldv o => Sys2Proof.Machine.execLdv o s
  | .stv o => Sys2Proof.Machine.execStv o s
  | .ldb o => Sys2Proof.Machine.execLdb o s
  | .stb o => Sys2Proof.Machine.execStb o s
  | .atom o => Sys2Proof.Machine.execAtom o s
  | .cas o => Sys2Proof.Machine.execCas o s
  | .fence o => Sys2Proof.Machine.execFence o s
  | .mon o => Sys2Proof.Machine.execMon o s
  | .mwait o => Sys2Proof.Machine.execMwait o s
  | .sbind o => Sys2Proof.Machine.execSbind o s
  | .sxp o => Sys2Proof.Machine.execSxp o s
  | .sxu o => Sys2Proof.Machine.execSxu o s
  | .aset o => Sys2Proof.Machine.execAset o s
  | .await o => Sys2Proof.Machine.execAwait o s
  | .kick o => Sys2Proof.Machine.execKick o s
  | .padv o => Sys2Proof.Machine.execPadv o s
  | .pwait o => Sys2Proof.Machine.execPwait o s
  | .mma o => Sys2Proof.Machine.execMma o s
  | .mmas o => Sys2Proof.Machine.execMmas o s
  | .mconv o => Sys2Proof.Machine.execMconv o s
  | .mzero o => Sys2Proof.Machine.execMzero o s
  | .mldc o => Sys2Proof.Machine.execMldc o s
  | .mstc o => Sys2Proof.Machine.execMstc o s
  | .guard o => Sys2Proof.Machine.execGuard o s
  | .gset o => Sys2Proof.Machine.execGset o s
  | .dist o => Sys2Proof.Machine.execDist o s
  | .topkClr o => Sys2Proof.Machine.execTopkClr o s
  | .topkIns o => Sys2Proof.Machine.execTopkIns o s
  | .topkRd o => Sys2Proof.Machine.execTopkRd o s
  | .stload o => Sys2Proof.Machine.execStload o s
  | .task o => Sys2Proof.Machine.execTask o s
  | .tnext o => Sys2Proof.Machine.execTnext o s
  | .launch o => Sys2Proof.Machine.execLaunch o s
  | .tryOpen o => Sys2Proof.Machine.execTryOpen o s
  | .fail o => Sys2Proof.Machine.execFail o s
  | .mark o => Sys2Proof.Machine.execMark o s
  | .cut o => Sys2Proof.Machine.execCut o s
  | .steal o => Sys2Proof.Machine.execSteal o s
  | .trail o => Sys2Proof.Machine.execTrail o s
  | .trap o => Sys2Proof.Machine.execTrap o s
  | .sysc o => Sys2Proof.Machine.execSysc o s
  | .eret o => Sys2Proof.Machine.execEret o s
  | .mfsr o => Sys2Proof.Machine.execMfsr o s
  | .mtsr o => Sys2Proof.Machine.execMtsr o s
  | .tlbi o => Sys2Proof.Machine.execTlbi o s
  | .cflush o => Sys2Proof.Machine.execCflush o s
  | .cinv o => Sys2Proof.Machine.execCinv o s
  | .waiti o => Sys2Proof.Machine.execWaiti o s
  | .acct o => Sys2Proof.Machine.execAcct o s
  | .gauge o => Sys2Proof.Machine.execGauge o s
  | .hread o => Sys2Proof.Machine.execHread o s
  | .hwrite o => Sys2Proof.Machine.execHwrite o s
  | .hstep o => Sys2Proof.Machine.execHstep o s
  | .hrun o => Sys2Proof.Machine.execHrun o s
  | .hstat o => Sys2Proof.Machine.execHstat o s
  | .sample o => Sys2Proof.Machine.execSample o s
  | .trace o => Sys2Proof.Machine.execTrace o s
  | .cntr o => Sys2Proof.Machine.execCntr o s
  | .issueChoice core port dt => Sys2Proof.Machine.execIssueChoice core port dt s
  | .bartime ofBent owner barrier => Sys2Proof.Machine.execBartime ofBent owner barrier s
  | .lapidaryRequestEnter bay idx => Sys2Proof.Machine.execLapidaryRequestEnter bay idx s
  | .lapidaryAnswer bay idx => Sys2Proof.Machine.execLapidaryAnswer bay idx s
  | .xrefAnswer bay idx => Sys2Proof.Machine.execXrefAnswer bay idx s
  | .lapidaryTranslationFault bay idx => Sys2Proof.Machine.execLapidaryTranslationFault bay idx s
  | .logReclaim gid => Sys2Proof.Machine.execLogReclaim gid s
  | .copyRecordStart bay core => Sys2Proof.Machine.execCopyRecordStart bay core s
  | .copyRecordComplete bay idx => Sys2Proof.Machine.execCopyRecordComplete bay idx s
  | .matrixCommandHead bay steps => Sys2Proof.Machine.execMatrixCommandHead bay steps s
  | .matrixCommandRetire bay => Sys2Proof.Machine.execMatrixCommandRetire bay s
  | .stloadCompletion idx status data => Sys2Proof.Machine.execStloadCompletion idx status data s
  | .pwaitComplete f => Sys2Proof.Machine.execPwaitComplete f s
  | .awaitComplete f => Sys2Proof.Machine.execAwaitComplete f s
  | .mwaitWake f => Sys2Proof.Machine.execMwaitWake f s
  | .waitiExpire f => Sys2Proof.Machine.execWaitiExpire f s
  | .groupRetire gid => Sys2Proof.Machine.execGroupRetire gid s
  | .bentRetire bent => Sys2Proof.Machine.execBentRetire bent s
  | .bentPlacement bent bay places => Sys2Proof.Machine.execBentPlacement bent bay places s
  | .preemption bent => Sys2Proof.Machine.execPreemption bent s
  | .restore bent bay places => Sys2Proof.Machine.execRestore bent bay places s
  | .queueAdmission queue => Sys2Proof.Machine.execQueueAdmission queue s
  | .ringEntryNop queue => Sys2Proof.Machine.execRingEntryNop queue s
  | .ringEntryLaunch queue => Sys2Proof.Machine.execRingEntryLaunch queue s
  | .ringEntryWait queue => Sys2Proof.Machine.execRingEntryWait queue s
  | .ringEntryAdvance queue => Sys2Proof.Machine.execRingEntryAdvance queue s
  | .queueWaitDone queue idx => Sys2Proof.Machine.execQueueWaitDone queue idx s
  | .launchStart launch => Sys2Proof.Machine.execLaunchStart launch s
  | .launchComplete launch => Sys2Proof.Machine.execLaunchComplete launch s
  | .taskReady task => Sys2Proof.Machine.execTaskReady task s
  | .taskSplit core place => Sys2Proof.Machine.execTaskSplit core place s
  | .haltReport f => Sys2Proof.Machine.execHaltReport f s
  | .stepComplete f => Sys2Proof.Machine.execStepComplete f s
  | .sampleTick socket => Sys2Proof.Machine.execSampleTick socket s
  | .powerOn b => Sys2Proof.Machine.execPowerOn b s
  | .systemCoreAccess a => Sys2Proof.Machine.execSystemCoreAccess a s
  | .effectiveClassReaches7 bent bay => Sys2Proof.Machine.execEffectiveClassReaches7 bent bay s
  | .faultQueueConsumerUpdate socket value => Sys2Proof.Machine.execFaultQueueConsumerUpdate socket value s
  | .serviceQueueConsumerUpdate socket value => Sys2Proof.Machine.execServiceQueueConsumerUpdate socket value s
  | .resolveRetry socket seq => Sys2Proof.Machine.execResolveRetry socket seq s
  | .resolveAbort socket seq => Sys2Proof.Machine.execResolveAbort socket seq s
  | .syscAnswer socket seq value => Sys2Proof.Machine.execSyscAnswer socket seq value s
  | .preemptRegister socket gid => Sys2Proof.Machine.execPreemptRegister socket gid s
  | .killRegister socket gid => Sys2Proof.Machine.execKillRegister socket gid s
  | .sysregWrite socket index value => Sys2Proof.Machine.execSysregWrite socket index value s
  | .debugWindowGo socket window => Sys2Proof.Machine.execDebugWindowGo socket window s
  | .notifyStore queue value host => Sys2Proof.Machine.execNotifyStore queue value host s
  | .firmwareUpdate slotB image => Sys2Proof.Machine.execFirmwareUpdate slotB image s
  | .clearTopologyRecord => Sys2Proof.Machine.execClearTopologyRecord s
  | .getVersion => Sys2Proof.Machine.execGetVersion s
  | .getCapabilities => Sys2Proof.Machine.execGetCapabilities s
  | .negotiateAlgorithms asym hash => Sys2Proof.Machine.execNegotiateAlgorithms asym hash s
  | .getDigests => Sys2Proof.Machine.execGetDigests s
  | .getCertificate offset length => Sys2Proof.Machine.execGetCertificate offset length s
  | .challenge nonce => Sys2Proof.Machine.execChallenge nonce s
  | .getMeasurements index => Sys2Proof.Machine.execGetMeasurements index s
  | .linkCrcRetry link => Sys2Proof.Machine.execLinkCrcRetry link s
  | .linkRetrain link => Sys2Proof.Machine.execLinkRetrain link s
  | .rhautPortFailure port => Sys2Proof.Machine.execRhautPortFailure port s
  | .warmReset socket => Sys2Proof.Machine.execWarmReset socket s
  | .hostAccess a => Sys2Proof.Machine.execHostAccess a s
  | .peerAccess a => Sys2Proof.Machine.execPeerAccess a s

end Sys2Proof.Machine
end

