-- ==== Sys2Proof/Machine/Auto.lean ====
section
/-! DEFINITION. The events that the device itself brings about in a state, and the choice among them (log entry 2). What the
outside world does comes from the agenda alone. -/
namespace Sys2Proof.Machine
open Sys2Proof

/-- Events of the engines of the bays. -/
def State.engineEvents (s : State) : List Instr :=
  s.bays.flatMap fun (k, y) =>
    let active := List.range (min y.lap.length Config.lapidaryActive)
    let works := active.flatMap fun i => [.lapidaryAnswer k [i], .xrefAnswer k i, .lapidaryTranslationFault k i]
    let together := active.filter fun i => match s.verdicts k [i] with
      | some _ => true
      | none => false
    let works := (if 1 < together.length then [.lapidaryAnswer k together] else []) ++ works
    let enters := (List.range y.lapWait.length).map fun i => .lapidaryRequestEnter k i
    let copies := (List.range y.started.length).map fun i => .copyRecordComplete k i
    let starts := (List.range 5).map fun c => .copyRecordStart k c
    works ++ enters ++ copies ++ starts ++ [.matrixCommandHead k 64, .matrixCommandRetire k]

/-- Events that end what fibres wait for, and halts and steps that become visible. A wake without a store to the monitored
line is no event of the device's own (R196 allows it). -/
def State.fibreEvents (s : State) : List Instr :=
  s.groups.flatMap fun (k, g) => g.weaves.flatMap fun (w, v) => v.fibres.flatMap fun f =>
    let r : FibreRef := ⟨k, w, f.id⟩
    match f.wait with
    | .peg _ _ => [.pwaitComplete r, .haltReport r, .stepComplete r]
    | .await _ => [.awaitComplete r, .haltReport r, .stepComplete r]
    | .clock _ => [.waitiExpire r, .haltReport r, .stepComplete r]
    | .monitor lanes =>
      (if (lanesOf lanes).any fun l => (v.lane l).monHit then [.mwaitWake r] else []) ++ [.haltReport r, .stepComplete r]
    | _ => [.haltReport r, .stepComplete r]

/-- Events of groups: reclamation, barrier time-outs, retirement. -/
def State.groupEvents (s : State) : List Instr :=
  (s.groups.flatMap fun (k, g) =>
    .logReclaim k :: .groupRetire k :: g.bars.map fun p => .bartime false k p.1) ++
  s.bents.flatMap fun (k, b) => b.bars.map fun p => .bartime true k p.1

/-- Events of bents: retirement, placement, restore, pre-emption, the choice of a bay by class 7. -/
def State.bentEvents (s : State) : List Instr :=
  s.bents.flatMap fun (k, b) =>
    if b.awaits then
      let bays := s.baysOf b.socket
      (bays.filterMap fun bay => (s.fit b bay [] true).map fun ps =>
        if b.st == .saved then .restore k bay ps else .bentPlacement k bay ps) ++
      ((s.chooseBay b).toList.map fun bay => .effectiveClassReaches7 k bay)
    else [.bentRetire k, .preemption k]

/-- Events of queues, launches and tasks. -/
def State.workEvents (s : State) : List Instr :=
  (s.queues.flatMap fun (q, x) =>
    [.queueAdmission q, .ringEntryNop q, .ringEntryLaunch q, .ringEntryWait q, .ringEntryAdvance q] ++
    (List.range x.pend.length).map fun i => .queueWaitDone q i) ++
  (s.launches.flatMap fun (k, l) => if l.done then [] else if l.started then [.launchComplete k] else [.launchStart k]) ++
  (s.tasks.filterMap fun (k, t) => if t.ready then none else some (.taskReady k)) ++
  (List.range Config.computeDies).flatMap fun d =>
    match s.largestPiece d with
    | none => []
    | some (b, _) => (s.baysOf d).filterMap fun bay =>
        match s.fit b bay [] true with
        | some [p] => some (.taskSplit (coreKey bay p.core) p)
        | _ => none

/-- Sample ticks and the ports' choices, those of the cores in turn. -/
def State.clockEvents (s : State) : List Instr :=
  let ticks := (List.range Config.computeDies).map fun d => .sampleTick d
  let cores := (s.bents.filter fun p => p.2.st == .resident).flatMap fun p =>
    p.2.groups.filterMap fun k => if (s.group k).isSome then some (s.coreOf k) else none
  let ports := cores.distinct.flatMap fun c => [.issueChoice c 0 1, .issueChoice c 1 1]
  ticks ++ ports.rotateLeft s.cycle

/-- Whether an event can happen. -/
def State.enables (s : State) (i : Instr) : Bool :=
  match exec i s with
  | .next _ => true
  | _ => false

/-- An event happens; a cycle passes where it cannot. -/
def State.happen (s : State) (i : Instr) : State :=
  match exec i s with
  | .next t => t
  | _ => s.pass 1

/-- The device's own events by kind, the preferred kinds first. -/
def eventKinds : List (State → List Instr) :=
  [State.bentEvents, State.workEvents, State.engineEvents, State.fibreEvents, State.groupEvents, State.clockEvents]

/-- The device's own next event: the first that can happen, or, while there are open choices, the one of all that can
happen that they pick (log entry 2); when none can, a cycle passes. Held entries that a ring has room for are posted
first (R312). -/
def autoStep (s : State) : State :=
  let s := s.postAll
  if s.oracle.isEmpty then
    match eventKinds.findSome? fun k => (k s).find? s.enables with
    | some i => s.happen i
    | none => s.pass 1
  else
    let all := (eventKinds.flatMap fun k => k s).filter s.enables
    match all with
    | [] => s.pass 1
    | [i] => s.happen i
    | i :: _ =>
      let (n, s) := s.choose all.length
      s.happen (all.getD n i)

end Sys2Proof.Machine
end

