-- ==== Sys2Proof/Machine/Step.lean ====
section
/-! DEFINITION. One step: the instruction of the fibre picked to issue, else the next event. -/
namespace Sys2Proof.Machine
open Sys2Proof

/-- One step of the device. While a fibre is picked to issue, its next instruction is fetched, decoded and executed; else
the next event of the agenda happens, or one of the device's own. -/
def step (s : State) : Host.Outcome State Fault Refusal :=
  match s.cur with
  | some r =>
    match fetch r s with
    | .run t i => exec i t
    | .stop t => .next t
    | .none => .fault .noIssuingFibre
  | none =>
    match s.agenda with
    | i :: rest => exec i { s with agenda := rest }
    | [] => .next (autoStep s)

/-- The state with an instruction stored where the next step fetches it: the words of an opcode-table row, the first in
the least significant bits, zeros above. -/
def State.withFetchWord (s : State) (nbits w : Nat) : State := s.placeCode (leBytes 20 (w % 2 ^ nbits))

end Sys2Proof.Machine
end

