-- ==== Sys2Proof/Safety.lean ====
section
/-! DEFINITION. The terms that claims use: the invariant of the machine, when an instruction issues at once, and what a
state is after an instruction that writes registers and goes on. -/
namespace Sys2Proof.Machine
open Sys2Proof

/-- The invariant: memory is in its canonical form. -/
def State.Inv (s : State) : Prop := Memory.wf s.mem = true

/-- The picked fibre issues the instruction `o` of major `m` at once, seen in context `c`: no operand waits for an XREF,
no halt is due in its weave, and no gauge of its core watches. -/
structure Issues (m : Major) (o : Op) (s : State) (c : Ctx) : Prop where
  picked : ctxOf m o s = some c
  board  : c.scoreboard = false
  lanes  : c.f.lanes ≠ 0
  calm   : ∀ f ∈ c.v.fibres, f.halts = []
  gauges : (s.coreAt (s.coreOf c.r.gid)).gauges = []

/-- The instruction issues at once, no slot raises a cause of R120, and no operand is a stream. -/
structure Plain (m : Major) (o : Op) (s : State) (c : Ctx) : Prop extends Issues m o s c where
  slots   : c.each.flatMap (slotRefusals c) = []
  streams : c.uses = []

/-- The issuing fibre at the next instruction (R131). -/
def Ctx.moveOn (c : Ctx) (f : Fibre) : Fibre :=
  { f.settled with
    pc := c.fall, st := .ready, waitCount := 0, aged := false, step := if f.step = 0 then 0 else 2, halts := [] }

/-- The issuing fibre at the next instruction as its weave holds it then: AGED at once where 64 fibres live (R26). -/
def Ctx.resumed (c : Ctx) : Fibre := { c.moveOn c.f with aged := decide (64 ≤ c.v.fibres.length) }

/-- The state in which the issuing fibre is at the next instruction; ready fibres of its weave whose wait count has reached
64 less the live fibres are AGED (R26). -/
def Ctx.movedOn (c : Ctx) (u : State) : State :=
  u.onWeave c.r.gid c.r.weave fun v => (v.onFibre c.r.fid fun _ => c.moveOn c.f).reage

/-- The state after a join edge from some accesses on record into the writing lanes, and those that wait already (R193). -/
def Ctx.joined (c : Ctx) (pubs : List Nat) (u : State) : State :=
  u.edge 10 pubs [] (u.lanesParty c.r.gid c.r.weave (c.wr ||| c.f.waiters))

/-- The lane that computes for a lane: itself, or the lowest writing lane under UN = 1 (R117). -/
def Ctx.doerOf (c : Ctx) (l : Nat) : Nat := if c.o.un then c.writers.headD l else l

/-- A lane with a value written to a destination register; a write to P7 has no effect (R41). -/
def Lane.given (x : Lane) (wb : Nat) (d : Opnd) (wide : Bool) (v : DWord) : Lane :=
  match d with
  | .g i =>
    if wide then (x.setG (wb + i.toNat) (lowWord v)).setG (wb + i.toNat + 1) (highWord v)
    else x.setG (wb + i.toNat) (lowWord v)
  | .p i => x.setPred i.toNat (v != 0)
  | _ => x

/-- A group with a value written to a K or A register. -/
def Group.given (g : Group) (d : Opnd) (wide : Bool) (v : DWord) : Group :=
  match d with
  | .k i =>
    if wide then (g.setK i.toNat (lowWord v)).setK (i.toNat + 1) (highWord v) else g.setK i.toNat (lowWord v)
  | .a i => g.setA i.toNat v
  | _ => g

/-- A lane of the issuing weave after an instruction whose result and status in a lane are `val`: only lanes of wr
change, in their destination register and, where the lane computes, in their sticky status (R41, R89, R117, R131). -/
def Ctx.laneAfter (c : Ctx) (val : Nat → Vals → DWord × Flags) (l : Nat) : Lane :=
  if l ∈ c.writers then
    let k := c.doerOf l
    let x := (c.lane l).given c.f.wb c.o.d (wideSlot c.slots.1) (val k (c.regVals k)).1
    if k = l then { x with sticky := x.sticky ||| (val l (c.regVals l)).2 } else x
  else c.lane l

/-- The issuing group after it, its weaves apart: a K or A destination takes the result of each lane that computes in
turn, of one lane under UN = 1 (R43). -/
def Ctx.groupAfter (c : Ctx) (val : Nat → Vals → DWord × Flags) : Group :=
  c.doers.foldl (fun g k => g.given c.o.d (wideSlot c.slots.1) (val k (c.regVals k)).1) c.g

/-- `u` is `s` after the writes of such an instruction: nothing but lanes of the issuing weave, and K and A registers of
its group, differs. -/
structure Wrote (c : Ctx) (s u : State) (val : Nat → Vals → DWord × Flags) : Prop where
  rest   : u = { s with cur := none, groups := u.groups }
  others : ∀ k, k ≠ c.r.gid → u.group k = s.group k
  lanes  : ∀ l, u.lane c.r.gid c.r.weave l = c.laneAfter val l
  group  : ∃ h, u.group c.r.gid = some h ∧ { h with weaves := c.g.weaves } = c.groupAfter val ∧
    (∀ w, w ≠ c.r.weave → h.weave w = c.g.weave w) ∧ { h.weave c.r.weave with lanes := c.v.lanes } = c.v

/-- `u` is `s` after an instruction that changes nothing but lanes of wr in the issuing weave. -/
structure OnlyLanes (c : Ctx) (s u : State) : Prop where
  rest   : u = { s with cur := none, groups := u.groups }
  others : ∀ k, k ≠ c.r.gid → u.group k = s.group k
  group  : ∃ h, u.group c.r.gid = some h ∧ { h with weaves := c.g.weaves } = c.g ∧
    (∀ w, w ≠ c.r.weave → h.weave w = c.g.weave w) ∧ { h.weave c.r.weave with lanes := c.v.lanes } = c.v
  lanes  : ∀ l, l ∉ c.writers → u.lane c.r.gid c.r.weave l = c.lane l

/-- What does not differ in `t` outside the lanes and fibres of the issuing weave: the other groups, what `keep` keeps of
the issuing group, its other weaves, and of the other fibres of the weave all but the table slot and the AGED bit, which the
spilling and return of fibres (R22, R25) and the number of live fibres (R26) may change. -/
structure Framed (keep : Group → Group) (c : Ctx) (s t : State) : Prop where
  others : ∀ k, k ≠ c.r.gid → t.group k = s.group k
  group  : ∃ h, t.group c.r.gid = some h ∧ keep h = keep c.g ∧ (∀ w, w ≠ c.r.weave → h.weave w = c.g.weave w) ∧
    { h.weave c.r.weave with lanes := c.v.lanes, fibres := c.v.fibres } = c.v ∧
    ∀ f ∈ c.v.fibres, f ≠ c.f → ∃ x ∈ (h.weave c.r.weave).fibres, { x with slot := f.slot, aged := f.aged } = f

/-- `t` is `s` after an instruction that regroups the lanes of its fibre and changes nothing but lanes of its weave: nothing
else differs, event counters of cores apart, and every fibre of the weave is an old one or holds lanes of the issuing one. -/
structure OnlyFibres (c : Ctx) (s t : State) : Prop extends Framed (fun g => { g with weaves := [] }) c s t where
  rest  : t = { s with cur := none, cores := t.cores, groups := t.groups }
  cores : ∀ k, { t.coreAt k with counters := (s.coreAt k).counters } = s.coreAt k
  known : ∀ h, t.group c.r.gid = some h → ∀ x ∈ (h.weave c.r.weave).fibres, x.lanes &&& ~~~(c.f.lanes ||| c.act) = 0 ∨
    ∃ f ∈ c.v.fibres, { x with slot := f.slot, aged := f.aged } = f

/-- The lanes of the issuing fibre regrouped in `t` (R135): each lane of `gone` is in a fibre of exactly the lanes that go
to the same PC and window base, the others stay in the issuing fibre at the next instruction. -/
structure Regrouped (c : Ctx) (t : State) (gone : List Nat) (dest : Nat → DWord × Nat) : Prop where
  went   : ∀ h, t.group c.r.gid = some h → ∀ l ∈ gone, ∃ f ∈ (h.weave c.r.weave).fibres,
    f.pc = (dest l).1 ∧ f.wb = (dest l).2 ∧ f.st = .ready ∧ f.lanes = maskOf (gone.filter fun k => dest k == dest l)
  stayed : ∀ h, t.group c.r.gid = some h → c.f.lanes &&& ~~~maskOf gone ≠ 0 → ∃ f ∈ (h.weave c.r.weave).fibres,
    f.id = c.r.fid ∧ f.pc = c.fall ∧ f.wb = c.f.wb ∧ f.st = .ready ∧ f.lanes = c.f.lanes &&& ~~~maskOf gone
  there  : (t.group c.r.gid).isSome = true

/-- Memory, the bays, the dies, the launches and the other groups are as they were. -/
structure Calm (c : Ctx) (s t : State) : Prop where
  mem      : t.mem = s.mem
  bays     : t.bays = s.bays
  dies     : t.dies = s.dies
  bents    : t.bents = s.bents
  launches : t.launches = s.launches
  queues   : t.queues = s.queues
  agenda   : t.agenda = s.agenda
  others   : ∀ k, k ≠ c.r.gid → t.group k = s.group k
  ended    : t.cur = none

end Sys2Proof.Machine
end

