-- ==== Sys2Proof/Certificates/Slice0/Obligations.lean ====
section
/-! DEFINITION. The statements for the provers. -/
open Sys2Proof Sys2Proof.Machine

namespace Sys2Proof.Machine

/-- The bits of three words, as the opcode table numbers them. -/
def threeWords (a b c : Nat) : Nat := a + b * 2 ^ 32 + c * 2 ^ 64

/-- What an instruction's words decode to in a lane stream. -/
def decodesTo (nbits w : Nat) (i : Instr) : Prop := decodeTableWord nbits w = some i

end Sys2Proof.Machine

/-- O1. Twelve words that the manual writes out decode to the instruction and the operands it gives for each: CALL, BAR
#3, MOVI G2 #0, LD G2 [A3 + G1], ST [A3] G21, PWAIT.GE, MMA.BF16, DIST.IP.BF16, TNEXT, TRAP #5, MFSR G4 #0x010,
TLBI.PAGE.UN. (R135; R138; R145; R203; R215; R219; Reference: search and tasks; Reference: system and debug
instructions) -/
def Obligations.WorkedWords : Prop :=
  decodesTo 32 0x00051C18 (.call { form := .base, imm22 := 20 }) ∧
  decodesTo 32 0x80C00048 (.bar { form := .base, imm22 := 3 }) ∧
  decodesTo 32 0x80000954 (.movi { form := .base, un := true, d := .g 2, b := .imm }) ∧
  decodesTo 32 0x00C10AC0 (.ld { form := .base, mod := 0x1000, d := .g 2, a := .a 3, b := .g 1 }) ∧
  decodesTo 32 0x80C056C8 (.st { form := .base, d := .g 21, a := .a 3 }) ∧
  decodesTo 96 (threeWords 0x00030359 0 0x00000607) (.pwait { mod := 3, b := .imm, imm22 := 1 }) ∧
  decodesTo 96 (threeWords 0x1A220361 0x03020000 0x00000007) (.mma { mod := 0x1A22, a := .g 0, b := .g 2, c := .g 3 }) ∧
  decodesTo 96 (threeWords 0x010203A1 0x8D140444 0x00000002)
    (.dist { mod := 0x0102, d := .x 4, a := .g 4, b := .g 20, c := .k 13, pred := 2 }) ∧
  decodesTo 96 (threeWords 0x000003C5 0x00000090 0x00001C07) (.tnext { un := true, d := .k 16, imm22 := 7 }) ∧
  decodesTo 96 (threeWords 0x000003E9 0x00000000 0x00001407) (.trap { imm22 := 5 }) ∧
  decodesTo 96 (threeWords 0x00000FED 0x00000004 0x00004007) (.mfsr { un := true, d := .g 4, imm22 := 16 }) ∧
  decodesTo 96 (threeWords 0x000217ED 0x00946500 0x00000007) (.tlbi { un := true, mod := 2, a := .a 5, b := .k 20 })

/-- O2. For every well-formed instruction of a lane stream or a joiner stream, with every operand at every value its
encoding admits, the decoder reads its encoded words as that very instruction: no bit of an encoding is dropped.
(R101; R105; R108; R110; R111; R112; R113; R114; R116; R120) -/
def Obligations.DecodeOfEncode : Prop :=
  ∀ (joiner : Bool) (i : Instr), i.wf joiner = true → decodeWords joiner (encode i) = .ok i

/-- O3. Whenever five words from the PC on decode to an instruction, that instruction is well-formed and its encoding is
the first of those words: two different word sequences never stand for one instruction, and no instruction of the
decoder lies outside the encoding. (R101; R105; R108; R110; R111; R112; R113; R120) -/
def Obligations.WordsHaveOneMeaning : Prop :=
  ∀ (joiner : Bool) (w0 w1 w2 w3 w4 : Word) (i : Instr), decode joiner w0 w1 w2 w3 w4 = .ok i →
    i.wf joiner = true ∧ encode i = [w0, w1, w2, w3, w4].take (encode i).length

/-- O4. In the state after reset, ASTB, QPRIV, and on every die FQCB, SVCB, GTAB and HALTPG read 0, as the Reset column
of the register table gives; the package is off; and memory is in its canonical form, which is the invariant that
every step keeps. That memory then lists nothing (log entry 1), that State.reset is a package that is off (log entry
5), and that nothing is launched before its boot (log entry 11) are the model's choices. (R360; Table 176; R349;
Guide: memory) -/
def Obligations.ResetState : Prop :=
  (∀ die : Nat, ∀ i : Nat, i ≤ 5 → State.reset.sysReg die i = 0) ∧ State.reset.Inv ∧
  State.reset.mgmt.phase = .off ∧ State.reset.mem = [] ∧ State.reset.launches = [] ∧ State.reset.groups = []

/-- O5. From every state whose memory is in canonical form (addresses strictly rising, no entry equal to what an
unlisted address reads as), whenever the machine takes a step to a next state, be it an instruction, an exception or
an event of the device or its host, the memory of that state is in canonical form: equal memories stay equal data.
(R5; R344; Guide: memory) -/
def Obligations.StepKeepsInvariant : Prop :=
  ∀ s t : State, s.Inv → step s = .next t → t.Inv

/-- O6. When a fibre is picked to issue and the words fetched at its PC decode to an instruction that has nothing to
wait for at issue, the step is exec of that instruction in the state after the fetch, its issue counted; where it
has something to wait for, the step only fetches; where the fetch faults, nothing is counted as issued; when the
words do not decode, the step takes ILLEGAL with the decoder's cause in the lanes that run, those of the replay mask
at a replay (log entry 27), its issue counted and seen by PC gauges, also those of lanes already halted there; when
no fibre is picked, the step is exec of the event at the head of the agenda, the model's own order of events (log
entry 2). (R26; R102; R103; R120; R4; R325; R341; R388) -/
def Obligations.StepRunsDecoded : Prop :=
  (∀ (s t : State) (r : FibreRef) (f : Fibre) (ws : List Word) (i : Instr), s.cur = some r → s.fibre r = some f →
    s.fetchWords r f = .words t ws → decodeWords (t.isJoiner r.gid) ws = .ok i →
    (t.stallAs r i = 0 → step s = exec i (t.countIssue r f.running)) ∧
    (t.stallAs r i ≠ 0 → step s = .next { t with cur := none })) ∧
  (∀ (s t : State) (r : FibreRef) (f : Fibre), s.cur = some r → s.fibre r = some f → s.fetchWords r f = .stop t →
    step s = .next { t with cur := none }) ∧
  (∀ (s t : State) (r : FibreRef) (f : Fibre) (ws : List Word) (n : Nat), s.cur = some r → s.fibre r = some f →
    s.fetchWords r f = .words t ws → decodeWords (t.isJoiner r.gid) ws = .error n →
    step s = .next (({ t.countIssue r f.running with cur := none }.pcEvents r f.pc (f.running ||| f.pcDue)).takeTrap r
      f.running 1 n (wordsInfo ws) [])) ∧
  (∀ (s : State) (i : Instr) (rest : List Instr), s.cur = none → s.agenda = i :: rest →
    step s = exec i { s with agenda := rest })

/-- O7. When the page of the PC translates for a fetch to device memory, the instruction lies in one 128-byte line of
it, no copy of that line is cached in the core and no store is on record, the words fetched are the little-endian
words that memory holds from that physical address on, as many as the length code of the first one gives, and memory
is unchanged by reading them. (R5; R101; R102; R104) -/
def Obligations.FetchReadsMemory : Prop :=
  ∀ (s u : State) (memo : Memo) (r : FibreRef) (f : Fibre) (pa : Nat),
    s.pageAt [] (s.agentOf r.gid) (s.spaceOf r.gid) f.pc .fetch = (u, memo, .ok pa) → u.past = [] →
    pa / 2 ^ 48 = 0 → pa + 20 ≤ u.capacity → (∀ l ∈ (u.coreAt (s.coreOf r.gid)).code, l.line ≠ pa / 128) →
    let n := lenBytes (memNat u pa 1 % 4)
    pa % 128 + n ≤ 128 → f.pc.toNat % 4096 + n ≤ 4096 → pa % 4096 = f.pc.toNat % 4096 → f.pc.toNat + n < 2 ^ 57 →
    ∃ t, s.fetchWords r f = .words t ((List.range (n / 4)).map fun k => BitVec.ofNat 32 (memNat u (pa + 4 * k) 4)) ∧
      t.mem = u.mem ∧ t.groups = u.groups ∧ t.cur = u.cur

/-- O8. Bytes stored where physical memory is behind the address read back as the value stored, the byte at the lower
address least significant, and where none is the store does nothing (the model's choice for stores that no group
makes: log entry 56); every byte outside them reads as before; and the canonical form of memory is kept. A G, K or A
register reads what was last written to it and a write changes no other register; predicate P7 reads 1 whatever is
written to it, a write to P0 to P6 reads back, and a write to one predicate changes no other. (R5; R41; R344; Table
19; log entry 56) -/
def Obligations.StorageReadAfterWrite : Prop :=
  (∀ (s : State) (pa n v : Nat),
    (s.physBad pa = none → memNat (s.putNat pa n v) pa n = v % 256 ^ n) ∧
    (s.physBad pa ≠ none → s.putNat pa n v = s) ∧
    (∀ a, a < pa ∨ pa + n ≤ a → memGet (s.putNat pa n v).mem a = memGet s.mem a) ∧
    (s.Inv → (s.putNat pa n v).Inv)) ∧
  (∀ (x : Lane) (i j : Nat) (v : Word), (x.setG i v).gAt j = if j = i then v else x.gAt j) ∧
  (∀ (g : Group) (i j : Nat) (v : Word), (g.setK i v).kAt j = if j = i then v else g.kAt j) ∧
  (∀ (g : Group) (i j : Nat) (v : DWord), (g.setA i v).aAt j = if j = i then v else g.aAt j) ∧
  (∀ (x : Lane) (i j : Nat) (b : Bool), j < 8 →
    (x.setPred i b).pred j = if j = 7 then true else if j = i then b else x.pred j)

namespace Sys2Proof.Machine

/-- An instruction that computes one result a lane: whenever it issues at once with operands that are no streams and
raise no cause, it completes, its result and status in each lane are those of `val`, and nothing else changes but that
the fibre is at the next instruction. `own` are causes of its own entry. -/
def Computes (mk : Op → Instr) (m : Major) (val : Op → Ctx → Nat → Vals → DWord × Flags)
    (own : Op → List Nat := fun _ => []) : Prop :=
  ∀ (o : Op) (s : State) (c : Ctx), Plain m o s c → own o = [] →
    ∃ u, exec (mk o) s = .next (c.movedOn u) ∧ Wrote c s u (val o c)

/-- A word result without status, from the operand words. -/
def ofWords (f : Op → Word → Word → Word → Word) (o : Op) (_ : Ctx) (_ : Nat) (v : Vals) : DWord × Flags :=
  (zext32 (f o (lowWord v.a) (lowWord v.b) (lowWord v.c)), 0)

/-- e(x): u(x) when U is set, else s(x) (R145). -/
def eOf (o : Op) (x : Word) : Int := if o.mod.getLsbD 0 then x.toNat else x.toInt

/-- The lowest and highest value of the range that U selects. -/
def rangeOf (o : Op) : Int × Int := if o.mod.getLsbD 0 then (0, 2 ^ 32 - 1) else (-2 ^ 31, 2 ^ 31 - 1)

/-- An exact sum, clamped with OF under SAT, else modulo 2^32 (R145). -/
def sumResult (o : Op) (x : Int) (w : Word) : DWord × Flags :=
  if o.mod.getLsbD 1 then
    (zext32 (BitVec.ofInt 32 (max (rangeOf o).1 (min (rangeOf o).2 x))),
      if x < (rangeOf o).1 ∨ (rangeOf o).2 < x then flagOF else 0)
  else (zext32 w, 0)

/-- Position and width of a field (BFX, BFI; R145). -/
def posOf (b : Word) : Nat := b.toNat % 32
/-- Width of a field. -/
def widthOf (b : Word) : Nat := min (b.toNat / 256 % 64) (32 - posOf b)

end Sys2Proof.Machine

/-- O9. Whenever it issues with operands that raise no cause, each of IADD, ISUB, IMUL, IMAD, IMULH, IDIV, IREM, IMIN,
IMAX and IABS, in base and in extended form, completes with the result and the status of its row: sums modulo 2^32,
or with SAT the exact sum clamped to the range of U with OF when clamped; the low or the high word of the product;
the quotient truncated toward 0 and the remainder with the sign of a, a zero divisor giving 0xFFFF_FFFF and a with
DZ; −2^31 / −1 giving −2^31 with OF; every other register, all memory and every other group are unchanged. (R145) -/
def Obligations.IntegerArithmetic : Prop :=
  let add : Op → Ctx → Nat → Vals → DWord × Flags := fun o _ _ v =>
    sumResult o (eOf o (lowWord v.a) + eOf o (lowWord v.b)) (lowWord v.a + lowWord v.b)
  let sub : Op → Ctx → Nat → Vals → DWord × Flags := fun o _ _ v =>
    sumResult o (eOf o (lowWord v.a) - eOf o (lowWord v.b)) (lowWord v.a - lowWord v.b)
  let div : Op → Ctx → Nat → Vals → DWord × Flags := fun o _ _ v =>
    if lowWord v.b = 0 then (0xFFFFFFFF, flagDZ)
    else (zext32 (BitVec.ofInt 32 ((eOf o (lowWord v.a)).tdiv (eOf o (lowWord v.b)))),
      if o.mod.getLsbD 0 = false ∧ lowWord v.a = 0x80000000 ∧ lowWord v.b = 0xFFFFFFFF then flagOF else 0)
  let rem : Op → Ctx → Nat → Vals → DWord × Flags := fun o _ _ v =>
    if lowWord v.b = 0 then (zext32 (lowWord v.a), flagDZ)
    else (zext32 (BitVec.ofInt 32 (eOf o (lowWord v.a) -
      eOf o (lowWord v.b) * (eOf o (lowWord v.a)).tdiv (eOf o (lowWord v.b)))), 0)
  let mul := ofWords fun _ a b _ => a * b
  let mulh := ofWords fun o a b _ => BitVec.ofInt 32 (eOf o a * eOf o b / 2 ^ 32)
  let imin := ofWords fun o a b _ => if eOf o a ≤ eOf o b then a else b
  let imax := ofWords fun o a b _ => if eOf o a ≤ eOf o b then b else a
  let abs : Op → Ctx → Nat → Vals → DWord × Flags := fun o _ _ v =>
    let a := lowWord v.a
    if a = 0x80000000 then (if o.mod.getLsbD 1 then (0x7FFFFFFF, flagOF) else (0x80000000, 0))
    else (zext32 (BitVec.ofInt 32 a.toInt.natAbs), 0)
  Computes .iadd .iadd add ∧ Computes .iaddExt .iadd add ∧ Computes .isub .isub sub ∧ Computes .isubExt .isub sub ∧
  Computes .imul .imul mul ∧ Computes .imulExt .imul mul ∧ Computes .imad .imad (ofWords fun _ a b c => a * b + c) ∧
  Computes .imulh .imulh mulh ∧ Computes .imulhExt .imulh mulh ∧ Computes .idiv .idiv div ∧
  Computes .idivExt .idiv div ∧ Computes .irem .irem rem ∧ Computes .iremExt .irem rem ∧ Computes .imin .imin imin ∧
  Computes .iminExt .imin imin ∧ Computes .imax .imax imax ∧ Computes .imaxExt .imax imax ∧ Computes .iabs .iabs abs ∧
  Computes .iabsExt .iabs abs

/-- O10. Whenever it issues with operands that raise no cause, each of AND, OR, XOR, ANDN, SHL, SHR, SAR, ROL, POPC,
CLZ, BREV, BFX and BFI, in every form, completes with the result of its row and no status: a shift by 32 or more
gives 0, or all sign for SAR; a rotation goes by u(b) mod 32; CLZ of 0 is 32; BREV's bit i is bit 31 − i of a; BFX
gives the field at b[4:0] of width min(b[13:8], 32 − pos), sign- or zero-extended; BFI replaces that field of c.
(R145; Table 57) -/
def Obligations.LogicAndShifts : Prop :=
  let and_ := ofWords fun _ a b _ => a &&& b
  let or_ := ofWords fun _ a b _ => a ||| b
  let xor_ := ofWords fun _ a b _ => a ^^^ b
  let andn := ofWords fun _ a b _ => a &&& ~~~b
  let shl := ofWords fun _ a b _ => BitVec.ofNat 32 (a.toNat * 2 ^ b.toNat)
  let shr := ofWords fun _ a b _ => BitVec.ofNat 32 (a.toNat / 2 ^ b.toNat)
  let sar := ofWords fun _ a b _ => BitVec.ofInt 32 (a.toInt / 2 ^ b.toNat)
  let rol := ofWords fun _ a b _ =>
    BitVec.ofNat 32 (a.toNat * 2 ^ (b.toNat % 32) + a.toNat / 2 ^ (32 - b.toNat % 32))
  let popc := ofWords fun _ a _ _ => BitVec.ofNat 32 ((List.range 32).filter fun i => a.getLsbD i).length
  let bfx := ofWords fun o a b _ =>
    let v := a.toNat / 2 ^ posOf b % 2 ^ widthOf b
    if o.mod.getLsbD 0 = false ∧ 0 < widthOf b ∧ 2 ^ (widthOf b - 1) ≤ v then BitVec.ofInt 32 (v - 2 ^ widthOf b)
    else BitVec.ofNat 32 v
  Computes .and .and and_ ∧ Computes .andExt .and and_ ∧ Computes .or .or or_ ∧ Computes .orExt .or or_ ∧
  Computes .xor .xor xor_ ∧ Computes .xorExt .xor xor_ ∧ Computes .andn .andn andn ∧ Computes .andnExt .andn andn ∧
  Computes .shl .shl shl ∧ Computes .shlExt .shl shl ∧ Computes .shr .shr shr ∧ Computes .shrExt .shr shr ∧
  Computes .sar .sar sar ∧ Computes .sarExt .sar sar ∧ Computes .rol .rol rol ∧ Computes .rolExt .rol rol ∧
  Computes .popc .popc popc ∧ Computes .popcExt .popc popc ∧
  (∃ clz : Word → Nat, clz 0 = 32 ∧ (∀ a : Word, a ≠ 0 → 2 ^ (31 - clz a) ≤ a.toNat ∧ a.toNat < 2 ^ (32 - clz a) ∧ clz a < 32) ∧
    Computes .clz .clz (ofWords fun _ a _ _ => BitVec.ofNat 32 (clz a)) ∧
    Computes .clzExt .clz (ofWords fun _ a _ _ => BitVec.ofNat 32 (clz a))) ∧
  (∃ brev : Word → Word, (∀ (a : Word) (i : Nat), i < 32 → (brev a).getLsbD i = a.getLsbD (31 - i)) ∧
    Computes .brev .brev (ofWords fun _ a _ _ => brev a) ∧ Computes .brevExt .brev (ofWords fun _ a _ _ => brev a)) ∧
  Computes .bfx .bfx bfx ∧ Computes .bfxExt .bfx bfx ∧
  (∃ bfi : Word → Word → Word → Word, (∀ (a b c : Word) (i : Nat), i < 32 → (bfi a b c).getLsbD i =
      if posOf b ≤ i ∧ i < posOf b + widthOf b then a.getLsbD (i - posOf b) else c.getLsbD i) ∧
    Computes .bfi .bfi (ofWords fun _ a b c => bfi a b c))

/-- O11. Whenever it issues with operands that raise no cause, each of ISET, SEL, MOV, MOVI, LEA, PLOP, MFS, IADDW,
IMADW and VOTE, in every form, completes with the result of its row: ISET writes e(a) cond e(b); SEL takes a where
Pc is set; MOV copies, an A register taking a K pair whole; MOVI writes the immediate; LEA writes A[a] + sext(b) × s
+ offset; PLOP writes the table's entry at 4a + 2b + c; MFS writes its special value; IADDW and IMADW work modulo
2^64; VOTE reduces the predicate over the lanes of wr alone. (R142; R145; R146; R147; R148; Table 57; Table 58) -/
def Obligations.MovesAndPredicates : Prop :=
  let cond (o : Op) (x y : Int) : Bool := match bitsAt o.mod 5 3 with
    | 0 => decide (x = y)
    | 1 => decide (x ≠ y)
    | 2 => decide (x < y)
    | 3 => decide (x ≤ y)
    | 4 => decide (y < x)
    | _ => decide (y ≤ x)
  let iset : Op → Ctx → Nat → Vals → DWord × Flags := fun o _ _ v =>
    (if cond o (eOf o (lowWord v.a)) (eOf o (lowWord v.b)) then 1 else 0, 0)
  let mov : Op → Ctx → Nat → Vals → DWord × Flags := fun o c _ v =>
    (match o.d, o.a with
      | .a _, .k i => pairOf (c.g.kAt i.toNat) (c.g.kAt (i.toNat + 1))
      | _, _ => v.a, 0)
  let movi : Op → Ctx → Nat → Vals → DWord × Flags := fun o _ _ _ => (o.immVal, 0)
  let plop : Op → Ctx → Nat → Vals → DWord × Flags := fun o _ _ v =>
    let a := v.a != 0
    let b := v.b != 0
    let c := v.c != 0
    let r := if o.form = .base then
        (match bitsAt o.mod 0 3 with
          | 0 => a && b
          | 1 => a || b
          | 2 => a != b
          | 3 => a && !b
          | 4 => !(a || b)
          | 5 => a == b
          | 6 => a
          | _ => !a)
      else o.ownBits.getLsbD (4 * a.toNat + 2 * b.toNat + c.toNat)
    (if r then 1 else 0, 0)
  let mfs : Op → Ctx → Nat → Vals → DWord × Flags := fun o c l _ =>
    (BitVec.ofNat 64 (match o.immVal.toNat with
      | 0 => l
      | 1 => c.r.weave
      | 2 => c.g.number
      | 3 => ((c.s0.bent c.g.bent).map (·.number)).getD 0
      | 4 => c.g.role
      | 5 => c.g.gid
      | 6 => c.f.id
      | 7 => c.f.lanes.toNat % 2 ^ 32
      | 8 => c.f.lanes.toNat / 2 ^ 32
      | 9 => socketOf c.r.gid
      | 10 => c.s0.bayOf c.r.gid % 12
      | 11 => c.g.core
      | 12 => c.s0.clock (socketOf c.r.gid)
      | _ => c.s0.clock (socketOf c.r.gid) / 2 ^ 32), 0)
  let addw : Op → Ctx → Nat → Vals → DWord × Flags := fun o _ _ v => (v.a + BitVec.ofInt 64 (eOf o (lowWord v.b)), 0)
  let madw : Op → Ctx → Nat → Vals → DWord × Flags := fun o _ _ v =>
    (BitVec.ofInt 64 (eOf o (lowWord v.a) * eOf o (lowWord v.b)) + v.c, 0)
  let vote : Op → Ctx → Nat → Vals → DWord × Flags := fun o c _ _ =>
    let bit (l : Nat) : Bool := c.reg l false o.a != 0
    (match bitsAt o.mod 0 2 with
      | 0 => if c.writers.all bit then 1 else 0
      | 1 => if c.writers.any bit then 1 else 0
      | 2 => if c.writers.all bit ∨ c.writers.any bit = false then 1 else 0
      | _ => c.wr &&& maskOf ((List.range 64).filter bit), 0)
  Computes .iset .iset iset ∧ Computes .isetExt .iset iset ∧
  Computes .sel .sel (fun _ _ _ v => (if v.c = 0 then v.b else v.a, 0)) ∧
  Computes .mov .mov mov movRefusals ∧ Computes .movExt .mov mov movRefusals ∧
  Computes .movi .movi movi ∧ Computes .moviExt .movi movi ∧
  Computes .lea .lea (fun o _ _ v =>
    (v.a + (lowWord v.b).signExtend 64 * BitVec.ofNat 64 (2 ^ bitsAt o.mod 0 3) + o.own, 0)) ∧
  Computes .plop .plop plop ∧ Computes .plopExt .plop plop ∧ Computes .mfs .mfs mfs ∧ Computes .mfsExt .mfs mfs ∧
  Computes .iaddw .iaddw addw ∧ Computes .iaddwExt .iaddw addw ∧ Computes .imadw .imadw madw ∧
  Computes .vote .vote vote

namespace Sys2Proof.Machine

/-- An FP32 operand with its sign flip, bit `k` of MOD (R150). -/
def in32 (o : Op) (k : Nat) (w : DWord) : FVal :=
  let v := fdecode fmt32 (lowWord w).toNat
  if o.mod.getLsbD k then v.flip else v

/-- An FP64 operand with its sign flip. -/
def in64 (o : Op) (k : Nat) (w : DWord) : FVal :=
  let v := fdecode fmt64 w.toNat
  if o.mod.getLsbD k then v.flip else v

/-- A half of a packed operand with its sign flip. -/
def in16 (o : Op) (k half : Nat) (w : DWord) : FVal :=
  let v := fdecode fmt16 ((lowWord w).toNat / 2 ^ (16 * half) % 2 ^ 16)
  if o.mod.getLsbD k then v.flip else v

/-- The rounding mode in MOD (Table 36). -/
def modeOf (o : Op) : RMode := rmodeOf (o.mod.toNat % 4)

/-- A result of a float operation. -/
def ofFloat (f : Op → Vals → Nat × Flags) (o : Op) (_ : Ctx) (_ : Nat) (v : Vals) : DWord × Flags :=
  (BitVec.ofNat 64 (f o v).1, (f o v).2)

/-- Two independent halves, the status their OR (R150). -/
def ofHalves (f : Op → Vals → Nat → Nat × Flags) (o : Op) (_ : Ctx) (_ : Nat) (v : Vals) : DWord × Flags :=
  (BitVec.ofNat 64 ((f o v 0).1 + 2 ^ 16 * (f o v 1).1), (f o v 0).2 ||| (f o v 1).2)

/-- The rational value of a finite number. -/
def FVal.rat : FVal → ℚ
  | .fin n m e => (if n then -1 else 1) * (m : ℚ) * (2 : ℚ) ^ e
  | _ => 0

/-- `v` is `x` rounded in a mode among the finite values of a format (Table 36). -/
def IsRounding (f : FFmt) (mode : RMode) (x v : ℚ) : Prop :=
  let member (y : ℚ) : Prop := ∃ b n m e, b < 2 ^ (1 + f.expBits + f.fracBits) ∧ fdecode f b = .fin n m e ∧ y = (FVal.fin n m e).rat
  member v ∧
  match mode with
  | .rn => ∀ y, member y → |v - x| ≤ |y - x|
  | .ru => x ≤ v ∧ ∀ y, member y → x ≤ y → v ≤ y
  | .rd => v ≤ x ∧ ∀ y, member y → y ≤ x → y ≤ v
  | .rz => |v| ≤ |x| ∧ 0 ≤ v * x ∧ ∀ y, member y → |y| ≤ |x| → 0 ≤ y * x → |y| ≤ |v|

end Sys2Proof.Machine

/-- O12. Whenever it issues with operands that raise no cause, each lane float instruction, in every form, completes:
FADD, FSUB, FMUL, FDIV, FFMA, DADD, DMUL, DDIV, DFMA and in each half HADD2, HMUL2, HFMA2 write the sum, difference,
product, quotient or fused product-sum of their decoded operands, signs flipped by NA, NB and NC, rounded once in
mode RND; FSQRT, FRCP, FRSQ, FEXP2, FLOG2, FSIN, FCOS their function; FMIN, FMAX, FSET, DSET and FCLASS their
result, what these functions and results are being said in ExactOperations and FloatFunctions; the status goes to
the lane's sticky bits, and nothing else changes. (R87; R88; R149; R150; R151; R152; Table 60) -/
def Obligations.FloatArithmetic : Prop :=
  let add := ofFloat fun o v => faddV fmt32 (modeOf o) (in32 o 2 v.a) (in32 o 3 v.b)
  let sub := ofFloat fun o v => faddV fmt32 (modeOf o) (in32 o 2 v.a) (in32 o 3 v.b).flip
  let mul := ofFloat fun o v => fmulV fmt32 (modeOf o) (in32 o 2 v.a) (in32 o 3 v.b)
  let div := ofFloat fun o v => fdivV fmt32 (modeOf o) (in32 o 2 v.a) (in32 o 3 v.b)
  let minMax (isMax : Bool) := ofFloat fun o v =>
    let flip (k : Nat) (w : Word) : Nat := if o.mod.getLsbD k then (w ^^^ 0x80000000).toNat else w.toNat
    fminmaxV fmt32 isMax (flip 2 (lowWord v.a)) (flip 3 (lowWord v.b))
  let one (g : RMode → FVal → Nat × Flags) := ofFloat fun o v => g (modeOf o) (in32 o 2 v.a)
  let set (f : FFmt) (isWide : Bool) : Op → Ctx → Nat → Vals → DWord × Flags := fun o _ _ v =>
    let dec (x : DWord) : FVal := fdecode f (if isWide then x.toNat else (lowWord x).toNat)
    let r := fcond (bitsAt o.mod 5 3) (dec v.a) (dec v.b)
    (if r.1 then 1 else 0, r.2)
  Computes .fadd .fadd add ∧ Computes .faddExt .fadd add ∧ Computes .fsub .fsub sub ∧ Computes .fsubExt .fsub sub ∧
  Computes .fmul .fmul mul ∧ Computes .fmulExt .fmul mul ∧ Computes .fdiv .fdiv div ∧ Computes .fdivExt .fdiv div ∧
  Computes .ffma .ffma (ofFloat fun o v => ffmaV fmt32 (modeOf o) (in32 o 2 v.a) (in32 o 3 v.b) (in32 o 4 v.c)) ∧
  Computes .fmin .fmin (minMax false) ∧ Computes .fminExt .fmin (minMax false) ∧
  Computes .fmax .fmax (minMax true) ∧ Computes .fmaxExt .fmax (minMax true) ∧
  Computes .fsqrt .fsqrt (one (fsqrtV fmt32)) ∧ Computes .fsqrtExt .fsqrt (one (fsqrtV fmt32)) ∧
  Computes .frcp .frcp (one (frcpV fmt32)) ∧ Computes .frcpExt .frcp (one (frcpV fmt32)) ∧
  Computes .frsq .frsq (one (frsqV fmt32)) ∧ Computes .frsqExt .frsq (one (frsqV fmt32)) ∧
  Computes .fexp2 .fexp2 (one fexp2V) ∧ Computes .fexp2Ext .fexp2 (one fexp2V) ∧
  Computes .flog2 .flog2 (one flog2V) ∧ Computes .flog2Ext .flog2 (one flog2V) ∧
  Computes .fsin .fsin (one fsinV) ∧ Computes .fsinExt .fsin (one fsinV) ∧
  Computes .fcos .fcos (one fcosV) ∧ Computes .fcosExt .fcos (one fcosV) ∧
  Computes .fset .fset (set fmt32 false) ∧ Computes .dset .dset (set fmt64 true) ∧
  Computes .fclass .fclass (fun o _ _ v => (BitVec.ofNat 64 (fclassV (if o.mod.getLsbD 0 then fmt64 else fmt32) v.a.toNat), 0)) ∧
  Computes .dadd .dadd (ofFloat fun o v => faddV fmt64 (modeOf o) (in64 o 2 v.a) (in64 o 3 v.b)) ∧
  Computes .dmul .dmul (ofFloat fun o v => fmulV fmt64 (modeOf o) (in64 o 2 v.a) (in64 o 3 v.b)) ∧
  Computes .ddiv .ddiv (ofFloat fun o v => fdivV fmt64 (modeOf o) (in64 o 2 v.a) (in64 o 3 v.b)) ∧
  Computes .dfma .dfma (ofFloat fun o v => ffmaV fmt64 (modeOf o) (in64 o 2 v.a) (in64 o 3 v.b) (in64 o 4 v.c)) ∧
  Computes .hadd2 .hadd2 (ofHalves fun o v h => faddV fmt16 (modeOf o) (in16 o 2 h v.a) (in16 o 3 h v.b)) ∧
  Computes .hmul2 .hmul2 (ofHalves fun o v h => fmulV fmt16 (modeOf o) (in16 o 2 h v.a) (in16 o 3 h v.b)) ∧
  Computes .hfma2 .hfma2 (ofHalves fun o v h =>
    ffmaV fmt16 (modeOf o) (in16 o 2 h v.a) (in16 o 3 h v.b) (in16 o 4 h v.c))

/-- O13. In FP32, FP64, F16, BF16 and E5M2, an exact value m × 2^e other than 0, rounded in any of the four modes
without overflow, gives the encoding of the value that the mode asks for among all finite values of the format: the
nearest one, or the next one up, down or toward 0; NX is set exactly when it is not the exact value itself, and the
ties of the nearest mode go to the even significand. (R86; R87; R89; Table 36) -/
def Obligations.OneRounding : Prop :=
  ∀ f ∈ [fmt32, fmt64, fmt16, fmtB16, fmtE5M2], ∀ (mode : RMode) (neg : Bool) (m : Nat) (e : Int), m ≠ 0 →
    let r := froundFin f mode neg m e
    let x := (FVal.fin neg m e).rat
    r.2 &&& flagOF = 0 → ∃ k p, fdecode f r.1 = .fin neg k p ∧
      IsRounding f mode x (FVal.fin neg k p).rat ∧
      (r.2 &&& flagNX ≠ 0 ↔ (FVal.fin neg k p).rat ≠ x) ∧
      (mode = .rn → |(FVal.fin neg k p).rat - x| * 2 = (2 : ℚ) ^ p → k % 2 = 0)

namespace Sys2Proof.Machine

/-- `r` is the real number `x`, of sign `neg`, rounded once in a mode (R87, R89, Table 36): without overflow, the value that
the mode asks for among all finite values of the format, with NX exactly when that is not `x`, a tie going to the even
significand; with overflow, which needs an `x` beyond every finite value, the infinity or the largest finite value. -/
def RoundsOnce (f : FFmt) (mode : RMode) (neg : Bool) (x : ℝ) (r : Nat × Flags) : Prop :=
  let member (y : ℝ) : Prop := ∃ b n m e, b < 2 ^ (1 + f.expBits + f.fracBits) ∧ fdecode f b = .fin n m e ∧
    y = ((FVal.fin n m e).rat : ℝ)
  (r.2 &&& flagOF = 0 → ∃ k p, fdecode f r.1 = .fin neg k p ∧
    let v : ℝ := (FVal.fin neg k p).rat
    (match mode with
      | .rn => ∀ y, member y → |v - x| ≤ |y - x|
      | .ru => x ≤ v ∧ ∀ y, member y → x ≤ y → v ≤ y
      | .rd => v ≤ x ∧ ∀ y, member y → y ≤ x → y ≤ v
      | .rz => |v| ≤ |x| ∧ ∀ y, member y → |y| ≤ |x| → 0 ≤ y * x → |y| ≤ |v|) ∧
    (r.2 &&& flagNX ≠ 0 ↔ v ≠ x) ∧ (mode = .rn → |v - x| * 2 = (2 : ℝ) ^ p → k % 2 = 0)) ∧
  (r.2 &&& flagOF ≠ 0 → (∀ y, member y → |y| < |x|) ∧
    r.1 = if mode = .rn ∨ (mode = .ru ∧ neg = false) ∨ (mode = .rd ∧ neg = true) then infBits f neg else maxBits f neg)

end Sys2Proof.Machine

/-- O14. For finite operands the sum and the fused product-sum are one rounding of the exact sum, a zero sum having the
sign that IEEE 754 gives it in the mode; the product is one rounding of the exact product; the quotient, the
reciprocal, the square root and its reciprocal are the exact real number rounded once in the mode, NX telling
whether that was exact; x / 0 and the reciprocal of 0 give the infinity with DZ, an infinity times a number other
than 0 the infinity, the reciprocal of an infinity the zero of its sign, the root of +∞ that infinity and its
reciprocal root +0; 0 / 0, ∞ − ∞, ∞ / ∞, 0 × ∞ and the root of a negative number the canonical NaN with IV; with a
NaN operand each gives the canonical NaN of the format and sets IV exactly when an operand is a signalling NaN, and
FMIN and FMAX give the other operand. That FFMA of 0 × ∞ sets IV when the addend is a quiet NaN too is the model's
choice (log entry 51). (R86; R87; R88; R89; R150; R151; Table 36; Table 60; log entry 51) -/
def Obligations.ExactOperations : Prop :=
  (∀ (mode : RMode) (n k : Bool) (m l : Nat) (e d : Int),
    let a := FVal.fin n m e
    let b := FVal.fin k l d
    (faddExact mode a b).rat = a.rat + b.rat ∧ (fmulExact a b).rat = a.rat * b.rat ∧
    (a.rat + b.rat = 0 → (faddExact mode a b).isNeg = if m = 0 ∧ n = k then n else decide (mode = .rd)) ∧
    (fmulExact a b).isNeg = (n != k) ∧ ∀ f : FFmt,
      faddV f mode a b = fround f mode (faddExact mode a b) ∧ fmulV f mode a b = fround f mode (fmulExact a b) ∧
      ∀ (j : Bool) (p : Nat) (g : Int),
        ffmaV f mode a b (.fin j p g) = fround f mode (faddExact mode (fmulExact a b) (.fin j p g))) ∧
  (∀ f ∈ [fmt32, fmt64, fmt16, fmtB16, fmtE5M2], ∀ (mode : RMode) (n k : Bool) (m l : Nat) (e d : Int), m ≠ 0 → l ≠ 0 →
    let a := FVal.fin n m e
    let b := FVal.fin k l d
    RoundsOnce f mode (n != k) ((a.rat / b.rat : ℚ) : ℝ) (fdivV f mode a b) ∧
    RoundsOnce f mode n ((1 / a.rat : ℚ) : ℝ) (frcpV f mode a) ∧
    (n = false → RoundsOnce f mode false (Real.sqrt ((a.rat : ℚ) : ℝ)) (fsqrtV f mode a) ∧
      RoundsOnce f mode false (1 / Real.sqrt ((a.rat : ℚ) : ℝ)) (frsqV f mode a)) ∧
    (n = true → fsqrtV f mode a = (canonNaN f, flagIV) ∧ frsqV f mode a = (canonNaN f, flagIV)) ∧
    fdivV f mode a (.fin k 0 d) = (infBits f (n != k), flagDZ) ∧ fdivV f mode (.fin n 0 e) (.fin k 0 d) = (canonNaN f, flagIV) ∧
    fdivV f mode (.fin n 0 e) b = fround f mode (.fin (n != k) 0 0) ∧
    fsqrtV f mode (.fin n 0 e) = fround f mode (.fin n 0 e) ∧ frsqV f mode (.fin n 0 e) = (infBits f n, flagDZ)) ∧
  (∀ (f : FFmt) (mode : RMode) (n k : Bool) (m : Nat) (e : Int),
    faddV f mode (.inf n) (.inf k) = (if n = k then (infBits f n, 0) else (canonNaN f, flagIV)) ∧
    faddV f mode (.inf n) (.fin k m e) = (infBits f n, 0) ∧ faddV f mode (.fin k m e) (.inf n) = (infBits f n, 0) ∧
    fmulV f mode (.inf n) (.fin k 0 e) = (canonNaN f, flagIV) ∧ fmulV f mode (.fin k 0 e) (.inf n) = (canonNaN f, flagIV) ∧
    fdivV f mode (.inf n) (.inf k) = (canonNaN f, flagIV) ∧ fdivV f mode (.inf n) (.fin k m e) = (infBits f (n != k), 0) ∧
    fdivV f mode (.fin k m e) (.inf n) = fround f mode (.fin (k != n) 0 0) ∧
    frcpV f mode (.fin n 0 e) = (infBits f n, flagDZ) ∧ frcpV f mode (.inf n) = fround f mode (.fin n 0 0) ∧
    fsqrtV f mode (.inf n) = (if n then (canonNaN f, flagIV) else (infBits f false, 0)) ∧
    frsqV f mode (.inf n) = (if n then (canonNaN f, flagIV) else (0, 0)) ∧
    (f.noInf = false → fmulV f mode (.inf n) (.inf k) = (infBits f (n != k), 0) ∧
      (m ≠ 0 → fmulV f mode (.inf n) (.fin k m e) = (infBits f (n != k), 0) ∧
        fmulV f mode (.fin k m e) (.inf n) = (infBits f (k != n), 0))) ∧
    ∀ (c : FVal), c.isNaN = false →
      ffmaV f mode (.inf n) (.inf k) c = faddV f mode (.inf (n != k)) c ∧
      (m ≠ 0 → ffmaV f mode (.inf n) (.fin k m e) c = faddV f mode (.inf (n != k)) c ∧
        ffmaV f mode (.fin k m e) (.inf n) c = faddV f mode (.inf (k != n)) c) ∧
      ∀ (b : FVal) (l : Nat) (d : Int) (j : Bool), b = .fin j l d →
        ffmaV f mode (.fin k m e) b (.inf n) = (infBits f n, 0)) ∧
  (∀ (f : FFmt) (mode : RMode) (a b c : FVal),
    let iv (l : List FVal) : Flags := if l.any FVal.isSNaN then flagIV else 0
    (a.isNaN ∨ b.isNaN → faddV f mode a b = (canonNaN f, iv [a, b]) ∧ fmulV f mode a b = (canonNaN f, iv [a, b]) ∧
      fdivV f mode a b = (canonNaN f, iv [a, b])) ∧
    (a.isNaN → fsqrtV f mode a = (canonNaN f, iv [a]) ∧ frsqV f mode a = (canonNaN f, iv [a]) ∧
      frcpV f mode a = (canonNaN f, iv [a])) ∧
    (a.isNaN ∨ b.isNaN ∨ c.isNaN → ffmaV f mode a b c =
      (canonNaN f, if zeroTimesInf a b then flagIV else iv [a, b, c]))) ∧
  (∀ (f : FFmt) (isMax : Bool) (a b : Nat),
    let x := fdecode f a
    let y := fdecode f b
    (x.isNaN ∧ y.isNaN = false → (fminmaxV f isMax a b).1 = b) ∧ (x.isNaN = false ∧ y.isNaN → (fminmaxV f isMax a b).1 = a) ∧
    (x.isNaN ∧ y.isNaN → (fminmaxV f isMax a b).1 = canonNaN f) ∧
    ((fminmaxV f isMax a b).2 = if x.isSNaN ∨ y.isSNaN then flagIV else 0))

namespace Sys2Proof.Machine

/-- `r` is a number of the sign of `x`, no further from `x` than one part in 2^400, rounded once to FP32: what the
fixed-point work of FEXP2, FLOG2, FSIN and FCOS gives (log entry 55). -/
def RoundsNear (mode : RMode) (x : ℝ) (r : Nat × Flags) : Prop :=
  ∃ (neg : Bool) (y : ℝ), (neg = true ↔ y < 0) ∧ |y - x| ≤ |x| / 2 ^ 400 ∧ RoundsOnce fmt32 mode neg y r

/-- A value that is no NaN as an extended real number. -/
noncomputable def FVal.ext : FVal → EReal
  | .inf n => if n then ⊥ else ⊤
  | v => ((v.rat : ℝ) : EReal)

end Sys2Proof.Machine

/-- O15. For every finite FP32 operand x, FEXP2 rounds 2^x, FLOG2 of a positive x log2 x, FSIN sin(π x) and FCOS cos(π
x) once in the mode, each taken to one part in 2^400 of its exact value (that no operand comes nearer to a rounding
boundary is log entry 55); integers give FSIN a zero of their sign and n + 1/2 gives FCOS +0, exactly; the
infinities, the zeros, the negative numbers under FLOG2 and NaNs give the special values of Table 60. FSET and DSET
compare as extended real numbers, so that the zeros are equal, with a NaN making NE and NAN true and the other
conditions false, and IV for a signalling one; FMIN and FMAX of two numbers give the lower and the higher, −0 below
+0; FCLASS sets the bit of the class that the fields of the encoding give. (R87; R88; R151; R152; Table 52; Table
60; log entry 55) -/
def Obligations.FloatFunctions : Prop :=
  (∀ (mode : RMode) (b m : Nat) (n : Bool) (e : Int), fdecode fmt32 b = .fin n m e →
    let a := FVal.fin n m e
    let x : ℝ := (a.rat : ℝ)
    RoundsNear mode ((2 : ℝ) ^ x) (fexp2V mode a) ∧
    (m = 0 → flog2V mode a = (infBits fmt32 true, flagDZ)) ∧ (x < 0 → flog2V mode a = (canonNaN fmt32, flagIV)) ∧
    (0 < x → RoundsNear mode (Real.logb 2 x) (flog2V mode a)) ∧
    (if a.rat.den = 1 then fsinV mode a = (if n then 2 ^ 31 else 0, 0)
      else RoundsNear mode (Real.sin (Real.pi * x)) (fsinV mode a)) ∧
    (if a.rat.den = 2 then fcosV mode a = (0, 0) else RoundsNear mode (Real.cos (Real.pi * x)) (fcosV mode a))) ∧
  (∀ (mode : RMode) (n : Bool),
    fexp2V mode (.inf n) = (if n then 0 else infBits fmt32 false, 0) ∧
    flog2V mode (.inf n) = (if n then (canonNaN fmt32, flagIV) else (infBits fmt32 false, 0)) ∧
    fsinV mode (.inf n) = (canonNaN fmt32, flagIV) ∧ fcosV mode (.inf n) = (canonNaN fmt32, flagIV) ∧
    ∀ g ∈ [fexp2V, flog2V, fsinV, fcosV], g mode (.nan n) = (canonNaN fmt32, if n then flagIV else 0)) ∧
  (∀ (k : Nat) (a b : FVal), k < 8 →
    let un : Prop := a.isNaN = true ∨ b.isNaN = true
    ((fcond k a b).2 = if a.isSNaN ∨ b.isSNaN then flagIV else 0) ∧
    ((fcond k a b).1 = true ↔ match k with
      | 0 => ¬ un ∧ a.ext = b.ext
      | 1 => un ∨ a.ext ≠ b.ext
      | 2 => ¬ un ∧ a.ext < b.ext
      | 3 => ¬ un ∧ a.ext ≤ b.ext
      | 4 => ¬ un ∧ b.ext < a.ext
      | 5 => ¬ un ∧ b.ext ≤ a.ext
      | 6 => ¬ un
      | _ => un)) ∧
  (∀ (f : FFmt) (a b : Nat), (fdecode f a).isNaN = false → (fdecode f b).isNaN = false →
    let x := fdecode f a
    let y := fdecode f b
    let below : Prop := x.ext < y.ext ∨ (x.ext = y.ext ∧ x.isNeg = true ∧ y.isNeg = false)
    (below → (fminmaxV f false a b).1 = a ∧ (fminmaxV f true a b).1 = b) ∧
    (¬ below → (fminmaxV f false a b).1 = b ∧ (fminmaxV f true a b).1 = a)) ∧
  (∀ f ∈ [fmt32, fmt64], ∀ b : Nat,
    let sign : Prop := b / 2 ^ (f.fracBits + f.expBits) % 2 = 1
    let ex := b / 2 ^ f.fracBits % 2 ^ f.expBits
    let frac := b % 2 ^ f.fracBits
    fclassV f b = 2 ^ (if ex = 2 ^ f.expBits - 1 then
        (if frac = 0 then (if sign then 2 else 9) else if frac < 2 ^ (f.fracBits - 1) then 0 else 1)
      else if ex = 0 then (if frac = 0 then (if sign then 5 else 6) else if sign then 4 else 7)
      else if sign then 3 else 8))

namespace Sys2Proof.Machine

/-- A branch or call: whenever it issues with operands that raise no cause and every target of a writing lane can be a
PC, it completes; the writing lanes go to their targets with their window, the others to the next instruction; no
register changes but those that `enter` writes, and nothing else does. -/
def Branches (mk : Op → Instr) (m : Major) (own : Ctx → Prop) (target : Ctx → Nat → DWord) (window : Nat → Nat)
    (enter : Ctx → Lane → Lane) : Prop :=
  ∀ (o : Op) (s : State) (c : Ctx), Plain m o s c → own c →
    (∀ l ∈ c.writers, (target c l).toNat % 4 = 0 ∧ (target c l).toNat < 2 ^ 57) →
    ∃ t, exec (mk o) s = .next t ∧ OnlyFibres c s t ∧
      Regrouped c t c.writers (fun l => (target c l, window c.f.wb)) ∧
      ∀ l, t.lane c.r.gid c.r.weave l = if l ∈ c.writers then enter c (c.lane l) else c.lane l

/-- The absolute target of a literal, or PC + 4 × sext(displacement) (R135). -/
def dispTarget (c : Ctx) (_ : Nat) : DWord :=
  match c.o.lit with
  | some v => v
  | none => c.f.pc + 4 * c.o.imm22.signExtend 64

/-- A[a] + sext(b) + sext(IMM22), or with a literal or an immediate index as Table 44 has it (R135). -/
def regTarget (c : Ctx) (l : Nat) : DWord :=
  (c.regVals l).a + (lowWord (c.regVals l).b).signExtend 64 + c.o.own

/-- A call's return point, in G0 and G1 of the callee's window (R135). -/
def returnPoint (c : Ctx) (x : Lane) : Lane :=
  (x.setG (c.f.wb + 16) (BitVec.ofNat 32 (c.fall.toNat % 2 ^ 32))).setG (c.f.wb + 17)
    (BitVec.ofNat 32 (c.fall.toNat / 2 ^ 32 % 2 ^ 25))

/-- A barrier as BAR or BARB sees it. -/
def barrierOf (c : Ctx) (s : State) (ofBent : Bool) : Bar := s.barrier c.r.gid ofBent c.o.ownBits.toNat

/-- Arrival at a barrier (R31): the fibre parks and its lanes are counted; or, where they are the last that the barrier
expects, a new generation begins, the fibre goes on, and so does every fibre parked there, after its own BAR or BARB. -/
def Arrives (mk : Op → Instr) (m : Major) (ofBent : Bool) : Prop :=
  ∀ (o : Op) (s : State) (c : Ctx), Issues m o s c → c.each.flatMap (slotRefusals c) = [] → c.f.st = .ready →
    (∃ b, s.bent c.g.bent = some b ∧ b.uid = c.g.bent ∧ c.r.gid ∈ b.groups) →
    let b := barrierOf c s ofBent
    let n := b.count + (lanesOf c.f.lanes).length
    ∃ t, exec (mk o) s = .next t ∧
      (n ≠ s.expected c.r.gid ofBent →
        barrierOf c t ofBent = { b with count := n, age := some (b.age.getD 0) } ∧ t.mem = s.mem ∧
        ∃ f, t.fibre c.r = some f ∧ f.st = .parked ∧ f.wait = .bar ofBent o.ownBits.toNat ∧ f.pc = c.f.pc ∧
          f.lanes = c.f.lanes) ∧
      (n = s.expected c.r.gid ofBent → 0 < n →
        barrierOf c t ofBent = { count := 0, gen := b.gen + 1, age := none } ∧
        (∃ f, t.fibre c.r = some f ∧ f.st = .ready ∧ f.pc = c.fall ∧ f.lanes = c.f.lanes) ∧
        ∀ (r : FibreRef) (x : Fibre), r ≠ c.r → r.gid ∈ s.barGroups c.r.gid ofBent → s.fibre r = some x →
          x.st = .parked → x.wait = .bar ofBent o.ownBits.toNat →
          ∃ f, t.fibre r = some f ∧ f.st = .ready ∧ f.pc = x.pc + BitVec.ofNat 64 x.len ∧ f.lanes = x.lanes)

end Sys2Proof.Machine

/-- O16. Whenever it issues with operands that raise no cause and every target of a writing lane is a multiple of 4
below 2^57, each of BRA, CALL and RET in base and extended form, and BRX and CALLI, completes: each lane of wr goes
to its own target, lanes of one target and window in one fibre, the other lanes stay in the issuing fibre at the
next instruction; CALL and CALLI open a window 16 entries up and leave PC + len in its G0 and G1, RET closes one and
goes to the address in G0 and G1; no other register, fibre, group or byte changes. That writing lanes whose target
is the next address leave the fibre too is log entry 30 (DEDUCED). (R134; R135; R19; log entry 30) -/
def Obligations.BranchesAndCalls : Prop :=
  let fits : Ctx → Prop := fun c => c.wr ≠ 0 → c.f.wb + 32 ≤ c.g.gBudget
  let ret : Ctx → Nat → DWord := fun c l =>
    BitVec.ofNat 64 ((c.lane l).gAt c.f.wb).toNat + BitVec.ofNat 64 (((c.lane l).gAt (c.f.wb + 1)).toNat % 2 ^ 25 * 2 ^ 32)
  let same : Ctx → Lane → Lane := fun _ x => x
  Branches .bra .bra (fun _ => True) dispTarget id same ∧ Branches .braExt .bra (fun _ => True) dispTarget id same ∧
  Branches .call .call fits dispTarget (· + 16) returnPoint ∧ Branches .callExt .call fits dispTarget (· + 16) returnPoint ∧
  Branches .ret .ret (fun c => c.wr ≠ 0 → c.f.wb ≠ 0) ret (· - 16) same ∧
  Branches .retExt .ret (fun c => c.wr ≠ 0 → c.f.wb ≠ 0) ret (· - 16) same ∧
  Branches .brx .brx (fun _ => True) regTarget id same ∧ Branches .calli .calli fits regTarget (· + 16) returnPoint

/-- O17. Whenever it issues with operands that raise no cause and a target that can be a PC, LOOP lowers the counter of
each lane of wr by 1 modulo 2^32; the lanes whose new count is not 0 go to the target, all others to the next
instruction; with a K counter and UN = 1 the counter falls once and all lanes of wr take the same way. (R140; R135) -/
def Obligations.LoopCounts : Prop :=
  ∀ (o : Op) (s : State) (c : Ctx), Plain .loop o s c →
    (c.writers ≠ [] → (dispTarget c 0).toNat % 4 = 0 ∧ (dispTarget c 0).toNat < 2 ^ 57) →
    (∃ i, o.d = .g i ∧ o.un = false) ∨ (∃ i, o.d = .k i ∧ o.un = true) →
    let old (l : Nat) : Word := match o.d with
      | .g i => (c.lane l).gAt (c.f.wb + i.toNat)
      | .k i => c.g.kAt i.toNat
      | _ => 0
    ∃ t, exec (.loop o) s = .next t ∧ Calm c s t ∧
      Regrouped c t (c.writers.filter fun l => old l - 1 != 0) (fun _ => (dispTarget c 0, c.f.wb)) ∧
      (∀ l ∈ c.writers, match o.d with
        | .g i => t.lane c.r.gid c.r.weave l = (c.lane l).setG (c.f.wb + i.toNat) (old l - 1)
        | .k i => (t.group c.r.gid).map (fun g => g.kAt i.toNat) = some (old l - 1)
        | _ => True)

/-- O18. FORK (predicate P7, a target that can be a PC; under another predicate it is illegal, cause 11, and no lane
acts) brings exactly the dormant lanes that its mask names back to life, in one new fibre at the target with the
issuing fibre as its parent and the same window, each with the registers it held, and the issuing fibre goes on;
QUIT makes the lanes of wr dormant and EXIT makes them exited without a choice stack or kerf, keeping their
registers, while every other lane of the weave keeps its state. (R15; R136; R137; R285) -/
def Obligations.LaneLife : Prop :=
  (∀ (o : Op) (s : State) (c : Ctx), Issues .fork o s c → c.each.flatMap (slotRefusals c) = [] → o.pred = 7 →
    c.v.fibres.length ≤ 64 →
    (dispTarget c 0).toNat % 4 = 0 → (dispTarget c 0).toNat < 2 ^ 57 →
    let woken := (lanesOf (c.reg 0 true o.a)).filter fun l => l < c.v.size && (c.lane l).st == .dormant
    ∃ t, exec (.fork o) s = .next t ∧ Calm c s t ∧
      (∀ l, t.lane c.r.gid c.r.weave l = if l ∈ woken then { c.lane l with st := .live } else c.lane l) ∧
      (∀ h, t.group c.r.gid = some h →
        (woken ≠ [] → ∃ f ∈ (h.weave c.r.weave).fibres, f.lanes = maskOf woken ∧ f.pc = dispTarget c 0 ∧
          f.parent = c.f.id ∧ f.wb = c.f.wb ∧ f.st = .ready) ∧
        (∃ f ∈ (h.weave c.r.weave).fibres, f.id = c.r.fid ∧ f.pc = c.fall ∧ f.lanes = c.f.lanes ∧ f.st = .ready))) ∧
  (∀ (o : Op) (s : State) (c : Ctx), Issues .fork o s c → c.each.flatMap (slotRefusals c) = [] → o.pred ≠ 7 →
    exec (.fork o) s = .next (({ s with cur := none }).takeTrap c.r c.act 1 11 (wordsInfo (encodeOp .fork o)) [])) ∧
  (∀ (o : Op) (s : State) (c : Ctx), Issues .quit o s c → c.each.flatMap (slotRefusals c) = [] →
    ∀ mk ∈ [Instr.quit, Instr.quitExt], ∃ t, exec (mk o) s = .next t ∧
      ∀ l, let x := t.lane c.r.gid c.r.weave l
        x.st = (if l ∈ c.writers then .dormant else (c.lane l).st) ∧ x.g = (c.lane l).g ∧ x.x = (c.lane l).x ∧
        x.e = (c.lane l).e ∧ x.p = (c.lane l).p ∧ x.recs = (c.lane l).recs ∧ x.kerf = (c.lane l).kerf) ∧
  (∀ (o : Op) (s : State) (c : Ctx), Issues .exit o s c → c.each.flatMap (slotRefusals c) = [] →
    ∀ mk ∈ [Instr.exit, Instr.exitExt], ∃ t, exec (mk o) s = .next t ∧
      ∀ l, let x := t.lane c.r.gid c.r.weave l
        x.st = (if l ∈ c.writers then .exited else (c.lane l).st) ∧ x.g = (c.lane l).g ∧
        (l ∈ c.writers → x.recs = [] ∧ x.kerf = []) ∧
        (l ∉ c.writers → x.recs = (c.lane l).recs ∧ x.kerf = (c.lane l).kerf))

/-- O19. BAR and BARB make the issuing fibre arrive: its lanes are added to the barrier's count and it parks there,
memory unchanged; where that makes the count the number of live lanes the barrier expects, the count returns to 0, a
new generation begins, the fibre is ready at the next instruction, and every other fibre parked at the barrier, in
any group that takes part, is ready at the instruction after its own BAR or BARB. (R31; R138) -/
def Obligations.Barriers : Prop :=
  Arrives .bar .bar false ∧ Arrives .barExt .bar false ∧ Arrives .barb .barb true

/-- O20. NOP and YIELD in both forms, and SPAN of 1 to 32 registers within the budget, complete: the fibre is at the
next instruction, and nothing changes but the weave's yield mark after YIELD and its staged entries after SPAN,
which no program can read. FENCE completes too, putting a fence of each writing lane, at the scope named, on the
record of the memory order (log entry 52), where one is kept, and changes nothing else; a load that follows a fence
of its agent misses no store that the agent made or had seen before it, where the fence's scope is at least the
smallest one with both. (R45; R139; R141; R187; R188; R192; R209; log entry 52) -/
def Obligations.HintsAndStaging : Prop :=
  (∀ (o : Op) (s : State) (c : Ctx), Issues .nop o s c →
    exec (.nop o) s = .next (c.movedOn { s with cur := none }) ∧
    exec (.nopExt o) s = .next (c.movedOn { s with cur := none })) ∧
  (∀ (o : Op) (s : State) (c : Ctx), Issues .yield o s c →
    let u := { s with cur := none }.onWeave c.r.gid c.r.weave fun v => { v with yielded := true }
    exec (.yield o) s = .next (c.movedOn u) ∧ exec (.yieldExt o) s = .next (c.movedOn u)) ∧
  (∀ (o : Op) (s : State) (c : Ctx), Issues .span o s c → c.each.flatMap (slotRefusals c) = [] →
    let named := lanesOf o.ownBits
    1 ≤ named.length → named.length ≤ 32 → (∀ i ∈ named, c.f.wb + i < c.g.gBudget) →
    exec (.span o) s = .next (c.movedOn ({ s with cur := none }.onWeave c.r.gid c.r.weave fun v =>
      { v with staged := named.map (c.f.wb + ·) }))) ∧
  (∀ (o : Op) (s : State) (c : Ctx), Issues .fence o s c → c.each.flatMap (slotRefusals c) = [] →
    let u := c.writers.foldl (fun u l => u.fence (s.laneActor c.r.gid c.r.weave l) o.scope.toNat) { s with cur := none }
    exec (.fence o) s = .next (c.movedOn u) ∧ u = { s with cur := none, past := u.past } ∧
    (s.oracle = [] → u.past = s.past) ∧ (s.oracle ≠ [] → u.past.length = s.past.length + c.writers.length)) ∧
  (∀ (past : List Ev) (a : Actor) (fibre : DWord) (scope batch : Nat) (cells : List (ByteAt × Byte)) (i m j : Nat) (x y f : Ev),
    past[i]? = some x → past[m]? = some y → past[j]? = some f → x.act.writes = true → i ≤ m → m < j →
    ((m = i ∧ x.actor.same a = true) ∨ (i < m ∧ y.actor.same a = true ∧ y.act.reads = true ∧ x.act.overlaps y.act = true ∧
      y.act.missed.contains i = false)) →
    f.act = .fence → f.actor.same a = true → a.near fibre x.actor ≤ f.scope → a.level ≤ f.scope →
    ∀ z ∈ candidates past a fibre scope batch cells, z.at_ ≠ i)

/-- O21. Whenever it issues with operands that are no streams and raise no cause, SHFL writes to Gd of each lane the
value that the lane it names (IDX n, UP l − n, DOWN l + n, XOR l xor n) holds in Ga, and sets Pc, where that lane is
between 0 and 63 and runs in the issuing fibre; elsewhere the lane keeps its own value of Ga and clears Pc; a lane
outside wr gives its value but receives none. (R143) -/
def Obligations.Shuffle : Prop :=
  ∀ (o : Op) (s : State) (c : Ctx) (i : BitVec 6) (j : BitVec 3), Plain .shfl o s c → o.d = .g i → o.c = .p j →
    o.un = false → (∀ k, o.a ≠ .q k) →
    let from_ (l : Nat) : Int :=
      let n : Int := (lowWord (c.regVals l).b).toNat
      match bitsAt o.mod 0 2 with
      | 0 => n
      | 1 => l - n
      | 2 => l + n
      | _ => (l ^^^ (lowWord (c.regVals l).b).toNat : Nat)
    let ok (l : Nat) : Prop := 0 ≤ from_ l ∧ from_ l ≤ 63 ∧ c.f.lanes.getLsbD (from_ l).toNat = true
    ∃ u, exec (.shfl o) s = .next (c.movedOn u) ∧ OnlyLanes c s u ∧
      ∀ l ∈ c.writers, let x := u.lane c.r.gid c.r.weave l
        (ok l → x = ((c.lane l).setG (c.f.wb + i.toNat) (lowWord (c.regVals (from_ l).toNat).a)).setPred j.toNat true) ∧
        (¬ ok l → x = ((c.lane l).setG (c.f.wb + i.toNat) (lowWord (c.regVals l).a)).setPred j.toNat false)

namespace Sys2Proof.Machine

/-- The rational value of an FP32 word that is finite. -/
def ratOf32 (w : Word) : ℚ := (fdecode fmt32 w.toNat).rat

/-- A rational lies in the interval of an X register that is not INVALID (R49, R50). -/
def XReg.holds (x : XReg) (v : ℚ) : Prop :=
  x.invalid = false ∧
  (match fdecode fmt32 x.lo.toNat with
    | .fin n m e => (FVal.fin n m e).rat ≤ v
    | .inf n => n = true
    | _ => False) ∧
  (match fdecode fmt32 x.hi.toNat with
    | .fin n m e => v ≤ (FVal.fin n m e).rat
    | .inf n => n = false
    | _ => False)

/-- What a node holds of a source (R54): its handle; the value itself, inline, of a point without one; else the handle of an
OPAQUE leaf of its bounds. -/
def Group.names (h : Group) (x : XReg) (w : Word) (isInline : Bool) : Prop :=
  if x.handle ≠ 0 then w = x.handle.setWidth 32 ∧ isInline = false
  else if x.lo = x.hi then w = x.lo ∧ isInline = true
  else isInline = false ∧ ∃ q, tfind h.nodes w.toNat = some q ∧ q.op = opOPAQUE ∧ q.left = x.lo ∧ q.right = x.hi

/-- The log of `h` holds at a handle the node that `v` asks for, over its sources, reference counts apart. -/
def Group.holdsNode (h : Group) (handle : Nat) (n : Node) (v : XMake) : Prop :=
  ∃ m, tfind h.nodes handle = some m ∧ m.op = n.op ∧ (v.kids = [] → m.left = n.left ∧ m.right = n.right ∧ m.aux = n.aux) ∧
    (∀ a, v.kids = [a] → h.names a m.left (m.aux.getLsbD 0)) ∧
    (∀ a b, v.kids = [a, b] → h.names a m.left (m.aux.getLsbD 0) ∧ h.names b m.right (m.aux.getLsbD 1)) ∧
    (∀ k, v.cont = some k → ∃ q, tfind h.nodes (handle + 1) = some q ∧ { q with refs := k.refs, pinned := k.pinned } = k)

/-- An X register holds a value in its tightest FP32 interval (R50, R52). -/
def XReg.tight (x : XReg) (v : ℚ) : Prop :=
  x.holds v ∧ ∀ b n k e, b < 2 ^ 32 → fdecode fmt32 b = .fin n k e → let y := (FVal.fin n k e).rat
    (y ≤ v → ∃ m j d, fdecode fmt32 x.lo.toNat = .fin m j d ∧ y ≤ (FVal.fin m j d).rat) ∧
    (v ≤ y → ∃ m j d, fdecode fmt32 x.hi.toNat = .fin m j d ∧ (FVal.fin m j d).rat ≤ y)

/-- A log in its form: handles from 1 up in rising order, within 24 bits. -/
def Group.logOrdered (g : Group) : Prop :=
  (g.nodes.map (·.1)).Pairwise (· < ·) ∧ (∀ p ∈ g.nodes, 1 ≤ p.1) ∧ g.logCap ≤ 2 ^ 24

/-- Every node that stood in the log stands there still, as it was but for its reference count. -/
def Group.keepsLog (g h : Group) : Prop :=
  ∀ k p, tfind g.nodes k = some p → ∃ q, tfind h.nodes k = some q ∧ { q with refs := p.refs, pinned := p.pinned } = p

/-- `t` is `s` after X registers `i` were made by `val` in some lanes of the issuing weave: each of these lanes has there the
interval, the markings and the status of `val`, under the handle of the node that was appended for it or the handle that
`val` copies; every node of the log stands as it was but for its reference count; nothing else differs. -/
structure Made (c : Ctx) (s t : State) (i : Nat) (val : Nat → XMake) : Prop
    extends Framed (fun g => { g with weaves := [], nodes := [] }) c s t where
  rest  : t = { s with cur := none, groups := t.groups, oracle := t.oracle }
  fibre : t.fibre c.r = some c.resumed
  lanes : ∀ l, let x := t.lane c.r.gid c.r.weave l
    if l ∈ c.doers then
      let v := val l
      let y := x.xAt i
      { y with handle := 0 } = { v.reg with handle := 0 } ∧ (v.node = none → y.handle = v.reg.handle) ∧
      { x with x := (c.lane l).x } = { c.lane l with sticky := (c.lane l).sticky ||| v.flags } ∧
      (∀ j, j ≠ i → x.xAt j = (c.lane l).xAt j)
    else x = c.lane l
  log   : c.g.logOrdered → ∀ h, t.group c.r.gid = some h → c.g.keepsLog h ∧
    ∀ l ∈ c.doers, ∀ n, (val l).node = some n →
      h.holdsNode ((t.lane c.r.gid c.r.weave l).xAt i).handle.toNat n (val l)

/-- An instruction that makes an X register in each lane: whenever it issues at once with operands that raise no cause and
its nodes fit the log without its spill region, it completes, and changes only the registers, status and log so. -/
def Makes (mk : Op → Instr) (m : Major) (ok : Op → Prop) (val : Op → Ctx → Nat → Vals → XMake) : Prop :=
  ∀ (o : Op) (s : State) (c : Ctx) (i : BitVec 5), Plain m o s c → ok o → o.d = .x i →
    c.g.nodes.length + ((c.doers.map fun l => val o c l (c.regVals l)).map XMake.need).sum < c.g.logStore →
    ∃ t, exec (mk o) s = .next t ∧ Made c s t i.toNat fun l => val o c l (c.regVals l)

/-- An interval operation (R53): its interval, a node of its operation over its sources; a new INVALID sets IV. -/
def opOf (op : Nat) (one : Bool) (o : Op) (c : Ctx) (l : Nat) (_ : Vals) : XMake :=
  let a := c.xSrc l o.a
  let b := if one then a else c.xSrc l o.b
  let x := xOp op a b
  if x.invalid then { lane := l, reg := x, flags := if a.invalid ∨ b.invalid then 0 else flagIV }
  else { lane := l, reg := x, node := some { op := op, refs := 0, pinned := false, left := 0, right := 0, aux := 0 },
         kids := if one then [a] else [a, b] }

end Sys2Proof.Machine

/-- O22. Whenever it issues with operands that raise no cause and room in the log, each of XADD, XSUB and XMUL in base
and extended form, XDIV, XSQRT, XMIN and XMAX, and XMOV with NEG or ABS completes with the interval of its operation
in Xd of each lane that computes, INVALID with status IV where that is new, and a node of its operation over its
sources in the expression log (a source with handle 0 inline when it is a point, else as an OPAQUE leaf); XMOV
copies a register with its handle, and makes a leaf from an FP32 word, INVALID with IV from a NaN or an infinity;
every node that stood in the log stays as it was but for its reference count, and no other register, fibre, group or
byte changes. (R51; R53; R54; R61; R153; R154; Table 23) -/
def Obligations.IntervalOperations : Prop :=
  let any : Op → Prop := fun _ => True
  let xmov : Op → Ctx → Nat → Vals → XMake := fun o c l v =>
    match o.a with
    | .x _ => if bitsAt o.mod 0 2 = 0 then { lane := l, reg := c.xSrc l o.a }
        else opOf (if bitsAt o.mod 0 2 = 1 then opNEG else opABS) true o c l v
    | _ =>
      match fdecode fmt32 (lowWord v.a).toNat with
      | .fin _ m _ =>
        let w := if m = 0 then 0 else lowWord v.a
        { lane := l, reg := { lo := w, hi := w, exact := true }
          node := some { op := opLEAF32, refs := 0, pinned := false, left := w, right := 0, aux := 0 } }
      | _ => { lane := l, reg := xInvalid, flags := flagIV }
  Makes .xadd .xadd any (opOf opADD false) ∧ Makes .xaddExt .xadd any (opOf opADD false) ∧
  Makes .xsub .xsub any (opOf opSUB false) ∧ Makes .xsubExt .xsub any (opOf opSUB false) ∧
  Makes .xmul .xmul any (opOf opMUL false) ∧ Makes .xmulExt .xmul any (opOf opMUL false) ∧
  Makes .xdiv .xdiv any (opOf opDIV false) ∧ Makes .xsqrt .xsqrt any (opOf opSQRT true) ∧
  Makes .xmin .xmin any (opOf opMIN false) ∧ Makes .xmax .xmax any (opOf opMAX false) ∧
  Makes .xmov .xmov any xmov ∧ Makes .xmovExt .xmov any xmov

/-- O23. Whenever they issue with operands that raise no cause and room in the log, SEVER makes Xd an OPAQUE leaf of the
bounds of Xa (a point becomes an exact leaf, INVALID stays so); SNAP makes it the exact leaf of the midpoint of the
bounds rounded to the nearest FP32 value, an infinite bound taken as the largest finite value of its sign, or of the
point itself (INVALID stays so); XBND writes the lower bound, the upper bound (0x7FC0_0000 for both when INVALID),
the flags or the handle of Xa; every node of the log, the history of Xa among them, stays as it was but for its
reference count, and no other register, fibre, group or byte changes. (R55; R61; R63; R64; R156; R157) -/
def Obligations.SeverSnapBounds : Prop :=
  let point (l : Nat) (w : Word) : XMake :=
    match fdecode fmt32 w.toNat with
    | .fin _ m _ =>
      let w := if m = 0 then 0 else w
      { lane := l, reg := { lo := w, hi := w, exact := true }
        node := some { op := opLEAF32, refs := 0, pinned := false, left := w, right := 0, aux := 0 } }
    | _ => { lane := l, reg := xInvalid, flags := flagIV }
  Makes .sever .sever (fun _ => True) (fun o c l _ =>
    let a := c.xSrc l o.a
    if a.invalid then { lane := l, reg := xInvalid }
    else if a.lo = a.hi then point l a.lo
    else { lane := l, reg := { lo := a.lo, hi := a.hi, exact := false, opq := true, invalid := a.invalid }
           node := some { op := opOPAQUE, refs := 0, pinned := false, left := a.lo, right := a.hi, aux := 0 } }) ∧
  Makes .snap .snap (fun _ => True) (fun o c l _ =>
    let a := c.xSrc l o.a
    if a.invalid then { lane := l, reg := xInvalid } else point l (snapVal a)) ∧
  (∀ a : XReg, a.lo = a.hi → snapVal a = a.lo) ∧
  (∀ (a : XReg) (n k : Bool) (m l : Nat) (e d : Int), a.lo ≠ a.hi →
    let cap (w : Word) : Word := if w = 0xFF800000 then 0xFF7FFFFF else if w = 0x7F800000 then 0x7F7FFFFF else w
    fdecode fmt32 (cap a.lo).toNat = .fin n m e → fdecode fmt32 (cap a.hi).toNat = .fin k l d →
    let x : ℚ := ((FVal.fin n m e).rat + (FVal.fin k l d).rat) / 2
    ∃ j p q, fdecode fmt32 (snapVal a).toNat = .fin j p q ∧ IsRounding fmt32 .rn x (FVal.fin j p q).rat ∧
      (|(FVal.fin j p q).rat - x| * 2 = (2 : ℚ) ^ q → p % 2 = 0)) ∧
  Computes .xbnd .xbnd (fun o c l _ =>
    let a := c.xSrc l o.a
    (zext32 (match bitsAt o.mod 0 2 with
      | 0 => if a.invalid then 0x7FC00000 else a.lo
      | 1 => if a.invalid then 0x7FC00000 else a.hi
      | 2 => BitVec.ofNat 32 ((if a.exact then 1 else 0) + (if a.opq then 2 else 0) + (if a.invalid then 4 else 0))
      | _ => a.handle.setWidth 32), 0))

/-- O24. For every value in the interval of each source, the exact sum, difference, product, quotient (divisor not 0),
negation, absolute value, minimum and maximum lies in the interval of the result, whenever that is not INVALID: an X
register never loses the value it stands for. (R51; R52; Table 23) -/
def Obligations.IntervalInclusion : Prop :=
  ∀ (a b : XReg) (x y : ℚ), a.holds x → b.holds y →
    let ok (op : Nat) (v : ℚ) : Prop := (xOp op a b).invalid = false → (xOp op a b).holds v
    ok opADD (x + y) ∧ ok opSUB (x - y) ∧ ok opMUL (x * y) ∧ (y ≠ 0 → ok opDIV (x / y)) ∧ ok opNEG (-x) ∧ ok opABS |x| ∧
    ok opMIN (min x y) ∧ ok opMAX (max x y)

namespace Sys2Proof.Machine

/-- A decision (R67 to R69): the lanes whose intervals decide write their predicates and go on; the others form one
refining fibre at the instruction, and each has sent one request. -/
def Decides (mk : Op → Instr) (m : Major) (own : Op → Prop) (kind : Op → ReqKind) (src : Op → Ctx → Nat → XReg × XReg)
    (sign : Op → Ctx → Nat → Option Ordering) (write : Op → Ordering → Lane → Lane) : Prop :=
  ∀ (o : Op) (s : State) (c : Ctx), Plain m o s c → own o →
    (∀ l ∈ c.doers, (src o c l).1.invalid = false ∧ (src o c l).2.invalid = false) → c.v.fibres.length < 64 →
    let open_ := c.doers.filter fun l => (sign o c l).isNone
    ∃ t, exec (mk o) s = .next t ∧ t.mem = s.mem ∧ (∀ k, k ≠ c.r.gid → t.group k = s.group k) ∧
      (∀ l, t.lane c.r.gid c.r.weave l = match sign o c l with
        | some r => if l ∈ c.doers then write o r (c.lane l) else c.lane l
        | none => c.lane l) ∧
      (open_ = [] → t.fibre c.r = some c.resumed) ∧
      (∀ l ∈ open_, let y := t.bayAt (s.bayOf c.r.gid)
        ∃ q, { c.request l (kind o) (src o c l).1 (src o c l).2 with op := q } ∈ y.lap ++ y.lapWait) ∧
      (open_ ≠ [] → ∃ h, t.group c.r.gid = some h ∧
        (∃ f ∈ (h.weave c.r.weave).fibres, f.st = .refining ∧ f.lanes = maskOf open_ ∧ f.pc = c.f.pc) ∧
        (c.f.lanes &&& ~~~maskOf open_ ≠ 0 → ∃ f ∈ (h.weave c.r.weave).fibres, f.id = c.r.fid ∧ f.st = .ready ∧
          f.pc = c.fall ∧ f.lanes = c.f.lanes &&& ~~~maskOf open_))

end Sys2Proof.Machine

/-- O25. XSGN (Pp other than Pn, or both P7) and XCMP with no INVALID source complete: a lane whose interval is wholly
above or below 0, or is the point 0 (XCMP: whose intervals do not overlap, or are one equal point), sets its
predicates by the sign and goes on; the other lanes send one request each to the lapidary and stay at the
instruction as one refining fibre; memory does not change. (R19; R67; R68; R69; R155) -/
def Obligations.Decisions : Prop :=
  let cmp (a b : XReg) : Option Ordering :=
    if a.ival.1.cmp b.ival.2 = .gt then some .gt else if a.ival.2.cmp b.ival.1 = .lt then some .lt
    else if a.ival.1.cmp a.ival.2 = .eq ∧ b.ival.1.cmp b.ival.2 = .eq ∧ a.ival.1.cmp b.ival.1 = .eq then some .eq
    else none
  let put (x : Opnd) (b : Bool) (y : Lane) : Lane := match x with
    | .p i => y.setPred i.toNat b
    | _ => y
  Decides .xsgn .xsgn (fun o => o.d ≠ o.b ∨ o.d = .p 7) (fun o => .sgn o.d o.b) (fun o c l => (c.xSrc l o.a, {}))
    (fun o c l => cmp (c.xSrc l o.a) {}) (fun o r y => put o.b (r == .lt) (put o.d (r == .gt) y)) ∧
  Decides .xcmp .xcmp (fun _ => True) (fun o => .cmp (bitsAt o.mod 5 3) o.d)
    (fun o c l => (c.xSrc l o.a, c.xSrc l o.b)) (fun o c l => cmp (c.xSrc l o.a) (c.xSrc l o.b))
    (fun o r y => put o.d (condOf (bitsAt o.mod 5 3) r) y)

/-- O26. Whenever it issues with operands that raise no cause, XREF goes on to the next instruction; where stage 0 is
asked for, or Xa has no node, Xd becomes a copy of Xa at once, and where a stage is asked for of an INVALID Xa,
INVALID; in every other lane a request for the stage is with the bay's lapidary and the lane is as it was, until the
answer; memory does not change. (R75; R157) -/
def Obligations.XrefAsks : Prop :=
  ∀ (o : Op) (s : State) (c : Ctx) (i : BitVec 5), Plain .xref o s c → o.d = .x i →
    ∃ t, exec (.xref o) s = .next t ∧ t.mem = s.mem ∧ (∀ k, k ≠ c.r.gid → t.group k = s.group k) ∧
      t.fibre c.r = some c.resumed ∧ (∀ l, l ∉ c.doers → t.lane c.r.gid c.r.weave l = c.lane l) ∧
      ∀ l ∈ c.doers, let a := c.xSrc l o.a
        if o.ownBits = 0 ∨ a.handle = 0 ∨ a.invalid then
          t.lane c.r.gid c.r.weave l = (c.lane l).setX i.toNat (if o.ownBits ≠ 0 ∧ a.invalid then xInvalid else a)
        else t.lane c.r.gid c.r.weave l = c.lane l ∧
          ∃ q, { c.request l (.xref i.toNat o.ownBits.toNat) a {} with op := q } ∈
            (t.bayAt (s.bayOf c.r.gid)).lap ++ (t.bayAt (s.bayOf c.r.gid)).lapWait

namespace Sys2Proof.Machine

/-- A rational rounded to an integer in a mode, ties to even (Table 36). -/
def intOf (mode : RMode) (x : ℚ) : ℤ :=
  match mode with
  | .rn => if x - ⌊x⌋ < 1 / 2 then ⌊x⌋ else if 1 / 2 < x - ⌊x⌋ then ⌊x⌋ + 1 else if ⌊x⌋ % 2 = 0 then ⌊x⌋ else ⌊x⌋ + 1
  | .rz => if x < 0 then ⌈x⌉ else ⌊x⌋
  | .ru => ⌈x⌉
  | .rd => ⌊x⌋

/-- The value that the low bits of a lane type stand for (Tables 31 and 64, R159). -/
def laneValue (code bits : Nat) : FVal :=
  let signed (w : Nat) : FVal := fvalInt (BitVec.ofNat w bits).toInt
  match code with
  | 0 => fdecode fmt32 (bits % 2 ^ 32)
  | 1 => fdecode fmt16 (bits % 2 ^ 16)
  | 2 => fdecode fmtB16 (bits % 2 ^ 16)
  | 3 => fdecode fmtE4M3 (bits % 2 ^ 8)
  | 4 => fdecode fmtE5M2 (bits % 2 ^ 8)
  | 8 => signed 8
  | 9 => fvalInt (bits % 2 ^ 8 : Nat)
  | 10 => signed 4
  | 11 => fvalInt (bits % 2 ^ 4 : Nat)
  | 12 => signed 32
  | 13 => fvalInt (bits % 2 ^ 32 : Nat)
  | _ => fdecode fmt64 (bits % 2 ^ 64)

/-- The exact sum of an FP32 operand and a residue, one that is not finite read as +0 (R92). -/
def fedBy (x e : Nat) (y : FVal) : Prop :=
  ∃ n m d, y = .fin n m d ∧ y.rat = (fdecode fmt32 x).rat + (fdecode fmt32 e).rat

/-- R85 for one block of finite or infinite values: the shared exponent `ex`, the shifts `t` of the quarters, the element
codes and whether they saturate. -/
structure SxEncoded (w : Nat) (y : Nat → FVal) (ex : ℤ) (t code : Nat → Nat) (sat : Nat → Bool) : Prop where
  exponent : (∃ i < 16, (y i).isInf = true) ∧ ex = 254 ∨ (∀ i < 16, (y i).isInf = false) ∧
    ∃ a : ℚ, (∃ i < 16, a = |(y i).rat|) ∧ (∀ i < 16, |(y i).rat| ≤ a) ∧ (a = 0 ∧ ex = 0 ∨ ∃ k : ℤ, (2 : ℚ) ^ k ≤ a ∧
      a < (2 : ℚ) ^ (k + 1) ∧ let e := min 254 (max 0 (k + 128))
        ex = if e < 254 ∧ 2 ^ (w - 1) - 1 < intOf .rn (a * 2 ^ (w - 1) / (2 : ℚ) ^ (e - 127)) then e + 1 else e)
  shifts : ∀ q < 4, t q ≤ 3 ∧
    let fits (k : Nat) : Prop := ∀ i < 16, i / 4 = q → (y i).isInf = false ∧
      intOf .rn (|(y i).rat| * 2 ^ (w - 1) / (2 : ℚ) ^ (ex - 127 - k)) ≤ 2 ^ (w - 1) - 1
    (t q ≠ 0 → fits (t q)) ∧ ∀ k, t q < k → k ≤ 3 → ¬ fits k
  element : ∀ i < 16, ∃ mag : Nat,
    (if (y i).isInf then mag = 2 ^ (w - 1) - 1 ∧ sat i = true
      else let g := intOf .rn (|(y i).rat| * 2 ^ (w - 1) / (2 : ℚ) ^ (ex - 127 - t (i / 4)))
        (mag : ℤ) = min g (2 ^ (w - 1) - 1) ∧ (sat i = true ↔ 2 ^ (w - 1) - 1 < g)) ∧
    code i = if (y i).isNeg then (2 ^ w - mag) % 2 ^ w else mag

end Sys2Proof.Machine

/-- O27. Whenever it issues with operands that raise no cause, CVT to a lane type writes the value of its source rounded
once to that type (an integer type in its range, else the limit with IV; equal types copy, a NaN made canonical),
CVT to an X register makes the leaf of its FP32, FP64 or integer source, CVTF writes the narrowed exact sum of its
operand and a residue register and keeps in that register what the narrowing lost, rounded once to FP32, or 0 where
it saturated (with UN the register of the one computing lane, which log entry 57 settles), SXP writes the elements
of each block of 16 lanes encoded as R85 gives, with feedback their residues, and SXU writes the element of its lane
under its header; each completes, and no register but the destination, the residue register and the sticky status,
no fibre, no other group and no byte of memory changes. (R83; R85; R88; R91; R92; R93; R158; R159; R160; R213; Table
37; log entry 57) -/
def Obligations.Conversions : Prop :=
  (∀ (o : Op) (s : State) (c : Ctx), Plain .cvt o s c → bitsAt o.mod 2 4 ≠ 15 →
    ∃ u, exec (.cvt o) s = .next (c.movedOn u) ∧ Wrote c s u (fun _ v =>
      let r := cvtLane (rmodeOf (bitsAt o.mod 0 2)) (bitsAt o.mod 2 4) (bitsAt o.mod 6 4) v.a.toNat
      (BitVec.ofNat 64 r.1, r.2))) ∧
  (∀ (mode : RMode) (bits : Nat), ∀ src ∈ [0, 1, 2, 3, 4, 8, 9, 10, 11, 12, 13, 14],
    (∀ dst f, floatFmt dst = some f → dst ≠ src →
      cvtLane mode dst src bits = fround f mode (laneValue src bits) ∧ convertTo mode dst (laneValue src bits) =
        cvtLane mode dst src bits) ∧
    (∀ f, floatFmt src = some f → cvtLane mode src src bits = if (laneValue src bits).isNaN then
        (canonNaN f, if (laneValue src bits).isSNaN then flagIV else 0) else (bits % 2 ^ elemBits src, 0)) ∧
    (∀ dst lo hi, intRange dst = some (lo, hi) →
      let r := cvtLane mode dst src bits
      r = convertTo mode dst (laneValue src bits) ∧
      match laneValue src bits with
      | .nan _ => r = (0, flagIV)
      | .inf n => r = (((if n then lo else hi) % 2 ^ 32).toNat, flagIV)
      | .fin n m e =>
        let x := (FVal.fin n m e).rat
        let q := intOf mode x
        r = if q < lo then ((lo % 2 ^ 32).toNat, flagIV) else if hi < q then ((hi % 2 ^ 32).toNat, flagIV)
          else ((q % 2 ^ 32).toNat, if (q : ℚ) = x then 0 else flagNX))) ∧
  Makes .cvt .cvt (fun o => bitsAt o.mod 2 4 = 15) (fun o _ l v =>
    match bitsAt o.mod 6 4 with
    | 0 => leaf32 l (lowWord v.a)
    | 14 => leaf64 l v.a
    | 12 => leafInt false l (lowWord v.a)
    | _ => leafInt true l (lowWord v.a)) ∧
  (∀ (o : Op) (s : State) (c : Ctx), Plain .cvtf o s c → ∃ u, exec (.cvtf o) s = .next (c.movedOn u) ∧ OnlyLanes c s u ∧
    ∀ l ∈ c.writers, u.lane c.r.gid c.r.weave l =
        let k := c.doerOf l
        let n := bitsAt o.mod 4 2
        let r := cvtfLane (bitsAt o.mod 0 4) (lowWord (c.regVals k).a).toNat
          (if o.mod.getLsbD 6 then 0 else ((c.lane k).eAt n).toNat)
        let x := (c.lane l).given c.f.wb o.d (wideSlot c.slots.1) (BitVec.ofNat 64 r.1)
        if k = l then { x with e := tput 0 x.e n (BitVec.ofNat 32 r.2.1), sticky := x.sticky ||| r.2.2 } else x) ∧
  (∀ (x e : Nat), ∀ dst ∈ [1, 2, 3, 4, 8, 9, 10, 11],
    let r := cvtfLane dst x e
    match fdecode fmt32 x with
    | .fin _ _ _ => ∃ y, fedBy x e y ∧ (r.1, r.2.2) = convertTo .rn dst y ∧
        if r.2.2 &&& (if (intRange dst).isSome then flagIV else flagOF) ≠ 0 then r.2.1 = 0
        else ∃ n m d, (FVal.fin n m d).rat = y.rat - (laneValue dst r.1).rat ∧ r.2.1 = (froundFin fmt32 .rn n m d).1
    | v => (r.1, r.2.2) = convertTo .rn dst v ∧ r.2.1 = 0) ∧
  (∀ (o : Op) (s : State) (c : Ctx), Plain .sxp o s c → o.un = false → ∃ u, exec (.sxp o) s = .next (c.movedOn u) ∧
    OnlyLanes c s u ∧ ∀ l ∈ c.writers, let n := bitsAt o.mod 4 2
      let old (k : Nat) : Word := if o.mod.getLsbD 7 then 0 else (c.lane k).eAt n
      let block := sxpBlock (bitsAt o.mod 0 4) (o.mod.getLsbD 6)
        ((c.writers.filter fun k => k / 16 == l / 16).map fun k => (k, lowWord (c.regVals k).a, old k))
      ∃ w e fl, (l, w, e, fl) ∈ block ∧
        let x := (c.lane l).given c.f.wb o.d (wideSlot c.slots.1) (zext32 w)
        u.lane c.r.gid c.r.weave l = { (if o.mod.getLsbD 6 then { x with e := tput 0 x.e n (e.getD (old l)) } else x) with
          sticky := x.sticky ||| fl }) ∧
  (∀ fmt ∈ [5, 6, 7], ∀ (feedback : Bool) (part : List (Nat × Word × Word)), (part.map fun p => p.1 % 16).Nodup →
    if part.any fun p => (fdecode fmt32 p.2.1.toNat).isNaN then
      sxpBlock fmt feedback part = part.map fun p => (p.1, 0xFF000000, none, flagIV)
    else ∃ y ex t code sat, SxEncoded (sxWidth fmt) y ex t code sat ∧ (∀ i < 16, match part.find? fun p => p.1 % 16 == i with
        | none => y i = .fin false 0 0
        | some p => if feedback = true ∧ (fdecode fmt32 p.2.1.toNat).isInf = false then fedBy p.2.1.toNat p.2.2.toNat (y i)
            else y i = fdecode fmt32 p.2.1.toNat) ∧
      let header : Nat := ex.toNat * 2 ^ 8 + t 3 * 2 ^ 6 + t 2 * 2 ^ 4 + t 1 * 2 ^ 2 + t 0
      ∃ res : Nat → Word, (∀ i < 16, sat i = false → ∃ n m d, (res i).toNat = (froundFin fmt32 .rn n m d).1 ∧
          (FVal.fin n m d).rat = (y i).rat - (sxDecode fmt header (code i) i).rat) ∧
        sxpBlock fmt feedback part = part.map fun p => (p.1, BitVec.ofNat 32 (header * 2 ^ 16 + code (p.1 % 16)),
          if feedback then some (if sat (p.1 % 16) then 0 else res (p.1 % 16)) else none,
          if sat (p.1 % 16) then flagOF else 0)) ∧
  Computes .sxu .sxu (fun o _ l v =>
    let x := sxDecode (bitsAt o.mod 0 4) ((lowWord v.a).toNat / 2 ^ 16) ((lowWord v.a).toNat % 2 ^ 16) (l % 16)
    (BitVec.ofNat 64 (if x.isNaN then 0x7FC00000 else toF32 x), 0)) ∧
  (∀ fmt ∈ [5, 6, 7], ∀ header code i : Nat, header < 2 ^ 16 → i < 16 →
    if header / 2 ^ 8 = 255 then (sxDecode fmt header code i).isNaN = true
    else ∃ n m d, sxDecode fmt header code i = .fin n m d ∧ (FVal.fin n m d).rat =
      ((BitVec.ofNat (sxWidth fmt) code).toInt : ℚ) *
        (2 : ℚ) ^ ((header / 2 ^ 8 : Nat) - 127 - (header / 4 ^ (i / 4) % 4 : Nat) - (sxWidth fmt - 1 : Nat) : ℤ))

namespace Sys2Proof.Machine

/-- A place in memory of the package, of a host or of a peer, or in a typed store: reading it changes nothing. -/
def Loc.quiet (s : State) : Loc → Prop
  | .phys segs => ∀ p ∈ segs, p.1 < 3 * 2 ^ 48 ∧ s.physBad p.1 = none
  | _ => True

/-- The bytes of physical memory that a place names. -/
def Loc.covers (l : Loc) (a : Nat) : Prop :=
  match l with
  | .phys segs => ∃ p ∈ segs, p.1 ≤ a ∧ a < p.1 + p.2
  | _ => False

/-- Every lane that computes finds the place of its memory operand, aligned, translated and in range (R201); `g.st` is the
state after the translations, which may have set A and D bits of page tables (R309; log entry 49 for a repinned granule). -/
def Reaches (c : Ctx) (s : State) (later : Bool) (use : MemUse) (g : Gather) : Prop :=
  c.ready later (some use) { s with cur := none } = .ok (g, { s with cur := none }) ∧ g.bad = none ∧ g.late = [] ∧
  ∀ i ∈ g.ins, i.place.quiet g.st

/-- The bytes that a lane reads at its place. -/
def bytesOf (c : Ctx) (g : Gather) (n l : Nat) : List Byte :=
  ((g.ins.find? fun i => i.lane == l).map fun i => (g.st.loadAt c.r.gid (g.st.bayOf c.r.gid) i.place n).2).getD []

/-- The place of an operand that is aligned to its size, in the space and with the index that MOD gives (R200, R201). -/
def operandOf (c : Ctx) (n align : Nat) (acc : Access) : MemUse :=
  { space := bitsAt c.o.mod 4 2, size := n, align := align, acc := acc
    ea := fun _ v =>
      let idx : DWord := if c.o.mod.getLsbD 12 then (lowWord v.b).signExtend 64 * BitVec.ofNat 64 (2 ^ bitsAt c.o.mod 9 3)
        else 0
      some (if bitsAt c.o.mod 4 2 = 0 then v.a + idx + c.o.own
        else BitVec.ofNat 64 ((v.a + idx + c.o.own).toNat % 2 ^ 32)) }

/-- LDX's operand (R204): global, the index scaled by MOD[14:13]. -/
def indexedOf (c : Ctx) (n : Nat) : MemUse :=
  { space := 0, size := n, align := n, acc := .load
    ea := fun _ v => some (v.a + (if c.o.mod.getLsbD 12 then (lowWord v.b).signExtend 64 *
      BitVec.ofNat 64 (2 ^ bitsAt c.o.mod 13 2) else 0) + c.o.own) }

/-- The run has no open choice left to take: no load then misses a store (log entry 52). -/
def Gather.settledMemory (g : Gather) : Prop := g.st.oracle = []

/-- A load of one value a lane: to G, K or A, and to X as a leaf. -/
def Loads (mk : Op → Instr) (m : Major) (use : Ctx → Nat → MemUse) : Prop :=
  ∀ (o : Op) (s : State) (c : Ctx) (g : Gather), Plain m o s c →
    let ty := bitsAt o.mod 0 4
    let n := typeSize ty
    Reaches c s false (use c n) g → g.st.group c.r.gid = some c.g → g.settledMemory →
    ((∀ i, o.d ≠ .x i) → ∃ u, exec (mk o) s = .next (c.movedOn u) ∧
      Wrote c g.st u (fun l _ => (typeLoad ty (bytesOf c g n l), 0))) ∧
    (∀ i, o.d = .x i → c.g.nodes.length + c.doers.length < c.g.logStore →
      ∃ t, exec (mk o) s = .next t ∧
        Made c g.st t i.toNat fun l => leafOf ty l (typeLoad ty (bytesOf c g n l)))

end Sys2Proof.Machine

/-- O28. Whenever it issues with operands that raise no cause, and every lane that computes reaches an aligned place
that is translated and in range, LD (base and extended, any space) and LDX complete, and in a run with no open
choice left to take the destination takes the value of the access type at A + scaled index + offset, or the leaf of
that value in an X register with room in the log, the nodes of the log staying as they are but for their reference
counts; nothing else changes but what the translations set (A and D bits of page tables, a repinned granule by log
49) (premise: those trip no monitor of the group). Else each single-copy atomic part of a load gives bytes as they
are, or as they were before some of the stores on record that it may miss (log entry 52): all of them stores to its
bytes, none of them the agent's own, none that the agent has read from such a byte before. (R187; R188; R200; R201;
R203; R204; R309; Table 92; Table 94; log entry 52) -/
def Obligations.LoadsRead : Prop :=
  Loads .ld .ld (fun c n => operandOf c n n .load) ∧ Loads .ldExt .ld (fun c n => operandOf c n n .load) ∧
  Loads .ldx .ldx indexedOf ∧
  (∀ mk ∈ [Instr.ld, Instr.ldExt], ∀ (o : Op) (s : State) (c : Ctx) (g : Gather), Plain .ld o s c →
    let n := typeSize (bitsAt o.mod 0 4)
    Reaches c s false (operandOf c n n .load) g → g.st.group c.r.gid = some c.g →
    ((∃ i, o.d = .x i) → c.g.nodes.length + c.doers.length < c.g.logStore) →
    ∃ t, exec (mk o) s = .next t ∧ t.mem = g.st.mem) ∧
  (∀ (o : Op) (s : State) (c : Ctx) (g : Gather), Plain .ldx o s c →
    Reaches c s false (indexedOf c (typeSize (bitsAt o.mod 0 4))) g → ∃ t, exec (.ldx o) s = .next t ∧ t.mem = g.st.mem) ∧
  (∀ (s : State) (a : Actor) (fibre : DWord) (scope gid n chunk : Nat) (l : Loc), s.oracle = [] →
    s.loadWeak a fibre scope gid l n chunk = s.loadAt gid (s.bayOf gid) l n) ∧
  (∀ (s : State) (a : Actor) (fibre : DWord) (scope batch : Nat) (cells : List (ByteAt × Byte)),
    let r := s.loadPart a fibre scope batch cells
    r.2.length = cells.length ∧ r.1.mem = s.mem ∧ ∀ (k : Nat) (x : ByteAt × Byte) (b : Byte), cells[k]? = some x → r.2[k]? = some b →
      b = x.2 ∨ ∃ z ∈ candidates s.past a fibre scope batch cells, (x.1, b) ∈ z.ev.act.cells) ∧
  (∀ (past : List Ev) (a : Actor) (fibre : DWord) (scope : Nat) (cells : List (ByteAt × Byte)),
    ∀ z ∈ candidates past a fibre scope 0 cells, past[z.at_]? = some z.ev ∧ z.ev.act.writes = true ∧
      (∃ x ∈ z.ev.act.cells, ∃ y ∈ cells, x.1 = y.1) ∧ (a.level ≠ 9 → z.ev.actor.same a = false) ∧
      (a.level ≠ 9 → ∀ (m : Nat) (y : Ev), past[m]? = some y → z.at_ < m → y.actor.same a = true → y.act.reads = true →
        y.act.missed.contains z.at_ = false → (∃ x ∈ z.ev.act.cells, ∃ y' ∈ y.act.cells, ∃ c ∈ cells, x.1 = y'.1 ∧ y'.1 = c.1) → False))

namespace Sys2Proof.Machine

/-- Bytes stored by a lane at a scope, which the record of the memory order, where one is kept, has as its access (log
entry 52). -/
def storedBy (c : Ctx) (bay lane : Nat) (u : State) (l : Loc) (bs : List Byte) (scope : Nat) (reads : Bool := false) : State :=
  u.storeAt bay l bs (c.s0.laneActor c.r.gid c.r.weave lane) scope reads

/-- The scope of the instruction's access to a space: the one named, or DEVICE, GROUP in A-space, BENT (R184, Table 72). -/
def scopeIn (o : Op) (space : Nat) : Nat :=
  if o.mod.getLsbD 15 then o.scope.toNat else match space with
    | 0 => 7
    | 2 => 3
    | _ => 4

/-- Values stored by the lanes of an issue in turn. -/
def storedAll (c : Ctx) (g : Gather) (s : State) (val : LaneIn → List Byte) (scope : Nat) (reads : LaneIn → Bool) : State :=
  g.ins.foldl (fun u i => storedBy c (g.st.bayOf c.r.gid) i.lane u i.place (val i) scope (reads i)) s

/-- No byte of memory outside the places of the lanes differs. -/
def OnlyStored (g : Gather) (t : State) : Prop :=
  ∀ a, (∀ i ∈ g.ins, ¬ i.place.covers a) → memGet t.mem a = memGet g.st.mem a

/-- The backing area of the weave's choice stacks is reached: they stay within their resident part, or the open choice keeps
the area mapped (log entry 37). -/
def Ctx.isBacked (c : Ctx) (more : Nat) (s : State) : Prop := c.v.choiceBytes + more ≤ 16384 ∨ (s.choose 2).1 ≠ 1

/-- The state after that choice, where one is made. -/
def Ctx.backedAt (c : Ctx) (more : Nat) (s : State) : State :=
  if c.v.choiceBytes + more ≤ 16384 then s else (s.choose 2).2

end Sys2Proof.Machine

/-- O29. Whenever it issues in a group that is no sealed piece, with operands that raise no cause and places that every
lane that computes reaches, ST in base and extended form completes, its lanes storing the low bytes of Rd at A +
scaled index + offset in lane order; every byte of memory outside those places reads as before, and no register
changes; a .T store (its backing area reached: log entry 37) also appends a kerf entry with the address and size in
each lane that holds a record and has trailing on, when its kerf has room, and then too the fibre goes on, and
nothing of any lane or group differs but these kerfs, stored bytes of A space, and monitors that the store reaches.
In a sealed piece memory does not change: the bytes go to the piece's version. (R200; R201; R203; R248; R277; R284;
log entry 37) -/
def Obligations.StoresWrite : Prop :=
  ∀ mk ∈ [Instr.st, Instr.stExt], ∀ (o : Op) (s : State) (c : Ctx) (g : Gather), Plain .st o s c →
    let n := typeSize (bitsAt o.mod 0 4)
    let space := bitsAt o.mod 4 2
    let isT : Bool := o.mod.getLsbD 8
    let val (i : LaneIn) : List Byte := leBytes n (c.regVals i.lane).d.toNat
    let trails (l : Nat) : Prop := isT = true ∧ (c.lane l).recs ≠ [] ∧ (c.lane l).notrail = false
    let more := 16 * g.ins.length
    let u := if isT then c.backedAt more g.st else g.st
    Reaches c s true (operandOf c n n .store) g → space ≠ 1 → (isT = true → space ≠ 3 ∧ c.isBacked more g.st) →
    (s.isSealed c.r.gid = false →
      let done := storedAll c g u val (scopeIn o space) fun _ => false
      ((∀ l ∈ c.doers, ¬ trails l) → exec (mk o) s = .next (c.movedOn done) ∧ OnlyStored g done) ∧
      ((∀ l ∈ c.doers, trails l → (c.lane l).kerf.length < c.g.kerfCap) →
        ∃ t, exec (mk o) s = .next t ∧ t.mem = done.mem ∧ OnlyStored g t ∧ t.fibre c.r = some c.resumed ∧
          (∀ k, (t.group k).map (fun h => { h with weaves := [], data := {} }) =
            (s.group k).map fun h => { h with weaves := [], data := {} }) ∧
          (∀ l, let x := t.lane c.r.gid c.r.weave l
            { x with kerf := (c.lane l).kerf, monHit := (c.lane l).monHit } = c.lane l ∧
            (¬(l ∈ c.doers ∧ trails l) → x.kerf = (c.lane l).kerf)) ∧
          ∀ i ∈ g.ins, trails i.lane → ∃ e, (t.lane c.r.gid c.r.weave i.lane).kerf = (c.lane i.lane).kerf ++ [e] ∧
            e.space.toNat = space ∧ 2 ^ e.size.toNat = n ∧ e.addr = i.ea.setWidth 57 ∧
            (g.ins.head? = some i → e.old.toNat = leNat (g.st.loadAt c.r.gid (g.st.bayOf c.r.gid) i.place n).2))) ∧
    (∀ p, s.pieceOf c.r.gid = some p → s.isSealed c.r.gid = true → o.scope.toNat < 8 → space = 0 →
      p.lines + 2 * g.ins.length ≤ Config.sealedLines → (∀ l ∈ c.doers, ¬ trails l) →
      ∃ t q, exec (mk o) s = .next t ∧ t.mem = g.st.mem ∧ t.fibre c.r = some c.resumed ∧
        t.pieceOf c.r.gid = some q ∧ ∀ i ∈ g.ins, g.ins.getLast? = some i → ∀ pa, i.place = .phys [(pa, n)] →
          ∀ k < n, tfind q.version (pa + k) = (val i)[k]?)

/-- O30. Whenever they issue with operands that raise no cause and reach their places, LDV writes (in a run with no open
choice left to take, log entry 52) 4 to 32 words from consecutive addresses to consecutive G registers of each lane,
STV stores such registers in units of 16 bytes in ascending order (group no sealed piece), and LDB and STB access
K-base + index where index + size lies within the limit, setting Pc, while a lane beyond the limit makes no access,
loads 0 and clears Pc; every byte of memory outside the stored places reads as before. (R190; R201; R205; R206;
Table 93; log entry 52) -/
def Obligations.VectorAndBounded : Prop :=
  let words (o : Op) : Nat := 4 * 2 ^ bitsAt o.mod 0 2
  let bound (c : Ctx) (n : Nat) (acc : Access) : MemUse :=
    let k : Nat := match c.o.a with
      | .k i => i.toNat
      | _ => 0
    { space := 0, size := n, align := n, acc := acc
      ea := fun _ v => if (lowWord v.b).toNat + n ≤ (c.g.kAt (k + 2)).toNat then
        some (BitVec.ofNat 64 ((c.g.kAt k).toNat + 2 ^ 32 * (c.g.kAt (k + 1)).toNat) + (lowWord v.b).zeroExtend 64) else none }
  let inside (g : Gather) (l : Nat) : Bool := g.ins.any fun i => i.lane == l && i.loc.isSome
  (∀ (o : Op) (s : State) (c : Ctx) (g : Gather) (d : BitVec 6), Plain .ldv o s c → o.d = .g d → d.toNat % 4 = 0 →
    Reaches c s false (operandOf c (4 * words o) 16 .load) g →
    (∃ t, exec (.ldv o) s = .next t ∧ t.mem = g.st.mem) ∧ (g.st.group c.r.gid = some c.g → g.settledMemory →
    ∃ u, exec (.ldv o) s = .next (c.movedOn u) ∧ u.mem = g.st.mem ∧
      ∀ l, let x := u.lane c.r.gid c.r.weave l
        { x with g := (c.lane l).g } = c.lane l ∧ ∀ j, x.gAt j =
          if l ∈ c.writers ∧ c.f.wb + d.toNat ≤ j ∧ j < c.f.wb + d.toNat + words o then
            BitVec.ofNat 32 (leNat (((bytesOf c g (4 * words o) (c.doerOf l)).drop (4 * (j - c.f.wb - d.toNat))).take 4))
          else (c.lane l).gAt j)) ∧
  (∀ (o : Op) (s : State) (c : Ctx) (g : Gather) (d : BitVec 6), Plain .stv o s c → o.d = .g d → d.toNat % 4 = 0 →
    bitsAt o.mod 4 2 ≠ 1 → s.isSealed c.r.gid = false → Reaches c s false (operandOf c (4 * words o) 16 .store) g →
    let u := g.ins.foldl (fun u i => (List.range (words o / 4)).foldl (fun u k =>
      storedBy c (g.st.bayOf c.r.gid) i.lane u (i.place.part (16 * k) 16) ((List.range 4).flatMap fun j =>
        leBytes 4 ((c.lane i.lane).gAt (c.f.wb + d.toNat + 4 * k + j)).toNat) (scopeIn o (bitsAt o.mod 4 2))) u) g.st
    exec (.stv o) s = .next (c.movedOn u) ∧ OnlyStored g u) ∧
  (∀ (o : Op) (s : State) (c : Ctx) (g : Gather) (k : BitVec 7), Plain .ldb o s c → o.a = .k k → k.toNat % 4 = 0 →
    let ty := bitsAt o.mod 0 4
    let n := typeSize ty
    Reaches c s false (bound c n .load) g →
    (∃ t, exec (.ldb o) s = .next t ∧ t.mem = g.st.mem) ∧ (g.st.group c.r.gid = some c.g → g.settledMemory →
    ∃ u, exec (.ldb o) s = .next (c.movedOn u) ∧ u.mem = g.st.mem ∧ ∀ l, u.lane c.r.gid c.r.weave l =
      if l ∈ c.writers then
        let j := c.doerOf l
        ((c.lane l).given c.f.wb o.d (wideSlot c.slots.1)
          (if inside g j then typeLoad ty (bytesOf c g n j) else 0)).given c.f.wb o.c false (if inside g j then 1 else 0)
      else c.lane l)) ∧
  (∀ (o : Op) (s : State) (c : Ctx) (g : Gather) (k : BitVec 7), Plain .stb o s c → o.a = .k k → k.toNat % 4 = 0 →
    s.isSealed c.r.gid = false →
    let n := typeSize (bitsAt o.mod 0 4)
    Reaches c s true (bound c n .store) g →
    let ins := { g with ins := g.ins.filter fun i => i.loc.isSome }
    ∃ t, exec (.stb o) s = .next t ∧ t.mem = (storedAll c ins g.st (fun i => leBytes n (c.regVals i.lane).d.toNat) (scopeIn o 0) fun _ => false).mem ∧
      OnlyStored ins t ∧ t.fibre c.r = some c.resumed ∧
      ∀ l, { t.lane c.r.gid c.r.weave l with monHit := false } = { (if l ∈ c.writers then
          (c.lane l).given c.f.wb o.c false (if inside g (c.doerOf l) then 1 else 0) else c.lane l) with monHit := false })

namespace Sys2Proof.Machine

/-- Read, modify and write by the lanes of an issue in turn, each seeing the stores of the ones before it: the state, and
what each lane read. -/
def atomicAll (c : Ctx) (g : Gather) (n : Nat) (new : DWord → Vals → Option DWord) : State × List (Nat × DWord) :=
  g.ins.foldl (fun acc i =>
    let old : DWord := BitVec.ofNat 64 (leNat (acc.1.loadAt c.r.gid (g.st.bayOf c.r.gid) i.place n).2)
    (match new old (c.regVals i.lane) with
      | some v => acc.1.storeAt (g.st.bayOf c.r.gid) i.place (leBytes n v.toNat)
      | none => acc.1,
      acc.2 ++ [(i.lane, old)])) (g.st, [])

/-- An atomic: whenever it issues in a space that takes it, with operands that raise no cause and places that every lane
that computes reaches, it completes; the lanes act on their places in lane order, and the destination takes what was read
unless the form returns nothing. -/
def Atomic (mk : Op → Instr) (m : Major) (ok : Op → Prop) (size : Op → Nat) (quietly : Op → Bool)
    (new : Op → DWord → Vals → Option DWord) (fl : Op → DWord → Vals → Flags) : Prop :=
  ∀ (o : Op) (s : State) (c : Ctx) (g : Gather), Plain m o s c → ok o → bitsAt o.mod 4 2 ≠ 1 → bitsAt o.mod 4 2 ≠ 3 →
    (bitsAt o.mod 4 2 = 0 → s.isSealed c.r.gid = false) →
    Reaches c s true (operandOf c (size o) (size o) .atomic) g → g.st.group c.r.gid = some c.g →
    let r := atomicAll c g (size o) (new o)
    let old (l : Nat) : DWord := ((r.2.find? fun p => p.1 == l).map (·.2)).getD 0
    ∃ t, exec (mk o) s = .next t ∧ t.mem = r.1.mem ∧ OnlyStored g t ∧ t.fibre c.r = some c.resumed ∧
      (∀ k, (t.group k).map (·.data) = (r.1.group k).map (·.data)) ∧
      ∀ l, let x := t.lane c.r.gid c.r.weave l
        let k := c.doerOf l
        let y := if l ∈ c.writers ∧ quietly o = false then (c.lane l).given c.f.wb o.d (wideSlot c.slots.1) (old k)
          else c.lane l
        x.g = y.g ∧ x.p = y.p ∧ x.x = y.x ∧
        x.sticky = if l ∈ c.doers then y.sticky ||| fl o (old l) (c.regVals l) else y.sticky

end Sys2Proof.Machine

/-- O31. Whenever it issues in the global or the A space (global only outside sealed pieces) with operands that raise no
cause and places that every lane that computes reaches, ATOM replaces the 32- or 64-bit value at its place by the
sum, AND, OR, XOR, minimum, maximum (signed, or unsigned with U), Rc itself or the FP32 sum with Rc, and CAS by Rc
where it equals Rd; lanes act in order; Rd takes the value that was there (ATOM.NR writes none); every byte outside
the places reads as before. (R184; R200; R201; R207; R208; R250) -/
def Obligations.Atomics : Prop :=
  let wide (o : Op) : Bool := o.mod.getLsbD 3
  let size (o : Op) : Nat := if wide o then 8 else 4
  let fadd (o : Op) : Prop := bitsAt o.mod 0 3 = 7
  let num (o : Op) (v : DWord) : Int :=
    if o.mod.getLsbD 6 then (if wide o then v.toNat else (lowWord v).toNat)
    else if wide o then v.toInt else (lowWord v).toInt
  Atomic .atom .atom (fun o => ¬(fadd o ∧ wide o = true)) size (fun o => o.mod.getLsbD 7)
    (fun o old v => some (
      let w (x : DWord) : DWord := if wide o then x else zext32 (lowWord x)
      match bitsAt o.mod 0 3 with
      | 0 => w (old + v.c)
      | 1 => w (old &&& v.c)
      | 2 => w (old ||| v.c)
      | 3 => w (old ^^^ v.c)
      | 4 => w (if num o old < num o v.c then old else v.c)
      | 5 => w (if num o old < num o v.c then v.c else old)
      | 6 => w v.c
      | _ => BitVec.ofNat 64 (faddV fmt32 .rn (fdecode fmt32 (lowWord old).toNat) (fdecode fmt32 (lowWord v.c).toNat)).1))
    (fun o old v => if bitsAt o.mod 0 3 = 7 then
      (faddV fmt32 .rn (fdecode fmt32 (lowWord old).toNat) (fdecode fmt32 (lowWord v.c).toNat)).2 else 0) ∧
  Atomic .cas .cas (fun _ => True) size (fun _ => false)
    (fun _ old v => if old = v.d then some v.c else none) (fun _ _ _ => 0)

/-- O32. MON of a reachable global address arms the monitor of each lane that computes on the 64-byte line of its
address, with no store seen yet, and goes on; MWAIT goes on at once when no writing lane is armed or some armed one
has seen a store to its line, and otherwise parks its fibre, where the MWAIT_WAKE event completes it; memory does
not change. (R196; R210) -/
def Obligations.MonitorAndWait : Prop :=
  (∀ (o : Op) (s : State) (c : Ctx) (g : Gather), Plain .mon o s c → bitsAt o.mod 4 2 = 0 →
    Reaches c s false (operandOf c 1 1 .load) g → g.st.group c.r.gid = some c.g →
    ∃ u, exec (.mon o) s = .next (c.movedOn u) ∧ u.mem = g.st.mem ∧
      (∀ l, l ∉ c.doers → u.lane c.r.gid c.r.weave l = c.lane l) ∧
      ∀ i ∈ g.ins, u.lane c.r.gid c.r.weave i.lane = { c.lane i.lane with
        monArmed := true, monLine := i.ea / 64 * 64, monPa := i.line, monHit := false }) ∧
  (∀ (o : Op) (s : State) (c : Ctx), Plain .mwait o s c →
    let armed := c.writers.filter fun l => (c.lane l).monArmed
    (armed = [] ∨ (∃ l ∈ armed, (c.lane l).monHit = true) → exec (.mwait o) s = .next (c.movedOn { s with cur := none })) ∧
    (armed ≠ [] → (∀ l ∈ armed, (c.lane l).monHit = false) → ∃ t f, exec (.mwait o) s = .next t ∧ t.mem = s.mem ∧
      t.fibre c.r = some f ∧ f.st = .parked ∧ f.wait = .monitor (maskOf armed) ∧ f.pc = c.f.pc ∧ f.lanes = c.f.lanes ∧
      ∀ l, t.lane c.r.gid c.r.weave l = c.lane l)) ∧
  (∀ (s : State) (r : FibreRef) (f : Fibre) (m : DWord), s.fibre r = some f → f.st = .parked → f.wait = .monitor m →
    exec (.mwaitWake r) s = .next (s.completeFibre r) ∧
    (f.halts = [] → (s.group r.gid).all (fun h => (h.weave r.weave).fibres.all fun f => f.halts.isEmpty) = true →
      ∃ k, (s.completeFibre r).fibre r = some k ∧ k.st = .ready ∧ k.pc = f.pc + BitVec.ofNat 64 f.len))

/-- O33. SBIND (entry 0 to 255) of a 32-byte aligned table in A space whose entry lies in a data part and is well-formed
gives Qd of each writing lane the base, strides, length and access of the entry with its step 0, and goes on;
SBIND.UNBIND removes Qd from each writing lane; memory does not change. Those loads, in a run with no open choice
left to take (log entry 52), read the newest bytes. An IADD whose source is a stream in the W or A space reads the
element at base + lane stride + step × stride and the step goes up by 1, while an exhausted stream reads 0 and keeps
its step; one whose destination is such a stream stores its sum there. (R211; R212; Table 97; log entry 52) -/
def Obligations.StreamTables : Prop :=
  (∀ (o : Op) (s : State) (c : Ctx) (q : BitVec 3), Plain .sbind o s c → o.d = .q q → o.mod.getLsbD 0 = true →
    o.ownBits.toNat ≤ 255 →
    ∃ u, exec (.sbind o) s = .next (c.movedOn u) ∧ OnlyLanes c s u ∧ ∀ l ∈ c.writers,
      u.lane c.r.gid c.r.weave l = { c.lane l with q := tdel (c.lane l).q q.toNat }) ∧
  (∀ (o : Op) (s : State) (c : Ctx) (q : BitVec 3), Plain .sbind o s c → o.d = .q q → o.mod.getLsbD 0 = false →
    o.ownBits.toNat ≤ 255 →
    let table (l : Nat) : Nat := (lowWord (c.regVals l).a).toNat
    let entry (l : Nat) : Option (List Byte) :=
      match s.typedAt c.bent 2 (table l + 32 * o.ownBits.toNat) 32 with
      | .ok loc => some (s.loadAt c.r.gid (s.bayOf c.r.gid) loc 32).2
      | _ => none
    s.oracle = [] → (∀ l ∈ c.doers, table l % 32 = 0 ∧ ∃ e, entry l = some e ∧ streamOk e = true) →
    ∃ u, exec (.sbind o) s = .next (c.movedOn u) ∧ OnlyLanes c s u ∧ ∀ l ∈ c.writers, ∃ e, entry (c.doerOf l) = some e ∧
      u.lane c.r.gid c.r.weave l = { c.lane l with q := tins (c.lane l).q q.toNat {
        base := BitVec.ofNat 64 (fieldOf e 0 8), lane := BitVec.ofNat 32 (fieldOf e 8 4)
        stride := BitVec.ofNat 32 (fieldOf e 12 4), length := BitVec.ofNat 32 (fieldOf e 16 4)
        access := BitVec.ofNat 32 (fieldOf e 20 4), step := 0 } }) ∧
  (∀ (o : Op) (s : State) (c : Ctx) (i : BitVec 3) (j : BitVec 6) (l : Nat) (q : QStream), Issues .iadd o s c →
    c.each.flatMap (slotRefusals c) = [] → o.mod = 0 → o.un = false → o.b = .g j → c.writers = [l] →
    tsorted none (c.lane l).q = true → tfind (c.lane l).q i.toNat = some q → bitsAt q.base 60 4 = 1 ∨ bitsAt q.base 60 4 = 2 →
    let n := typeSize (bitsAt q.access 0 4)
    let ea : DWord := (q.base &&& 0x01FFFFFFFFFFFFFF) + q.lane.signExtend 64 * BitVec.ofNat 64 (64 * c.r.weave + l) +
      q.step.zeroExtend 64 * q.stride.signExtend 64
    let live : Prop := q.length = 0 ∨ q.step < q.length
    let b : Word := (c.lane l).gAt (c.f.wb + j.toNat)
    (∀ d : BitVec 6, o.a = .q i → o.d = .g d →
      (∀ loc, s.oracle = [] → live → ea.toNat % n = 0 → s.typedAt c.bent (bitsAt q.base 60 4) (ea.toNat % 2 ^ 32) n = .ok loc →
        ∃ u, exec (.iadd o) s = .next (c.movedOn u) ∧ OnlyLanes c s u ∧ u.lane c.r.gid c.r.weave l =
          { (c.lane l).setG (c.f.wb + d.toNat) (lowWord (typeLoad (bitsAt q.access 0 4)
              (s.loadAt c.r.gid (s.bayOf c.r.gid) loc n).2) + b) with
            q := tmod (c.lane l).q i.toNat fun q => { q with step := q.step + 1 } }) ∧
      (¬ live → ∃ u, exec (.iadd o) s = .next (c.movedOn u) ∧ OnlyLanes c s u ∧
        u.lane c.r.gid c.r.weave l = (c.lane l).setG (c.f.wb + d.toNat) b)) ∧
    (∀ (k off : Nat) (a : BitVec 6), o.a = .g a → o.d = .q i → live → ea.toNat % n = 0 →
      s.typedAt c.bent (bitsAt q.base 60 4) (ea.toNat % 2 ^ 32) n = .ok (.data k off) →
      ∃ t, exec (.iadd o) s = .next t ∧ t.mem = s.mem ∧ t.fibre c.r = some c.resumed ∧
        (t.group k).map (fun h => h.data.bytes off n) =
          some (leBytes n ((c.lane l).gAt (c.f.wb + a.toNat) + b).toNat) ∧
        tfind (t.lane c.r.gid c.r.weave l).q i.toNat = some { q with step := q.step + 1 }))

/-- O34. Whenever they issue with operands that raise no cause and reach their A-space word, ASET (target not 0) stores
target, count 0, generation 0 and flag SET there; AWAIT goes on when every lane's word, and every one that lanes
replayed before wait for, has reached the generation asked for (the difference modulo 2^32 is below 2^31), its lanes
ordered after the updates that made up those generations (a join edge; log entry 52), and otherwise parks; KICK of 1
to 64 well-formed records a lane, in a group that is no sealed piece, with room in the kick register, queues those
records with the bay's copy engine, each as an operation of its own, and goes on (the records read in a run with no
open choice left to take, log entry 52); physical memory does not change. (R173; R176; R178; R193; R214; log entry
52) -/
def Obligations.ArrivalWords : Prop :=
  let word (c : Ctx) (n : Nat) (acc : Access) : MemUse :=
    { space := 2, size := n, align := n, acc := acc
      ea := fun _ v => some (BitVec.ofNat 64 ((v.a + c.o.own).toNat % 2 ^ 32)) }
  (∀ (o : Op) (s : State) (c : Ctx) (g : Gather), Plain .aset o s c → (∀ l ∈ c.doers, lowWord (c.regVals l).b ≠ 0) →
    Reaches c s false (word c 16 .store) g →
    exec (.aset o) s = .next (c.movedOn (storedAll c g g.st (fun i =>
      leBytes 4 (lowWord (c.regVals i.lane).b).toNat ++ leBytes 4 0 ++ leBytes 4 0 ++ leBytes 4 1) 5 fun _ => false))) ∧
  (∀ (o : Op) (s : State) (c : Ctx) (g : Gather), Plain .await o s c → Reaches c s false (word c 16 .load) g →
    let words := c.f.awaited ++ g.ins.map fun i => (i.ea.toNat, lowWord (c.regVals i.lane).b)
    ((∀ p ∈ words, g.st.arrived c.bent p.1 p.2 = true) →
      exec (.await o) s = .next (c.movedOn (c.joined (words.flatMap fun p => g.st.arrivalsOf c.bent p.1 p.2) g.st))) ∧
    ((∃ p ∈ words, g.st.arrived c.bent p.1 p.2 = false) → ∃ t f, exec (.await o) s = .next t ∧ t.mem = s.mem ∧
      t.fibre c.r = some f ∧ f.st = .parked ∧ f.wait = .await words ∧ f.pc = c.f.pc ∧ f.lanes = c.f.lanes)) ∧
  (∀ (o : Op) (s : State) (c : Ctx) (g : Gather) (recs : LaneIn → List CopyRec), Plain .kick o s c →
    s.isSealed c.r.gid = false → s.oracle = [] → (∀ l ∈ c.doers, 1 ≤ (lowWord (c.regVals l).b).toNat ∧ (lowWord (c.regVals l).b).toNat ≤ 64) →
    (s.bayAt (s.bayOf c.r.gid)).kickFull c.g.core c.doers.length = false → Reaches c s false (word c 32 .load) g →
    (∀ i ∈ g.ins, ∃ loc, g.st.typedAt c.bent 2 i.ea.toNat (32 * (lowWord i.vals.b).toNat) = .ok loc ∧
      (c.fetchKick g.st { i with loc := some loc }).2 = .ok (recs i)) →
    ∃ t, exec (.kick o) s = .next t ∧ t.mem = s.mem ∧ t.fibre c.r = some c.resumed ∧
      (t.bayAt (s.bayOf c.r.gid)).kicks = (s.bayAt (s.bayOf c.r.gid)).kicks ++ g.ins.map (fun i => (recs i).map fun r => { r with op := s.past.length }) ∧
      ∀ l, t.lane c.r.gid c.r.weave l = c.lane l)

/-- O35. The peg that PADV or PWAIT names lies at the peg-table base of the launch record + 8 × PEG. PADV outside a
sealed piece adds each computing lane's operand to it and goes on; for one lane a peg in the memory of the device
then holds the sum modulo 2^64 and every byte outside it reads as before. PWAIT goes on when the peg has reached
every lane's threshold ((v − t) mod 2^64 < 2^63), its lanes ordered after the advances of the peg (a join edge; log
entry 52), and otherwise parks at that address with the thresholds, those of lanes replayed before among them; with
no lane to compute each only goes on. (R179; R193; R215; R250; log entry 52) -/
def Obligations.Pegs : Prop :=
  let value (c : Ctx) (l : Nat) : DWord := if c.o.mod.getLsbD 6 then (c.regVals l).b else zext32 (lowWord (c.regVals l).b)
  let peg (s : State) (c : Ctx) : DWord :=
    ((s.launchOf c.r.gid).map fun l => BitVec.ofNat 64 (fieldOf l.record 88 8 + 8 * bitsAt c.o.mod 0 6)).getD 0
  (∀ (s : State) (gid n : Nat) (l : Launch), s.launchOf gid = some l →
    s.pegVa gid n = BitVec.ofNat 64 (fieldOf l.record 88 8 + 8 * n) ∧ ∀ (memo : Memo) (a : Agent) (acc : Access) (u : State)
      (memo' : Memo) (pa : Nat), s.pegAt memo a gid n acc = (u, memo', .ok pa) →
      s.pageAt memo a (s.spaceOf gid) (s.pegVa gid n) acc = (u, memo', .ok pa)) ∧
  (∀ (o : Op) (s : State) (c : Ctx), Plain .padv o s c → s.isSealed c.r.gid = false →
    let add (u : Option (State × Memo)) (l : Nat) : Option (State × Memo) := u.bind fun u =>
      match u.1.pegAt u.2 (s.agentOf c.r.gid) c.r.gid (bitsAt o.mod 0 6) .atomic with
      | (v, memo, .ok pa) => some (v.addPeg pa (value c l) (s.laneActor c.r.gid c.r.weave l), memo)
      | _ => none
    ∀ u memo, c.doers.foldl add (some ({ s with cur := none }, [])) = some (u, memo) →
      exec (.padv o) s = .next (c.movedOn u) ∧
      ∀ l v memo pa, c.doers = [l] → pa / 2 ^ 48 = 0 → v.physBad pa = none →
        ({ s with cur := none }).pegAt [] (s.agentOf c.r.gid) c.r.gid (bitsAt o.mod 0 6) .atomic = (v, memo, .ok pa) →
        memNat u pa 8 = (memNat v pa 8 + (value c l).toNat) % 2 ^ 64 ∧
        ∀ a, a < pa ∨ pa + 8 ≤ a → memGet u.mem a = memGet v.mem a) ∧
  (∀ (o : Op) (s : State) (c : Ctx), Plain .pwait o s c →
    (c.doers = [] → c.f.thresholds = [] → exec (.pwait o) s = .next (c.movedOn { s with cur := none })) ∧
    ∀ (v : State) (memo : Memo) (pa : Nat), c.doers ≠ [] → pa / 2 ^ 48 = 0 →
    ({ s with cur := none }).pegAt [] (s.agentOf c.r.gid) c.r.gid (bitsAt o.mod 0 6) .load = (v, memo, .ok pa) →
    let ts := c.f.thresholds ++ c.doers.map (value c)
    let met (t : DWord) : Prop := (BitVec.ofNat 64 (memNat v pa 8) - t).toNat < 2 ^ 63
    ((∀ t ∈ ts, met t) → exec (.pwait o) s = .next (c.movedOn (c.joined (v.advancesOf pa) v))) ∧
    ((∃ t ∈ ts, ¬ met t) → ∃ t f, exec (.pwait o) s = .next t ∧ t.mem = v.mem ∧ t.fibre c.r = some f ∧
      f.st = .parked ∧ f.wait = .peg (peg s c) ts ∧ f.pc = c.f.pc ∧ f.lanes = c.f.lanes))

namespace Sys2Proof.Machine

/-- A matrix command accepted (R180, R216): it stands at the tail of the bay's queue, and the instruction has gone on. -/
def Enqueues (mk : Op → Instr) (m : Major) : Prop :=
  ∀ (o : Op) (s : State) (c : Ctx), Plain m o s c → c.joiner = true →
    let y := s.bayAt (s.bayOf c.r.gid)
    y.mq.length + c.doers.length ≤ Config.matrixQueue →
    (∀ l ∈ c.doers, let k := c.command (c.regVals l)
      k.broken = false ∧ (∀ n, k.guard = some n → tget .free y.guards n ≠ .free) ∧ (∀ a ∈ k.bases, a.toNat % 16 = 0) ∧
      s.rangeBad k = none) →
    ∃ (t : State) (op : Nat → Nat), exec (mk o) s = .next t ∧ t.mem = s.mem ∧ t.fibre c.r = some c.resumed ∧
      (t.bayAt (s.bayOf c.r.gid)).mq = y.mq ++ c.doers.map (fun l => { c.command (c.regVals l) with op := op l }) ∧
      (t.bayAt (s.bayOf c.r.gid)).c = y.c ∧ ∀ l, t.lane c.r.gid c.r.weave l = c.lane l

/-- An event that has brought the machine to `w` and ends with the advance of a peg by 1, where there is one, in the memory
of the device (R179). -/
def ThenPeg (r : Host.Outcome State Fault Refusal) (w : State) (gid : Nat) (peg : Option Nat) : Prop :=
  match peg with
  | none => r = .next w
  | some n => ∀ (v : State) (memo : Memo) (pa : Nat), w.pegAt [] (w.engineOf gid) gid n .atomic = (v, memo, .ok pa) →
    pa / 2 ^ 48 = 0 → v.physBad pa = none →
    ∃ t, r = .next t ∧ memNat t pa 8 = (memNat v pa 8 + 1) % 2 ^ 64 ∧
      (∀ a, a < pa ∨ pa + 8 ≤ a → memGet t.mem a = memGet v.mem a) ∧ ∀ y, t.bayAt y = w.bayAt y

end Sys2Proof.Machine

/-- O36. In a joiner stream with room in the queue, MMA, MMAS, MCONV, MZERO, MLDC and MSTC, whose operand values keep to
their rules, whose guard slot is not FREE, whose bases are aligned and whose typed ranges lie in their stores, put
one command per lane that computes at the tail of the bay's queue, with tile, peg, guard and second tile from IMM22
and the operands they read, and go on; neither memory nor the C-store changes at issue. In any other group they take
ILLEGAL with cause 10 in the lanes that run (that mask is log entry 27). That the bases of MLDC and MSTC need no
alignment is log entry 40. (R180; R216; R217; R218; R220; R221; R223; Table 99; log entry 27; log entry 40) -/
def Obligations.MatrixCommandsQueue : Prop :=
  Enqueues .mma .mma ∧ Enqueues .mmas .mmas ∧ Enqueues .mconv .mconv ∧ Enqueues .mzero .mzero ∧ Enqueues .mldc .mldc ∧
  Enqueues .mstc .mstc ∧
  (∀ (c : Ctx) (l : Nat), let k := c.command (c.regVals l)
    k.tile = c.o.ownBits.toNat % 64 ∧ k.peg = (if c.o.mod.getLsbD 9 then some (c.o.ownBits.toNat / 2 ^ 6 % 64) else none) ∧
    k.guard = (if c.o.mod.getLsbD 8 then some (c.o.ownBits.toNat / 2 ^ 12 % 16) else none) ∧
    k.stile = c.o.ownBits.toNat / 2 ^ 16 % 64 ∧ k.opA = (c.regVals l).a ∧ k.opB = (c.regVals l).b ∧
    k.shape = lowWord (c.regVals l).c ∧ k.bitmap = zext32 (lowWord (c.regVals l).d)) ∧
  (∀ p ∈ [(Instr.mma, Major.mma), (Instr.mmas, Major.mmas), (Instr.mconv, Major.mconv), (Instr.mzero, Major.mzero),
      (Instr.mldc, Major.mldc), (Instr.mstc, Major.mstc)], ∀ (o : Op) (s : State) (c : Ctx), Plain p.2 o s c →
    c.joiner = false →
    exec (p.1 o) s = .next (({ s with cur := none }).takeTrap c.r c.act 1 10 (wordsInfo (encodeOp p.2 o)) []))

/-- O37. MATRIX_COMMAND_HEAD lets a head command whose guard is resolved NO leave the queue without any effect on tiles,
its peg, if it has one, advanced by 1, and runs the steps of one that is unguarded or resolved YES, which then still
stands at the head; MATRIX_COMMAND_RETIRE makes a head command that has run all its steps leave, its tile (all but
MSTC) holding its 4,096 accumulated words, MZERO's all 0, and then its peg, if it has one, advances by 1. While its
bent is being pre-empted a command between K steps stays as it is. (R94; R100; R179; R180; R181; R223; R319) -/
def Obligations.MatrixCommandsRun : Prop :=
  (∀ (s : State) (bay n : Nat) (c : MCmd) (rest : List MCmd), (s.bayAt bay).mq = c :: rest →
    s.engineWaits (socketOf c.gid) c.entries (.matrix c.gid) = false → ¬(c.started = true ∧ c.total ≤ c.step) →
    (s.isStopping c.bent = true → c.rows = [] →
      exec (.matrixCommandHead bay n) s = .refused (.notEnabled "MATRIX_COMMAND_HEAD") ∧
      exec (.matrixCommandRetire bay) s = .refused (.notEnabled "MATRIX_COMMAND_RETIRE")) ∧
    (s.isStopping c.bent = false → ∀ k, c.guard = some k → tget .free (s.bayAt bay).guards k = .no →
      ∃ w, ThenPeg (exec (.matrixCommandHead bay n) s) w c.gid c.peg ∧ w.mem = s.mem ∧ (w.bayAt bay).mq = rest ∧
        (w.bayAt bay).c = (s.bayAt bay).c ∧ (w.bayAt bay).tiles = (s.bayAt bay).tiles) ∧
    (s.isStopping c.bent = false → (∀ k, c.guard = some k → tget .free (s.bayAt bay).guards k = .yes) →
      ∀ d t, c.run bay n s = ((d, none), t) → ∃ u, exec (.matrixCommandHead bay n) s = .next u ∧ u.mem = t.mem ∧
        (u.bayAt bay).mq = d :: (t.bayAt bay).mq.drop 1 ∧ d.started = true ∧ c.step ≤ d.step ∧ d.step ≤ c.step + n)) ∧
  (∀ (s : State) (bay : Nat) (c : MCmd) (rest : List MCmd), (s.bayAt bay).mq = c :: rest → c.started = true →
    c.total ≤ c.step → c.entries = [] → s.isStopping c.bent = false →
    ∃ t, ThenPeg (exec (.matrixCommandRetire bay) s) t c.gid c.peg ∧ t.mem = s.mem ∧ (t.bayAt bay).mq = rest ∧
      (c.major ≠ .mstc → c.acc.length = 4096 → ∀ i < 4096,
        BitVec.ofNat 32 (leNat ((t.bayAt bay).c.bytes (16384 * c.tile + 4 * i) 4)) = c.acc.getD i 0) ∧
      (∀ a, c.major = .mstc ∨ a < 16384 * c.tile ∨ 16384 * c.tile + 4 * c.acc.length ≤ a →
        (t.bayAt bay).c.get a = (s.bayAt bay).c.get a)) ∧
  (∀ (s : State) (bay : Nat) (c : MCmd), c.major = .mzero → c.started = false →
    ∃ d t, c.run bay 0 s = ((d, none), t) ∧ d.started = true ∧ d.total ≤ d.step ∧ d.acc = List.replicate 4096 0)

/-- O38. A step of an integer tile element adds the exact sum of the products of its row elements to the accumulator and
saturates at the bounds of a signed word; a step of a float tile element with finite operands rounds the exact sum
of the products once to FP32, then rounds its sum with the accumulator once; status bit FOVF tells an overflow and
NX an inexact result of either rounding, IOVF a saturation; a NaN in a row gives the canonical NaN with status bit
NAN, and a NaN accumulator the canonical NaN with NAN beside the status of the rounded sum (that it sets NAN is log
entry 40). (R95; R96; R97; R100; log entry 40) -/
def Obligations.StepArithmetic : Prop :=
  let status (f : Flags) : BitVec 5 := (if f &&& flagOF ≠ 0 then 2 else 0) ||| (if f &&& flagNX ≠ 0 then 8 else 0)
  (∀ (a b : List FVal) (c : Word), a.length = b.length → (∀ v ∈ a ++ b, ∃ n m e, v = .fin n m e) →
    (∀ v ∈ a ++ b, v.exp = 0) →
    let x : ℚ := (c.toInt : ℚ) + ((a.zip b).map fun p => p.1.rat * p.2.rat).sum
    let r := intElem (MRow.of a) (MRow.of b) c
    (r.1.toInt : ℚ) = max (-2 ^ 31) (min (2 ^ 31 - 1) x) ∧ (r.2 = 4 ↔ x < -2 ^ 31 ∨ 2 ^ 31 - 1 < x)) ∧
  (∀ (a b : List FVal) (c : Word), a.length = b.length → (∀ v ∈ a ++ b, ∃ n m e, v = .fin n m e) →
    let x : ℚ := ((a.zip b).map fun p => p.1.rat * p.2.rat).sum
    (x = 0 → stepSum (MRow.of a) (MRow.of b) = some (0, 0)) ∧
    (∀ n m e, (FVal.fin n m e).rat = x → m ≠ 0 → let r := froundFin fmt32 .rn n m e
      stepSum (MRow.of a) (MRow.of b) = some (r.1, status r.2)) ∧
    (∀ t f, stepSum (MRow.of a) (MRow.of b) = some (t, f) → (fdecode fmt32 c.toNat).isNaN = false →
      (fdecode fmt32 c.toNat).isInf = false → let r := faddV fmt32 .rn (fdecode fmt32 c.toNat) (fdecode fmt32 t)
      floatElem (MRow.of a) (MRow.of b) c = (BitVec.ofNat 32 r.1, f ||| status r.2))) ∧
  (∀ (a b : List FVal) (c : Word),
    ((a ++ b).any FVal.isNaN = true → floatElem (MRow.of a) (MRow.of b) c = (0x7FC00000, 1)) ∧
    (∀ t f, (fdecode fmt32 c.toNat).isNaN = true → stepSum (MRow.of a) (MRow.of b) = some (t, f) →
      floatElem (MRow.of a) (MRow.of b) c = (0x7FC00000, f ||| 1)))

/-- O39. In a joiner stream GUARD of a slot that is not busy opens it and goes on; in a bent that holds its bay's claim
GSET (slots 0 to 15) resolves each named slot: an OPEN one to YES or NO by the predicate, and for any other it marks
the bent GUARD-LATE and leaves the slot as it is; neither changes memory. (R181; R224; Table 80) -/
def Obligations.Guards : Prop :=
  (∀ (o : Op) (s : State) (c : Ctx), Plain .guard o s c → c.joiner = true → o.ownBits.toNat ≤ 15 →
    c.doers ≠ [] → (s.bayAt (s.bayOf c.r.gid)).guardBusy o.ownBits.toNat = false →
    ∃ t, exec (.guard o) s = .next t ∧ t.mem = s.mem ∧ t.fibre c.r = some c.resumed ∧
      ∀ n, tget .free (t.bayAt (s.bayOf c.r.gid)).guards n =
        if n = o.ownBits.toNat then .opened else tget .free (s.bayAt (s.bayOf c.r.gid)).guards n) ∧
  (∀ (o : Op) (s : State) (c : Ctx), Plain .gset o s c → ((s.bent c.bent).map (·.claim)) = some true →
    let slot (l : Nat) : Nat := (lowWord (c.regVals l).a).toNat
    (∀ l ∈ c.doers, slot l ≤ 15) →
    ∃ t, exec (.gset o) s = .next t ∧ t.mem = s.mem ∧ t.fibre c.r = some c.resumed ∧
      ∀ l, c.doers = [l] → let was := tget .free (s.bayAt (s.bayOf c.r.gid)).guards (slot l)
        (was = .opened → tget .free (t.bayAt (s.bayOf c.r.gid)).guards (slot l) =
          if (c.regVals l).b = 0 then .no else .yes) ∧
        (was ≠ .opened → (t.bayAt (s.bayOf c.r.gid)).guards = (s.bayAt (s.bayOf c.r.gid)).guards ∧
          (t.bent c.bent).map (·.late) = some true))

/-- O40. Whenever DIST (d from 1 to 4,096, even for 4-bit types) issues with operands that raise no cause, aligned and
reachable rows and room in the log, in a run with no open choice left to take (log entry 52), each lane that
computes gets the tightest FP32 interval around the exact sum of products, or of squared differences for L2, of the
decoded elements of the query and the row it read, with a DOT or L2 node of two slots that hold the row, the format,
the dimension and the query's place, or INVALID with IV and no node when an element is a NaN or infinite; every node
that stood in the log stays as it was but for its reference count, and no other register, fibre, group or byte
changes but what the translations set. (R52; R57; R166; R257; log entry 52) -/
def Obligations.Distances : Prop :=
  (∀ (o : Op) (s : State) (c : Ctx) (i : BitVec 5) (g0 g : Gather) (l : List (LaneIn × Loc × Loc)), Plain .dist o s c →
    o.d = .x i →
    let fmt := bitsAt o.mod 0 4
    let isW := o.mod.getLsbD 5
    let size := rowBytes fmt c.dim
    1 ≤ c.dim → c.dim ≤ 4096 → ¬((fmt = 10 ∨ fmt = 11) ∧ c.dim % 2 = 1) →
    c.ready false none { s with cur := none } = .ok (g0, { s with cur := none }) →
    (∀ j ∈ c.doers, let n := if elemBits fmt < 8 then 1 else elemBits fmt / 8
      c.queryAt (c.regVals j) % n = 0 ∧ (c.rowAt (c.regVals j)).toNat % n = 0) →
    c.g.nodes.length + 2 * c.doers.length < c.g.logStore → c.doers.length ≤ (c.g.freePairs.map (·.2)).sum →
    c.distPlaces (if isW then 1 else 2) size g0 = (g, l) → g.bad = none → g.late = [] → g.st.group c.r.gid = some c.g → g.settledMemory →
    (∀ p ∈ l, p.2.1.quiet g.st ∧ p.2.2.quiet g.st) →
    ∃ t, exec (.dist o) s = .next t ∧ Made c g.st t i.toNat fun j =>
      match l.find? fun p => p.1.lane == j with
      | none => { lane := j, reg := {} }
      | some p => distMake j fmt c.dim (o.mod.getLsbD 4) isW (c.queryAt p.1.vals) (c.rowAt p.1.vals)
          (g.st.loadAt c.r.gid (g.st.bayOf c.r.gid) p.2.1 size).2 (g.st.loadAt c.r.gid (g.st.bayOf c.r.gid) p.2.2 size).2) ∧
  (∀ (l fmt d query : Nat) (isL2 isW : Bool) (row : DWord) (q r : List Byte), fmt < 16 → d ≤ 4096 → query < 2 ^ 24 → (isW = true → query < 2 ^ 22) →
    let m := distMake l fmt d isL2 isW query row q r
    match dotExact isL2 fmt d q r with
    | none => m.reg = xInvalid ∧ m.node = none ∧ m.cont = none ∧ m.flags = flagIV
    | some (k, e) => m.reg.tight ((k : ℚ) * 2 ^ e) ∧ m.reg.exact = decide (m.reg.lo = m.reg.hi) ∧ m.reg.opq = false ∧
        m.flags = 0 ∧ m.kids = [] ∧
        (∃ n, m.node = some n ∧ n.op = (if isL2 then opL2 else opDOT) ∧ n.left.toNat = row.toNat % 2 ^ 32 ∧
          n.right.toNat = row.toNat / 2 ^ 32 % 2 ^ 25 ∧ n.aux.toNat = fmt * 2 ^ 16 + d) ∧
        ∃ n, m.cont = some n ∧ n.op = opCONT ∧ n.refs = 0 ∧ n.left.toNat = (if isW then 2 ^ 24 else 0) + query) ∧
  (∀ (fmt d : Nat) (q r : List Byte), fmt < 13 →
    let at_ (b : List Byte) (j : Nat) : FVal := typeVal fmt (leNat b / 2 ^ (elemBits fmt * j))
    (∀ j < d, (at_ q j).isNaN ∨ (at_ q j).isInf ∨ (at_ r j).isNaN ∨ (at_ r j).isInf →
      dotExact false fmt d q r = none ∧ dotExact true fmt d q r = none) ∧ (
    (∀ j < d, ∃ n m e n' m' e', at_ q j = .fin n m e ∧ at_ r j = .fin n' m' e') →
    (∃ m e, dotExact false fmt d q r = some (m, e) ∧
      (m : ℚ) * 2 ^ e = ((List.range d).map fun j => (at_ q j).rat * (at_ r j).rat).sum) ∧
    (∃ m e, dotExact true fmt d q r = some (m, e) ∧
      (m : ℚ) * 2 ^ e = ((List.range d).map fun j => ((at_ q j).rat - (at_ r j).rat) ^ 2).sum)))

/-- O41. Whenever they issue with their lists free of other claims, reachable and (INS, RD) acceptable, TOPK.CLR (k from
1 to 1,024) of one lane leaves the list empty with its k, its kind and this group as owner; TOPK.INS of one lane
with a valid key into an empty list makes the pair its only entry; TOPK.RD gives each lane the identifier and key at
its position, or 0xFFFFFFFF and the point 0 beyond the count; physical memory does not change. (R258; R260; R261;
R262; R263; Table 118) -/
def Obligations.TopkLists : Prop :=
  let lists (c : Ctx) (s : State) (g : Gather) (k : Vals → Nat) : Prop :=
    c.claimsBusy = false ∧ Reaches c s false c.headUse g ∧
    ∀ i ∈ g.ins, ∃ loc, s.typedAt c.bent 2 (c.listAt i.vals) (32 + 32 * k i.vals) = .ok loc
  (∀ (o : Op) (s : State) (c : Ctx) (g : Gather) (l : Nat), Plain .topkClr o s c → c.doers = [l] →
    let k := (lowWord (c.regVals l).b).toNat
    1 ≤ k → k ≤ 1024 → lists c s g (fun v => (lowWord v.b).toNat) →
    ∃ t owner off, exec (.topkClr o) s = .next t ∧ t.mem = s.mem ∧ t.fibre c.r = some c.resumed ∧
      c.listOf (c.regVals l) = some (owner, off) ∧ headK (t.listBytes owner off 32) = k ∧
      headCount (t.listBytes owner off 32) = 0 ∧ headMin (t.listBytes owner off 32) = o.mod.getLsbD 2 ∧
      fieldOf (t.listBytes owner off 32) 8 4 = c.r.gid % 2 ^ 32) ∧
  (∀ (o : Op) (s : State) (c : Ctx) (g : Gather) (l : Nat), Plain .topkIns o s c → c.doers = [l] →
    (c.xSrc l o.b).invalid = false → lists c s g (fun v => headK (c.headOf v)) →
    headOk (c.headOf (c.regVals l)) c.r.gid = true → headCount (c.headOf (c.regVals l)) = 0 →
    ∃ t owner off, exec (.topkIns o) s = .next t ∧ t.mem = s.mem ∧ t.fibre c.r = some c.resumed ∧
      c.listOf (c.regVals l) = some (owner, off) ∧ headCount (t.listBytes owner off 32) = 1 ∧
      fieldOf (t.listBytes owner (off + 32) 32) 16 4 = (lowWord (c.regVals l).c).toNat ∧
      xOfBytes (t.listBytes owner (off + 32) 32) = c.xSrc l o.b ∧
      (t.bayAt (s.bayOf c.r.gid)).claims = (s.bayAt (s.bayOf c.r.gid)).claims) ∧
  (∀ (o : Op) (s : State) (c : Ctx) (g : Gather) (j : BitVec 5), Plain .topkRd o s c → o.c = .x j →
    lists c s g (fun v => headK (c.headOf v)) → (∀ l ∈ c.doers, c.headBad (c.regVals l) = false) →
    ∃ t, exec (.topkRd o) s = .next t ∧ t.mem = s.mem ∧ t.fibre c.r = some c.resumed ∧ ∀ l ∈ c.writers,
      let v := c.regVals (c.doerOf l)
      let n := (lowWord v.b).toNat
      let x := t.lane c.r.gid c.r.weave l
      ∃ owner off, c.listOf v = some (owner, off) ∧
        (n < headCount (c.headOf v) → let e := s.listBytes owner (off + 32 + 32 * n) 20
          x = ((c.lane l).given c.f.wb o.d (wideSlot c.slots.1) (BitVec.ofNat 64 (fieldOf e 16 4))).setX j.toNat (xOfBytes e)) ∧
        (headCount (c.headOf v) ≤ n → x = ((c.lane l).given c.f.wb o.d (wideSlot c.slots.1) 0xFFFFFFFF).setX j.toNat { }))

namespace Sys2Proof.Machine

/-- What a lane's load of its record at DEVICE scope gives, and the state after it: the record's bytes, where no store may be
missed (log entry 52). -/
def readsRecord (c : Ctx) (g : Gather) (n l : Nat) : State × List Byte :=
  ((g.ins.find? fun i => i.lane == l).map fun i =>
    g.st.loadWeak (c.s0.laneActor c.r.gid c.r.weave l) c.f.lanes 7 c.r.gid i.place n).getD (g.st, [])

end Sys2Proof.Machine

/-- O42. LAUNCH and TASK of one lane, outside sealed pieces (TASK also outside joiner streams), with a reachable 64-byte
aligned record write their status to the destination: 0 with the new launch or task in the die's pool, one level
deeper, 1 when the pool is full, 2 beyond the depth limit, 3 with the reason in bits 15:8 for a record that is
refused (whether the runtime has a backing area for a launch is an open choice, log entry 37; a record is read as a
lane's load reads, log entry 52). TNEXT takes the next chunk of the group's piece into four K registers, or branches
when none is left. STLOAD of one lane with an acceptable descriptor, a free entry and a destination that can be
written puts its command into the queue pair. (R241; R243; R245; R264; R265; R266; R267; R268; R272; log entry 37;
log entry 52) -/
def Obligations.TasksAndLaunches : Prop :=
  let record (c : Ctx) (n align : Nat) : MemUse :=
    { space := 0, size := n, align := align, acc := .load, ea := fun _ v => some (v.a + c.o.own) }
  (∀ (o : Op) (s : State) (c : Ctx) (g : Gather) (l : Nat), Plain .launch o s c → c.doers = [l] →
    s.isSealed c.r.gid = false → Reaches c s false (record c 256 64) g → g.st.group c.r.gid = some c.g →
    let r := (readsRecord c g 256 l).2
    let depth := g.st.depthOf c.r.gid
    let noArea : Bool := recShape r && recRoles r && ((readsRecord c g 256 l).1.choose 2).1 == 1
    let status : Nat := if 24 < depth + 1 then 2 else match g.st.rejectFirst r noArea with
      | some n => 3 + 256 * n
      | none => if Config.launchPool ≤ g.st.poolUsed (socketOf c.r.gid) then 1 else 0
    ∃ t, exec (.launch o) s = .next t ∧ t.mem = g.st.mem ∧ t.fibre c.r = some c.resumed ∧
      (∀ k ∈ c.writers, t.lane c.r.gid c.r.weave k = (c.lane k).given c.f.wb o.d (wideSlot c.slots.1) (BitVec.ofNat 64 status)) ∧
      (status = 0 → ∃ n, tfind t.launches g.st.uids = some n ∧ n.record = r ∧ n.depth = depth + 1 ∧
        n.space = g.st.spaceOf c.r.gid ∧ n.priv = g.st.privOf c.r.gid ∧ n.started = false) ∧
      (status ≠ 0 → t.launches = g.st.launches)) ∧
  (∀ (o : Op) (s : State) (c : Ctx) (g : Gather) (l : Nat), Plain .task o s c → c.doers = [l] →
    s.isSealed c.r.gid = false → c.joiner = false → Reaches c s false (record c 64 64) g →
    g.st.group c.r.gid = some c.g → (g.st.launchOf c.r.gid).isSome = true →
    let r := (readsRecord c g 64 l).2
    let pegs := ((g.st.launchOf c.r.gid).map fun l => recPegs l.record).getD 0
    let status : Nat := if 24 < g.st.depthOf c.r.gid + 1 then 2 else if taskShape r pegs = false then 3 + 256 * 9
      else if fieldOf r 32 8 ≠ 0 ∧ g.st.domainOk (fieldOf r 32 8) = false then 3 + 256 * 5
      else if Config.launchPool ≤ g.st.poolUsed (socketOf c.r.gid) then 1 else 0
    ∃ t, exec (.task o) s = .next t ∧ t.mem = g.st.mem ∧ t.fibre c.r = some c.resumed ∧
      (∀ k ∈ c.writers, t.lane c.r.gid c.r.weave k = (c.lane k).given c.f.wb o.d (wideSlot c.slots.1) (BitVec.ofNat 64 status)) ∧
      (status = 0 → ∃ n, tfind t.tasks g.st.uids = some n ∧ n.record = r ∧ n.depth = g.st.depthOf c.r.gid + 1 ∧
        n.gid = c.r.gid ∧ n.ready = false) ∧
      (status ≠ 0 → t.tasks = g.st.tasks)) ∧
  (∀ (o : Op) (s : State) (c : Ctx) (d : BitVec 7), Plain .tnext o s c → o.d = .k d → d.toNat % 4 = 0 →
    (dispTarget c 0).toNat % 4 = 0 → (dispTarget c 0).toNat < 2 ^ 57 →
    (∀ p t, s.pieceOf c.r.gid = some p → tfind s.tasks p.task = some t → p.next < p.stop →
      let e := min (p.next + taskGrain t.record) p.stop
      ∃ u h, exec (.tnext o) s = .next u ∧ u.mem = s.mem ∧ u.fibre c.r = some c.resumed ∧
        u.group c.r.gid = some h ∧ h.kAt d.toNat = BitVec.ofNat 32 p.next ∧
        h.kAt (d.toNat + 1) = BitVec.ofNat 32 (p.next / 2 ^ 32) ∧ h.kAt (d.toNat + 2) = BitVec.ofNat 32 e ∧
        h.kAt (d.toNat + 3) = BitVec.ofNat 32 (e / 2 ^ 32) ∧ (u.pieceOf c.r.gid).map (·.next) = some e) ∧
    ((∀ p, s.pieceOf c.r.gid = some p → p.stop ≤ p.next) →
      ∃ u, exec (.tnext o) s = .next u ∧ Calm c s u ∧ Regrouped c u (lanesOf c.f.lanes) (fun _ => (dispTarget c 0, c.f.wb)) ∧
        ∀ k, k < 128 → (u.group c.r.gid).map (fun h => h.kAt k) = some (c.g.kAt k))) ∧
  (∀ (o : Op) (s : State) (c : Ctx) (g : Gather) (l : Nat), Plain .stload o s c → c.doers = [l] → s.isSealed c.r.gid = false →
    Reaches c s false (record c 32 32) g → g.st.group c.r.gid = some c.g →
    let rd := readsRecord c g 32 l
    (g.st.oracle = [] → rd = (g.st, bytesOf c g 32 l)) ∧
    ∀ e q u memo segs, rd.1.stDesc rd.2 = some e → tfind g.st.pairs e.qp = some q → q.free ≠ 0 →
      rd.1.globalAt g.memo (g.st.engineOf c.r.gid) c.space e.dst e.bytes .engineWrite = (u, memo, .ok (.phys segs)) →
      u.group c.r.gid = some c.g → tfind u.pairs e.qp = some q →
      ∃ t cmd, exec (.stload o) s = .next t ∧ t.mem = u.mem ∧ t.fibre c.r = some c.resumed ∧
        t.stcmds = u.stcmds ++ [cmd] ∧ cmd.qp = e.qp ∧ cmd.dst = segs ∧ cmd.bytes = e.bytes ∧ cmd.lane = l ∧
        cmd.nsid = e.nsid ∧ cmd.slba = e.slba ∧ cmd.nlb = e.nlb ∧
        cmd.peg = (if o.mod.getLsbD 6 then some (bitsAt o.mod 0 6) else none) ∧ (tfind t.pairs e.qp).map (·.free) = some (q.free - 1))

namespace Sys2Proof.Machine

/-- A value written to a destination for the lane that computed it (R41, R43, R117). -/
def Ctx.wrote (c : Ctx) (u : State) (l : Nat) (x : Opnd) (wide : Bool) (v : DWord) : State :=
  match x with
  | .g _ | .p _ => (if c.o.un then c.writers else [l]).foldl
      (fun u k => u.onLane c.r.gid c.r.weave k fun y => y.given c.f.wb x wide v) u
  | .k _ | .a _ => u.onGroup c.r.gid fun g => g.given x wide v
  | _ => u

/-- The issuing fibre is as it was at issue, and no halt is due in its weave. -/
def Untouched (c : Ctx) (u : State) : Prop :=
  u.fibre c.r = some c.f ∧ ∀ h, u.group c.r.gid = some h → ∀ f ∈ (h.weave c.r.weave).fibres, f.halts = []

/-- A system or debug instruction whose lanes act in turn: in a group that may run it, whenever it issues with operand
values that raise no cause and no lane waits or faults, it completes in the state that its lanes' acts and their results
leave, each lane with the translations that those before it have settled, with the PC events of its lanes tested by the
gauges of that state, as long as they do not reach into the issuing fibre's own state. -/
def Sites (mk : Op → Instr) (m : Major) (isPriv : Ctx → Bool) (own : Ctx → List Nat)
    (bad : State → Site → Op → Vals → List Nat → List Nat) (align : Op → Vals → Option (DWord × Nat))
    (act : State → Site → Op → Nat → Vals → Done) : Prop :=
  ∀ (o : Op) (s : State) (c : Ctx) (u : State) (memo : Memo), Plain m o s c → (isPriv c = true → c.priv = true) → own c = [] →
    (∀ l ∈ c.doers, bad s c.site o (c.regVals l) [] = [] ∧ align o (c.regVals l) = none) →
    c.doers.foldl (fun u l => u.bind fun u => match act u.1 { c.site with memo := u.2 } o l (c.regVals l) with
      | .ok t d p memo =>
        let t := if m.dests.1 then c.wrote t l c.o.d (wideSlot c.slots.1) d else t
        some (if m.dests.2.2.2 then c.wrote t l c.o.c false (if p then 1 else 0) else t, memo ++ u.2)
      | _ => none) (some ({ s with cur := none }, [])) = some (u, memo) →
    Untouched c u → exec (mk o) s = .next (c.movedOn (u.pcEvents c.r c.f.pc (c.act ||| c.f.pcDue)))

end Sys2Proof.Machine

namespace Sys2Proof.Machine

/-- The event counter that CNTR names (R385). -/
def State.counterOf (s : State) (d : Site) (v : Vals) : Counter :=
  let sel := lowWord v.a
  let i := bitsAt (lowWord v.b) 0 4
  if (lowWord v.b).getLsbD 4 then tget {} (s.die (if sel.getLsbD 13 then d.socket else bitsAt sel 8 3)).counters i
  else tget {} (s.coreAt ((selectorCores d sel).headD 0)).counters i

end Sys2Proof.Machine

/-- O43. In a group that may (registers 0x010 to 0x012 by any, all others and every write by privileged ones), MFSR of
an existing register writes its value to the destination, and MTSR (outside sealed pieces) of registers 0 to 7 with
a value inside the register's mask writes it; both complete; ASTB, QPRIV, FQCB, SVCB, GTAB and HALTPG read back what
was written. What such a write does beyond its register is that of `State.writeReg`. (R356; R360; R361; R363; Table
176) -/
def Obligations.SystemRegisters : Prop :=
  let index (o : Op) (v : Vals) : Nat := if o.mod.getLsbD 12 then v.b.toNat % 2 ^ 12 else o.ownBits.toNat % 2 ^ 12
  let user (o : Op) (v : Vals) : Bool := 0x10 ≤ index o v && index o v ≤ 0x12
  Sites .mfsr .mfsr (fun c => if c.o.mod.getLsbD 12 then c.doers.any fun l => !user c.o (c.regVals l) else !user c.o {})
    (fun _ => []) (fun _ _ o v _ => if index o v ≤ 7 ∨ (0x10 ≤ index o v ∧ index o v ≤ 0x12) then [] else [11])
    (fun _ _ => none) (fun s t o _ v => .ok s (s.sysReg t.socket (index o v)) false) ∧
  Sites .mtsr .mtsr (fun _ => true) (fun c => if c.s0.isSealed c.r.gid then [11] else [])
    (fun _ _ o v _ => if index o v ≤ 7 ∧ v.d &&& ~~~regMask (index o v) = 0 then [] else [11])
    (fun _ _ => none) (fun s t o _ v => .ok (s.writeReg t.socket (index o v) v.d) 0 false) ∧
  ∀ (s : State) (k i : Nat) (v : DWord), i ≤ 5 → (s.writeReg k i v).sysReg k i = v

/-- O44. In a privileged group TLBI completes; on each die it names (the issuing one at DIE scope, else every die) it
removes exactly the cached leaves it covers: all, those of the address space, or those of the page, of any size, of
that space (with the whole contiguous group of a leaf, log entry 8), and every cached pointer of that space, and on
other dies none; CFLUSH and CINV of a range that translates complete in any group; CFLUSH changes nothing beyond
what its translations set but the model's record of lines not flushed (log entry 49), CINV drops the cached
instruction lines of the range from the cores it names and changes nothing else beyond its translations but the
event that it is in the model's record of the memory order (log entry 52). (R310; R356; R368; R369; R370; log entry
8; log entry 49; log entry 52) -/
def Obligations.CachesMaintained : Prop :=
  let none_ : State → Site → Op → Vals → List Nat → List Nat := fun _ _ _ _ _ => []
  Sites .tlbi .tlbi (fun _ => true) Ctx.noSealed none_ (fun _ _ => none) tlbiAct ∧
  Sites .cflush .cflush (fun _ => false) (fun _ => []) none_ (fun _ _ => none) cflushAct ∧
  Sites .cinv .cinv (fun _ => false) (fun _ => []) none_ (fun _ _ => none) cinvAct ∧
  (∀ (s : State) (d : Site) (o : Op) (l : Nat) (v : Vals), ∃ t, tlbiAct s d o l v = .ok t 0 false ∧ ∀ k,
    let op := bitsAt o.mod 0 2
    let asid := bitsAt v.b 0 16
    let va := v.a + o.own
    let named : Bool := if o.mod.getLsbD 15 && o.scope == 6 then k == d.socket else k < 18
    (t.die k).tlb = (s.die k).tlb.filter (fun e => !(named && (op == 0 || (e.asid == asid && (op == 1 || e.around va))))) ∧
    (t.die k).ptrs = (s.die k).ptrs.filter (fun p => !(named && (op == 0 || p.asid == asid))) ∧
    (named = true → op = 0 → (t.die k).roots = []) ∧
    (named = true → ∀ e ∈ (t.die k).tlb, e.asid = asid → e.va ≠ va.toNat / 2 ^ e.size)) ∧
  (∀ (s t : State) (d : Site) (o : Op) (l : Nat) (v : Vals) (x : DWord) (p : Bool) (m : Memo), cflushAct s d o l v = .ok t x p m →
    { t with homes := (s.rangeOf d o v).1.homes } = (s.rangeOf d o v).1 ∧ ((lowWord v.b).toNat = 0 → t = s)) ∧
  (∀ (s t : State) (d : Site) (o : Op) (l : Nat) (v : Vals) (x : DWord) (p : Bool) (m : Memo) (segs : List (Nat × Nat)),
    cinvAct s d o l v = .ok t x p m → (s.rangeOf d o v).2.2 = .ok (.phys segs) →
    { t with cores := (s.rangeOf d o v).1.cores, past := (s.rangeOf d o v).1.past } = (s.rangeOf d o v).1 ∧ ∀ k c, (k, c) ∈ t.cores →
      ∃ c0, (k, c0) ∈ (s.rangeOf d o v).1.cores ∧ { c with code := c0.code } = c0 ∧
        (scopeCores o (d.core.getD 0) k = true → ∀ e ∈ c.code, ∀ g ∈ segs, ¬(g.1 / 128 ≤ e.line ∧ e.line ≤ (g.1 + g.2 - 1) / 128)))

/-- O45. WAITI goes on at once for n = 0 and otherwise parks until n cycles from now; ACCT.ON and ACCT.OFF set and clear
the group's EXTWAIT flag; SYSC (outside sealed pieces) writes 0xFFFFFFFF to Kd and goes on where the die has no
service queue, and otherwise parks with one request of its code and argument posted or held; TRAP with no writing
lane only goes on. (R20; R364; R365; R371; R372) -/
def Obligations.WaitsAndService : Prop :=
  (∀ (o : Op) (s : State) (c : Ctx), Plain .waiti o s c →
    let n := c.doers.foldl (fun n l => max n (lowWord (c.regVals l).a).toNat) 0
    (n = 0 → exec (.waiti o) s = .next (c.movedOn { s with cur := none })) ∧
    (n ≠ 0 → ∃ t f, exec (.waiti o) s = .next t ∧ t.mem = s.mem ∧ t.fibre c.r = some f ∧ f.st = .parked ∧
      f.wait = .clock (s.cycle + n) ∧ f.pc = c.f.pc ∧ f.lanes = c.f.lanes)) ∧
  (∀ (o : Op) (s : State) (c : Ctx), Plain .acct o s c →
    exec (.acct o) s = .next (c.movedOn ({ s with cur := none }.onGroup c.r.gid fun g =>
      { g with extWait := !o.mod.getLsbD 0 }))) ∧
  (∀ (o : Op) (s : State) (c : Ctx) (d : BitVec 7), Plain .sysc o s c → o.d = .k d → s.isSealed c.r.gid = false →
    ((s.die c.socket).svcb = 0 → ∃ u, exec (.sysc o) s = .next (c.movedOn u) ∧ u.mem = s.mem ∧
      ∃ h, u.group c.r.gid = some h ∧ ∀ i, h.kAt i = if i = d.toNat then 0xFFFFFFFF else c.g.kAt i) ∧
    ((s.die c.socket).svcb ≠ 0 → ∃ t f q, exec (.sysc o) s = .next t ∧ t.fibre c.r = some f ∧ f.st = .parked ∧
      f.wait = .sysc s.fresh d.toNat ∧ f.pc = c.f.pc ∧ f.lanes = c.f.lanes ∧
      q ∈ (t.die c.socket).svc ++ (t.die c.socket).svcHeld ∧ q.tag = s.fresh ∧ q.gid = c.r.gid ∧
      q.code = (lowWord o.own).toNat % 2 ^ 22 ∧ q.arg = (c.regVals 0).a)) ∧
  (∀ (o : Op) (s : State) (c : Ctx), Plain .trap o s c → c.wr = 0 → exec (.trap o) s = .next (c.movedOn { s with cur := none }))

/-- O46. TRAP of at least one writing lane, whenever it issues, takes a trap of class 9 with its code; taking a trap
delivers its record, with the PC, lanes and information given, to the domain's handler; with disposition HALT the
fibre is then halted at its instruction, its cause 2 and its detail the class, with its lanes and PC unchanged; with
END its bent is ending. (R299; R300; R303; R328; R364) -/
def Obligations.TrapEntry : Prop :=
  (∀ (o : Op) (s : State) (c : Ctx), Plain .trap o s c → c.wr ≠ 0 →
    exec (.trap o) s = .next (({ s with cur := none }).takeTrap c.r c.wr 9 0 (leBytes 4 (lowWord o.own).toNat) [])) ∧
  (∀ (s : State) (r : FibreRef) (f : Fibre) (g : Group) (b : Bent) (mask : DWord) (cls cause : Nat) (info : List Byte)
      (conts : List (List Byte)), s.fibre r = some f → s.group r.gid = some g → s.bent g.bent = some b → b.alive = true →
    (∀ p ∈ s.bents, p.2.uid = p.1) →
    let body := padTo 64 (s.fibreHeader r cls cause conts.length f.pc mask ++ info)
    let u := s.deliver (s.domOf r.gid) (body :: conts)
    let t := s.takeTrap r mask cls cause info conts
    (u.haltsOn (s.domOf r.gid) cls = true → t.mem = u.mem ∧ ∃ h, t.fibre r = some h ∧ h.st = .halted ∧ h.resume = .ready ∧
      h.cause = 2 ∧ h.detail = cls ∧ h.pc = f.pc ∧ h.lanes = f.lanes ∧ h.replay = f.replay) ∧
    (u.haltsOn (s.domOf r.gid) cls = false → (t.bent g.bent).map (·.st) = some .ending))

/-- O47. With a valid handler descriptor whose ring, control fields and notify peg lie in the memory of the device and
do not overlap, a head record and its continuations fill the next ring slots in order and the producer index
advances by their number when all fit, and so does the notify peg, by 1 for each record; otherwise none is stored
and the dropped count rises by their number; no byte of memory outside those slots, the producer index and the
notify peg changes. (R300; R301; Table 149) -/
def Obligations.RecordsDelivered : Prop :=
  ∀ (s : State) (d : DomainView) (recs : List (List Byte)), s.handlerOk d.handler = true → (∀ r ∈ recs, r.length = 64) →
    let h := d.handler
    let base := memNat s h 8
    let count := 2 ^ memNat s (h + 8) 4
    let prod := memNat s (h + 12) 4
    let used := (prod + 2 ^ 32 - memNat s (h + 16) 4) % 2 ^ 32
    let peg := memNat s (h + 32) 8
    (base + 64 * count ≤ h ∨ h + 64 ≤ base) → base + 64 * count ≤ s.capacity →
    (peg ≠ 0 → peg + 8 ≤ s.capacity ∧ (peg + 8 ≤ h ∨ h + 64 ≤ peg) ∧ (peg + 8 ≤ base ∨ base + 64 * count ≤ peg)) →
    let t := s.deliver d recs
    (used + recs.length ≤ count →
      (∀ i (hi : i < recs.length), memBytes t.mem (base + 64 * ((prod + i) % count)) 64 = recs[i]) ∧
      memNat t (h + 12) 4 = (prod + recs.length) % 2 ^ 32 ∧
      (peg ≠ 0 → memNat t peg 8 = (memNat s peg 8 + recs.length) % 2 ^ 64) ∧
      ∀ a, (∀ i, i < recs.length → a < base + 64 * ((prod + i) % count) ∨ base + 64 * ((prod + i) % count) + 64 ≤ a) → (a < h + 12 ∨ h + 16 ≤ a) → (peg = 0 ∨ a < peg ∨ peg + 8 ≤ a) →
        memGet t.mem a = memGet s.mem a) ∧
    (count < used + recs.length →
      memNat t (h + 20) 4 = (memNat s (h + 20) 4 + recs.length) % 2 ^ 32 ∧
      ∀ a, (a < h + 20 ∨ h + 24 ≤ a) → memGet t.mem a = memGet s.mem a)

/-- O48. The listed integer, float, real and memory instructions whose operand slots raise causes take ILLEGAL with the
lowest of them and compute nothing; the ten listed privileged instructions, MFSR of a register not marked U (with IX
= 0, or an immediate selector of CNTR, whatever the lanes), and CNTR other than a read of the issuing core or die
take PRIV in an unprivileged group before any other check; LD and ST of a misaligned address take ALIGN with the
address of the lowest misaligned lane, and access nothing; each is a trap at the instruction, whose mask is the
lanes that run, or at a replay the replay mask (log entry 27). (R120; R201; R299; R302; R356; R361; R385; log entry
27) -/
def Obligations.CausesTrap : Prop :=
  (∀ p ∈ [(Instr.iadd, Major.iadd), (Instr.iaddExt, Major.iadd), (Instr.imul, Major.imul), (Instr.and, Major.and),
      (Instr.shl, Major.shl), (Instr.sel, Major.sel), (Instr.fadd, Major.fadd), (Instr.ffma, Major.ffma),
      (Instr.dfma, Major.dfma), (Instr.xadd, Major.xadd), (Instr.ld, Major.ld)],
    ∀ (o : Op) (s : State) (c : Ctx) (n : Nat), Issues p.2 o s c →
      lowestCause (c.each.flatMap (slotRefusals c)) = some n →
      exec (p.1 o) s = .next (({ s with cur := none }).takeTrap c.r c.act 1 n (wordsInfo (encodeOp p.2 o)) [])) ∧
  (∀ p ∈ [(Instr.mtsr, Major.mtsr), (Instr.tlbi, Major.tlbi), (Instr.eret, Major.eret), (Instr.hread, Major.hread),
      (Instr.hwrite, Major.hwrite), (Instr.hstep, Major.hstep), (Instr.hrun, Major.hrun), (Instr.hstat, Major.hstat),
      (Instr.gauge, Major.gauge), (Instr.sample, Major.sample)],
    ∀ (o : Op) (s : State) (c : Ctx), Issues p.2 o s c → c.priv = false →
      exec (p.1 o) s = .next (({ s with cur := none }).takeTrap c.r c.act 2 0 (wordsInfo (encodeOp p.2 o)) [])) ∧
  (∀ (o : Op) (s : State) (c : Ctx), Issues .mfsr o s c → c.priv = false →
      (let user (i : Nat) : Prop := 0x10 ≤ i ∧ i ≤ 0x12
       o.mod.getLsbD 12 = false ∧ ¬ user (o.ownBits.toNat % 2 ^ 12) ∨
       o.mod.getLsbD 12 = true ∧ ∃ v ∈ c.peekOf [1], ¬ user (v.2.b.toNat % 2 ^ 12)) →
      exec (.mfsr o) s = .next (({ s with cur := none }).takeTrap c.r c.act 2 0 (wordsInfo (encodeOp .mfsr o)) [])) ∧
  (∀ (o : Op) (s : State) (c : Ctx), Issues .cntr o s c → c.priv = false →
      (bitsAt o.mod 0 2 ≠ 0 ∨ (o.a = .imm ∧ (c.regVals 0).a.getLsbD 13 = false) ∨
        (o.a ≠ .imm ∧ ∃ v ∈ c.peekOf [0], v.2.a.getLsbD 13 = false)) →
      exec (.cntr o) s = .next (({ s with cur := none }).takeTrap c.r c.act 2 0 (wordsInfo (encodeOp .cntr o)) [])) ∧
  (∀ p ∈ [(Instr.ld, Major.ld), (Instr.ldExt, Major.ld), (Instr.st, Major.st), (Instr.stExt, Major.st)],
    ∀ (o : Op) (s : State) (c : Ctx) (l : Nat) (rest : List Nat), Plain p.2 o s c →
      let n := typeSize (bitsAt o.mod 0 4)
      let ea (k : Nat) : DWord := ((operandOf c n n .load).ea k (c.regVals k)).getD 0
      c.doers.filter (fun k => (ea k).toNat % n != 0) = l :: rest → bitsAt o.mod 4 2 = 0 →
      (s.isSealed c.r.gid = true → o.scope.toNat < 8) →
      exec (p.1 o) s = .next (({ s with cur := none }).takeTrap c.r c.act 3 0 (leBytes 8 (ea l).toNat ++ leBytes 4 n) []))

/-- O49. In a privileged group, with well-formed target words, these instructions complete with what their requests
give; a request that is refused changes nothing, clears Pc and gives its reason; HREAD and HWRITE of a G register of
a halted and reported lane outside the own weave read and write that register; HSTEP.F makes the fibre that holds
such a lane step, HSTEP.L that lane alone, and HRUN lets a fibre go on in its resume state; ERET makes one halted at
a TRAP ready at the address 12 bytes on and refuses any other with reason 4; HSTAT of a lane or fibre gives the
status word of Table 183 (state, or 4 while it steps; halt cause and detail of a halted one; REPORTED; FPARK) and
the low half of its PC, 0xFF where there is none, and changes nothing but what its join edge records (log entry 52).
(R330; R331; R357; R367; R373; R375; R377; R378; R379; R380; R381; log entry 52) -/
def Obligations.DebugRequests : Prop :=
  let bad (wide : Bool) : State → Site → Op → Vals → List Nat → List Nat := fun _ _ _ v _ => targetBad wide v.a
  let no : Op → Vals → Option (DWord × Nat) := fun _ _ => none
  let yes : Ctx → Bool := fun _ => true
  Sites .hread .hread yes (fun _ => []) (bad false) no hreadAct ∧ Sites .hwrite .hwrite yes (fun _ => []) (bad false) no hwriteAct ∧
  Sites .hstep .hstep yes (fun _ => []) (bad false) no hstepAct ∧ Sites .hrun .hrun yes (fun _ => []) (bad true) no hrunAct ∧
  Sites .hstat .hstat yes (fun _ => []) (bad true) no hstatAct ∧
  Sites .eret .eret yes (fun _ => []) (bad false) no eretAct ∧
  (∀ (s : State) (d : Site) (o : Op) (l : Nat) (v : Vals) (x : DWord) (t : State),
    (∀ act ∈ [hreadAct, hwriteAct, hstepAct, hrunAct, eretAct], act s d o l v = .ok t x false → t = s ∧ 1 ≤ x.toNat ∧ x.toNat ≤ 8) ∧
    (∀ p, hreadAct s d o l v = .ok t x p → t = s) ∧
    ∃ u, hstatAct s d o l v = .ok u (s.hstat (targetOf v.a)) true ∧ u.mem = s.mem ∧ (s.oracle = [] → u = s)) ∧
  (∀ (s : State) (t : Target), (s.group t.gid = none → s.hstat t = 0xFF) ∧
    ∀ (g : Group), s.group t.gid = some g → (g.retired = true → s.hstat t = 0xFF) ∧ (g.retired = false → t.scope ≤ 1 →
      let found : Option Fibre := if t.weave < g.weaveCount then
          if t.scope = 0 then (g.weave t.weave).holding t.lane else (g.weave t.weave).fibre t.fid
        else none
      (found = none → s.hstat t = 0xFF) ∧
      ∀ f, found = some f → let w := s.hstat t
        bitsAt w 32 32 = f.pc.toNat % 2 ^ 32 ∧ bitsAt w 26 6 = 0 ∧
        bitsAt w 0 8 = (if f.step ≠ 0 then 4 else match f.st with
          | .ready => 0
          | .parked => 1
          | .refining => 2
          | .halted => 3) ∧
        (f.st = .halted → bitsAt w 8 8 = f.cause % 2 ^ 8 ∧ (f.cause < 2 ^ 8 → bitsAt w 16 8 = f.detail % 2 ^ 8)) ∧
        (f.st ≠ .halted → bitsAt w 8 8 = 0) ∧
        (f.cause < 2 ^ 8 → f.detail < 2 ^ 8 → (w.getLsbD 24 = true ↔ f.st = .halted ∧ f.reported = true) ∧
          (w.getLsbD 25 = true ↔ g.entries ≠ [] ∨ ∃ e ∈ (s.die (socketOf t.gid)).held, e.engine = false ∧ e.gid = t.gid)))) ∧
  (∀ (s : State) (d : Site) (o : Op) (l : Nat) (v : Vals) (g : Group) (f : Fibre), let t := targetOf v.a
    s.group t.gid = some g → g.retired = false → t.weave < g.weaveCount → (g.weave t.weave).holding t.lane = some f →
    f.shown = true → d.own ≠ some (t.gid, t.weave) →
    (∀ i, (lowWord v.b).toNat = i → i < g.gBudget → i < 2 ^ 26 →
      hreadAct s d o l v = .ok s (zext32 (((g.weave t.weave).lane t.lane).gAt i)) true ∧
      ∃ u, hwriteAct s d o l v = .ok u 0 true ∧ u.mem = s.mem ∧
        u.lane t.gid t.weave t.lane = ((g.weave t.weave).lane t.lane).setG i (lowWord v.d)) ∧
    ((s.die (socketOf t.gid)).gtab = 0 → (g.weave t.weave).fibre f.id = some f →
      (f.cause = 2 → f.detail = 9 → ∃ u h, eretAct s d o l v = .ok u 0 true ∧ u.fibre ⟨t.gid, t.weave, f.id⟩ = some h ∧
        h.st = .ready ∧ h.pc = f.pc + 12 ∧ h.lanes = f.lanes ∧ u.mem = s.mem) ∧
      (¬(f.cause = 2 ∧ f.detail = 9) → eretAct s d o l v = .ok s 4 false)) ∧
    ((s.die (socketOf t.gid)).gtab = 0 → (g.weave t.weave).fibre f.id = some f → o.mod.getLsbD 0 = true →
      ∃ u h, hstepAct s d o l v = .ok u 0 true ∧ u.fibre ⟨t.gid, t.weave, f.id⟩ = some h ∧ h.st = f.resume ∧ h.step = 1 ∧
        h.pc = f.pc ∧ h.lanes = f.lanes ∧ u.mem = s.mem) ∧
    ((s.die (socketOf t.gid)).gtab = 0 → (g.weave t.weave).fibre f.id = some f → o.mod.getLsbD 0 = false → f.replay = 0 →
      ∃ u h x, hstepAct s d o l v = .ok u 0 true ∧ u.group t.gid = some h ∧ x ∈ (h.weave t.weave).fibres ∧
        x.lanes = laneBit t.lane ∧ x.st = f.resume ∧ x.step = 1 ∧ x.pc = f.pc ∧ u.mem = s.mem) ∧
    ((s.die (socketOf t.gid)).gtab = 0 → t.fid = f.id → (g.weave t.weave).fibre f.id = some f → t.scope = 1 → g.gid = t.gid →
      (∃ p ∈ g.weaves, p.1 = t.weave ∧ p.2 = g.weave t.weave) →
      ∃ u h, hrunAct s d o l v = .ok u 0 true ∧ u.fibre ⟨t.gid, t.weave, f.id⟩ = some h ∧ h.st = f.resume ∧ h.step = 0 ∧
        h.pc = f.pc ∧ u.mem = s.mem))

/-- O50. In a group that may run them, with operand values that raise no cause and addresses that translate, GAUGE arms,
disarms and reads gauges, SAMPLE arms and stops sinks, TRACE puts a record to the trace sink, and CNTR reads, arms
and clears counters, and each completes; an armed gauge holds its descriptor, a refused one gives 6, a disarmed one
is disabled and keeps its hits, GAUGE.RD gives the hits; SAMPLE.STOP leaves no sink and sets STOPPED, SAMPLE.ARM is
ILLEGAL 11 where its control block is out of range and else leaves the sink armed with its period, the dropped field
0 and the status ACTIVE; TRACE puts its record in the next slot of an armed sink with room and advances the producer
index, counts it as dropped where the sink is lost or full, and stores nothing with no sink; a counter just selected
or cleared reads 0, or the cycles since for source 0, where the model keeps its source, and a free value where it
does not (log entry 21). (R324; R333; R335; R336; R337; R341; R356; R376; R383; R384; R385; log entry 21) -/
def Obligations.GaugesAndSinks : Prop :=
  Sites .gauge .gauge (fun _ => true) Ctx.noSealed gaugeBad gaugeAlign gaugeAct ∧
  Sites .sample .sample (fun _ => true) Ctx.noSealed sampleBad sampleAlign sampleAct ∧
  Sites .trace .trace (fun _ => false) (fun _ => []) (fun _ _ _ _ _ => []) (fun _ _ => none) traceAct ∧
  Sites .cntr .cntr (fun c => let other (v : Vals) : Bool := !(lowWord v.a).getLsbD 13
      bitsAt c.o.mod 0 2 != 0 || (if c.o.a = .imm then other (c.regVals 0) else c.doers.any fun l => other (c.regVals l)))
    (fun c => if bitsAt c.o.mod 0 2 = 1 ∧ c.s0.isSealed c.r.gid = true then [11] else []) cntrBad (fun _ _ => none) cntrAct ∧
  (∀ (s : State) (d : Site) (o : Op) (l : Nat) (v : Vals), ∀ k ∈ selectorCores d (lowWord v.c), let i := (lowWord v.b).toNat
    (∀ t x p m g, bitsAt o.mod 0 2 = 0 → gaugeAct s d o l v = .ok t x p m → gaugeOf (s.siteRead d l (siteAddr o v) 32).2.2.2 = some g →
      tget {} (t.coreAt k).gauges i = g) ∧
    (∀ t x p m, bitsAt o.mod 0 2 = 0 → gaugeAct s d o l v = .ok t x p m → gaugeOf (s.siteRead d l (siteAddr o v) 32).2.2.2 = none →
      x = 6 ∧ t = (s.siteRead d l (siteAddr o v) 32).1) ∧
    (bitsAt o.mod 0 2 = 1 → ∃ t, gaugeAct s d o l v = .ok t 0 true ∧ (tget {} (t.coreAt k).gauges i).ctrl.getLsbD 13 = false ∧
      (tget {} (t.coreAt k).gauges i).hits = (tget {} (s.coreAt k).gauges i).hits) ∧
    (selectorCores d (lowWord v.c) = [k] → bitsAt o.mod 0 2 = 2 →
      gaugeAct s d o l v = .ok s (tget {} (s.coreAt k).gauges i).hits true)) ∧
  (∀ (s : State) (d : Site) (o : Op) (l : Nat) (v : Vals), let n := (lowWord v.b).toNat; let tr := o.mod.getLsbD 1
    (o.mod.getLsbD 0 = true → ∃ t, sampleAct s d o l v = .ok t 0 true ∧ ((s.die n).sink tr = none → t = s) ∧
      ∀ k, (s.die n).sink tr = some k → (t.die n).sink tr = none ∧ (s.physBad (k.pa + 24) = none →
        memNat t (k.pa + 24) 4 = memNat s (k.pa + 24) 4 / 4 * 4 + 1)) ∧
    (o.mod.getLsbD 0 = false → ∀ u m pa len rest, s.globalAt d.memo d.agent d.space (v.a + o.own) 64 .store = (u, m, .ok (.phys ((pa, len) :: rest))) →
      (∀ k < 64, u.physBad (pa + k) = none) →
      let count := memNat u (pa + 8) 4 % 32
      let period := memNat u (pa + 24) 4 / 2 ^ 8 % 32
      (count < 7 ∨ 20 < count ∨ memNat u pa 8 % 4096 ≠ 0 ∨ (tr = false ∧ (period < 10 ∨ 24 < period)) →
        sampleAct s d o l v = .illegal 11) ∧
      ∀ t x p m, sampleAct s d o l v = .ok t x p m → x = 0 ∧ p = true ∧ memNat t (pa + 20) 4 = 0 ∧ memNat t (pa + 24) 4 % 4 = 0 ∧
        ∃ k, (t.die n).sink tr = some k ∧ k.pa = pa ∧ k.lost = false ∧ k.drops = false ∧ k.period = period ∧
          k.due = t.cycle + 2 ^ period)) ∧
  (∀ (s : State) (d : Site) (o : Op) (l : Nat) (v : Vals), ∃ t, traceAct s d o l v = .ok t 0 true ∧
    ((s.die d.socket).trace = none → t.mem = s.mem) ∧
    ∀ k, (s.die d.socket).trace = some k → k.moved = false → k.drops = false →
      (∀ j < 64, s.physBad (k.pa + j) = none) →
      let count := 2 ^ (memNat s (k.pa + 8) 4 % 32)
      let prod := memNat s (k.pa + 12) 4
      let used := (prod + 2 ^ 32 - memNat s (k.pa + 16) 4) % 2 ^ 32
      let off := 32 * (prod % count)
      let slot := (k.pins.getD (off / 4096 + 1) (0, 0)).2 + off % 4096
      (k.lost = true ∨ count ≤ used → memNat t (k.pa + 20) 4 = (memNat s (k.pa + 20) 4 + 1) % 2 ^ 32 ∧
        ∀ a, (a < k.pa + 20 ∨ k.pa + 24 ≤ a) → memGet t.mem a = memGet s.mem a) ∧
      (k.lost = false → used < count → (slot + 32 ≤ k.pa ∨ k.pa + 64 ≤ slot) → s.physBad slot = none →
        memBytes t.mem slot 32 = sinkRecord d.pid d.tid d.gid
          (0xF0000000 + o.ownBits.toNat % 16 * 2 ^ 24 + l * 2 ^ 16 + d.socket * 2 ^ 8 + d.place) 2 d.pc v.a ∧
        memNat t (k.pa + 12) 4 = (prod + 1) % 2 ^ 32)) ∧
  (∀ (s : State) (d : Site) (o o' : Op) (l : Nat) (v : Vals), bitsAt o.mod 0 2 ≠ 0 → bitsAt o'.mod 0 2 = 0 →
    let die := (lowWord v.b).getLsbD 4
    let source := if bitsAt o.mod 0 2 = 1 then bitsAt (lowWord v.b) 8 8 else (s.counterOf d v).source
    ∃ t, cntrAct s d o l v = .ok t 0 true ∧ t.mem = s.mem ∧ (t.counterOf d v).source = source ∧
      (source ∈ (if die then [0, 4, 5, 6, 7, 8, 9, 10, 11, 12, 13, 14, 15] else [0, 1, 2, 4, 5, 6, 10, 12, 13, 14, 15]) →
        ∀ n, cntrAct { t with cycle := t.cycle + n } d o' l v =
          .ok { t with cycle := t.cycle + n } (if source = 0 then BitVec.ofNat 64 n else 0) true) ∧
      (source ∉ (if die then [0, 4, 5, 6, 7, 8, 9, 10, 11, 12, 13, 14, 15] else [0, 1, 2, 4, 5, 6, 10, 12, 13, 14, 15]) →
        ∃ u, cntrAct t d o' l v = .ok u (Config.freeDWord t.fresh) true))

namespace Sys2Proof.Machine

/-- The record that TRY leaves in a lane (R289): where the search goes on, its alternatives, how much of the kerf is older, the
registers that MOD carries. -/
def tried (c : Ctx) (d : BitVec 6) (l n : Nat) (token : Word) : ChoiceRec :=
  { resume := c.fall, next := 1, count := n, mark := (c.lane l).kerf.length, dest := d.setWidth 8, mask := c.o.mod, wb := c.f.wb
    token := token
    words := ((List.range 16).filter fun i => c.o.mod.getLsbD i).map fun i => (i, (c.lane l).gAt (c.f.wb + i)) }

/-- A lane at a record's point of resumption (R279): the carried registers as they were, the alternative in its register. -/
def resumed (x : Lane) (r : ChoiceRec) (alt : Nat) : Lane :=
  (((List.range 16).filter fun i => r.mask.getLsbD i).foldl (fun y i => y.setG (r.wb + i) (tget 0 r.words i)) x).setG
    (r.wb + r.dest.toNat) (BitVec.ofNat 32 alt)

/-- A lane holds no record whose token is posted, and is not in the midst of unwinding one (R283). -/
def Ctx.holdsNone (c : Ctx) (l : Nat) : Prop := c.g.cutAt (c.lane l) = none ∧ (c.lane l).unwinding = false

/-- The newest record of a lane still has an alternative, and nothing was trailed since it was pushed. -/
def Lane.ripe (x : Lane) : Prop := ∀ r, x.recs.getLast? = some r → r.next < r.count ∧ x.kerf.length ≤ r.mark

/-- The records of a lane after its newest one, `r`, has given an alternative (R279): its last alternative takes it off the
stack, unless some other lane's copy still refers to it. -/
def Lane.spent (x : Lane) (r : ChoiceRec) : List ChoiceRec :=
  x.recs.dropLast ++ if r.next + 1 = r.count ∧ r.stolen = false ∧ r.cut = false then [] else [{ r with next := r.next + 1 }]

/-- The tables of a group's weaves and lanes are in order, as in every state that a run reaches. -/
def Group.ordered (g : Group) : Prop := tsorted none g.weaves = true ∧ ∀ p ∈ g.weaves, tsorted none p.2.lanes = true

end Sys2Proof.Machine

/-- O51. Outside the joiner, in lanes that hold no posted token and with the backing area reached (log entry 37), TRY
with 1 to 65,535 alternatives and room for a record pushes one record in each writing lane, with alternative 0 in
Gd, one token for the group's push, and goes on; with a full stack it takes its token and then KERFFULL, whose mask
is the lanes that run, or at a replay the replay mask (log entry 27). FAIL sends each writing lane to the point of
its newest record with the next alternative in that record's register, its carried registers restored and the record
gone after its last alternative unless it is stolen or cut, or to the label where it has none; one trailed store
since is undone in memory. (R275; R276; R278; R279; R280; R284; R288; R289; R290; log entry 27; log entry 37) -/
def Obligations.TryAndFail : Prop :=
  (∀ (o : Op) (s : State) (c : Ctx) (d : BitVec 6), Plain .tryOpen o s c → o.d = .g d → o.un = false → c.joiner = false →
    (∀ i < 16, o.mod.getLsbD i = true → c.f.wb + i < c.g.gBudget) →
    let alts (l : Nat) : Nat := (lowWord (c.regVals l).b).toNat
    (∀ l ∈ c.writers, 1 ≤ alts l ∧ alts l ≤ 65535 ∧ c.holdsNone l) →
    ((∀ l ∈ c.writers, (c.lane l).recs.length < c.g.recCap) → c.isBacked (96 * c.writers.length) s →
      ∃ t, exec (.tryOpen o) s = .next t ∧ Calm c s t ∧ t.fibre c.r = some c.resumed ∧
        (t.group c.r.gid).map (·.push) = some (if c.f.token.isNone then c.g.push + 1 else c.g.push) ∧
        ∀ l, t.lane c.r.gid c.r.weave l = if l ∈ c.writers then
            { (c.lane l).setG (c.f.wb + d.toNat) 0 with
              recs := (c.lane l).recs ++ [tried c d l (alts l) (c.f.token.getD c.g.push)] }
          else c.lane l) ∧
    ((∃ l ∈ c.writers, c.g.recCap ≤ (c.lane l).recs.length) → ∃ info,
      exec (.tryOpen o) s = .next ((if c.f.token.isNone then
        { s with cur := none }.onGroup c.r.gid (fun g => { g with push := g.push + 1 }) else { s with cur := none }).takeTrap
          c.r c.act 5 1 info []))) ∧
  (∀ (o : Op) (s : State) (c : Ctx), Plain .fail o s c → o.un = false → c.joiner = false →
    (dispTarget c 0).toNat % 4 = 0 → (dispTarget c 0).toNat < 2 ^ 57 →
    (∀ l ∈ c.writers, c.holdsNone l ∧ (c.lane l).ripe) → c.isBacked 0 s →
    let dest (l : Nat) : DWord × Nat := match (c.lane l).recs.getLast? with
      | some r => (r.resume, r.wb)
      | none => (dispTarget c 0, c.f.wb)
    ∃ t, exec (.fail o) s = .next t ∧ Calm c s t ∧
      Regrouped c t (c.writers.filter fun l => dest l != (c.fall, c.f.wb)) dest ∧
      ∀ l, t.lane c.r.gid c.r.weave l = if l ∈ c.writers then (match (c.lane l).recs.getLast? with
          | some r => resumed { c.lane l with recs := (c.lane l).spent r } r r.next
          | none => c.lane l)
        else c.lane l) ∧
  (∀ (o : Op) (s u : State) (c : Ctx) (l : Nat) (r : ChoiceRec) (kf : List KerfEntry) (e : KerfEntry) (memo : Memo) (loc : Loc),
    Plain .fail o s c → o.un = false → c.joiner = false → s.isSealed c.r.gid = false →
    (dispTarget c 0).toNat % 4 = 0 → (dispTarget c 0).toNat < 2 ^ 57 → c.writers = [l] → c.holdsNone l → c.isBacked 0 s →
    (c.lane l).recs.getLast? = some r → r.next < r.count → (c.lane l).kerf = kf ++ [e] → kf.length = r.mark →
    c.place [] e.space.toNat (e.addr.setWidth 64) (2 ^ e.size.toNat) .store (c.backedAt 0 { s with cur := none }) = (u, memo, .ok loc) →
    ∃ t, exec (.fail o) s = .next t ∧ t.mem = (u.storeAt (u.bayOf c.r.gid) loc (leBytes (2 ^ e.size.toNat) e.old.toNat)).mem ∧
      (t.lane c.r.gid c.r.weave l).kerf = kf)

/-- O52. Outside the joiner, whenever MARK issues with operands that raise no cause, no lane that acts holds a posted
token (R283) and the backing area is reached (log entry 37), it goes on with the number of choice records of each
acting lane in its Gd, whose upper 16 bits are zero as the stack has at most 65,535 records, 0 where the lane holds
none; no other register, lane, group or byte of memory changes. The words of the manual's MARK G7 decode to that
instruction. (R291) -/
def Obligations.MarkDepth : Prop :=
  (∀ (o : Op) (s : State) (c : Ctx) (d : BitVec 6), Plain .mark o s c → o.d = .g d → o.un = false → c.joiner = false →
    (∀ l ∈ c.writers, c.holdsNone l) → c.isBacked 0 s →
    (∀ l, (c.lane l).recs.length ≤ c.g.recCap) → c.g.recCap ≤ 65535 →
    let i := c.f.wb + d.toNat
    ∃ t, exec (.mark o) s = .next t ∧ Calm c s t ∧ t.fibre c.r = some c.resumed ∧
      ∀ l, let x := t.lane c.r.gid c.r.weave l
        (l ∉ c.writers → x = c.lane l) ∧
        (l ∈ c.writers → { x with g := (c.lane l).g } = c.lane l ∧ (∀ j, j ≠ i → x.gAt j = (c.lane l).gAt j) ∧
          (x.gAt i).toNat = (c.lane l).recs.length ∧ bitsAt (x.gAt i) 16 16 = 0)) ∧
  decodesTo 96 (threeWords 0x000003E1 0x00000007 0x00000007) (.mark { d := .g 7 })

/-- O53. Outside the joiner, in lanes that hold no posted token and with the backing area reached (log entry 37): MARK
writes the depth of each lane's stack; CUT truncates each lane's stack to the depth it is given, leaving memory and
kerf as they are, and posts the token of a discarded record that was cut and that some other lane's stolen copy
holds; STEAL sends a lane to the label when no other lane has an open record, and otherwise splits the record of the
oldest token, the lowest lane first, the thief taking the upper half of its alternatives at the record's resume
point; TRAIL sets or clears the mark that stores are not trailed. In the joiner all these, TRY and FAIL too, are
ILLEGAL with cause 11 (STEAL where no lane of it holds a record, as in every state that a run reaches), a trap whose
mask is the lanes that run (log entry 27). (R281; R283; R288; R291; R292; R293; R294; log entry 27; log entry 37) -/
def Obligations.CutsAndThefts : Prop :=
  (∀ (o : Op) (s : State) (c : Ctx), Plain .mark o s c → o.un = false → c.joiner = false →
    (∀ l ∈ c.writers, c.holdsNone l) → c.isBacked 0 s →
    ∃ u, exec (.mark o) s = .next (c.movedOn u) ∧ Wrote c (c.backedAt 0 s) u (fun l _ => (BitVec.ofNat 64 (c.lane l).recs.length, 0))) ∧
  (∀ (o : Op) (s : State) (c : Ctx), Plain .cut o s c → o.un = false → c.joiner = false → c.isBacked 0 s →
    let depth (l : Nat) : Nat := (lowWord (c.regVals l).a).toNat
    ((∀ l ∈ c.writers, ∀ r ∈ (c.lane l).recs.drop (depth l), r.stolen = false ∧ r.cut = false) →
      c.g.cuts.length ≤ Config.cutSetSize →
      ∃ t, exec (.cut o) s = .next t ∧ Calm c s t ∧ t.fibre c.r = some c.resumed ∧
        (t.group c.r.gid).map (·.cuts) = some c.g.cuts ∧
        ∀ l, t.lane c.r.gid c.r.weave l = if l ∈ c.writers then
          { c.lane l with recs := (c.lane l).recs.take (depth l) } else c.lane l) ∧
    (∀ l r, c.writers = [l] → (c.lane l).recs.drop (depth l) = [r] → r.stolen = false → r.cut = true →
      c.g.posted r.token = false → c.g.holders r.token ≠ 0 → c.g.cuts.length < Config.cutSetSize → c.g.ordered →
      ∃ t, exec (.cut o) s = .next t ∧ t.mem = s.mem ∧
        (t.group c.r.gid).map (·.cuts) = some (c.g.cuts ++ [(r.token, c.g.holders r.token)]) ∧
        (t.lane c.r.gid c.r.weave l).recs = (c.lane l).recs.take (depth l))) ∧
  (∀ (o : Op) (s : State) (c : Ctx) (d : BitVec 6), Issues .steal o s c → o.d = .g d → o.un = false → c.joiner = false →
    c.isBacked (96 * c.writers.length) s →
    (dispTarget c 0).toNat % 4 = 0 → (dispTarget c 0).toNat < 2 ^ 57 →
    (∀ l ∈ c.writers, c.holdsNone l ∧ (c.lane l).recs.length < c.g.recCap) →
    ((∀ l ∈ c.writers, ∀ p ∈ c.g.weaves, ∀ q ∈ p.2.lanes, ¬(p.1 = c.r.weave ∧ q.1 = l) → ∀ r ∈ q.2.recs,
        r.count ≤ r.next ∨ c.g.posted r.token = true) →
      ∃ t, exec (.steal o) s = .next t ∧ Calm c s t ∧
        Regrouped c t (c.writers.filter fun _ => dispTarget c 0 != c.fall) (fun _ => (dispTarget c 0, c.f.wb)) ∧
        ∀ l, t.lane c.r.gid c.r.weave l = c.lane l) ∧
    (∀ l v, c.writers = [l] → c.g.victim c.r.weave l = some v → v.rec_.wb + d.toNat < c.g.gBudget → c.g.ordered →
      let first := v.rec_.count - (v.rec_.count - v.rec_.next + 1) / 2
      ∃ t, exec (.steal o) s = .next t ∧ Calm c s t ∧
        Regrouped c t ([l].filter fun _ => (v.rec_.resume, v.rec_.wb) != (c.fall, c.f.wb)) (fun _ => (v.rec_.resume, v.rec_.wb)) ∧
        t.lane c.r.gid c.r.weave l = resumed { c.lane l with
          recs := (c.lane l).recs ++ [{ v.rec_ with
            next := first + 1, stolen := true, cut := false, originCut := false, mark := (c.lane l).kerf.length }]
          stealPc := c.f.pc } { v.rec_ with dest := d.setWidth 8 } first ∧
        t.lane c.r.gid v.weave v.lane = { (c.g.weave v.weave).lane v.lane with
          recs := ((c.g.weave v.weave).lane v.lane).recs.set v.at_ { v.rec_ with count := first, cut := true } })) ∧
  (∀ (g : Group) (w l : Nat) (v : Victim), g.ordered → g.victim w l = some v →
    (∀ p ∈ g.weaves, ∀ q ∈ p.2.lanes, ∀ r ∈ q.2.recs, r.token.toNat < 2 ^ 31) →
    v.rec_.next < v.rec_.count ∧ g.posted v.rec_.token = false ∧ ¬(v.weave = w ∧ v.lane = l) ∧
    ((g.weave v.weave).lane v.lane).recs[v.at_]? = some v.rec_ ∧
    ∀ p ∈ g.weaves, ∀ q ∈ p.2.lanes, ¬(p.1 = w ∧ q.1 = l) → ∀ r ∈ q.2.recs, r.next < r.count → g.posted r.token = false →
      v.rec_.token.toNat ≤ r.token.toNat ∧
      (p.1 < v.weave ∨ p.1 = v.weave ∧ q.1 < v.lane → v.rec_.token.toNat < r.token.toNat)) ∧
  (∀ (o : Op) (s : State) (c : Ctx), Plain .trail o s c → o.un = false → c.joiner = false →
    ∃ u, exec (.trail o) s = .next (c.movedOn u) ∧ OnlyLanes c s u ∧
      ∀ l ∈ c.writers, u.lane c.r.gid c.r.weave l = { c.lane l with notrail := o.mod.getLsbD 0 }) ∧
  (∀ p ∈ [(Instr.fail, Major.fail), (Instr.mark, Major.mark), (Instr.cut, Major.cut), (Instr.trail, Major.trail)],
    ∀ (o : Op) (s : State) (c : Ctx), Plain p.2 o s c → c.joiner = true →
      exec (p.1 o) s = .next (({ s with cur := none }).takeTrap c.r c.act 1 11 (wordsInfo (encodeOp p.2 o)) [])) ∧
  (∀ (o : Op) (s : State) (c : Ctx), Issues .steal o s c → c.joiner = true →
    (∀ p ∈ c.g.weaves, ∀ q ∈ p.2.lanes, q.2.recs = []) →
      exec (.steal o) s = .next (({ s with cur := none }).takeTrap c.r c.act 1 11 (wordsInfo (encodeOp .steal o)) [])) ∧
  (∀ (o : Op) (s : State) (c : Ctx), Plain .tryOpen o s c → c.joiner = true →
    (∀ i < 16, o.mod.getLsbD i = true → c.f.wb + i < c.g.gBudget) →
      exec (.tryOpen o) s = .next (({ s with cur := none }).takeTrap c.r c.act 1 11 (wordsInfo (encodeOp .tryOpen o)) []))

namespace Sys2Proof.Machine

/-- The machine goes on to what `f` makes of the state, once the event has been put on the model's record of the memory order
(log entry 52). -/
def GoesTo (r : Host.Outcome State Fault Refusal) (s : State) (f : State → State) : Prop :=
  ∃ p, r = .next (f { s with past := p }) ∧ (s.oracle = [] → p = s.past)

end Sys2Proof.Machine

/-- O54. While the package runs, a fence of a host thread, a peer or a system core (but for the record of the memory
order, log entry 52) and a load outside a PCIe device change nothing, and a store to device memory, with no fault or
request held, stores exactly its bytes, but over a port that the boot or a failure has disabled, where it goes
nowhere; a host stores to its own memory and a peer to its own also then; a host's or a system core's aligned 8-byte
store to a register block writes the register, while one that breaks the register's mask, and a peer's, do nothing
(log entry 26); a store to a debug window's space keeps its bits [11:0]. A system register write reads back; PREEMPT
stops a resident bent, KILL ends a bent, and a GID that names no group does nothing; while the die is reset these
and GO do nothing. GO of a debug window runs its HREAD within the store (log entry 17) and leaves result and status
2, and gives an instruction that a window does not accept cause 11. (R197; R198; R344; R346; R347; R353; R360; R363;
R387; log entry 17; log entry 26; log entry 52) -/
def Obligations.OutsideAccesses : Prop :=
  (∀ s : State, s.mgmt.phase = .running → ∀ core port thread : Nat,
    let up (k : Nat) : Bool := !(tget {} s.links k).down
    let held : Prop := ∀ k < 8, (s.die k).held = [] ∧ (s.die k).svcHeld = []
    (∀ x ∈ [(fun a => Instr.systemCoreAccess (core, a), coreActor core, true),
        (fun a => Instr.hostAccess (⟨port, thread⟩, a), hostActor port thread, up (pcieKey port)),
        (fun a => Instr.peerAccess (port, a), peerActor port, up (rhautKey port))],
      GoesTo (exec (x.1 .fence) s) s id ∧
      (∀ pa n, pa / 2 ^ 48 ≠ 3 → ∃ t, exec (x.1 (.load pa n)) s = .next t ∧
        { t with past := s.past, oracle := s.oracle } = s ∧ (s.oracle = [] → t = s)) ∧
      (∀ pa n v, pa < s.capacity → held →
        exec (x.1 (.store pa n v)) s = .next (if x.2.2 then s.putMem pa (leBytes n v) x.2.1 x.2.1.level else s))) ∧
    (∀ pa n v, pa / 2 ^ 48 = 1 → held → exec (.hostAccess (⟨port, thread⟩, .store pa n v)) s =
      .next (s.putMem pa (leBytes n v) (hostActor port thread) 9)) ∧
    (∀ pa n v, pa / 2 ^ 48 = 2 → pa / 2 ^ 44 % 16 = port →
      ∃ t, exec (.peerAccess (port, .store pa n v)) s = .next t ∧ memNat t pa n = v % 256 ^ n ∧
        ∀ a, a < pa ∨ pa + n ≤ a → memGet t.mem a = memGet s.mem a) ∧
    (∀ (k i : Nat) (v : DWord), k < 8 → i ≤ 5 → (s.die k).offline = false →
      let block : Nat := 15 * 2 ^ 48 + k * 2 ^ 20 + 0x1000 + 8 * i
      (∀ x ∈ [(fun a => Instr.systemCoreAccess (core, a), true), (fun a => Instr.hostAccess (⟨port, thread⟩, a), up (pcieKey port))],
        (x.2 = true → v &&& ~~~regMask i = 0 → ∃ t, exec (x.1 (.store block 8 v.toNat)) s = .next t ∧ t.sysReg k i = v) ∧
        (x.2 = true → v &&& ~~~regMask i ≠ 0 → GoesTo (exec (x.1 (.store block 8 v.toNat)) s) s id) ∧
        (x.2 = false → exec (x.1 (.store block 8 v.toNat)) s = .next s)) ∧
      exec (.peerAccess (port, .store block 8 v.toNat)) s = .next s) ∧
    (∀ (k n : Nat) (v : DWord), k < 8 → n < 16 → (s.die k).offline = false → up (pcieKey port) = true →
      GoesTo (exec (.hostAccess (⟨port, thread⟩, .store (15 * 2 ^ 48 + k * 2 ^ 20 + 0x80000 + 0x80 * n + 0x28) 8 v.toNat)) s) s fun u =>
        u.setWindow k n { s.window k n with space := v &&& 0xFFF })) ∧
  (∀ (s : State) (k : Nat), s.mgmt.phase = .running →
    ((s.die k).offline = true → ∀ (i : Nat) (v : DWord) (gid : Word) (n : Nat), exec (.sysregWrite k i v) s = .next s ∧
      exec (.preemptRegister k gid) s = .next s ∧ exec (.killRegister k gid) s = .next s ∧
      (k < 8 → n < 16 → exec (.debugWindowGo k n) s = .next s)) ∧
    ((s.die k).offline = false → ∀ (i : Nat) (v : DWord), i ≤ 5 →
      (v &&& ~~~regMask i = 0 → ∃ t, exec (.sysregWrite k i v) s = .next t ∧ t.sysReg k i = v) ∧
      (v &&& ~~~regMask i ≠ 0 → exec (.sysregWrite k i v) s = .next s)) ∧
    ∀ gid : Word,
    (s.group gid.toNat = none → exec (.preemptRegister k gid) s = .next s ∧ exec (.killRegister k gid) s = .next s) ∧
    (∀ g b, s.group gid.toNat = some g → g.retired = false → s.bent g.bent = some b → (∀ p ∈ s.bents, p.2.uid = p.1) →
      socketOf gid.toNat = k → gid.toNat < 2 ^ 31 → (s.die k).offline = false →
      (b.st = .resident → ∃ t, exec (.preemptRegister k gid) s = .next t ∧ t.mem = s.mem ∧ t.groups = s.groups ∧
        t.bent g.bent = some { b with st := .stopping }) ∧
      (b.alive = true → ∃ t, exec (.killRegister k gid) s = .next t ∧ (t.bent g.bent).map (·.st) = some .ending))) ∧
  (∀ (s : State) (k n : Nat), s.mgmt.phase = .running → k < 8 → n < 16 → (s.die k).offline = false →
    let w := s.window k n
    (bitsAt (w.words.getD 0 0) 0 2 = 0 ∨ bitsAt (w.words.getD 2 0) 0 4 = 7) →
    (∀ o x, decodeWords false w.words = .ok (.hread o) → o.d ≠ .none → targetBad false (w.vals .hread o).a = [] →
      hreadAct s { socket := k, space := bitsAt w.space 0 12 } o 0 (w.vals .hread o) = .ok s x true →
      exec (.debugWindowGo k n) s = .next (s.setWindow k n { w with result := x, status := 2 })) ∧
    (∀ o, decodeWords false w.words = .ok (.iaddExt o) →
      exec (.debugWindowGo k n) s = .next (s.setWindow k n { w with status := 0x10B00 })))

/-- O55. While the package runs: a store of a fault or service queue's consumer index stores it, and with room posts a
held fault, which then is outstanding under the producer index as its sequence number. RETRY closes the outstanding
entry of its sequence number, and a group's entry leaves the group's wait list; ABORT of an entry of a live bent
ends the bent; either, when it names no outstanding entry, is counted in the control block and nothing else, as are
both and answers stored while the die is reset. An answer to an outstanding request writes Kd and lets the parked
fibre go on past its SYSC, or is kept while the bent is saved; one that names no request is counted. (R312; R313;
R314; R315; R317; R345; R353; R365; R366) -/
def Obligations.FaultAndServiceQueues : Prop :=
  (∀ (s : State) (k : Nat) (v : Word), s.mgmt.phase = .running → let cb := (s.die k).fqcb.toNat
    let u := s.putMem (cb + 16) (leBytes 4 v.toNat) (coreActor 0)
    (s.die k).fqcb ≠ 0 → (s.die k).svcHeld = [] →
    ((s.die k).held = [] → exec (.faultQueueConsumerUpdate k v) s = .next u) ∧
    (∀ e, (s.die k).held = [e] → u.ringRoom cb = true → ∃ t, exec (.faultQueueConsumerUpdate k v) s = .next t ∧
      (t.die k).held = [] ∧
      (t.die k).entries = (s.die k).entries ++ [{ e with seq := some (BitVec.ofNat 32 (memNat u (cb + 12) 4)) }])) ∧
  (∀ (s : State) (k : Nat) (v : Word), s.mgmt.phase = .running → (s.die k).svcb ≠ 0 → (s.die k).held = [] → (s.die k).svcHeld = [] →
    exec (.serviceQueueConsumerUpdate k v) s = .next (s.putMem ((s.die k).svcb.toNat + 16) (leBytes 4 v.toNat) (coreActor 0))) ∧
  (∀ (s : State) (k : Nat) (seq : Word), s.mgmt.phase = .running →
    let found := (s.die k).entries.find? fun e => e.seq == some seq
    let counted (cb : DWord) (u : State) : State := if cb = 0 then u else u.putNat (cb.toNat + 24) 4 (memNat s (cb.toNat + 24) 4 + 1)
    (k < 8 → (s.die k).offline = true → ∀ (port thread : Nat) (v : DWord), (tget {} s.links (pcieKey port)).down = false →
      GoesTo (exec (.hostAccess (⟨port, thread⟩, .store (15 * 2 ^ 48 + k * 2 ^ 20) 8 v.toNat)) s) s (counted (s.die k).fqcb) ∧
      GoesTo (exec (.hostAccess (⟨port, thread⟩, .store (15 * 2 ^ 48 + k * 2 ^ 20 + 8) 8 v.toNat)) s) s (counted (s.die k).svcb)) ∧
    (found = none → GoesTo (exec (.resolveRetry k seq) s) s (counted (s.die k).fqcb) ∧
      GoesTo (exec (.resolveAbort k seq) s) s (counted (s.die k).fqcb)) ∧
    (∀ e, found = some e →
      (∃ t, exec (.resolveRetry k seq) s = .next t ∧ (t.die k).entries = (s.die k).entries.filter (fun x => x.seq != some seq) ∧
        ((s.die (socketOf e.gid)).gtab = 0 → t.mem = s.mem) ∧
        ∀ g, e.who = .group e.gid → s.group e.gid = some g →
          (t.group e.gid).map (·.entries) = some (g.entries.filter (· != seq))) ∧
      ∀ g b, s.group e.gid = some g → s.bent g.bent = some b → b.alive = true → (∀ p ∈ s.bents, p.2.uid = p.1) →
        ∃ t, exec (.resolveAbort k seq) s = .next t ∧ (t.bent g.bent).map (·.st) = some .ending) ∧
    ∀ v, let asked := (s.die k).svc.find? fun q => q.seq == some seq && q.answer == none
      (asked = none ∨ (s.die k).offline = true → GoesTo (exec (.syscAnswer k seq v) s) s (counted (s.die k).svcb)) ∧
      ((s.die k).offline = false → ∀ q, asked = some q → (s.bentOf q.gid).map (·.st) = some .saved → ∃ t, exec (.syscAnswer k seq v) s = .next t ∧
        t.mem = s.mem ∧ t.groups = s.groups ∧ ∃ p, { q with answer := some v, pubs := p } ∈ (t.die k).svc) ∧
      ((s.die k).offline = false → ∀ q g f d, asked = some q → (s.bentOf q.gid).map (·.st) = some .resident → s.group q.gid = some g →
        (g.weave q.weave).fibres = [f] → f.wait = .sysc q.tag d → f.st = .parked → f.halts = [] →
        ∃ t, exec (.syscAnswer k seq v) s = .next t ∧ t.mem = s.mem ∧
          (t.die k).svc = (s.die k).svc.filter (fun x => x.tag != q.tag) ∧
          ∃ h x, t.group q.gid = some h ∧ (∀ i, h.kAt i = if i = d then v else g.kAt i) ∧ (h.weave q.weave).fibres = [x] ∧
            x.id = f.id ∧ x.st = .ready ∧ x.pc = f.pc + BitVec.ofNat 64 f.len ∧ x.lanes = f.lanes))

namespace Sys2Proof.Machine

/-- The machine goes on with the fibre `r`, which waited as `f`, and, where no halt is due in its weave, it is then at its
next instruction, with memory as in `u`. -/
def GoesOn (i : Instr) (s u : State) (r : FibreRef) (f : Fibre) : Prop :=
  ∃ t, exec i s = .next t ∧
    (f.st = .parked → (∀ g, s.group r.gid = some g → ∀ x ∈ (g.weave r.weave).fibres, x.halts = []) →
      t.mem = u.mem ∧ ∃ x, t.fibre r = some x ∧ x.st = .ready ∧ x.pc = f.pc + BitVec.ofNat 64 f.len ∧ x.lanes = f.lanes)

end Sys2Proof.Machine

/-- O56. In a resident bent, a fibre parked at a peg goes on when the peg has reached its thresholds, one at arrival
words when all have reached their generations, one in WAITI when its time has come and not before; a halt not yet
reported is reported and advances HALTPG; a stepped fibre that has finished its instruction halts with cause 3. A
group barrier whose time-out has passed since the first arrival begins a new generation, and the fibre parked there
takes trap 8. The issue choice picks, of the weaves of a port that can issue and have not yielded, one of the
highest class that has been ready longest, and in it an aged fibre if there is one, else one of the lowest PC;
memory does not change, unless a sink whose page-table entries have changed stops (R336). An instruction that issues
sets its fibre's wait count to zero and clears AGED, and raises by one the count of every other ready fibre of its
weave, which is AGED when the count has reached 64 less the live fibres. A sample tick sets the next one a period
later. (R26; R27; R33; R178; R179; R254; R329; R331; R334; R336; R360; R371) -/
def Obligations.WaitsEndAndIssue : Prop :=
  (∀ (s : State) (r : FibreRef) (f : Fibre), s.fibre r = some f → s.isResident r.gid = true → f.isParked = true →
    (∀ va ts u pa, f.wait = .peg va ts → s.translate (s.agentOf r.gid) (s.spaceOf r.gid) va .load = (u, .ok pa) →
      (∀ t ∈ ts, (u.dword pa - t).toNat < 2 ^ 63) → GoesOn (.pwaitComplete r) s u r f) ∧
    (∀ words g, f.wait = .await words → s.group r.gid = some g → (∀ p ∈ words, s.arrived g.bent p.1 p.2 = true) →
      GoesOn (.awaitComplete r) s s r f) ∧
    (∀ due, f.wait = .clock due → (due ≤ s.cycle → GoesOn (.waitiExpire r) s s r f) ∧
      (s.cycle < due → exec (.waitiExpire r) s = .refused (.notEnabled "WAITI_EXPIRE")))) ∧
  (∀ (s : State) (r : FibreRef) (f : Fibre), s.fibre r = some f → (s.die (socketOf r.gid)).gtab = 0 →
    (f.st = .halted → f.reported = false → let peg := (s.die (socketOf r.gid)).haltpg.toNat
      ∃ t, exec (.haltReport r) s = .next t ∧ t.fibre r = some { f with reported := true } ∧
        (peg = 0 → t.mem = s.mem) ∧ (peg ≠ 0 → t.mem = (s.addPeg peg 1).mem)) ∧
    (f.step = 2 → f.st ≠ .halted → ∃ t x, exec (.stepComplete r) s = .next t ∧ t.mem = s.mem ∧ t.fibre r = some x ∧
      x.st = .halted ∧ x.cause = 3 ∧ x.resume = f.st ∧ x.pc = f.pc ∧ x.lanes = f.lanes)) ∧
  (∀ (s : State) (gid n a w : Nat) (g : Group) (v : Weave) (f : Fibre) (l : Launch), s.group gid = some g →
    s.isResident gid = true → s.launchOf gid = some l → (tget {} g.bars n).age = some a → g.weaves = [(w, v)] →
    v.parkedAt false n = [f] →
    (recTimeout l.record ≤ a → ∃ info conts, exec (.bartime false gid n) s = .next ((s.onGroup gid fun g =>
      { g with bars := tput {} g.bars n { count := 0, gen := (tget {} g.bars n).gen + 1, age := none } }).takeTrap
        ⟨gid, w, f.id⟩ f.lanes 8 0 info conts)) ∧
    (a < recTimeout l.record → exec (.bartime false gid n) s = .refused (.notEnabled "BARTIME"))) ∧
  (∀ (s : State) (core port dt : Nat) (c : Contender), let u := s.pass dt
    s.cur = none → u.taken core port = some c → (u.coreAt (u.coreOf c.gid)).gauges = [] → (c.v.fibres.map (·.id)).Nodup →
    ((∀ p ∈ s.dies, ∀ k, p.2.sample = some k ∨ p.2.trace = some k → k.moved = false) → u.mem = s.mem) ∧
    (∃ t f, exec (.issueChoice core port dt) s = .next t ∧ t.mem = u.mem ∧ t.cycle = s.cycle + dt ∧
      t.cur = some ⟨c.gid, c.weave, c.f.id⟩ ∧ t.fibre ⟨c.gid, c.weave, c.f.id⟩ = some f ∧ f.pc = c.f.pc ∧
      f.lanes = c.f.lanes ∧ f.waitCount = c.f.waitCount) ∧
    (∀ x ∈ u.contenders core port, (x.v.yielded = false ∨ c.v.yielded = true) →
      u.weaveClass x ≤ u.weaveClass c ∧ (u.weaveClass x = u.weaveClass c → c.v.ready ≤ x.v.ready)) ∧
    ∀ f ∈ c.v.fibres, f.st = .ready → f.step ≠ 2 →
      (c.f.aged = false → f.aged = false ∧ c.f.pc ≤ f.pc) ∧ (c.f.aged = true → f.aged = true → f.waitCount ≤ c.f.waitCount)) ∧
  (∀ (s : State) (r : FibreRef) (g : Group) (lanes : DWord), s.group r.gid = some g → g.gid = r.gid →
    let v := g.weave r.weave
    ∃ h, (s.countIssue r lanes).group r.gid = some h ∧ let w := h.weave r.weave
      w.ready = s.cycle ∧ w.yielded = false ∧ w.fibres.length = v.fibres.length ∧
      ∀ (n : Nat) (x : Fibre), v.fibres[n]? = some x → ∃ y, w.fibres[n]? = some y ∧
        { y with waitCount := x.waitCount, aged := x.aged, lastIssue := x.lastIssue } = x ∧
        (x.id = r.fid → y.waitCount = 0 ∧ y.aged = false) ∧ (x.id ≠ r.fid → x.st ≠ .ready → y = x) ∧
        (x.id ≠ r.fid → x.st = .ready → x.waitCount < 127 → y.waitCount = x.waitCount + 1 ∧
          (y.aged = true ↔ x.aged = true ∨ 64 ≤ y.waitCount + v.fibres.length))) ∧
  (∀ (s : State) (k : Nat) (x : Sink), (s.die k).sample = some x → x.due ≤ s.cycle →
    ∃ t y, exec (.sampleTick k) s = .next t ∧ (t.die k).sample = some y ∧ y.due = x.due + 2 ^ y.period ∧ (t.die k).retirees = [])

/-- O57. A waiting request enters the lapidary's queue when there is room and its shares admit it. In a cycle with no
answer so far a decided XSGN or XCMP request writes its lane's predicates by the sign and its lane goes on; an
XREF's interval lands in its register with the same node; a read that misses a page leaves an entry of the engine
and the request waits. Reclamation leaves no dead node and frees only nodes all of whose counted references come
from freed ones (and the second slots of freed pairs), each other node stays, its count lowered by those references,
and no register or lane changes. The copy engine starts the first record of the cores' kicks in turn (a kick leaves
its kick register with its last record, log entry 15), none of a bent that is being pre-empted (R319); a record's
last row is read whole, in a run with no open choice left to take, and written to its destination; bytes that arrive
raise an armed word's count modulo its target and its generation by the targets reached. A storage read that
succeeds writes its bytes and frees its submission entry. (R61; R70; R73; R74; R75; R76; R173; R175; R178; R265;
R311; log entry 15) -/
def Obligations.BayEngines : Prop :=
  (∀ (s : State) (bay : Nat) (q : Request) (rest : List Request), (s.bayAt bay).lapWait = q :: rest →
    (s.bayAt bay).lap.length < Config.lapidaryQueue → s.sharesFull bay q = [] →
    ∃ t, exec (.lapidaryRequestEnter bay 0) s = .next t ∧ t.mem = s.mem ∧ t.groups = s.groups ∧
      (t.bayAt bay).lap = (s.bayAt bay).lap ++ [q] ∧ (t.bayAt bay).lapWait = rest) ∧
  (∀ (s u : State) (bay idx : Nat) (q : Request) (g : Group), s.workOn bay idx = some q → s.group q.gid = some g →
    (s.coreAt (s.coreOf q.gid)).gauges = [] → (s.bayAt bay).answered ≠ some s.cycle →
    (∀ o n f i, s.runRequest q = (u, .decided o n) → (g.weave q.weave).fibres.find? (fun x => x.lanes.getLsbD q.lane) = some f →
      f.st = .refining → f.replay = 0 → ((g.weave q.weave).fibres.map (·.id)).Nodup → (∀ x ∈ (g.weave q.weave).fibres, x.halts = []) →
      let done (t : State) : Prop := t.mem = u.mem ∧ ∃ h, t.group q.gid = some h ∧
        ∃ x ∈ (h.weave q.weave).fibres, x.lanes = laneBit q.lane ∧ x.st = .ready ∧ x.pc = f.pc + BitVec.ofNat 64 f.len
      (∀ cond, q.kind = .cmp cond (.p i) → ∃ t, exec (.lapidaryAnswer bay [idx]) s = .next t ∧ done t ∧
        t.lane q.gid q.weave q.lane = (u.lane q.gid q.weave q.lane).setPred i.toNat (condOf cond o)) ∧
      (∀ j, q.kind = .sgn (.p i) (.p j) → ∃ t, exec (.lapidaryAnswer bay [idx]) s = .next t ∧ done t ∧
        t.lane q.gid q.weave q.lane =
          ((u.lane q.gid q.weave q.lane).setPred i.toNat (o == .gt)).setPred j.toNat (o == .lt))) ∧
    (∀ d n lo hi m ran, q.kind = .xref d n → s.runRequest q = (u, .refined (some (lo, hi)) m ran) →
      ∃ t, exec (.xrefAnswer bay idx) s = .next t ∧ t.mem = u.mem ∧
        (t.lane q.gid q.weave q.lane).xAt d = { lo := lo, hi := hi, handle := q.a.handle, exact := lo == hi, opq := q.a.opq }) ∧
    (∀ va kd h, s.runRequest q = (u, .faulted (.late [(va, kd, h)])) → (s.die (socketOf q.gid)).fqcb = 0 →
      ∃ t e, exec (.lapidaryTranslationFault bay idx) s = .next t ∧
        (t.die (socketOf q.gid)).held = (s.die (socketOf q.gid)).held ++ [e] ∧ e.va = va ∧ e.kind = kd ∧ e.gid = q.gid ∧
        e.engine = true ∧ e.mask = laneBit q.lane ∧ e.who = .request q.gid q.weave q.lane)) ∧
  (∀ (s : State) (gid : Nat) (g : Group), s.group gid = some g → g.gid = gid → (∃ p ∈ g.nodes, p.2.dead = true) →
    ∃ t h, exec (.logReclaim gid) s = .next t ∧ t.mem = s.mem ∧ t.group gid = some h ∧ { h with nodes := g.nodes } = g ∧
      (∀ p ∈ h.nodes, p.2.dead = false ∧ ∃ n, (p.1, n) ∈ g.nodes ∧ { p.2 with refs := n.refs } = n) ∧
      (tsorted none g.nodes = true → (∀ p ∈ g.nodes, (p.2.op = opDOT ∨ p.2.op = opL2) → ∃ k, (p.1 + 1, k) ∈ g.nodes ∧ k.op = opCONT) →
        let freed := g.nodes.filter fun p => (tfind h.nodes p.1).isNone
        let lost (k : Nat) : Nat := (freed.flatMap fun p => p.2.children).count k
        ∀ p ∈ g.nodes, match tfind h.nodes p.1 with
          | some n => n.refs = if p.2.pinned then p.2.refs else p.2.refs - lost p.1
          | none => if p.2.op = opCONT then (tfind h.nodes (p.1 - 1)).isNone = true
            else p.2.pinned = false ∧ p.2.refs ≤ lost p.1)) ∧
  (∀ (s : State) (bay : Nat) (c : CopyRec) (cs : List CopyRec) (rest : List (List CopyRec)),
    let y := s.bayAt bay
    y.kicks = (c :: cs) :: rest → c.core < 5 →
    (∀ i < 5, (y.turn + i) % 5 = c.core → ∀ j < i, ∀ k ∈ y.kicks, ∀ x ∈ k, x.core ≠ (y.turn + j) % 5) →
    ((∀ k ∈ y.kicks, ∀ x ∈ k, s.isStopping x.bent = true) →
      ∀ k, exec (.copyRecordStart bay k) s = .refused (.notEnabled "COPY_RECORD_START")) ∧
    ((∀ k ∈ y.kicks, ∀ x ∈ k, s.isStopping x.bent = false) →
    (∀ k, k ≠ c.core → exec (.copyRecordStart bay k) s = .refused (.notEnabled "COPY_RECORD_START")) ∧
    ∃ t, exec (.copyRecordStart bay c.core) s = .next t ∧ t.mem = s.mem ∧ t.groups = s.groups ∧
      (t.bayAt bay).started = y.started ++ [c] ∧ (t.bayAt bay).turn = (c.core + 1) % 5 ∧
      (t.bayAt bay).kicks = if cs = [] then rest else cs :: rest)) ∧
  (∀ (s u v : State) (bay idx : Nat) (c : CopyRec) (p q : Loc) (m n : Memo), (s.bayAt bay).started[idx]? = some c →
    bay = s.bayOf c.gid → c.row + 1 = copyRows c.bytes → copyAW c.bytes = false → copyPV c.bytes = false → c.entries = [] →
    (∀ e ∈ (s.die (socketOf c.gid)).held, e.who ≠ .copy c.gid c.bytes) →
    s.enginePlace [] c.gid c.bent (copySrcSpace c.bytes) (BitVec.ofNat 64 (copySrc c.bytes + c.row * copySrcStride c.bytes))
      (copyBytes c.bytes) .engineRead = (u, m, .ok p) →
    u.enginePlace m c.gid c.bent (copyDstSpace c.bytes) (BitVec.ofNat 64 (copyDst c.bytes + c.row * copyDstStride c.bytes))
      (copyBytes c.bytes) .engineWrite = (v, n, .ok q) → p.quiet v → v.oracle = [] →
    ∃ t, exec (.copyRecordComplete bay idx) s = .next t ∧
      t.mem = (v.storeAt bay q (v.loadAt c.gid bay p (copyBytes c.bytes)).2).mem ∧
      (t.bayAt bay).started = (s.bayAt bay).started.eraseIdx idx) ∧
  (∀ (s : State) (gid off bytes : Nat) (g : Group) (a : Actor), s.group gid = some g →
    let word (h : Group) (i : Nat) : Nat := fieldOf (h.data.bytes off 16) (4 * i) 4
    word g 0 ≠ 0 → word g 3 % 2 = 1 → ∃ h, (s.arrival gid off bytes a).group gid = some h ∧ word h 0 = word g 0 ∧
      word h 1 = (word g 1 + bytes) % word g 0 ∧ word h 2 = (word g 2 + (word g 1 + bytes) / word g 0) % 2 ^ 32 ∧
      word h 3 = word g 3) ∧
  (∀ (s : State) (idx pa : Nat) (c : StCmd) (q : QPair) (data : List Byte), s.stcmds[idx]? = some c → c.peg = none →
    c.dst = [(pa, c.bytes)] → data.length = c.bytes → pa < s.capacity → tfind s.pairs c.qp = some q →
    ∃ t, exec (.stloadCompletion idx 0 data) s = .next t ∧ memBytes t.mem pa c.bytes = data ∧
      (∀ a, a < pa ∨ pa + c.bytes ≤ a → memGet t.mem a = memGet s.mem a) ∧ t.stcmds = s.stcmds.eraseIdx idx ∧
      tfind t.pairs c.qp = some { q with free := q.free + 1 })

namespace Sys2Proof.Machine

/-- A group in `t` as in `s`, where `keep` and `same` keep what may not differ of the group and of a weave: its registers, data
and log, its fibres, and every register and choice stack of its lanes, the mark of a store to a monitored line apart. -/
def KeptGroup (keep : Group → Group) (same : Weave → Weave) (s t : State) (k : Nat) : Prop :=
  ∀ g, s.group k = some g → ∃ h, t.group k = some h ∧ keep { h with weaves := [] } = keep { g with weaves := [] } ∧
    (∀ w, same { h.weave w with lanes := [] } = same { g.weave w with lanes := [] }) ∧
    ∀ w l, let x := (h.weave w).lane l; { x with monHit := ((g.weave w).lane l).monHit } = (g.weave w).lane l

end Sys2Proof.Machine

/-- O58. A waiting bent whose turn it is and that fits is placed: its groups start with the launch's arguments in K, its
record's address in A1, their fibres ready at their roles' entries, and its domain is read then. A bent that has
reached class 7 by waiting chooses its bay. A stopping bent without started copies is saved, its matrix commands
leaving the bay and its claim free, with every register of its groups and lanes, every choice stack and every fibre
kept; it is restored with them, its commands and its claim's stores (where the run's open choices keep its save area
mapped and whole, log entry 37). A group without fibres and copies retires; a bent whose groups have retired and
whose commands are done ends and frees its claim. A task whose pairs hold makes one piece of its whole range, or
completes when it is empty; the largest piece is cut on a grain boundary, the new piece running what is cut off.
(R29; R35; R36; R39; R44; R47; R244; R246; R252; R319; R321; log entry 37) -/
def Obligations.BentLives : Prop :=
  (∀ (s : State) (uid bay : Nat) (b : Bent) (l : Launch) (places : List Place), s.bent uid = some b → b.uid = uid →
    b.st = .waiting → s.mayPlace b bay places = true → tfind s.launches b.launch = some l →
    s.groups.length + (s.members b l).length < 2 ^ 28 →
    ∃ t n, exec (.bentPlacement uid bay places) s = .next t ∧ t.bent uid = some n ∧ n.st = .resident ∧ n.holds = true ∧
      n.bay = bay ∧ n.dom = some (s.view b.dcb) ∧ n.groups.length = (s.members b l).length ∧
      ∀ gid ∈ n.groups, ∃ g, t.group gid = some g ∧ g.bent = uid ∧ g.aAt 1 = l.addr ∧
        (∀ i < l.args.length / 4, g.kAt i = BitVec.ofNat 32 (fieldOf l.args (4 * i) 4)) ∧
        ∃ m ∈ s.members b l, g.role = m.role ∧ g.number = m.number ∧
          ∀ p ∈ g.weaves, ∀ f ∈ p.2.fibres, f.pc = m.pc ∧ f.st = .ready) ∧
  (∀ (s : State) (uid bay : Nat) (b : Bent), s.bent uid = some b → b.awaits = true → b.seven = false →
    (s.view b.dcb).classAt (s.cycle - b.since) = 7 → s.chooseBay b = some bay →
    ∃ t, exec (.effectiveClassReaches7 uid bay) s = .next t ∧ t.mem = s.mem ∧ t.bent uid = some { b with seven := true } ∧
      (t.die b.socket).chosen = (s.die b.socket).chosen ++ [(uid, bay)]) ∧
  (∀ (s : State) (uid : Nat) (b : Bent), s.bent uid = some b → b.uid = uid → b.st = .stopping →
    (∀ c ∈ (s.bayAt b.bay).started, c.bent ≠ uid) → (s.choose 2).1 ≠ 1 →
    ∃ t, exec (.preemption uid) s = .next t ∧ (t.bent uid).map (fun n => (n.st, n.holds, n.groups)) = some (.saved, false, b.groups) ∧
      (t.bayAt b.bay).mq = (s.bayAt b.bay).mq.filter (fun c => c.bent != uid) ∧
      (b.claim = true → (t.bayAt b.bay).holder = none) ∧ ∀ k, KeptGroup id id s t k) ∧
  (∀ (s : State) (uid bay : Nat) (b : Bent) (places : List Place), s.bent uid = some b → b.uid = uid → b.st = .saved →
    s.mayPlace b bay places = true → (∀ q ∈ (s.die b.socket).svc, q.answer = none) → (∀ p ∈ s.groups, p.2.gid = p.1) →
    (s.choose 3).1 = 0 →
    ∃ t, exec (.restore uid bay places) s = .next t ∧
      (t.bent uid).map (fun n => (n.st, n.holds, n.bay)) = some (.resident, true, bay) ∧
      (t.bayAt bay).mq = (s.bayAt bay).mq ++ b.saved.mq ∧
      (b.claim = true → (t.bayAt bay).holder = some uid ∧ (t.bayAt bay).w = b.saved.w ∧ (t.bayAt bay).c = b.saved.c) ∧
      ∀ k, KeptGroup (fun g => { g with core := 0, phys := 0, slot := 0 }) (fun v => { v with slot := 0, ready := 0 }) s t k) ∧
  (∀ (s : State) (gid : Nat) (g : Group) (b : Bent), s.group gid = some g → g.gid = gid → s.bent g.bent = some b →
    g.retired = false → b.st = .resident → (∀ w ∈ g.weaves, w.2.fibres = []) → s.copiesOf gid = false →
    ∃ t h, exec (.groupRetire gid) s = .next t ∧ t.group gid = some h ∧ h.retired = true ∧ h.weaves = []) ∧
  (∀ (s : State) (uid : Nat) (b : Bent), s.bent uid = some b → b.st = .resident → b.piece = none →
    (∀ k ∈ b.groups, ∀ g, s.group k = some g → g.retired = true) → (∀ c ∈ (s.bayAt b.bay).mq, c.bent ≠ uid) →
    ∃ t, exec (.bentRetire uid) s = .next t ∧ (t.bent uid).map (fun n => (n.st, n.holds)) = some (.ended, false) ∧
      (∀ k ∈ b.groups, t.group k = none) ∧ (b.holds = true → b.claim = true → (t.bayAt b.bay).holder = none)) ∧
  (∀ (s : State) (k : Nat) (x : Task) (l : Launch), tfind s.tasks k = some x → x.ready = false →
    tfind s.launches x.launch = some l → taskPairs x.record = [] →
    let first := fieldOf x.record 8 8
    let stop := fieldOf x.record 16 8
    (stop ≤ first → GoesTo (exec (.taskReady k) s) s fun u => { u with tasks := tdel u.tasks k }) ∧
    (first < stop → ∃ t n, exec (.taskReady k) s = .next t ∧ t.mem = s.mem ∧ t.bent s.uids = some n ∧ n.st = .waiting ∧
      n.launch = x.launch ∧ n.socket = x.socket ∧ n.dcb = x.dcb ∧
      n.piece = some { task := k, first := first, next := first, stop := stop })) ∧
  (∀ (s : State) (core : Nat) (place : Place) (b n : Bent) (p : Piece) (x : Task), let socket := core / 5 / 12
    s.largestPiece socket = some (b, p) → s.bent b.uid = some b → b.uid ≠ s.uids → tfind s.tasks p.task = some x →
    let grain := taskGrain x.record
    let c := (p.stop - p.next + grain - 1) / grain
    let cut := p.next + grain * (c - c / 2)
    p.next < p.stop → 2 ≤ c → place.core = core % 5 → (s.baysOf socket).contains (core / 5) = true →
    (∀ q ∈ s.bents, ¬(q.2.awaits = true ∧ q.2.socket = socket ∧ (s.viewOf b).priority ≤ s.classOf q.2 ∧
      s.fitsDie q.2 true = true)) →
    let u := (s.onBent b.uid fun b => { b with piece := some { p with stop := cut } }).newPiece p.task cut p.stop
    u.bent s.uids = some n → s.admits n (core / 5) [] true = true → placesFit (u.demands n) [place] (u.loads (core / 5) []) = true →
    p.next < cut ∧ cut < p.stop ∧ ∃ t, exec (.taskSplit core place) s = .next t ∧
      (t.bent b.uid).bind (·.piece) = some { p with stop := cut } ∧
      (t.bent s.uids).bind (·.piece) = some { task := p.task, first := cut, next := cut, stop := p.stop })

/-- O59. A store to a queue's notify register announces the entries up to its index, or, when it goes back, too far
ahead or comes over the other host's port, is counted and announces nothing; over a port that the boot has disabled
it goes nowhere. The first queue in line with a free slot is admitted with its QCB read and its state 1, or fails
with state 2 when its QCB is refused. The next entry is taken in order: NOP is done at once, LAUNCH makes a launch
of an acceptable record and is rejected with the reason otherwise, WAIT waits for its peg and is done when the peg
reaches its threshold, ADVANCE adds to its peg (of a peg that cannot be used, log entry 23). A launch whose pairs
hold starts with its arguments read and one waiting bent for each number of its grid; when all have ended it is
done, its completion peg advanced. (R229; R231; R232; R233; R235; R236; R237; R240; R346; R350; log entry 23) -/
def Obligations.QueuesAndLaunches : Prop :=
  (∀ (s : State) (q port : Nat) (v : DWord), s.mgmt.phase = .running → q < 4096 → (tget {} s.links (pcieKey port)).down = true →
    ∀ thread, GoesTo (exec (.notifyStore q v ⟨port, thread⟩) s) s id) ∧
  (∀ (s : State) (q pa port thread : Nat) (v : DWord), s.mgmt.phase = .running → q < 4096 → (s.queue q).place = some pa →
    (tget {} s.links (pcieKey port)).down = false →
    let x := s.queue q
    let n : Word := v.setWidth 32
    let head : Word := if x.active = true ∨ x.pend ≠ [] then x.head else BitVec.ofNat 32 (memNat s (pa + 24) 4)
    let bad : Prop := (s.mgmt.straps.split = true ∧ q % 2 ≠ port % 2) ∨ 2 ^ 31 ≤ (n - x.announced).toNat ∨
      2 ^ (memNat s (pa + 8) 4 % 32) < (n - head).toNat
    ∃ t, exec (.notifyStore q v ⟨port, thread⟩) s = .next t ∧ t.mem = s.mem ∧
      (bad → t.queue q = { x with errors := x.errors + 1 }) ∧
      (¬ bad → (t.queue q).announced = n ∧ (t.queue q).head = head ∧ (t.queue q).errors = x.errors)) ∧
  (∀ (s : State) (q pa : Nat), let x := s.queue q
    let b := memBytes s.mem pa 64
    s.mgmt.phase = .running → x.place = some pa → s.competes x = true → x.pend = [] →
    (∀ p ∈ s.queues, s.competes p.2 = true → p.1 ≠ q → s.queueBefore (q, x) p = true) →
    (s.queues.filter fun p => p.2.active).length < 64 → BitVec.ofNat 32 (fieldOf b 24 4) ≠ x.announced → s.physBad (pa + 28) = none →
    ∃ t, exec (.queueAdmission q) s = .next t ∧
      (s.qcbOk b = true → memNat t (pa + 28) 4 = 1 ∧ (t.queue q).active = true ∧ (t.queue q).qcb = b ∧
        (t.queue q).head = BitVec.ofNat 32 (fieldOf b 24 4)) ∧
      (s.qcbOk b = false → memNat t (pa + 28) 4 = 2 ∧ (t.queue q).failed = true ∧ (t.queue q).active = false)) ∧
  (∀ (s u : State) (q : Nat) (i : Word) (b : List Byte), s.nextEntry q = (u, .ok (some (i, b))) →
    let x := u.queue q
    let dev := u.deviceOp [.unit 4 q]
    let w := dev.2.setQueue q { x with head := x.head + 1 }
    let va : DWord := BitVec.ofNat 64 (fieldOf b 8 8)
    i = x.head ∧ { dev.2 with past := u.past } = u ∧
    (fieldOf b 0 1 = 0 → exec (.ringEntryNop q) s = .next (w.entryDone q i 1 0 dev.1)) ∧
    (3 < fieldOf b 0 1 → exec (.ringEntryNop q) s = .next (w.entryDone q i 2 1 dev.1)) ∧
    (fieldOf b 0 1 = 1 → ∀ t r y, w.takeRecord q va = (t, r, y) →
      (∀ n, r = .error n → y = [] → exec (.ringEntryLaunch q) s = .next (t.entryDone q i 2 n dev.1)) ∧
      (∀ z, r = .ok z → ∃ k l, exec (.ringEntryLaunch q) s = .next k ∧ tfind k.launches t.uids = some l ∧ l.record = z ∧
        l.addr = va ∧ l.space = q ∧ l.depth = 1 ∧ l.started = false ∧ l.done = false ∧
        (k.queue q).pend = (t.queue q).pend ++ [(i, .launch t.uids)])) ∧
    (fieldOf b 0 1 = 2 → exec (.ringEntryWait q) s = .next (dev.2.setQueue q { x with
      head := x.head + 1, pend := x.pend ++ [(i, .wait va (BitVec.ofNat 64 (fieldOf b 16 8)))] })) ∧
    (fieldOf b 0 1 = 3 → ∀ t pa, w.translate ioAgent q va .atomic = (t, .ok pa) → va.toNat % 8 = 0 →
      exec (.ringEntryAdvance q) s = .next ((t.addPeg pa (BitVec.ofNat 64 (fieldOf b 16 8)) dev.1).entryDone q i 1 0 dev.1))) ∧
  (∀ (s u : State) (q idx pa : Nat) (i : Word) (va th : DWord), (s.queue q).active = true →
    (s.queue q).pend[idx]? = some (i, .wait va th) → s.translate ioAgent q va .load = (u, .ok pa) →
    let dev := (u.edge 10 (u.advancesOf pa) [] [.unit 4 q]).deviceOp [.unit 4 q]
    { dev.2 with past := u.past } = u ∧
    ((u.dword pa - th).toNat < 2 ^ 63 → exec (.queueWaitDone q idx) s =
      .next ((dev.2.setQueue q { u.queue q with pend := (s.queue q).pend.eraseIdx idx }).entryDone q i 1 0 dev.1)) ∧
    (2 ^ 63 ≤ (u.dword pa - th).toNat →
      exec (.queueWaitDone q idx) s = .refused (.notEnabled "QUEUE_WAIT_DONE"))) ∧
  (∀ (s u : State) (q pa : Nat) (i : Word) (st reason : Nat) (a : Actor) (m : Memo), (s.queue q).place = none →
    fieldOf (s.queue q).qcb 32 8 = 0 →
    s.globalAt [] ioAgent q ((s.queue q).entryAt i + 4) 4 .store = (u, m, .ok (.phys [(pa, 4)])) → pa < u.capacity →
    memNat (s.entryDone q i st reason a) pa 4 = (st + reason * 2 ^ 8) % 2 ^ 32) ∧
  (∀ (s u w : State) (k : Nat) (l : Launch) (a : List Byte), tfind s.launches k = some l → l.uid = k → l.started = false →
    l.done = false → (∀ q i, l.origin = .queue q i → (s.queue q).active = true) → recPairs l.record = [] →
    (s.edge 10 [] [] [.launch k, .unit 5 k]).recReads l.agent l.space l.record = (u, true) → recDies l.record = [] → (∃ d, s.computeOk d = true) →
    u.readVa l.agent l.space (BitVec.ofNat 64 (fieldOf l.record 48 8)) (recArgs l.record) (.unit 5 k) = (w, some a) →
    w.spaceValid l.space = true →
    ∃ t n, exec (.launchStart k) s = .next t ∧ tfind t.launches k = some n ∧ n.started = true ∧ n.args = a ∧
      n.bents.length = recBents l.record ∧ (∀ d ∈ n.bents, ∃ b, t.bent d = some b ∧ b.st = .waiting ∧ b.launch = k ∧
        b.dcb = recDcb l.record ∧ w.computeOk b.socket = true) ∧
      ∀ j < recBents l.record, ∃ d ∈ n.bents, (t.bent d).map (·.number) = some j) ∧
  (∀ (s : State) (k d : Nat) (l : Launch), tfind s.launches k = some l → l.origin = .device d → l.started = true →
    l.done = false → fieldOf l.record 160 8 = 0 → (∀ u ∈ l.bents, ∀ b, s.bent u = some b → b.st = .ended) →
    let after (v : State) : State := { v with
      bents := l.bents.foldl (fun t u => tdel t u) v.bents
      launches := tins v.launches k { l with done := true, bents := [] } }
    let dev := s.deviceOp [.launch l.uid]
    { dev.2 with past := s.past } = s ∧
    (recDone l.record = none → exec (.launchComplete k) s = .next (after dev.2)) ∧
    (∀ n v pa, recDone l.record = some n → recPegs l.record ≠ 0 →
      dev.2.translate { socket := d } l.space (recPegs l.record + BitVec.ofNat 64 (8 * n)) .atomic = (v, .ok pa) →
      exec (.launchComplete k) s = .next (after (v.addPeg pa 1 dev.1))))

/-- O60. Power-on empties memory (log entry 1) and everything that was launched, keeps what is still to happen outside,
sets the cycle count to 0 (log entry 9), and leaves the dies' clocks within 256 cycles of each other; from a package
never started, with every unit passing and at least one compute and one memory die, it ends running, HEALTH naming
the populated dies. An accepted firmware image goes to its slot and any other changes nothing; safe mode's command
clears the topology record. GET_VERSION begins an exchange with its answer; each other request is answered in order
and otherwise gets an error, and changes nothing else (the answers' bytes are the model's choice, log entry 12). A
CRC retry only counts; a second retraining leaves a link at half rate; a failed Rhaut port ends its peers' accesses
in DIE-OFFLINE. A warm reset takes a die out of HEALTH, ends its bents that are not saved, and then, as a second
step (log entry 16), readmits it without cached translations and with its links retrained. (R44; R343; R348; R349;
R350; R351; R352; R353; log entry 1; log entry 9; log entry 12; log entry 16) -/
def Obligations.PackageAndLinks : Prop :=
  (∀ (s : State) (b : BootInput), ∃ t, exec (.powerOn b) s = .next t ∧ t.mem = [] ∧ t.groups = [] ∧ t.launches = [] ∧
    t.bents = [] ∧ t.queues = [] ∧ t.cycle = 0 ∧ t.astb = 0 ∧ t.qpriv = 0 ∧ t.cur = none ∧ t.agenda = s.agenda.filter Instr.fromOutside ∧
    (t.mgmt.phase = .running → ∀ i < 8, ∀ j < 8, t.clock i ≤ t.clock j + 256) ∧
    (t.mgmt.phase = .running → ∃ p, t.mgmt.topo = some p ∧ p.compute ≠ 0 ∧ p.memory ≠ 0 ∧
      t.health.toNat = p.compute.toNat + 256 * p.memory.toNat)) ∧
  (∀ b : BootInput, b.firmwareOk.getLsbD 0 = true → b.runtimeOk.getLsbD 0 = true →
    (∀ i < 18, b.straps.sockets.getLsbD i = true → b.linksPass.getLsbD i = true) →
    (∀ i < 18, b.straps.ports.getLsbD i = true → b.portsPass.getLsbD i = true) →
    (∀ i < 8, (b.straps.sockets.getLsbD i = true → b.computePass.getLsbD i = true) ∧
      (b.straps.sockets.getLsbD (8 + i) = true → b.memoryPass.getLsbD i = true)) →
    (∃ i < 8, b.straps.sockets.getLsbD i = true) → (∃ i < 8, b.straps.sockets.getLsbD (8 + i) = true) →
    ∃ t, exec (.powerOn b) State.reset = .next t ∧ t.mgmt.phase = .running ∧
      t.health.toNat = b.straps.sockets.toNat % 2 ^ 16) ∧
  (∀ s : State, s.mgmt.phase ≠ .off → let m := s.mgmt
    let said (l : List (List Byte)) (n : Nat) : State := { s with mgmt := { m with spdm := l, spdmStage := n } }
    (∀ slot image, exec (.firmwareUpdate slot image) s = .next (if m.accepts image = true then
      { s with mgmt := { m with images := m.images.set (if slot = true then 1 else 0) image } } else s)) ∧
    (m.phase = .safe → exec .clearTopologyRecord s = .next { s with mgmt := { m with topo := none } }) ∧
    exec .getVersion s = .next (said [[0x04, 0x13]] 1) ∧
    (∃ a, exec .getCapabilities s = .next (said (m.spdm ++ [a]) (if m.spdmStage = 0 then 0 else max 2 m.spdmStage))) ∧
    (∀ x y, ∃ a, exec (.negotiateAlgorithms x y) s =
      .next (said (m.spdm ++ [a]) (if 2 ≤ m.spdmStage ∧ x % 2 = 1 ∧ y % 2 = 1 then max 3 m.spdmStage else m.spdmStage))) ∧
    (∀ n o l j, ∀ i ∈ [Instr.getDigests, .getCertificate o l, .challenge n, .getMeasurements j],
      (m.spdmStage < 3 → exec i s = .next (said (m.spdm ++ [[0x7F]]) m.spdmStage)) ∧
      (3 ≤ m.spdmStage → ∃ a, exec i s = .next (said (m.spdm ++ [a]) m.spdmStage))) ∧
    (∀ n, 3 ≤ m.spdmStage → exec (.challenge n) s = .next (said (m.spdm ++ [0x03 ::
      leBytes 64 (Config.deviceSign (m.spdm.flatten ++ n)).toNat]) m.spdmStage))) ∧
  (∀ (s : State) (k : Nat),
    (∃ t, exec (.linkCrcRetry k) s = .next t ∧ t.mem = s.mem ∧ t.groups = s.groups ∧
      tget {} t.links k = { tget {} s.links k with retries := (tget {} s.links k).retries + 1 }) ∧
    (∃ t, exec (.linkRetrain k) s = .next t ∧ t.mem = s.mem ∧ t.groups = s.groups ∧
      ((tget {} s.links k).retrains ≠ 0 → (tget {} t.links k).halfRate = true) ∧
      (tget {} t.links k).retrains = (tget {} s.links k).retrains + 1) ∧
    (k < 16 → ∃ t, exec (.rhautPortFailure k) s = .next t ∧ t.mem = s.mem ∧
      ∀ a, a / 2 ^ 48 = 2 → a / 2 ^ 44 % 16 = k → t.physBad a = some (.fault 12 (BitVec.ofNat 64 a) 0xFF 0))) ∧
  (∀ (s : State) (k : Nat), s.mgmt.phase = .running → k < 8 →
    ((s.die k).offline = false → s.computeOk k = true → (∀ p ∈ s.bents, p.2.uid = p.1) →
      ∃ t, exec (.warmReset k) s = .next t ∧ (t.die k).offline = true ∧ (t.die k).held = [] ∧
        t.health = s.health &&& ~~~((1 : DWord) <<< k) ∧
        ∀ p ∈ s.bents, p.2.socket = k → p.2.st ≠ .saved → ∀ b, t.bent p.1 = some b → b.alive = false) ∧
    ((s.die k).offline = true → ∃ t, exec (.warmReset k) s = .next t ∧ (t.die k).offline = false ∧ (t.die k).tlb = [] ∧
      t.health = s.health ||| ((1 : DWord) <<< k) ∧ (tget {} t.links k).retrains = 0 ∧ t.mem = s.mem ∧ t.groups = s.groups))
end

