-- ==== Sys2Proof/Laws/Table.lean ====
section
/-! SUPPORT. The laws of sparse tables: what a key reads after a write, and that every write keeps the canonical form. -/
namespace Sys2Proof.Machine

variable {α : Type}

@[simp] theorem tfind_nil (k : Nat) : tfind ([] : Table α) k = none := rfl

@[simp] theorem tfind_tins_same (t : Table α) (k : Nat) (v : α) : tfind (tins t k v) k = some v := by
  induction t with
  | nil => simp [tins, tfind]
  | cons p r ih =>
    obtain ⟨j, w⟩ := p
    simp only [tins]
    split
    · simp [tfind]
    · split
      · simp [tfind]
      · simp [tfind, *]

theorem tfind_tins_other (t : Table α) {k j : Nat} (v : α) (h : j ≠ k) : tfind (tins t k v) j = tfind t j := by
  induction t with
  | nil => simp [tins, tfind, h]
  | cons p r ih =>
    obtain ⟨i, w⟩ := p
    simp only [tins]
    split
    · simp [tfind, h]
    · split
      · next e => subst e; simp [tfind, h]
      · simp only [tfind, ih]

@[simp] theorem tfind_tdel_same (t : Table α) (k : Nat) : tfind (tdel t k) k = none := by
  induction t with
  | nil => rfl
  | cons p r ih =>
    obtain ⟨j, w⟩ := p
    by_cases h : j = k
    · subst h; simpa [tdel] using ih
    · have e : tdel ((j, w) :: r) k = (j, w) :: tdel r k := by simp [tdel, h]
      rw [e]; simp [tfind, Ne.symm h, ih]

theorem tfind_tdel_other (t : Table α) {k j : Nat} (h : j ≠ k) : tfind (tdel t k) j = tfind t j := by
  induction t with
  | nil => rfl
  | cons p r ih =>
    obtain ⟨i, w⟩ := p
    by_cases e : i = k
    · subst e
      have : tdel ((i, w) :: r) i = tdel r i := by simp [tdel]
      rw [this, ih]; simp [tfind, h]
    · have : tdel ((i, w) :: r) k = (i, w) :: tdel r k := by simp [tdel, e]
      rw [this]; simp [tfind, ih]

@[simp] theorem tget_tins_same (d : α) (t : Table α) (k : Nat) (v : α) : tget d (tins t k v) k = v := by
  simp [tget]

theorem tget_tins_other (d : α) (t : Table α) {k j : Nat} (v : α) (h : j ≠ k) :
    tget d (tins t k v) j = tget d t j := by
  simp [tget, tfind_tins_other t v h]

@[simp] theorem tget_tput_same [DecidableEq α] (d : α) (t : Table α) (k : Nat) (v : α) :
    tget d (tput d t k v) k = v := by
  unfold tput
  split
  · next h => simp [tget, h]
  · simp

theorem tget_tput_other [DecidableEq α] (d : α) (t : Table α) {k j : Nat} (v : α) (h : j ≠ k) :
    tget d (tput d t k v) j = tget d t j := by
  unfold tput
  split
  · simp [tget, tfind_tdel_other t h]
  · exact tget_tins_other d t v h

theorem tget_tput [DecidableEq α] (d : α) (t : Table α) (k j : Nat) (v : α) :
    tget d (tput d t k v) j = if j = k then v else tget d t j := by
  split
  · next h => subst h; simp
  · next h => exact tget_tput_other d t v h

@[simp] theorem tfind_tmod_same (t : Table α) (k : Nat) (f : α → α) : tfind (tmod t k f) k = (tfind t k).map f := by
  induction t with
  | nil => rfl
  | cons p r ih =>
    obtain ⟨j, w⟩ := p
    by_cases h : j = k
    · subst h; simp [tmod, tfind]
    · have : tmod ((j, w) :: r) k f = (j, w) :: tmod r k f := by simp [tmod, h]
      rw [this]; simp [tfind, Ne.symm h, ih]

theorem tfind_tmod_other (t : Table α) {k j : Nat} (f : α → α) (h : j ≠ k) : tfind (tmod t k f) j = tfind t j := by
  induction t with
  | nil => rfl
  | cons p r ih =>
    obtain ⟨i, w⟩ := p
    by_cases e : i = k
    · subst e
      have : tmod ((i, w) :: r) i f = (i, f w) :: tmod r i f := by simp [tmod]
      rw [this]; simp [tfind, h, ih]
    · have : tmod ((i, w) :: r) k f = (i, w) :: tmod r k f := by simp [tmod, e]
      rw [this]; simp [tfind, ih]

/-- The keys of a table stand above a bound. -/
def above (lo : Option Nat) (k : Nat) : Bool := match lo with
  | none => true
  | some b => decide (b < k)

theorem tsorted_cons (lo : Option Nat) (j : Nat) (v : α) (r : Table α) :
    tsorted lo ((j, v) :: r) = (above lo j && tsorted (some j) r) := by
  cases lo <;> rfl

theorem tsorted_weaken {a b : Nat} (t : Table α) (h : a ≤ b) (s : tsorted (some b) t = true) :
    tsorted (some a) t = true := by
  cases t with
  | nil => rfl
  | cons p r =>
    obtain ⟨j, v⟩ := p
    simp only [tsorted_cons, above, Bool.and_eq_true, decide_eq_true_eq] at s ⊢
    exact ⟨by omega, s.2⟩

theorem tsorted_tins (lo : Option Nat) (t : Table α) (k : Nat) (v : α) (hk : above lo k = true)
    (s : tsorted lo t = true) : tsorted lo (tins t k v) = true := by
  induction t generalizing lo with
  | nil => simp [tins, tsorted_cons, hk, tsorted]
  | cons p r ih =>
    obtain ⟨j, w⟩ := p
    rw [tsorted_cons, Bool.and_eq_true] at s
    simp only [tins]
    split
    · next h =>
      rw [tsorted_cons, hk, tsorted_cons, s.2]
      simp [above, h]
    · split
      · next h => subst h; simp [tsorted_cons, hk, s.2]
      · next h1 h2 =>
        rw [tsorted_cons, s.1, Bool.true_and]
        exact ih (some j) (by simp [above]; omega) s.2

theorem tsorted_tdel (lo : Option Nat) (t : Table α) (k : Nat) (s : tsorted lo t = true) :
    tsorted lo (tdel t k) = true := by
  induction t generalizing lo with
  | nil => rfl
  | cons p r ih =>
    obtain ⟨j, w⟩ := p
    rw [tsorted_cons, Bool.and_eq_true] at s
    by_cases h : j = k
    · have e : tdel ((j, w) :: r) k = tdel r k := by simp [tdel, h]
      rw [e]
      refine ih lo ?_
      cases lo with
      | none => cases r with
        | nil => rfl
        | cons q r =>
          have s2 := s.2
          rw [tsorted_cons, Bool.and_eq_true] at s2
          rw [tsorted_cons, s2.2]; rfl
      | some b => exact tsorted_weaken r (by have := s.1; simp [above] at this; omega) s.2
    · have e : tdel ((j, w) :: r) k = (j, w) :: tdel r k := by simp [tdel, h]
      rw [e, tsorted_cons, s.1, Bool.true_and]
      exact ih (some j) s.2

theorem all_tins {q : Nat × α → Bool} (t : Table α) (k : Nat) (v : α) (hv : q (k, v) = true)
    (h : t.all q = true) : (tins t k v).all q = true := by
  induction t with
  | nil => simp [tins, hv]
  | cons p r ih =>
    obtain ⟨j, w⟩ := p
    simp only [List.all_cons, Bool.and_eq_true] at h
    simp only [tins]
    split
    · simp [hv, h.1, h.2]
    · split
      · simp [hv, h.2]
      · rw [List.all_cons, h.1, Bool.true_and]
        exact ih h.2

/-- Writing a key keeps the canonical form. -/
theorem twf_tput [DecidableEq α] (d : α) (t : Table α) (k : Nat) (v : α) (h : twf d t = true) :
    twf d (tput d t k v) = true := by
  rw [twf, Bool.and_eq_true] at h
  unfold tput
  split
  · rw [twf, Bool.and_eq_true]
    refine ⟨tsorted_tdel none t k h.1, ?_⟩
    have := h.2
    simp only [List.all_eq_true, tdel, List.mem_filter] at this ⊢
    exact fun x hx => this x hx.1
  · next hv =>
    rw [twf, Bool.and_eq_true]
    exact ⟨tsorted_tins none t k v rfl h.1, all_tins t k v (by simpa using hv) h.2⟩

end Sys2Proof.Machine
end

