-- ==== Sys2Proof/Laws/Memory.lean ====
section
/-! SUPPORT. The laws of physical memory: a read after a write, and that every write keeps the canonical form. -/
namespace Sys2Proof.Machine

theorem memGet_memPut (m : List Host.Cell) (pa a : Nat) (b : Byte) :
    memGet (memPut m pa b) a = if a = pa then b else memGet m a := tget_tput unlisted m pa a b

theorem memPut_wf (m : List Host.Cell) (pa : Nat) (b : Byte) (h : Memory.wf m = true) :
    Memory.wf (memPut m pa b) = true := twf_tput unlisted m pa b h

theorem memPutBytes_wf (bs : List Byte) (m : List Host.Cell) (pa : Nat) (h : Memory.wf m = true) :
    Memory.wf (memPutBytes m pa bs) = true := by
  induction bs generalizing m pa with
  | nil => exact h
  | cons b r ih => exact ih _ _ (memPut_wf m pa b h)

/-- A byte outside the bytes written reads as before. -/
theorem memGet_memPutBytes_outside (bs : List Byte) (m : List Host.Cell) (pa a : Nat)
    (h : a < pa ∨ pa + bs.length ≤ a) : memGet (memPutBytes m pa bs) a = memGet m a := by
  induction bs generalizing m pa with
  | nil => rfl
  | cons b r ih =>
    simp only [List.length_cons] at h
    rw [memPutBytes, ih _ _ (by omega), memGet_memPut, if_neg (by omega)]

/-- A byte written reads back. -/
theorem memGet_memPutBytes_inside (bs : List Byte) (m : List Host.Cell) (pa i : Nat) (h : i < bs.length) :
    memGet (memPutBytes m pa bs) (pa + i) = bs[i] := by
  induction bs generalizing m pa i with
  | nil => simp at h
  | cons b r ih =>
    cases i with
    | zero => rw [memPutBytes, memGet_memPutBytes_outside _ _ _ _ (by omega)]; simp [memGet_memPut]
    | succ i =>
      simp only [List.length_cons, Nat.add_lt_add_iff_right] at h
      have := ih (memPut m pa b) (pa + 1) i h
      simpa [memPutBytes, Nat.add_assoc, Nat.add_comm, Nat.add_left_comm] using this

/-- The bytes written read back. -/
theorem memBytes_memPutBytes (bs : List Byte) (m : List Host.Cell) (pa : Nat) :
    memBytes (memPutBytes m pa bs) pa bs.length = bs := by
  apply List.ext_getElem
  · simp [memBytes]
  · intro i h1 h2
    simpa [memBytes] using memGet_memPutBytes_inside bs m pa i h2

/-- A store where memory is behind the address writes its bytes; elsewhere memory stays as it is (R344). -/
theorem putMem_mem (s : State) (pa : Nat) (bs : List Byte) (a : Actor) (k : Nat) (r : Bool) :
    (s.putMem pa bs a k r).mem = if (s.physBad pa).isSome then s.mem else memPutBytes s.mem pa bs := by
  unfold State.putMem; split <;> rfl

/-- Every store keeps the canonical form. -/
theorem putMem_wf (s : State) (pa : Nat) (bs : List Byte) (a : Actor) (k : Nat) (r : Bool) (h : Memory.wf s.mem = true) :
    Memory.wf (s.putMem pa bs a k r).mem = true := by
  rw [putMem_mem]
  split
  · exact h
  · exact memPutBytes_wf bs s.mem pa h

theorem putNat_wf (s : State) (pa n v : Nat) (h : Memory.wf s.mem = true) :
    Memory.wf (s.putNat pa n v).mem = true := putMem_wf s pa _ _ _ _ h

theorem leNat_lt (bs : List Byte) : leNat bs < 256 ^ bs.length := by
  induction bs with
  | nil => simp [leNat]
  | cons b r ih =>
    have := b.isLt
    simp only [leNat, List.length_cons, Nat.pow_succ]
    omega

theorem reset_mem_wf : Memory.wf State.reset.mem = true := rfl

end Sys2Proof.Machine
end

