-- ==== Sys2Proof/Laws/State.lean ====
section
/-! SUPPORT. What each update of the state leaves alone, field by field; then what it writes. -/
namespace Sys2Proof.Machine

variable (s : State)

@[simp] theorem State.setGroup_mem (g : Group) : (s.setGroup g).mem = s.mem := rfl
@[simp] theorem State.setGroup_astb (g : Group) : (s.setGroup g).astb = s.astb := rfl
@[simp] theorem State.setGroup_qpriv (g : Group) : (s.setGroup g).qpriv = s.qpriv := rfl
@[simp] theorem State.setGroup_health (g : Group) : (s.setGroup g).health = s.health := rfl
@[simp] theorem State.setGroup_cycle (g : Group) : (s.setGroup g).cycle = s.cycle := rfl
@[simp] theorem State.setGroup_mgmt (g : Group) : (s.setGroup g).mgmt = s.mgmt := rfl
@[simp] theorem State.setGroup_links (g : Group) : (s.setGroup g).links = s.links := rfl
@[simp] theorem State.setGroup_homes (g : Group) : (s.setGroup g).homes = s.homes := rfl
@[simp] theorem State.setGroup_dies (g : Group) : (s.setGroup g).dies = s.dies := rfl
@[simp] theorem State.setGroup_bays (g : Group) : (s.setGroup g).bays = s.bays := rfl
@[simp] theorem State.setGroup_cores (g : Group) : (s.setGroup g).cores = s.cores := rfl
@[simp] theorem State.setGroup_queues (g : Group) : (s.setGroup g).queues = s.queues := rfl
@[simp] theorem State.setGroup_launches (g : Group) : (s.setGroup g).launches = s.launches := rfl
@[simp] theorem State.setGroup_tasks (g : Group) : (s.setGroup g).tasks = s.tasks := rfl
@[simp] theorem State.setGroup_bents (g : Group) : (s.setGroup g).bents = s.bents := rfl
@[simp] theorem State.setGroup_pairs (g : Group) : (s.setGroup g).pairs = s.pairs := rfl
@[simp] theorem State.setGroup_stcmds (g : Group) : (s.setGroup g).stcmds = s.stcmds := rfl
@[simp] theorem State.setGroup_uids (g : Group) : (s.setGroup g).uids = s.uids := rfl
@[simp] theorem State.setGroup_agenda (g : Group) : (s.setGroup g).agenda = s.agenda := rfl
@[simp] theorem State.setGroup_cur (g : Group) : (s.setGroup g).cur = s.cur := rfl
@[simp] theorem State.setGroup_oracle (g : Group) : (s.setGroup g).oracle = s.oracle := rfl
@[simp] theorem State.setGroup_fresh (g : Group) : (s.setGroup g).fresh = s.fresh := rfl
@[simp] theorem State.setGroup_past (g : Group) : (s.setGroup g).past = s.past := rfl

@[simp] theorem State.onGroup_mem (k : Nat) (f : Group → Group) : (s.onGroup k f).mem = s.mem := by unfold State.onGroup; split <;> rfl
@[simp] theorem State.onGroup_astb (k : Nat) (f : Group → Group) : (s.onGroup k f).astb = s.astb := by unfold State.onGroup; split <;> rfl
@[simp] theorem State.onGroup_qpriv (k : Nat) (f : Group → Group) : (s.onGroup k f).qpriv = s.qpriv := by unfold State.onGroup; split <;> rfl
@[simp] theorem State.onGroup_health (k : Nat) (f : Group → Group) : (s.onGroup k f).health = s.health := by unfold State.onGroup; split <;> rfl
@[simp] theorem State.onGroup_cycle (k : Nat) (f : Group → Group) : (s.onGroup k f).cycle = s.cycle := by unfold State.onGroup; split <;> rfl
@[simp] theorem State.onGroup_mgmt (k : Nat) (f : Group → Group) : (s.onGroup k f).mgmt = s.mgmt := by unfold State.onGroup; split <;> rfl
@[simp] theorem State.onGroup_links (k : Nat) (f : Group → Group) : (s.onGroup k f).links = s.links := by unfold State.onGroup; split <;> rfl
@[simp] theorem State.onGroup_homes (k : Nat) (f : Group → Group) : (s.onGroup k f).homes = s.homes := by unfold State.onGroup; split <;> rfl
@[simp] theorem State.onGroup_dies (k : Nat) (f : Group → Group) : (s.onGroup k f).dies = s.dies := by unfold State.onGroup; split <;> rfl
@[simp] theorem State.onGroup_bays (k : Nat) (f : Group → Group) : (s.onGroup k f).bays = s.bays := by unfold State.onGroup; split <;> rfl
@[simp] theorem State.onGroup_cores (k : Nat) (f : Group → Group) : (s.onGroup k f).cores = s.cores := by unfold State.onGroup; split <;> rfl
@[simp] theorem State.onGroup_queues (k : Nat) (f : Group → Group) : (s.onGroup k f).queues = s.queues := by unfold State.onGroup; split <;> rfl
@[simp] theorem State.onGroup_launches (k : Nat) (f : Group → Group) : (s.onGroup k f).launches = s.launches := by unfold State.onGroup; split <;> rfl
@[simp] theorem State.onGroup_tasks (k : Nat) (f : Group → Group) : (s.onGroup k f).tasks = s.tasks := by unfold State.onGroup; split <;> rfl
@[simp] theorem State.onGroup_bents (k : Nat) (f : Group → Group) : (s.onGroup k f).bents = s.bents := by unfold State.onGroup; split <;> rfl
@[simp] theorem State.onGroup_pairs (k : Nat) (f : Group → Group) : (s.onGroup k f).pairs = s.pairs := by unfold State.onGroup; split <;> rfl
@[simp] theorem State.onGroup_stcmds (k : Nat) (f : Group → Group) : (s.onGroup k f).stcmds = s.stcmds := by unfold State.onGroup; split <;> rfl
@[simp] theorem State.onGroup_uids (k : Nat) (f : Group → Group) : (s.onGroup k f).uids = s.uids := by unfold State.onGroup; split <;> rfl
@[simp] theorem State.onGroup_agenda (k : Nat) (f : Group → Group) : (s.onGroup k f).agenda = s.agenda := by unfold State.onGroup; split <;> rfl
@[simp] theorem State.onGroup_cur (k : Nat) (f : Group → Group) : (s.onGroup k f).cur = s.cur := by unfold State.onGroup; split <;> rfl
@[simp] theorem State.onGroup_oracle (k : Nat) (f : Group → Group) : (s.onGroup k f).oracle = s.oracle := by unfold State.onGroup; split <;> rfl
@[simp] theorem State.onGroup_fresh (k : Nat) (f : Group → Group) : (s.onGroup k f).fresh = s.fresh := by unfold State.onGroup; split <;> rfl
@[simp] theorem State.onGroup_past (k : Nat) (f : Group → Group) : (s.onGroup k f).past = s.past := by unfold State.onGroup; split <;> rfl

@[simp] theorem State.onWeave_mem (k w : Nat) (f : Weave → Weave) : (s.onWeave k w f).mem = s.mem := by simp [State.onWeave]
@[simp] theorem State.onWeave_astb (k w : Nat) (f : Weave → Weave) : (s.onWeave k w f).astb = s.astb := by simp [State.onWeave]
@[simp] theorem State.onWeave_qpriv (k w : Nat) (f : Weave → Weave) : (s.onWeave k w f).qpriv = s.qpriv := by simp [State.onWeave]
@[simp] theorem State.onWeave_health (k w : Nat) (f : Weave → Weave) : (s.onWeave k w f).health = s.health := by simp [State.onWeave]
@[simp] theorem State.onWeave_cycle (k w : Nat) (f : Weave → Weave) : (s.onWeave k w f).cycle = s.cycle := by simp [State.onWeave]
@[simp] theorem State.onWeave_mgmt (k w : Nat) (f : Weave → Weave) : (s.onWeave k w f).mgmt = s.mgmt := by simp [State.onWeave]
@[simp] theorem State.onWeave_links (k w : Nat) (f : Weave → Weave) : (s.onWeave k w f).links = s.links := by simp [State.onWeave]
@[simp] theorem State.onWeave_homes (k w : Nat) (f : Weave → Weave) : (s.onWeave k w f).homes = s.homes := by simp [State.onWeave]
@[simp] theorem State.onWeave_dies (k w : Nat) (f : Weave → Weave) : (s.onWeave k w f).dies = s.dies := by simp [State.onWeave]
@[simp] theorem State.onWeave_bays (k w : Nat) (f : Weave → Weave) : (s.onWeave k w f).bays = s.bays := by simp [State.onWeave]
@[simp] theorem State.onWeave_cores (k w : Nat) (f : Weave → Weave) : (s.onWeave k w f).cores = s.cores := by simp [State.onWeave]
@[simp] theorem State.onWeave_queues (k w : Nat) (f : Weave → Weave) : (s.onWeave k w f).queues = s.queues := by simp [State.onWeave]
@[simp] theorem State.onWeave_launches (k w : Nat) (f : Weave → Weave) : (s.onWeave k w f).launches = s.launches := by simp [State.onWeave]
@[simp] theorem State.onWeave_tasks (k w : Nat) (f : Weave → Weave) : (s.onWeave k w f).tasks = s.tasks := by simp [State.onWeave]
@[simp] theorem State.onWeave_bents (k w : Nat) (f : Weave → Weave) : (s.onWeave k w f).bents = s.bents := by simp [State.onWeave]
@[simp] theorem State.onWeave_pairs (k w : Nat) (f : Weave → Weave) : (s.onWeave k w f).pairs = s.pairs := by simp [State.onWeave]
@[simp] theorem State.onWeave_stcmds (k w : Nat) (f : Weave → Weave) : (s.onWeave k w f).stcmds = s.stcmds := by simp [State.onWeave]
@[simp] theorem State.onWeave_uids (k w : Nat) (f : Weave → Weave) : (s.onWeave k w f).uids = s.uids := by simp [State.onWeave]
@[simp] theorem State.onWeave_agenda (k w : Nat) (f : Weave → Weave) : (s.onWeave k w f).agenda = s.agenda := by simp [State.onWeave]
@[simp] theorem State.onWeave_cur (k w : Nat) (f : Weave → Weave) : (s.onWeave k w f).cur = s.cur := by simp [State.onWeave]
@[simp] theorem State.onWeave_oracle (k w : Nat) (f : Weave → Weave) : (s.onWeave k w f).oracle = s.oracle := by simp [State.onWeave]
@[simp] theorem State.onWeave_fresh (k w : Nat) (f : Weave → Weave) : (s.onWeave k w f).fresh = s.fresh := by simp [State.onWeave]
@[simp] theorem State.onWeave_past (k w : Nat) (f : Weave → Weave) : (s.onWeave k w f).past = s.past := by simp [State.onWeave]

@[simp] theorem State.onLane_mem (k w l : Nat) (f : Lane → Lane) : (s.onLane k w l f).mem = s.mem := by simp [State.onLane]
@[simp] theorem State.onLane_astb (k w l : Nat) (f : Lane → Lane) : (s.onLane k w l f).astb = s.astb := by simp [State.onLane]
@[simp] theorem State.onLane_qpriv (k w l : Nat) (f : Lane → Lane) : (s.onLane k w l f).qpriv = s.qpriv := by simp [State.onLane]
@[simp] theorem State.onLane_health (k w l : Nat) (f : Lane → Lane) : (s.onLane k w l f).health = s.health := by simp [State.onLane]
@[simp] theorem State.onLane_cycle (k w l : Nat) (f : Lane → Lane) : (s.onLane k w l f).cycle = s.cycle := by simp [State.onLane]
@[simp] theorem State.onLane_mgmt (k w l : Nat) (f : Lane → Lane) : (s.onLane k w l f).mgmt = s.mgmt := by simp [State.onLane]
@[simp] theorem State.onLane_links (k w l : Nat) (f : Lane → Lane) : (s.onLane k w l f).links = s.links := by simp [State.onLane]
@[simp] theorem State.onLane_homes (k w l : Nat) (f : Lane → Lane) : (s.onLane k w l f).homes = s.homes := by simp [State.onLane]
@[simp] theorem State.onLane_dies (k w l : Nat) (f : Lane → Lane) : (s.onLane k w l f).dies = s.dies := by simp [State.onLane]
@[simp] theorem State.onLane_bays (k w l : Nat) (f : Lane → Lane) : (s.onLane k w l f).bays = s.bays := by simp [State.onLane]
@[simp] theorem State.onLane_cores (k w l : Nat) (f : Lane → Lane) : (s.onLane k w l f).cores = s.cores := by simp [State.onLane]
@[simp] theorem State.onLane_queues (k w l : Nat) (f : Lane → Lane) : (s.onLane k w l f).queues = s.queues := by simp [State.onLane]
@[simp] theorem State.onLane_launches (k w l : Nat) (f : Lane → Lane) : (s.onLane k w l f).launches = s.launches := by simp [State.onLane]
@[simp] theorem State.onLane_tasks (k w l : Nat) (f : Lane → Lane) : (s.onLane k w l f).tasks = s.tasks := by simp [State.onLane]
@[simp] theorem State.onLane_bents (k w l : Nat) (f : Lane → Lane) : (s.onLane k w l f).bents = s.bents := by simp [State.onLane]
@[simp] theorem State.onLane_pairs (k w l : Nat) (f : Lane → Lane) : (s.onLane k w l f).pairs = s.pairs := by simp [State.onLane]
@[simp] theorem State.onLane_stcmds (k w l : Nat) (f : Lane → Lane) : (s.onLane k w l f).stcmds = s.stcmds := by simp [State.onLane]
@[simp] theorem State.onLane_uids (k w l : Nat) (f : Lane → Lane) : (s.onLane k w l f).uids = s.uids := by simp [State.onLane]
@[simp] theorem State.onLane_agenda (k w l : Nat) (f : Lane → Lane) : (s.onLane k w l f).agenda = s.agenda := by simp [State.onLane]
@[simp] theorem State.onLane_cur (k w l : Nat) (f : Lane → Lane) : (s.onLane k w l f).cur = s.cur := by simp [State.onLane]
@[simp] theorem State.onLane_oracle (k w l : Nat) (f : Lane → Lane) : (s.onLane k w l f).oracle = s.oracle := by simp [State.onLane]
@[simp] theorem State.onLane_fresh (k w l : Nat) (f : Lane → Lane) : (s.onLane k w l f).fresh = s.fresh := by simp [State.onLane]
@[simp] theorem State.onLane_past (k w l : Nat) (f : Lane → Lane) : (s.onLane k w l f).past = s.past := by simp [State.onLane]

@[simp] theorem State.onFibre_mem (r : FibreRef) (f : Fibre → Fibre) : (s.onFibre r f).mem = s.mem := by simp [State.onFibre]
@[simp] theorem State.onFibre_astb (r : FibreRef) (f : Fibre → Fibre) : (s.onFibre r f).astb = s.astb := by simp [State.onFibre]
@[simp] theorem State.onFibre_qpriv (r : FibreRef) (f : Fibre → Fibre) : (s.onFibre r f).qpriv = s.qpriv := by simp [State.onFibre]
@[simp] theorem State.onFibre_health (r : FibreRef) (f : Fibre → Fibre) : (s.onFibre r f).health = s.health := by simp [State.onFibre]
@[simp] theorem State.onFibre_cycle (r : FibreRef) (f : Fibre → Fibre) : (s.onFibre r f).cycle = s.cycle := by simp [State.onFibre]
@[simp] theorem State.onFibre_mgmt (r : FibreRef) (f : Fibre → Fibre) : (s.onFibre r f).mgmt = s.mgmt := by simp [State.onFibre]
@[simp] theorem State.onFibre_links (r : FibreRef) (f : Fibre → Fibre) : (s.onFibre r f).links = s.links := by simp [State.onFibre]
@[simp] theorem State.onFibre_homes (r : FibreRef) (f : Fibre → Fibre) : (s.onFibre r f).homes = s.homes := by simp [State.onFibre]
@[simp] theorem State.onFibre_dies (r : FibreRef) (f : Fibre → Fibre) : (s.onFibre r f).dies = s.dies := by simp [State.onFibre]
@[simp] theorem State.onFibre_bays (r : FibreRef) (f : Fibre → Fibre) : (s.onFibre r f).bays = s.bays := by simp [State.onFibre]
@[simp] theorem State.onFibre_cores (r : FibreRef) (f : Fibre → Fibre) : (s.onFibre r f).cores = s.cores := by simp [State.onFibre]
@[simp] theorem State.onFibre_queues (r : FibreRef) (f : Fibre → Fibre) : (s.onFibre r f).queues = s.queues := by simp [State.onFibre]
@[simp] theorem State.onFibre_launches (r : FibreRef) (f : Fibre → Fibre) : (s.onFibre r f).launches = s.launches := by simp [State.onFibre]
@[simp] theorem State.onFibre_tasks (r : FibreRef) (f : Fibre → Fibre) : (s.onFibre r f).tasks = s.tasks := by simp [State.onFibre]
@[simp] theorem State.onFibre_bents (r : FibreRef) (f : Fibre → Fibre) : (s.onFibre r f).bents = s.bents := by simp [State.onFibre]
@[simp] theorem State.onFibre_pairs (r : FibreRef) (f : Fibre → Fibre) : (s.onFibre r f).pairs = s.pairs := by simp [State.onFibre]
@[simp] theorem State.onFibre_stcmds (r : FibreRef) (f : Fibre → Fibre) : (s.onFibre r f).stcmds = s.stcmds := by simp [State.onFibre]
@[simp] theorem State.onFibre_uids (r : FibreRef) (f : Fibre → Fibre) : (s.onFibre r f).uids = s.uids := by simp [State.onFibre]
@[simp] theorem State.onFibre_agenda (r : FibreRef) (f : Fibre → Fibre) : (s.onFibre r f).agenda = s.agenda := by simp [State.onFibre]
@[simp] theorem State.onFibre_cur (r : FibreRef) (f : Fibre → Fibre) : (s.onFibre r f).cur = s.cur := by simp [State.onFibre]
@[simp] theorem State.onFibre_oracle (r : FibreRef) (f : Fibre → Fibre) : (s.onFibre r f).oracle = s.oracle := by simp [State.onFibre]
@[simp] theorem State.onFibre_fresh (r : FibreRef) (f : Fibre → Fibre) : (s.onFibre r f).fresh = s.fresh := by simp [State.onFibre]
@[simp] theorem State.onFibre_past (r : FibreRef) (f : Fibre → Fibre) : (s.onFibre r f).past = s.past := by simp [State.onFibre]

@[simp] theorem State.onBent_mem (k : Nat) (f : Bent → Bent) : (s.onBent k f).mem = s.mem := rfl
@[simp] theorem State.onBent_astb (k : Nat) (f : Bent → Bent) : (s.onBent k f).astb = s.astb := rfl
@[simp] theorem State.onBent_qpriv (k : Nat) (f : Bent → Bent) : (s.onBent k f).qpriv = s.qpriv := rfl
@[simp] theorem State.onBent_health (k : Nat) (f : Bent → Bent) : (s.onBent k f).health = s.health := rfl
@[simp] theorem State.onBent_cycle (k : Nat) (f : Bent → Bent) : (s.onBent k f).cycle = s.cycle := rfl
@[simp] theorem State.onBent_mgmt (k : Nat) (f : Bent → Bent) : (s.onBent k f).mgmt = s.mgmt := rfl
@[simp] theorem State.onBent_links (k : Nat) (f : Bent → Bent) : (s.onBent k f).links = s.links := rfl
@[simp] theorem State.onBent_homes (k : Nat) (f : Bent → Bent) : (s.onBent k f).homes = s.homes := rfl
@[simp] theorem State.onBent_dies (k : Nat) (f : Bent → Bent) : (s.onBent k f).dies = s.dies := rfl
@[simp] theorem State.onBent_bays (k : Nat) (f : Bent → Bent) : (s.onBent k f).bays = s.bays := rfl
@[simp] theorem State.onBent_cores (k : Nat) (f : Bent → Bent) : (s.onBent k f).cores = s.cores := rfl
@[simp] theorem State.onBent_queues (k : Nat) (f : Bent → Bent) : (s.onBent k f).queues = s.queues := rfl
@[simp] theorem State.onBent_launches (k : Nat) (f : Bent → Bent) : (s.onBent k f).launches = s.launches := rfl
@[simp] theorem State.onBent_tasks (k : Nat) (f : Bent → Bent) : (s.onBent k f).tasks = s.tasks := rfl
@[simp] theorem State.onBent_groups (k : Nat) (f : Bent → Bent) : (s.onBent k f).groups = s.groups := rfl
@[simp] theorem State.onBent_pairs (k : Nat) (f : Bent → Bent) : (s.onBent k f).pairs = s.pairs := rfl
@[simp] theorem State.onBent_stcmds (k : Nat) (f : Bent → Bent) : (s.onBent k f).stcmds = s.stcmds := rfl
@[simp] theorem State.onBent_uids (k : Nat) (f : Bent → Bent) : (s.onBent k f).uids = s.uids := rfl
@[simp] theorem State.onBent_agenda (k : Nat) (f : Bent → Bent) : (s.onBent k f).agenda = s.agenda := rfl
@[simp] theorem State.onBent_cur (k : Nat) (f : Bent → Bent) : (s.onBent k f).cur = s.cur := rfl
@[simp] theorem State.onBent_oracle (k : Nat) (f : Bent → Bent) : (s.onBent k f).oracle = s.oracle := rfl
@[simp] theorem State.onBent_fresh (k : Nat) (f : Bent → Bent) : (s.onBent k f).fresh = s.fresh := rfl
@[simp] theorem State.onBent_past (k : Nat) (f : Bent → Bent) : (s.onBent k f).past = s.past := rfl

@[simp] theorem State.setBay_mem (k : Nat) (b : Bay) : (s.setBay k b).mem = s.mem := rfl
@[simp] theorem State.setBay_astb (k : Nat) (b : Bay) : (s.setBay k b).astb = s.astb := rfl
@[simp] theorem State.setBay_qpriv (k : Nat) (b : Bay) : (s.setBay k b).qpriv = s.qpriv := rfl
@[simp] theorem State.setBay_health (k : Nat) (b : Bay) : (s.setBay k b).health = s.health := rfl
@[simp] theorem State.setBay_cycle (k : Nat) (b : Bay) : (s.setBay k b).cycle = s.cycle := rfl
@[simp] theorem State.setBay_mgmt (k : Nat) (b : Bay) : (s.setBay k b).mgmt = s.mgmt := rfl
@[simp] theorem State.setBay_links (k : Nat) (b : Bay) : (s.setBay k b).links = s.links := rfl
@[simp] theorem State.setBay_homes (k : Nat) (b : Bay) : (s.setBay k b).homes = s.homes := rfl
@[simp] theorem State.setBay_dies (k : Nat) (b : Bay) : (s.setBay k b).dies = s.dies := rfl
@[simp] theorem State.setBay_cores (k : Nat) (b : Bay) : (s.setBay k b).cores = s.cores := rfl
@[simp] theorem State.setBay_queues (k : Nat) (b : Bay) : (s.setBay k b).queues = s.queues := rfl
@[simp] theorem State.setBay_launches (k : Nat) (b : Bay) : (s.setBay k b).launches = s.launches := rfl
@[simp] theorem State.setBay_tasks (k : Nat) (b : Bay) : (s.setBay k b).tasks = s.tasks := rfl
@[simp] theorem State.setBay_bents (k : Nat) (b : Bay) : (s.setBay k b).bents = s.bents := rfl
@[simp] theorem State.setBay_groups (k : Nat) (b : Bay) : (s.setBay k b).groups = s.groups := rfl
@[simp] theorem State.setBay_pairs (k : Nat) (b : Bay) : (s.setBay k b).pairs = s.pairs := rfl
@[simp] theorem State.setBay_stcmds (k : Nat) (b : Bay) : (s.setBay k b).stcmds = s.stcmds := rfl
@[simp] theorem State.setBay_uids (k : Nat) (b : Bay) : (s.setBay k b).uids = s.uids := rfl
@[simp] theorem State.setBay_agenda (k : Nat) (b : Bay) : (s.setBay k b).agenda = s.agenda := rfl
@[simp] theorem State.setBay_cur (k : Nat) (b : Bay) : (s.setBay k b).cur = s.cur := rfl
@[simp] theorem State.setBay_oracle (k : Nat) (b : Bay) : (s.setBay k b).oracle = s.oracle := rfl
@[simp] theorem State.setBay_fresh (k : Nat) (b : Bay) : (s.setBay k b).fresh = s.fresh := rfl
@[simp] theorem State.setBay_past (k : Nat) (b : Bay) : (s.setBay k b).past = s.past := rfl

@[simp] theorem State.onBay_mem (k : Nat) (f : Bay → Bay) : (s.onBay k f).mem = s.mem := rfl
@[simp] theorem State.onBay_astb (k : Nat) (f : Bay → Bay) : (s.onBay k f).astb = s.astb := rfl
@[simp] theorem State.onBay_qpriv (k : Nat) (f : Bay → Bay) : (s.onBay k f).qpriv = s.qpriv := rfl
@[simp] theorem State.onBay_health (k : Nat) (f : Bay → Bay) : (s.onBay k f).health = s.health := rfl
@[simp] theorem State.onBay_cycle (k : Nat) (f : Bay → Bay) : (s.onBay k f).cycle = s.cycle := rfl
@[simp] theorem State.onBay_mgmt (k : Nat) (f : Bay → Bay) : (s.onBay k f).mgmt = s.mgmt := rfl
@[simp] theorem State.onBay_links (k : Nat) (f : Bay → Bay) : (s.onBay k f).links = s.links := rfl
@[simp] theorem State.onBay_homes (k : Nat) (f : Bay → Bay) : (s.onBay k f).homes = s.homes := rfl
@[simp] theorem State.onBay_dies (k : Nat) (f : Bay → Bay) : (s.onBay k f).dies = s.dies := rfl
@[simp] theorem State.onBay_cores (k : Nat) (f : Bay → Bay) : (s.onBay k f).cores = s.cores := rfl
@[simp] theorem State.onBay_queues (k : Nat) (f : Bay → Bay) : (s.onBay k f).queues = s.queues := rfl
@[simp] theorem State.onBay_launches (k : Nat) (f : Bay → Bay) : (s.onBay k f).launches = s.launches := rfl
@[simp] theorem State.onBay_tasks (k : Nat) (f : Bay → Bay) : (s.onBay k f).tasks = s.tasks := rfl
@[simp] theorem State.onBay_bents (k : Nat) (f : Bay → Bay) : (s.onBay k f).bents = s.bents := rfl
@[simp] theorem State.onBay_groups (k : Nat) (f : Bay → Bay) : (s.onBay k f).groups = s.groups := rfl
@[simp] theorem State.onBay_pairs (k : Nat) (f : Bay → Bay) : (s.onBay k f).pairs = s.pairs := rfl
@[simp] theorem State.onBay_stcmds (k : Nat) (f : Bay → Bay) : (s.onBay k f).stcmds = s.stcmds := rfl
@[simp] theorem State.onBay_uids (k : Nat) (f : Bay → Bay) : (s.onBay k f).uids = s.uids := rfl
@[simp] theorem State.onBay_agenda (k : Nat) (f : Bay → Bay) : (s.onBay k f).agenda = s.agenda := rfl
@[simp] theorem State.onBay_cur (k : Nat) (f : Bay → Bay) : (s.onBay k f).cur = s.cur := rfl
@[simp] theorem State.onBay_oracle (k : Nat) (f : Bay → Bay) : (s.onBay k f).oracle = s.oracle := rfl
@[simp] theorem State.onBay_fresh (k : Nat) (f : Bay → Bay) : (s.onBay k f).fresh = s.fresh := rfl
@[simp] theorem State.onBay_past (k : Nat) (f : Bay → Bay) : (s.onBay k f).past = s.past := rfl

@[simp] theorem State.setDie_mem (k : Nat) (d : Die) : (s.setDie k d).mem = s.mem := rfl
@[simp] theorem State.setDie_astb (k : Nat) (d : Die) : (s.setDie k d).astb = s.astb := rfl
@[simp] theorem State.setDie_qpriv (k : Nat) (d : Die) : (s.setDie k d).qpriv = s.qpriv := rfl
@[simp] theorem State.setDie_health (k : Nat) (d : Die) : (s.setDie k d).health = s.health := rfl
@[simp] theorem State.setDie_cycle (k : Nat) (d : Die) : (s.setDie k d).cycle = s.cycle := rfl
@[simp] theorem State.setDie_mgmt (k : Nat) (d : Die) : (s.setDie k d).mgmt = s.mgmt := rfl
@[simp] theorem State.setDie_links (k : Nat) (d : Die) : (s.setDie k d).links = s.links := rfl
@[simp] theorem State.setDie_homes (k : Nat) (d : Die) : (s.setDie k d).homes = s.homes := rfl
@[simp] theorem State.setDie_bays (k : Nat) (d : Die) : (s.setDie k d).bays = s.bays := rfl
@[simp] theorem State.setDie_cores (k : Nat) (d : Die) : (s.setDie k d).cores = s.cores := rfl
@[simp] theorem State.setDie_queues (k : Nat) (d : Die) : (s.setDie k d).queues = s.queues := rfl
@[simp] theorem State.setDie_launches (k : Nat) (d : Die) : (s.setDie k d).launches = s.launches := rfl
@[simp] theorem State.setDie_tasks (k : Nat) (d : Die) : (s.setDie k d).tasks = s.tasks := rfl
@[simp] theorem State.setDie_bents (k : Nat) (d : Die) : (s.setDie k d).bents = s.bents := rfl
@[simp] theorem State.setDie_groups (k : Nat) (d : Die) : (s.setDie k d).groups = s.groups := rfl
@[simp] theorem State.setDie_pairs (k : Nat) (d : Die) : (s.setDie k d).pairs = s.pairs := rfl
@[simp] theorem State.setDie_stcmds (k : Nat) (d : Die) : (s.setDie k d).stcmds = s.stcmds := rfl
@[simp] theorem State.setDie_uids (k : Nat) (d : Die) : (s.setDie k d).uids = s.uids := rfl
@[simp] theorem State.setDie_agenda (k : Nat) (d : Die) : (s.setDie k d).agenda = s.agenda := rfl
@[simp] theorem State.setDie_cur (k : Nat) (d : Die) : (s.setDie k d).cur = s.cur := rfl
@[simp] theorem State.setDie_oracle (k : Nat) (d : Die) : (s.setDie k d).oracle = s.oracle := rfl
@[simp] theorem State.setDie_fresh (k : Nat) (d : Die) : (s.setDie k d).fresh = s.fresh := rfl
@[simp] theorem State.setDie_past (k : Nat) (d : Die) : (s.setDie k d).past = s.past := rfl

@[simp] theorem State.setCore_mem (k : Nat) (c : Core) : (s.setCore k c).mem = s.mem := rfl
@[simp] theorem State.setCore_astb (k : Nat) (c : Core) : (s.setCore k c).astb = s.astb := rfl
@[simp] theorem State.setCore_qpriv (k : Nat) (c : Core) : (s.setCore k c).qpriv = s.qpriv := rfl
@[simp] theorem State.setCore_health (k : Nat) (c : Core) : (s.setCore k c).health = s.health := rfl
@[simp] theorem State.setCore_cycle (k : Nat) (c : Core) : (s.setCore k c).cycle = s.cycle := rfl
@[simp] theorem State.setCore_mgmt (k : Nat) (c : Core) : (s.setCore k c).mgmt = s.mgmt := rfl
@[simp] theorem State.setCore_links (k : Nat) (c : Core) : (s.setCore k c).links = s.links := rfl
@[simp] theorem State.setCore_homes (k : Nat) (c : Core) : (s.setCore k c).homes = s.homes := rfl
@[simp] theorem State.setCore_dies (k : Nat) (c : Core) : (s.setCore k c).dies = s.dies := rfl
@[simp] theorem State.setCore_bays (k : Nat) (c : Core) : (s.setCore k c).bays = s.bays := rfl
@[simp] theorem State.setCore_queues (k : Nat) (c : Core) : (s.setCore k c).queues = s.queues := rfl
@[simp] theorem State.setCore_launches (k : Nat) (c : Core) : (s.setCore k c).launches = s.launches := rfl
@[simp] theorem State.setCore_tasks (k : Nat) (c : Core) : (s.setCore k c).tasks = s.tasks := rfl
@[simp] theorem State.setCore_bents (k : Nat) (c : Core) : (s.setCore k c).bents = s.bents := rfl
@[simp] theorem State.setCore_groups (k : Nat) (c : Core) : (s.setCore k c).groups = s.groups := rfl
@[simp] theorem State.setCore_pairs (k : Nat) (c : Core) : (s.setCore k c).pairs = s.pairs := rfl
@[simp] theorem State.setCore_stcmds (k : Nat) (c : Core) : (s.setCore k c).stcmds = s.stcmds := rfl
@[simp] theorem State.setCore_uids (k : Nat) (c : Core) : (s.setCore k c).uids = s.uids := rfl
@[simp] theorem State.setCore_agenda (k : Nat) (c : Core) : (s.setCore k c).agenda = s.agenda := rfl
@[simp] theorem State.setCore_cur (k : Nat) (c : Core) : (s.setCore k c).cur = s.cur := rfl
@[simp] theorem State.setCore_oracle (k : Nat) (c : Core) : (s.setCore k c).oracle = s.oracle := rfl
@[simp] theorem State.setCore_fresh (k : Nat) (c : Core) : (s.setCore k c).fresh = s.fresh := rfl
@[simp] theorem State.setCore_past (k : Nat) (c : Core) : (s.setCore k c).past = s.past := rfl

@[simp] theorem State.putMem_astb (pa : Nat) (bs : List Byte) (a : Actor) (k : Nat) (r : Bool) : (s.putMem pa bs a k r).astb = s.astb := by unfold State.putMem; split <;> rfl
@[simp] theorem State.putMem_qpriv (pa : Nat) (bs : List Byte) (a : Actor) (k : Nat) (r : Bool) : (s.putMem pa bs a k r).qpriv = s.qpriv := by unfold State.putMem; split <;> rfl
@[simp] theorem State.putMem_health (pa : Nat) (bs : List Byte) (a : Actor) (k : Nat) (r : Bool) : (s.putMem pa bs a k r).health = s.health := by unfold State.putMem; split <;> rfl
@[simp] theorem State.putMem_cycle (pa : Nat) (bs : List Byte) (a : Actor) (k : Nat) (r : Bool) : (s.putMem pa bs a k r).cycle = s.cycle := by unfold State.putMem; split <;> rfl
@[simp] theorem State.putMem_mgmt (pa : Nat) (bs : List Byte) (a : Actor) (k : Nat) (r : Bool) : (s.putMem pa bs a k r).mgmt = s.mgmt := by unfold State.putMem; split <;> rfl
@[simp] theorem State.putMem_links (pa : Nat) (bs : List Byte) (a : Actor) (k : Nat) (r : Bool) : (s.putMem pa bs a k r).links = s.links := by unfold State.putMem; split <;> rfl
@[simp] theorem State.putMem_homes (pa : Nat) (bs : List Byte) (a : Actor) (k : Nat) (r : Bool) : (s.putMem pa bs a k r).homes = s.homes := by unfold State.putMem; split <;> rfl
@[simp] theorem State.putMem_bays (pa : Nat) (bs : List Byte) (a : Actor) (k : Nat) (r : Bool) : (s.putMem pa bs a k r).bays = s.bays := by unfold State.putMem; split <;> rfl
@[simp] theorem State.putMem_cores (pa : Nat) (bs : List Byte) (a : Actor) (k : Nat) (r : Bool) : (s.putMem pa bs a k r).cores = s.cores := by unfold State.putMem; split <;> rfl
@[simp] theorem State.putMem_queues (pa : Nat) (bs : List Byte) (a : Actor) (k : Nat) (r : Bool) : (s.putMem pa bs a k r).queues = s.queues := by unfold State.putMem; split <;> rfl
@[simp] theorem State.putMem_launches (pa : Nat) (bs : List Byte) (a : Actor) (k : Nat) (r : Bool) : (s.putMem pa bs a k r).launches = s.launches := by unfold State.putMem; split <;> rfl
@[simp] theorem State.putMem_tasks (pa : Nat) (bs : List Byte) (a : Actor) (k : Nat) (r : Bool) : (s.putMem pa bs a k r).tasks = s.tasks := by unfold State.putMem; split <;> rfl
@[simp] theorem State.putMem_bents (pa : Nat) (bs : List Byte) (a : Actor) (k : Nat) (r : Bool) : (s.putMem pa bs a k r).bents = s.bents := by unfold State.putMem; split <;> rfl
@[simp] theorem State.putMem_pairs (pa : Nat) (bs : List Byte) (a : Actor) (k : Nat) (r : Bool) : (s.putMem pa bs a k r).pairs = s.pairs := by unfold State.putMem; split <;> rfl
@[simp] theorem State.putMem_stcmds (pa : Nat) (bs : List Byte) (a : Actor) (k : Nat) (r : Bool) : (s.putMem pa bs a k r).stcmds = s.stcmds := by unfold State.putMem; split <;> rfl
@[simp] theorem State.putMem_uids (pa : Nat) (bs : List Byte) (a : Actor) (k : Nat) (r : Bool) : (s.putMem pa bs a k r).uids = s.uids := by unfold State.putMem; split <;> rfl
@[simp] theorem State.putMem_agenda (pa : Nat) (bs : List Byte) (a : Actor) (k : Nat) (r : Bool) : (s.putMem pa bs a k r).agenda = s.agenda := by unfold State.putMem; split <;> rfl
@[simp] theorem State.putMem_cur (pa : Nat) (bs : List Byte) (a : Actor) (k : Nat) (r : Bool) : (s.putMem pa bs a k r).cur = s.cur := by unfold State.putMem; split <;> rfl
@[simp] theorem State.putMem_oracle (pa : Nat) (bs : List Byte) (a : Actor) (k : Nat) (r : Bool) : (s.putMem pa bs a k r).oracle = s.oracle := by unfold State.putMem; split <;> rfl
@[simp] theorem State.putMem_fresh (pa : Nat) (bs : List Byte) (a : Actor) (k : Nat) (r : Bool) : (s.putMem pa bs a k r).fresh = s.fresh := by unfold State.putMem; split <;> rfl

@[simp] theorem State.putNat_astb (pa n v : Nat) : (s.putNat pa n v).astb = s.astb := by simp [State.putNat]
@[simp] theorem State.putNat_qpriv (pa n v : Nat) : (s.putNat pa n v).qpriv = s.qpriv := by simp [State.putNat]
@[simp] theorem State.putNat_health (pa n v : Nat) : (s.putNat pa n v).health = s.health := by simp [State.putNat]
@[simp] theorem State.putNat_cycle (pa n v : Nat) : (s.putNat pa n v).cycle = s.cycle := by simp [State.putNat]
@[simp] theorem State.putNat_mgmt (pa n v : Nat) : (s.putNat pa n v).mgmt = s.mgmt := by simp [State.putNat]
@[simp] theorem State.putNat_links (pa n v : Nat) : (s.putNat pa n v).links = s.links := by simp [State.putNat]
@[simp] theorem State.putNat_homes (pa n v : Nat) : (s.putNat pa n v).homes = s.homes := by simp [State.putNat]
@[simp] theorem State.putNat_bays (pa n v : Nat) : (s.putNat pa n v).bays = s.bays := by simp [State.putNat]
@[simp] theorem State.putNat_cores (pa n v : Nat) : (s.putNat pa n v).cores = s.cores := by simp [State.putNat]
@[simp] theorem State.putNat_queues (pa n v : Nat) : (s.putNat pa n v).queues = s.queues := by simp [State.putNat]
@[simp] theorem State.putNat_launches (pa n v : Nat) : (s.putNat pa n v).launches = s.launches := by simp [State.putNat]
@[simp] theorem State.putNat_tasks (pa n v : Nat) : (s.putNat pa n v).tasks = s.tasks := by simp [State.putNat]
@[simp] theorem State.putNat_bents (pa n v : Nat) : (s.putNat pa n v).bents = s.bents := by simp [State.putNat]
@[simp] theorem State.putNat_pairs (pa n v : Nat) : (s.putNat pa n v).pairs = s.pairs := by simp [State.putNat]
@[simp] theorem State.putNat_stcmds (pa n v : Nat) : (s.putNat pa n v).stcmds = s.stcmds := by simp [State.putNat]
@[simp] theorem State.putNat_uids (pa n v : Nat) : (s.putNat pa n v).uids = s.uids := by simp [State.putNat]
@[simp] theorem State.putNat_agenda (pa n v : Nat) : (s.putNat pa n v).agenda = s.agenda := by simp [State.putNat]
@[simp] theorem State.putNat_cur (pa n v : Nat) : (s.putNat pa n v).cur = s.cur := by simp [State.putNat]
@[simp] theorem State.putNat_oracle (pa n v : Nat) : (s.putNat pa n v).oracle = s.oracle := by simp [State.putNat]
@[simp] theorem State.putNat_fresh (pa n v : Nat) : (s.putNat pa n v).fresh = s.fresh := by simp [State.putNat]

@[simp] theorem State.note_mem (e : Ev) : (s.note e).mem = s.mem := by unfold State.note; split <;> rfl
@[simp] theorem State.note_astb (e : Ev) : (s.note e).astb = s.astb := by unfold State.note; split <;> rfl
@[simp] theorem State.note_qpriv (e : Ev) : (s.note e).qpriv = s.qpriv := by unfold State.note; split <;> rfl
@[simp] theorem State.note_health (e : Ev) : (s.note e).health = s.health := by unfold State.note; split <;> rfl
@[simp] theorem State.note_cycle (e : Ev) : (s.note e).cycle = s.cycle := by unfold State.note; split <;> rfl
@[simp] theorem State.note_mgmt (e : Ev) : (s.note e).mgmt = s.mgmt := by unfold State.note; split <;> rfl
@[simp] theorem State.note_links (e : Ev) : (s.note e).links = s.links := by unfold State.note; split <;> rfl
@[simp] theorem State.note_homes (e : Ev) : (s.note e).homes = s.homes := by unfold State.note; split <;> rfl
@[simp] theorem State.note_dies (e : Ev) : (s.note e).dies = s.dies := by unfold State.note; split <;> rfl
@[simp] theorem State.note_bays (e : Ev) : (s.note e).bays = s.bays := by unfold State.note; split <;> rfl
@[simp] theorem State.note_cores (e : Ev) : (s.note e).cores = s.cores := by unfold State.note; split <;> rfl
@[simp] theorem State.note_queues (e : Ev) : (s.note e).queues = s.queues := by unfold State.note; split <;> rfl
@[simp] theorem State.note_launches (e : Ev) : (s.note e).launches = s.launches := by unfold State.note; split <;> rfl
@[simp] theorem State.note_tasks (e : Ev) : (s.note e).tasks = s.tasks := by unfold State.note; split <;> rfl
@[simp] theorem State.note_bents (e : Ev) : (s.note e).bents = s.bents := by unfold State.note; split <;> rfl
@[simp] theorem State.note_groups (e : Ev) : (s.note e).groups = s.groups := by unfold State.note; split <;> rfl
@[simp] theorem State.note_pairs (e : Ev) : (s.note e).pairs = s.pairs := by unfold State.note; split <;> rfl
@[simp] theorem State.note_stcmds (e : Ev) : (s.note e).stcmds = s.stcmds := by unfold State.note; split <;> rfl
@[simp] theorem State.note_uids (e : Ev) : (s.note e).uids = s.uids := by unfold State.note; split <;> rfl
@[simp] theorem State.note_agenda (e : Ev) : (s.note e).agenda = s.agenda := by unfold State.note; split <;> rfl
@[simp] theorem State.note_cur (e : Ev) : (s.note e).cur = s.cur := by unfold State.note; split <;> rfl
@[simp] theorem State.note_oracle (e : Ev) : (s.note e).oracle = s.oracle := by unfold State.note; split <;> rfl
@[simp] theorem State.note_fresh (e : Ev) : (s.note e).fresh = s.fresh := by unfold State.note; split <;> rfl

@[simp] theorem State.edge_mem (k : Nat) (pubs : List Nat) (src dst : List Party) : (s.edge k pubs src dst).mem = s.mem := by simp [State.edge]
@[simp] theorem State.edge_astb (k : Nat) (pubs : List Nat) (src dst : List Party) : (s.edge k pubs src dst).astb = s.astb := by simp [State.edge]
@[simp] theorem State.edge_qpriv (k : Nat) (pubs : List Nat) (src dst : List Party) : (s.edge k pubs src dst).qpriv = s.qpriv := by simp [State.edge]
@[simp] theorem State.edge_health (k : Nat) (pubs : List Nat) (src dst : List Party) : (s.edge k pubs src dst).health = s.health := by simp [State.edge]
@[simp] theorem State.edge_cycle (k : Nat) (pubs : List Nat) (src dst : List Party) : (s.edge k pubs src dst).cycle = s.cycle := by simp [State.edge]
@[simp] theorem State.edge_mgmt (k : Nat) (pubs : List Nat) (src dst : List Party) : (s.edge k pubs src dst).mgmt = s.mgmt := by simp [State.edge]
@[simp] theorem State.edge_links (k : Nat) (pubs : List Nat) (src dst : List Party) : (s.edge k pubs src dst).links = s.links := by simp [State.edge]
@[simp] theorem State.edge_homes (k : Nat) (pubs : List Nat) (src dst : List Party) : (s.edge k pubs src dst).homes = s.homes := by simp [State.edge]
@[simp] theorem State.edge_dies (k : Nat) (pubs : List Nat) (src dst : List Party) : (s.edge k pubs src dst).dies = s.dies := by simp [State.edge]
@[simp] theorem State.edge_bays (k : Nat) (pubs : List Nat) (src dst : List Party) : (s.edge k pubs src dst).bays = s.bays := by simp [State.edge]
@[simp] theorem State.edge_cores (k : Nat) (pubs : List Nat) (src dst : List Party) : (s.edge k pubs src dst).cores = s.cores := by simp [State.edge]
@[simp] theorem State.edge_queues (k : Nat) (pubs : List Nat) (src dst : List Party) : (s.edge k pubs src dst).queues = s.queues := by simp [State.edge]
@[simp] theorem State.edge_launches (k : Nat) (pubs : List Nat) (src dst : List Party) : (s.edge k pubs src dst).launches = s.launches := by simp [State.edge]
@[simp] theorem State.edge_tasks (k : Nat) (pubs : List Nat) (src dst : List Party) : (s.edge k pubs src dst).tasks = s.tasks := by simp [State.edge]
@[simp] theorem State.edge_bents (k : Nat) (pubs : List Nat) (src dst : List Party) : (s.edge k pubs src dst).bents = s.bents := by simp [State.edge]
@[simp] theorem State.edge_groups (k : Nat) (pubs : List Nat) (src dst : List Party) : (s.edge k pubs src dst).groups = s.groups := by simp [State.edge]
@[simp] theorem State.edge_pairs (k : Nat) (pubs : List Nat) (src dst : List Party) : (s.edge k pubs src dst).pairs = s.pairs := by simp [State.edge]
@[simp] theorem State.edge_stcmds (k : Nat) (pubs : List Nat) (src dst : List Party) : (s.edge k pubs src dst).stcmds = s.stcmds := by simp [State.edge]
@[simp] theorem State.edge_uids (k : Nat) (pubs : List Nat) (src dst : List Party) : (s.edge k pubs src dst).uids = s.uids := by simp [State.edge]
@[simp] theorem State.edge_agenda (k : Nat) (pubs : List Nat) (src dst : List Party) : (s.edge k pubs src dst).agenda = s.agenda := by simp [State.edge]
@[simp] theorem State.edge_cur (k : Nat) (pubs : List Nat) (src dst : List Party) : (s.edge k pubs src dst).cur = s.cur := by simp [State.edge]
@[simp] theorem State.edge_oracle (k : Nat) (pubs : List Nat) (src dst : List Party) : (s.edge k pubs src dst).oracle = s.oracle := by simp [State.edge]
@[simp] theorem State.edge_fresh (k : Nat) (pubs : List Nat) (src dst : List Party) : (s.edge k pubs src dst).fresh = s.fresh := by simp [State.edge]

@[simp] theorem State.fence_mem (a : Actor) (k : Nat) : (s.fence a k).mem = s.mem := by simp [State.fence]
@[simp] theorem State.fence_astb (a : Actor) (k : Nat) : (s.fence a k).astb = s.astb := by simp [State.fence]
@[simp] theorem State.fence_qpriv (a : Actor) (k : Nat) : (s.fence a k).qpriv = s.qpriv := by simp [State.fence]
@[simp] theorem State.fence_health (a : Actor) (k : Nat) : (s.fence a k).health = s.health := by simp [State.fence]
@[simp] theorem State.fence_cycle (a : Actor) (k : Nat) : (s.fence a k).cycle = s.cycle := by simp [State.fence]
@[simp] theorem State.fence_mgmt (a : Actor) (k : Nat) : (s.fence a k).mgmt = s.mgmt := by simp [State.fence]
@[simp] theorem State.fence_links (a : Actor) (k : Nat) : (s.fence a k).links = s.links := by simp [State.fence]
@[simp] theorem State.fence_homes (a : Actor) (k : Nat) : (s.fence a k).homes = s.homes := by simp [State.fence]
@[simp] theorem State.fence_dies (a : Actor) (k : Nat) : (s.fence a k).dies = s.dies := by simp [State.fence]
@[simp] theorem State.fence_bays (a : Actor) (k : Nat) : (s.fence a k).bays = s.bays := by simp [State.fence]
@[simp] theorem State.fence_cores (a : Actor) (k : Nat) : (s.fence a k).cores = s.cores := by simp [State.fence]
@[simp] theorem State.fence_queues (a : Actor) (k : Nat) : (s.fence a k).queues = s.queues := by simp [State.fence]
@[simp] theorem State.fence_launches (a : Actor) (k : Nat) : (s.fence a k).launches = s.launches := by simp [State.fence]
@[simp] theorem State.fence_tasks (a : Actor) (k : Nat) : (s.fence a k).tasks = s.tasks := by simp [State.fence]
@[simp] theorem State.fence_bents (a : Actor) (k : Nat) : (s.fence a k).bents = s.bents := by simp [State.fence]
@[simp] theorem State.fence_groups (a : Actor) (k : Nat) : (s.fence a k).groups = s.groups := by simp [State.fence]
@[simp] theorem State.fence_pairs (a : Actor) (k : Nat) : (s.fence a k).pairs = s.pairs := by simp [State.fence]
@[simp] theorem State.fence_stcmds (a : Actor) (k : Nat) : (s.fence a k).stcmds = s.stcmds := by simp [State.fence]
@[simp] theorem State.fence_uids (a : Actor) (k : Nat) : (s.fence a k).uids = s.uids := by simp [State.fence]
@[simp] theorem State.fence_agenda (a : Actor) (k : Nat) : (s.fence a k).agenda = s.agenda := by simp [State.fence]
@[simp] theorem State.fence_cur (a : Actor) (k : Nat) : (s.fence a k).cur = s.cur := by simp [State.fence]
@[simp] theorem State.fence_oracle (a : Actor) (k : Nat) : (s.fence a k).oracle = s.oracle := by simp [State.fence]
@[simp] theorem State.fence_fresh (a : Actor) (k : Nat) : (s.fence a k).fresh = s.fresh := by simp [State.fence]

@[simp] theorem State.countCore_mem (k e n : Nat) : (s.countCore k e n).mem = s.mem := by unfold State.countCore; dsimp only; split <;> rfl
@[simp] theorem State.countCore_astb (k e n : Nat) : (s.countCore k e n).astb = s.astb := by unfold State.countCore; dsimp only; split <;> rfl
@[simp] theorem State.countCore_qpriv (k e n : Nat) : (s.countCore k e n).qpriv = s.qpriv := by unfold State.countCore; dsimp only; split <;> rfl
@[simp] theorem State.countCore_health (k e n : Nat) : (s.countCore k e n).health = s.health := by unfold State.countCore; dsimp only; split <;> rfl
@[simp] theorem State.countCore_cycle (k e n : Nat) : (s.countCore k e n).cycle = s.cycle := by unfold State.countCore; dsimp only; split <;> rfl
@[simp] theorem State.countCore_mgmt (k e n : Nat) : (s.countCore k e n).mgmt = s.mgmt := by unfold State.countCore; dsimp only; split <;> rfl
@[simp] theorem State.countCore_links (k e n : Nat) : (s.countCore k e n).links = s.links := by unfold State.countCore; dsimp only; split <;> rfl
@[simp] theorem State.countCore_homes (k e n : Nat) : (s.countCore k e n).homes = s.homes := by unfold State.countCore; dsimp only; split <;> rfl
@[simp] theorem State.countCore_dies (k e n : Nat) : (s.countCore k e n).dies = s.dies := by unfold State.countCore; dsimp only; split <;> rfl
@[simp] theorem State.countCore_bays (k e n : Nat) : (s.countCore k e n).bays = s.bays := by unfold State.countCore; dsimp only; split <;> rfl
@[simp] theorem State.countCore_queues (k e n : Nat) : (s.countCore k e n).queues = s.queues := by unfold State.countCore; dsimp only; split <;> rfl
@[simp] theorem State.countCore_launches (k e n : Nat) : (s.countCore k e n).launches = s.launches := by unfold State.countCore; dsimp only; split <;> rfl
@[simp] theorem State.countCore_tasks (k e n : Nat) : (s.countCore k e n).tasks = s.tasks := by unfold State.countCore; dsimp only; split <;> rfl
@[simp] theorem State.countCore_bents (k e n : Nat) : (s.countCore k e n).bents = s.bents := by unfold State.countCore; dsimp only; split <;> rfl
@[simp] theorem State.countCore_groups (k e n : Nat) : (s.countCore k e n).groups = s.groups := by unfold State.countCore; dsimp only; split <;> rfl
@[simp] theorem State.countCore_pairs (k e n : Nat) : (s.countCore k e n).pairs = s.pairs := by unfold State.countCore; dsimp only; split <;> rfl
@[simp] theorem State.countCore_stcmds (k e n : Nat) : (s.countCore k e n).stcmds = s.stcmds := by unfold State.countCore; dsimp only; split <;> rfl
@[simp] theorem State.countCore_uids (k e n : Nat) : (s.countCore k e n).uids = s.uids := by unfold State.countCore; dsimp only; split <;> rfl
@[simp] theorem State.countCore_agenda (k e n : Nat) : (s.countCore k e n).agenda = s.agenda := by unfold State.countCore; dsimp only; split <;> rfl
@[simp] theorem State.countCore_cur (k e n : Nat) : (s.countCore k e n).cur = s.cur := by unfold State.countCore; dsimp only; split <;> rfl
@[simp] theorem State.countCore_oracle (k e n : Nat) : (s.countCore k e n).oracle = s.oracle := by unfold State.countCore; dsimp only; split <;> rfl
@[simp] theorem State.countCore_fresh (k e n : Nat) : (s.countCore k e n).fresh = s.fresh := by unfold State.countCore; dsimp only; split <;> rfl
@[simp] theorem State.countCore_past (k e n : Nat) : (s.countCore k e n).past = s.past := by unfold State.countCore; dsimp only; split <;> rfl

@[simp] theorem State.countDie_mem (k e n : Nat) : (s.countDie k e n).mem = s.mem := by unfold State.countDie; dsimp only; split <;> rfl
@[simp] theorem State.countDie_astb (k e n : Nat) : (s.countDie k e n).astb = s.astb := by unfold State.countDie; dsimp only; split <;> rfl
@[simp] theorem State.countDie_qpriv (k e n : Nat) : (s.countDie k e n).qpriv = s.qpriv := by unfold State.countDie; dsimp only; split <;> rfl
@[simp] theorem State.countDie_health (k e n : Nat) : (s.countDie k e n).health = s.health := by unfold State.countDie; dsimp only; split <;> rfl
@[simp] theorem State.countDie_cycle (k e n : Nat) : (s.countDie k e n).cycle = s.cycle := by unfold State.countDie; dsimp only; split <;> rfl
@[simp] theorem State.countDie_mgmt (k e n : Nat) : (s.countDie k e n).mgmt = s.mgmt := by unfold State.countDie; dsimp only; split <;> rfl
@[simp] theorem State.countDie_links (k e n : Nat) : (s.countDie k e n).links = s.links := by unfold State.countDie; dsimp only; split <;> rfl
@[simp] theorem State.countDie_homes (k e n : Nat) : (s.countDie k e n).homes = s.homes := by unfold State.countDie; dsimp only; split <;> rfl
@[simp] theorem State.countDie_bays (k e n : Nat) : (s.countDie k e n).bays = s.bays := by unfold State.countDie; dsimp only; split <;> rfl
@[simp] theorem State.countDie_cores (k e n : Nat) : (s.countDie k e n).cores = s.cores := by unfold State.countDie; dsimp only; split <;> rfl
@[simp] theorem State.countDie_queues (k e n : Nat) : (s.countDie k e n).queues = s.queues := by unfold State.countDie; dsimp only; split <;> rfl
@[simp] theorem State.countDie_launches (k e n : Nat) : (s.countDie k e n).launches = s.launches := by unfold State.countDie; dsimp only; split <;> rfl
@[simp] theorem State.countDie_tasks (k e n : Nat) : (s.countDie k e n).tasks = s.tasks := by unfold State.countDie; dsimp only; split <;> rfl
@[simp] theorem State.countDie_bents (k e n : Nat) : (s.countDie k e n).bents = s.bents := by unfold State.countDie; dsimp only; split <;> rfl
@[simp] theorem State.countDie_groups (k e n : Nat) : (s.countDie k e n).groups = s.groups := by unfold State.countDie; dsimp only; split <;> rfl
@[simp] theorem State.countDie_pairs (k e n : Nat) : (s.countDie k e n).pairs = s.pairs := by unfold State.countDie; dsimp only; split <;> rfl
@[simp] theorem State.countDie_stcmds (k e n : Nat) : (s.countDie k e n).stcmds = s.stcmds := by unfold State.countDie; dsimp only; split <;> rfl
@[simp] theorem State.countDie_uids (k e n : Nat) : (s.countDie k e n).uids = s.uids := by unfold State.countDie; dsimp only; split <;> rfl
@[simp] theorem State.countDie_agenda (k e n : Nat) : (s.countDie k e n).agenda = s.agenda := by unfold State.countDie; dsimp only; split <;> rfl
@[simp] theorem State.countDie_cur (k e n : Nat) : (s.countDie k e n).cur = s.cur := by unfold State.countDie; dsimp only; split <;> rfl
@[simp] theorem State.countDie_oracle (k e n : Nat) : (s.countDie k e n).oracle = s.oracle := by unfold State.countDie; dsimp only; split <;> rfl
@[simp] theorem State.countDie_fresh (k e n : Nat) : (s.countDie k e n).fresh = s.fresh := by unfold State.countDie; dsimp only; split <;> rfl
@[simp] theorem State.countDie_past (k e n : Nat) : (s.countDie k e n).past = s.past := by unfold State.countDie; dsimp only; split <;> rfl

@[simp] theorem State.reweave_mem (k w : Nat) (f : Weave → Weave) : (s.reweave k w f).mem = s.mem := by simp [State.reweave]
@[simp] theorem State.reweave_astb (k w : Nat) (f : Weave → Weave) : (s.reweave k w f).astb = s.astb := by simp [State.reweave]
@[simp] theorem State.reweave_qpriv (k w : Nat) (f : Weave → Weave) : (s.reweave k w f).qpriv = s.qpriv := by simp [State.reweave]
@[simp] theorem State.reweave_health (k w : Nat) (f : Weave → Weave) : (s.reweave k w f).health = s.health := by simp [State.reweave]
@[simp] theorem State.reweave_cycle (k w : Nat) (f : Weave → Weave) : (s.reweave k w f).cycle = s.cycle := by simp [State.reweave]
@[simp] theorem State.reweave_mgmt (k w : Nat) (f : Weave → Weave) : (s.reweave k w f).mgmt = s.mgmt := by simp [State.reweave]
@[simp] theorem State.reweave_links (k w : Nat) (f : Weave → Weave) : (s.reweave k w f).links = s.links := by simp [State.reweave]
@[simp] theorem State.reweave_homes (k w : Nat) (f : Weave → Weave) : (s.reweave k w f).homes = s.homes := by simp [State.reweave]
@[simp] theorem State.reweave_dies (k w : Nat) (f : Weave → Weave) : (s.reweave k w f).dies = s.dies := by simp [State.reweave]
@[simp] theorem State.reweave_bays (k w : Nat) (f : Weave → Weave) : (s.reweave k w f).bays = s.bays := by simp [State.reweave]
@[simp] theorem State.reweave_queues (k w : Nat) (f : Weave → Weave) : (s.reweave k w f).queues = s.queues := by simp [State.reweave]
@[simp] theorem State.reweave_launches (k w : Nat) (f : Weave → Weave) : (s.reweave k w f).launches = s.launches := by simp [State.reweave]
@[simp] theorem State.reweave_tasks (k w : Nat) (f : Weave → Weave) : (s.reweave k w f).tasks = s.tasks := by simp [State.reweave]
@[simp] theorem State.reweave_bents (k w : Nat) (f : Weave → Weave) : (s.reweave k w f).bents = s.bents := by simp [State.reweave]
@[simp] theorem State.reweave_pairs (k w : Nat) (f : Weave → Weave) : (s.reweave k w f).pairs = s.pairs := by simp [State.reweave]
@[simp] theorem State.reweave_stcmds (k w : Nat) (f : Weave → Weave) : (s.reweave k w f).stcmds = s.stcmds := by simp [State.reweave]
@[simp] theorem State.reweave_uids (k w : Nat) (f : Weave → Weave) : (s.reweave k w f).uids = s.uids := by simp [State.reweave]
@[simp] theorem State.reweave_agenda (k w : Nat) (f : Weave → Weave) : (s.reweave k w f).agenda = s.agenda := by simp [State.reweave]
@[simp] theorem State.reweave_cur (k w : Nat) (f : Weave → Weave) : (s.reweave k w f).cur = s.cur := by simp [State.reweave]
@[simp] theorem State.reweave_oracle (k w : Nat) (f : Weave → Weave) : (s.reweave k w f).oracle = s.oracle := by simp [State.reweave]
@[simp] theorem State.reweave_fresh (k w : Nat) (f : Weave → Weave) : (s.reweave k w f).fresh = s.fresh := by simp [State.reweave]
@[simp] theorem State.reweave_past (k w : Nat) (f : Weave → Weave) : (s.reweave k w f).past = s.past := by simp [State.reweave]

@[simp] theorem State.onGroup_group_same (k : Nat) (f : Group → Group) : (s.onGroup k f).group k = (s.group k).map f := by
  unfold State.onGroup
  split
  · next h => simp [State.group] at *; simp [h]
  · next h => simp [h]

theorem State.onGroup_group_other {k j : Nat} (f : Group → Group) (h : j ≠ k) : (s.onGroup k f).group j = s.group j := by
  unfold State.onGroup
  split
  · exact tfind_tins_other _ _ h
  · rfl

@[simp] theorem Group.setWeave_weave_same (g : Group) (w : Nat) (v : Weave) : (g.setWeave w v).weave w = v := by
  simp [Group.setWeave, Group.weave]

theorem Group.setWeave_weave_other (g : Group) {w i : Nat} (v : Weave) (h : i ≠ w) :
    (g.setWeave w v).weave i = g.weave i := tget_tins_other _ _ _ h

@[simp] theorem Weave.setLane_lane_same (v : Weave) (l : Nat) (x : Lane) : (v.setLane l x).lane l = x := by
  simp [Weave.setLane, Weave.lane]

theorem Weave.setLane_lane_other (v : Weave) {l i : Nat} (x : Lane) (h : i ≠ l) : (v.setLane l x).lane i = v.lane i :=
  tget_tput_other _ _ _ h

@[simp] theorem State.onWeave_group_same (k w : Nat) (f : Weave → Weave) :
    (s.onWeave k w f).group k = (s.group k).map fun g => g.setWeave w (f (g.weave w)) := by
  simp [State.onWeave]

theorem State.onWeave_group_other {k j : Nat} (w : Nat) (f : Weave → Weave) (h : j ≠ k) :
    (s.onWeave k w f).group j = s.group j := s.onGroup_group_other _ h

@[simp] theorem State.onLane_group_same (k w l : Nat) (f : Lane → Lane) :
    (s.onLane k w l f).group k = (s.group k).map fun g => g.setWeave w ((g.weave w).setLane l (f ((g.weave w).lane l))) := by
  simp [State.onLane]

theorem State.onLane_group_other {k j : Nat} (w l : Nat) (f : Lane → Lane) (h : j ≠ k) :
    (s.onLane k w l f).group j = s.group j := s.onGroup_group_other _ h

theorem Weave.onFibre_fibre_same (v : Weave) (i : Nat) (f : Fibre → Fibre) :
    (v.onFibre i f).fibre i = (v.fibre i).map fun x => { f x with id := i } := by
  simp only [Weave.fibre, Weave.onFibre]
  induction v.fibres with
  | nil => rfl
  | cons x r ih =>
    by_cases h : x.id = i
    · simp [changeFibre, h]
    · rw [changeFibre, if_neg (by simpa using h), List.find?_cons_of_neg (by simpa using h),
        List.find?_cons_of_neg (by simpa using h), ih]

theorem Weave.onFibre_fibre_other (v : Weave) {i j : Nat} (f : Fibre → Fibre) (h : j ≠ i) :
    (v.onFibre i f).fibre j = v.fibre j := by
  simp only [Weave.fibre, Weave.onFibre]
  induction v.fibres with
  | nil => rfl
  | cons x r ih =>
    by_cases e : x.id = i
    · rw [changeFibre, if_pos (by simpa using e), List.find?_cons_of_neg (by simpa using Ne.symm h),
        List.find?_cons_of_neg (by simpa [e] using Ne.symm h)]
    · rw [changeFibre, if_neg (by simpa using e)]
      by_cases e2 : x.id = j
      · rw [List.find?_cons_of_pos (by simpa using e2), List.find?_cons_of_pos (by simpa using e2)]
      · rw [List.find?_cons_of_neg (by simpa using e2), List.find?_cons_of_neg (by simpa using e2), ih]

@[simp] theorem State.setBay_bayAt_same (k : Nat) (b : Bay) : (s.setBay k b).bayAt k = b := by
  simp [State.setBay, State.bayAt]

theorem State.setBay_bayAt_other {k j : Nat} (b : Bay) (h : j ≠ k) : (s.setBay k b).bayAt j = s.bayAt j :=
  tget_tput_other _ _ _ h

@[simp] theorem State.setDie_die_same (k : Nat) (d : Die) : (s.setDie k d).die k = d := by
  simp [State.setDie, State.die]

theorem State.setDie_die_other {k j : Nat} (d : Die) (h : j ≠ k) : (s.setDie k d).die j = s.die j :=
  tget_tput_other _ _ _ h

@[simp] theorem State.setCore_coreAt_same (k : Nat) (c : Core) : (s.setCore k c).coreAt k = c := by
  simp [State.setCore, State.coreAt]

theorem State.setCore_coreAt_other {k j : Nat} (c : Core) (h : j ≠ k) : (s.setCore k c).coreAt j = s.coreAt j :=
  tget_tput_other _ _ _ h

@[simp] theorem State.onBent_bent_same (k : Nat) (f : Bent → Bent) : (s.onBent k f).bent k = (s.bent k).map f := by
  simp [State.onBent, State.bent]

theorem State.onBent_bent_other {k j : Nat} (f : Bent → Bent) (h : j ≠ k) : (s.onBent k f).bent j = s.bent j :=
  tfind_tmod_other _ _ h

@[simp] theorem Lane.setG_gAt_same (x : Lane) (i : Nat) (v : Word) : (x.setG i v).gAt i = v := by
  simp [Lane.setG, Lane.gAt]

theorem Lane.setG_gAt_other (x : Lane) {i j : Nat} (v : Word) (h : j ≠ i) : (x.setG i v).gAt j = x.gAt j :=
  tget_tput_other _ _ _ h

@[simp] theorem Group.setK_kAt_same (g : Group) (i : Nat) (v : Word) : (g.setK i v).kAt i = v := by
  simp [Group.setK, Group.kAt]

theorem Group.setK_kAt_other (g : Group) {i j : Nat} (v : Word) (h : j ≠ i) : (g.setK i v).kAt j = g.kAt j :=
  tget_tput_other _ _ _ h

@[simp] theorem Group.setA_aAt_same (g : Group) (i : Nat) (v : DWord) : (g.setA i v).aAt i = v := by
  simp [Group.setA, Group.aAt]

theorem Group.setA_aAt_other (g : Group) {i j : Nat} (v : DWord) (h : j ≠ i) : (g.setA i v).aAt j = g.aAt j :=
  tget_tput_other _ _ _ h

/-! A run whose open choices are all taken keeps no record of the memory order (log entry 52). -/

@[simp] theorem State.note_none (e : Ev) (h : s.oracle = []) : s.note e = s := by simp [State.note, h]

@[simp] theorem State.edge_none (k : Nat) (pubs : List Nat) (src dst : List Party) (h : s.oracle = []) :
    s.edge k pubs src dst = s := by simp [State.edge, h]

@[simp] theorem State.fence_none (a : Actor) (k : Nat) (h : s.oracle = []) : s.fence a k = s := by simp [State.fence, h]

@[simp] theorem State.recorded_none (a : Actor) (k : Nat) (r : Bool) (cells : List (ByteAt × Byte)) (h : s.oracle = []) :
    s.recorded a k r cells = s.past := by simp [State.recorded, h]

@[simp] theorem State.nextPub_none (h : s.oracle = []) : s.nextPub = [] := by simp [State.nextPub, h]


end Sys2Proof.Machine
end

