-- ==== Sys2Proof/Laws/Issue.lean ====
section
/-! SUPPORT. What the issue of an instruction does, once for all of them: the passing checks, the writes of registers,
and the end of an instruction that goes on. -/
namespace Sys2Proof.Machine
open Sys2Proof

/-- Every instruction with an issuing fibre gives a next state. -/
theorem issue_next (m : Major) (o : Op) (s : State) (k : Ctx → Ex Unit) {c : Ctx} (h : ctxOf m o s = some c) :
    issue m o s k = .next (if c.scoreboard then { s with cur := none } else ended (k c { s with cur := none })) := by
  simp [issue, h]

theorem issue_free (m : Major) (o : Op) (s : State) (k : Ctx → Ex Unit) {c : Ctx} (h : Issues m o s c) :
    issue m o s k = .next (ended (k c { s with cur := none })) := by
  rw [issue_next m o s k h.picked, h.board]; rfl

theorem issue_done {m : Major} {o : Op} {s : State} {k : Ctx → Ex Unit} {c : Ctx} {t : State} (h : Issues m o s c)
    (e : k c { s with cur := none } = .ok ((), t)) : issue m o s k = .next t := by
  rw [issue_free m o s k h, e]; rfl

/-- What a context says about its state. -/
theorem ctxOf_facts {m : Major} {o : Op} {s : State} {c : Ctx} (h : ctxOf m o s = some c) :
    s.cur = some c.r ∧ s.group c.r.gid = some c.g ∧ c.v = c.g.weave c.r.weave ∧ c.v.fibre c.r.fid = some c.f ∧
      c.m = m ∧ c.o = o ∧ c.s0 = s ∧ c.bent = c.g.bent ∧ c.len = o.bytes := by
  unfold ctxOf at h
  split at h
  · cases h
  · next r hr =>
    split at h
    · cases h
    · next g hg =>
      split at h
      · cases h
      · next f hf => cases h; exact ⟨hr, hg, rfl, hf, rfl, rfl, rfl, rfl, rfl⟩

/-! The steps of an instruction, in the monad. -/

variable {c : Ctx}

theorem ex_bind {α β : Type} {x : Ex α} {f : α → Ex β} {s t : State} {a : α} (h : x s = .ok (a, t)) :
    (x >>= f) s = f a t := by
  show Except.bind (x s) _ = _
  rw [h]; rfl

theorem ex_pure {α : Type} (a : α) (s : State) : (pure a : Ex α) s = .ok (a, s) := rfl

theorem ex_modify (f : State → State) (s : State) : (modify f : Ex Unit) s = .ok ((), f s) := rfl

theorem ex_set (t s : State) : (set t : Ex Unit) s = .ok ((), t) := rfl

theorem ex_get (s : State) : (get : Ex State) s = .ok (s, s) := rfl

theorem check_ok {own : List Nat} (h : c.each.flatMap (slotRefusals c) = []) (ho : own = []) (s : State) :
    c.check own s = .ok ((), s) := by
  subst ho
  simp [Ctx.check, h, Ctx.refuse, lowestCause, ex_pure]

theorem aligned_ok (s : State) : c.aligned [] s = .ok ((), s) := rfl

theorem ex_forM_modify {α : Type} (l : List α) (f : α → State → State) (s : State) :
    (l.forM fun a => (modify (f a) : Ex Unit)) s = .ok ((), l.foldl (fun s a => f a s) s) := by
  induction l generalizing s with
  | nil => rfl
  | cons a r ih =>
    show ((modify (f a) : Ex Unit) >>= fun _ => r.forM fun a => (modify (f a) : Ex Unit)) s = _
    rw [ex_bind (ex_modify (f a) s), ih]; rfl

theorem ex_mapM_pure {α β : Type} (l : List α) (body : α → Ex β) (f : α → State → State) (g : α → β)
    (h : ∀ a ∈ l, ∀ s, body a s = .ok (g a, f a s)) (s : State) :
    (l.mapM body) s = .ok (l.map g, l.foldl (fun s a => f a s) s) := by
  induction l generalizing s with
  | nil => rfl
  | cons a r ih =>
    rw [List.mapM_cons, ex_bind (h a (by simp) s), ex_bind (ih (fun b hb => h b (by simp [hb])) (f a s)), ex_pure]
    rfl

theorem usesIn_nil (hu : c.uses = []) (l : Nat) : c.usesIn l = [] := by
  unfold Ctx.usesIn
  rw [hu]
  split <;> rfl

/-- What the lanes of an instruction without streams hold once its streams are made ready. -/
def Ctx.plainLanes (c : Ctx) : List LaneIn := c.doers.map fun l => { lane := l, vals := c.regVals l, q := (c.lane l).q }

/-- The lanes of an instruction without streams have nothing to wait for. -/
theorem readied_plain (hu : c.uses = []) (later : Bool) (s : State) :
    c.readied later s = { st := s, ins := c.plainLanes } := by
  have hall : ∀ (ls : List Nat) (g : Gather), ls.foldl (c.readyLane later) g =
      { g with ins := g.ins ++ ls.map fun l => { lane := l, vals := c.regVals l, q := (c.lane l).q } } := by
    intro ls
    induction ls with
    | nil => intro g; simp
    | cons l r ih => intro g; rw [List.foldl_cons, ih]; simp [Ctx.readyLane, usesIn_nil hu]
  rw [Ctx.readied, hall]
  rfl

/-- Without streams, and where nothing else is misaligned, the lanes are ready. -/
theorem readyWith_plain (hu : c.uses = []) (later : Bool) (more : Gather → List (Nat × DWord × Nat)) (s : State)
    (hm : more { st := s, ins := c.plainLanes } = []) :
    c.readyWith later more s = .ok ({ st := s, ins := c.plainLanes }, s) := by
  have hal : c.doers.flatMap c.streamAlign = [] := by
    rw [List.flatMap_eq_nil_iff]
    intro l _
    simp [Ctx.streamAlign, usesIn_nil hu]
  unfold Ctx.readyWith
  rw [ex_bind (ex_get s), readied_plain hu, hal, hm]
  rfl

/-- The lanes of an instruction without streams or a memory operand, made ready, as what it has gathered. -/
theorem ready_none (hu : c.uses = []) (later : Bool) (s : State) :
    c.ready later none s = .ok ({ st := s, ins := c.plainLanes }, s) :=
  readyWith_plain hu later (fun _ => []) s rfl

/-- The lanes of an instruction without streams or a memory operand, made ready. -/
theorem ready_plain (hu : c.uses = []) (later : Bool) (s : State) :
    c.gather later none s =
      .ok ((c.plainLanes, []), s) := by
  unfold Ctx.gather
  rw [ex_bind (ready_none hu later s)]
  rfl

/-- The lanes of an instruction without streams, made ready with a memory operand that is aligned in each of them. -/
theorem ready_mem (hu : c.uses = []) (later : Bool) (u : MemUse)
    (ha : ∀ l ∈ c.doers, ∀ ea, u.ea l (c.regVals l) = some ea → ea.toNat % u.align = 0) (s : State) :
    c.ready later (some u) s =
      .ok (c.plainLanes.foldl (c.readyMem u) { st := s }, s) := by
  have hm : c.memAlign u { st := s, ins := c.plainLanes } = [] := by
    unfold Ctx.memAlign
    rw [List.filterMap_eq_nil_iff]
    intro l hl
    have hv : ∀ x, (Gather.mk s [] c.plainLanes [] [] none).valsIn l u.slots = some x → x = c.regVals l := by
      intro x hx
      simp only [Gather.valsIn, Ctx.plainLanes, List.find?_nil] at hx
      split at hx
      · rename_i i hi
        have hlane : i.lane = l := by simpa using List.find?_some hi
        obtain ⟨k, -, rfl⟩ := List.mem_map.mp (List.mem_of_find?_eq_some hi)
        cases hx; dsimp only at hlane; rw [hlane]
      · cases hx
    split
    · rename_i ea he
      obtain ⟨x, hx, hea⟩ := Option.bind_eq_some_iff.mp he
      rw [hv x hx] at hea
      simp [ha l hl ea hea]
    · rfl
  unfold Ctx.ready
  dsimp only
  rw [ex_bind (readyWith_plain hu later (c.memAlign u) s hm), ex_pure]
  have hl : c.lateRange u { st := s, ins := c.plainLanes } = none := rfl
  rw [hl]
  have hf : ∀ x : Option Bad, firstBad x none = x := fun x => by cases x <;> rfl
  rw [hf]

/-! The end of an instruction that goes on. -/

/-- The issuing weave's fibres are as they were at issue, and no gauge of the core watches. -/
structure Kept (c : Ctx) (u : State) : Prop where
  group  : ∃ h, u.group c.r.gid = some h ∧ (h.weave c.r.weave).fibres = c.v.fibres
  gauges : (u.coreAt (u.coreOf c.r.gid)).gauges = []

theorem changeFibre_length (i : Nat) (f : Fibre → Fibre) (l : List Fibre) : (changeFibre i f l).length = l.length := by
  induction l with
  | nil => rfl
  | cons x r ih =>
    unfold changeFibre
    split
    · rfl
    · simp [ih]

theorem changeFibre_spilled (i : Nat) (g : Fibre) (l : List Fibre) (f : Fibre)
    (h : l.find? (fun x => x.id == i) = some f) (hs : g.slot = f.slot) :
    ((changeFibre i (fun _ => g) l).filter fun x => x.slot.isNone).length = (l.filter fun x => x.slot.isNone).length := by
  induction l with
  | nil => rfl
  | cons x r ih =>
    unfold changeFibre
    by_cases e : x.id = i
    · rw [List.find?_cons_of_pos (by simpa using e)] at h
      cases h
      simp [e, List.filter_cons, hs]
      split <;> simp
    · rw [List.find?_cons_of_neg (by simpa using e)] at h
      rw [if_neg (by simpa using e), List.filter_cons, List.filter_cons]
      split <;> simp [ih h]

theorem mem_changeFibre {i : Nat} {g x : Fibre} {l : List Fibre} (h : x ∈ changeFibre i (fun _ => g) l) :
    x ∈ l ∨ x = { g with id := i } := by
  induction l with
  | nil => cases h
  | cons y r ih =>
    unfold changeFibre at h
    split at h
    · rcases List.mem_cons.1 h with e | e
      · exact .inr e
      · exact .inl (List.mem_cons_of_mem _ e)
    · rcases List.mem_cons.1 h with e | e
      · exact .inl (e ▸ List.mem_cons_self ..)
      · rcases ih e with e | e
        · exact .inl (List.mem_cons_of_mem _ e)
        · exact .inr e

theorem Weave.regroup_stay (v : Weave) (f : Fibre) {stays : DWord} (fall : DWord) (h : stays ≠ 0) (hh : f.halts = []) :
    v.regroup f stays fall [] = v.onFibre f.id fun _ =>
      { f.settled with st := .ready, waitCount := 0, aged := false, pc := fall, lanes := stays, halts := [] } := by
  have h1 : (stays != 0) = true := by simpa using h
  simp only [Weave.regroup, h1, if_true, hh, List.filter_nil, List.map_nil]
  rfl

theorem reweave_calm (u : State) (k w : Nat) (f : Weave → Weave) {h : Group} (hg : u.group k = some h)
    (hl : (f (h.weave w)).fibres.length = (h.weave w).fibres.length)
    (hs : (f (h.weave w)).spilled = (h.weave w).spilled) : u.reweave k w f = u.onWeave k w fun v => (f v).reage := by
  simp [State.reweave, hg, hl, hs, State.countCore]

theorem finish_ok {m : Major} {o : Op} {s u : State} (hi : Issues m o s c) (hk : Kept c u) (evs : List LaneEvent) :
    c.finish [] evs u = .ok ((), c.movedOn u) := by
  obtain ⟨⟨h, hg, hf⟩, hgauge⟩ := hk
  obtain ⟨-, -, -, hfib, -⟩ := ctxOf_facts hi.picked
  have hid : c.f.id = c.r.fid := by
    have := List.find?_some hfib; simpa using this
  have hw : c.watch (c.waiting []) evs u = .ok ((), u) := by
    unfold Ctx.watch
    rw [ex_modify]
    simp [State.gaugeEvents, hgauge]
  have hfind : (h.weave c.r.weave).fibre c.r.fid = some c.f := by
    rw [Weave.fibre, hf]; exact hfib
  have hcalm : ∀ f ∈ (h.weave c.r.weave).fibres, f.halts = [] := by rw [hf]; exact hi.calm
  have hf0 : c.f.halts = [] := hi.calm c.f (List.mem_of_find?_eq_some hfib)
  have hre : ∀ f : Fibre, f = { c.f with step := if c.f.step = 0 then 0 else 2 } →
      (h.weave c.r.weave).regroup f c.f.lanes c.fall [] =
        (h.weave c.r.weave).onFibre c.r.fid fun _ => c.moveOn c.f := by
    intro f e
    rw [Weave.regroup_stay (h.weave c.r.weave) f c.fall hi.lanes (by rw [e]; exact hf0), e]
    show (h.weave c.r.weave).onFibre c.f.id _ = _
    rw [hid]
    rfl
  unfold Ctx.finish
  rw [ex_bind hw]
  simp only [List.isEmpty_nil, if_true, Ctx.regroup]
  rw [ex_modify]
  have hwv : (u.reweave c.r.gid c.r.weave fun v => match v.fibre c.r.fid with
      | some f => v.regroup { f with step := if f.step = 0 then 0 else 2 } c.f.lanes c.fall []
      | none => v) = c.movedOn u := by
    have hval : (match (h.weave c.r.weave).fibre c.r.fid with
      | some f => (h.weave c.r.weave).regroup { f with step := if f.step = 0 then 0 else 2 } c.f.lanes c.fall []
      | none => h.weave c.r.weave) = (h.weave c.r.weave).onFibre c.r.fid fun _ => c.moveOn c.f := by
      rw [hfind]; exact hre _ rfl
    rw [reweave_calm u _ _ _ hg]
    · simp only [Ctx.movedOn, State.onWeave, State.onGroup, hg, hval]
    · simp only [hval]; exact changeFibre_length _ _ _
    · simp only [hval]
      exact changeFibre_spilled _ _ _ _ hfind rfl
  refine (congrArg (fun x => (Except.ok ((), State.settleHalts x c.r.gid c.r.weave) : Except State (Unit × State)))
    hwv).trans ?_
  congr 2
  unfold State.settleHalts
  have hg2 : (c.movedOn u).group c.r.gid =
      some (h.setWeave c.r.weave ((h.weave c.r.weave).onFibre c.r.fid fun _ => c.moveOn c.f).reage) := by
    simp [Ctx.movedOn, hg]
  rw [hg2]
  dsimp only
  have hnone : ((h.setWeave c.r.weave ((h.weave c.r.weave).onFibre c.r.fid fun _ => c.moveOn c.f).reage).weave
      c.r.weave).fibres.flatMap (fun f => f.halts.filter fun h => f.between || h.2.2 != 1) = [] := by
    rw [Group.setWeave_weave_same, List.flatMap_eq_nil_iff]
    intro f hm
    have : f.halts = [] := by
      obtain ⟨x, hx, rfl⟩ := List.mem_map.1 hm
      have : x.halts = [] := by
        rcases mem_changeFibre hx with e | e
        · exact hcalm x e
        · rw [e]; rfl
      split <;> exact this
    simp [this]
  rw [hnone]
  rfl

end Sys2Proof.Machine
end

