-- ==== Sys2Proof/Laws/Compute.lean ====
section
/-! SUPPORT. What an instruction that computes one result a lane does (R131): which registers it writes, and that nothing
else changes. -/
namespace Sys2Proof.Machine
open Sys2Proof

/-- `u` is `s` with lanes `L` in the issuing weave and the issuing group `K` but for its weaves. -/
structure Track (c : Ctx) (s u : State) (L : Nat → Lane) (K : Group) : Prop where
  rest   : u = { s with cur := none, groups := u.groups }
  others : ∀ k, k ≠ c.r.gid → u.group k = s.group k
  group  : ∃ h, u.group c.r.gid = some h ∧ { h with weaves := c.g.weaves } = K ∧
    (∀ w, w ≠ c.r.weave → h.weave w = c.g.weave w) ∧ { h.weave c.r.weave with lanes := c.v.lanes } = c.v ∧
    ∀ l, (h.weave c.r.weave).lane l = L l

variable {c : Ctx} {s u : State} {L : Nat → Lane} {K : Group}

theorem Track.start {m : Major} {o : Op} (h : ctxOf m o s = some c) :
    Track c s { s with cur := none } c.lane c.g := by
  obtain ⟨-, hg, hv, -⟩ := ctxOf_facts h
  refine ⟨rfl, fun _ _ => rfl, c.g, hg, rfl, fun _ _ => rfl, ?_, fun l => ?_⟩
  · rw [← hv]
  · rw [← hv]; rfl

theorem Track.onLane (t : Track c s u L K) (l : Nat) (f : Lane → Lane) :
    Track c s (u.onLane c.r.gid c.r.weave l f) (fun i => if i = l then f (L l) else L i) K := by
  obtain ⟨hr, ho, h, hg, hk, hw, hv, hl⟩ := t
  refine ⟨?_, ?_, h.setWeave c.r.weave ((h.weave c.r.weave).setLane l (f ((h.weave c.r.weave).lane l))), ?_, hk, ?_, ?_, ?_⟩
  · have : (u.onLane c.r.gid c.r.weave l f) = { u with groups := (u.onLane c.r.gid c.r.weave l f).groups } := by
      simp only [State.onLane, State.onWeave, State.onGroup]; split <;> rfl
    rw [this, hr]
  · intro k hk'
    rw [State.onLane_group_other _ _ _ _ hk', ho k hk']
  · simp [hg]
  · intro w hw'
    rw [Group.setWeave_weave_other _ _ hw']
    exact hw w hw'
  · rw [Group.setWeave_weave_same]
    exact hv
  · intro i
    rw [Group.setWeave_weave_same]
    by_cases e : i = l
    · subst e; simp [hl]
    · rw [Weave.setLane_lane_other _ _ e, hl]; simp [e]

theorem Track.onGroup (t : Track c s u L K) (f : Group → Group)
    (h1 : ∀ g, (f g).weaves = g.weaves) (h2 : ∀ g w, f { g with weaves := w } = { f g with weaves := w }) :
    Track c s (u.onGroup c.r.gid f) L (f K) := by
  obtain ⟨hr, ho, h, hg, hk, hw, hv, hl⟩ := t
  have hwv : ∀ w, (f h).weave w = h.weave w := by intro w; simp [Group.weave, h1]
  refine ⟨?_, ?_, f h, ?_, ?_, ?_, ?_, ?_⟩
  · have : (u.onGroup c.r.gid f) = { u with groups := (u.onGroup c.r.gid f).groups } := by
      simp only [State.onGroup]; split <;> rfl
    rw [this, hr]
  · intro k hk'
    rw [State.onGroup_group_other _ _ hk', ho k hk']
  · simp [hg]
  · rw [← hk]; exact (h2 h c.g.weaves).symm
  · intro w hw'; rw [hwv]; exact hw w hw'
  · rw [hwv]; exact hv
  · intro l; rw [hwv]; exact hl l

/-- One change in each of some distinct lanes. -/
theorem Track.lanes (t : Track c s u L K) (ls : List Nat) (hd : ls.Nodup) (f : Lane → Lane) :
    Track c s (ls.foldl (fun s l => s.onLane c.r.gid c.r.weave l f) u) (fun i => if i ∈ ls then f (L i) else L i) K := by
  induction ls generalizing u L with
  | nil => simpa using t
  | cons l r ih =>
    rw [List.nodup_cons] at hd
    have := ih (t.onLane l f) hd.2
    rw [List.foldl_cons]
    have e : (fun i => if i ∈ r then f (if i = l then f (L l) else L i) else if i = l then f (L l) else L i) =
        fun i => if i ∈ l :: r then f (L i) else L i := by
      funext i
      by_cases e : i = l
      · subst e; simp [hd.1]
      · simp [e]
    exact e ▸ this

/-- What `Ctx.put` writes. -/
theorem Track.put (t : Track c s u L K) (l : Nat) (hd : (c.receivers l).Nodup) (wide : Bool) (x : Opnd) (v : DWord) :
    ∃ u', c.put l wide x v u = .ok ((), u') ∧
      Track c s u' (fun i => if i ∈ c.receivers l then (L i).given c.f.wb x wide v else L i) (K.given x wide v) := by
  have idL : ∀ f : Lane → Lane, (∀ y, f y = y) → (fun i => if i ∈ c.receivers l then f (L i) else L i) = L := by
    intro f hf; funext i; simp [hf]
  cases x with
  | g i =>
    refine ⟨_, ex_forM_modify _ (fun k s => s.onLane c.r.gid c.r.weave k _) u, ?_⟩
    exact t.lanes _ hd fun y => y.given c.f.wb (.g i) wide v
  | p i =>
    refine ⟨_, ex_forM_modify _ (fun k s => s.onLane c.r.gid c.r.weave k _) u, ?_⟩
    exact t.lanes _ hd fun y => y.given c.f.wb (.p i) wide v
  | k i =>
    refine ⟨_, ex_modify _ u, ?_⟩
    have := t.onGroup (fun g => g.given (.k i) wide v)
      (fun g => by simp only [Group.given]; split <;> rfl) (fun g w => by simp only [Group.given]; split <;> rfl)
    rwa [idL (fun y => y.given c.f.wb (.k i) wide v) (fun _ => rfl)]
  | a i =>
    refine ⟨_, ex_modify _ u, ?_⟩
    have := t.onGroup (fun g => g.given (.a i) wide v) (fun g => rfl) (fun g w => rfl)
    rwa [idL (fun y => y.given c.f.wb (.a i) wide v) (fun _ => rfl)]
  | x i => exact ⟨u, rfl, by rwa [idL (fun y => y.given c.f.wb (.x i) wide v) (fun _ => rfl)]⟩
  | q i => exact ⟨u, rfl, by rwa [idL (fun y => y.given c.f.wb (.q i) wide v) (fun _ => rfl)]⟩
  | imm => exact ⟨u, rfl, by rwa [idL (fun y => y.given c.f.wb .imm wide v) (fun _ => rfl)]⟩
  | none => exact ⟨u, rfl, by rwa [idL (fun y => y.given c.f.wb .none wide v) (fun _ => rfl)]⟩

theorem Track.kept {m : Major} {o : Op} (hi : Issues m o s c) (t : Track c s u L K) (hK : K.core = c.g.core)
    (hb : K.bent = c.g.bent) : Kept c u := by
  obtain ⟨hr, ho, h, hg, hk, hw, hv, hl⟩ := t
  obtain ⟨-, hg0, -⟩ := ctxOf_facts hi.picked
  refine ⟨⟨h, hg, ?_⟩, ?_⟩
  · have := congrArg Weave.fibres hv
    exact this
  · have hcores : u.cores = s.cores := by rw [hr]
    have hbents : u.bents = s.bents := by rw [hr]
    have hcore : h.core = c.g.core := by rw [← hK, ← hk]
    have hbent : h.bent = c.g.bent := by rw [← hb, ← hk]
    have := hi.gauges
    simp only [State.coreAt, State.coreOf, State.bayOf, State.bentOf, State.bent, hg, hg0, hcores, hbents, hcore, hbent,
      Option.bind_some] at this ⊢
    exact this

theorem Group.given_core (g : Group) (d : Opnd) (wide : Bool) (v : DWord) : (g.given d wide v).core = g.core := by
  unfold Group.given
  split
  · split <;> rfl
  · rfl
  · rfl

theorem Group.given_bent (g : Group) (d : Opnd) (wide : Bool) (v : DWord) : (g.given d wide v).bent = g.bent := by
  unfold Group.given
  split
  · split <;> rfl
  · rfl
  · rfl

theorem lanesOf_nodup (m : DWord) : (lanesOf m).Nodup := List.Nodup.filter _ List.nodup_range

theorem mem_lanesOf {m : DWord} {l : Nat} : l ∈ lanesOf m ↔ l < 64 ∧ m.getLsbD l = true := by
  simp [lanesOf, List.mem_filter]

theorem receivers_nodup (l : Nat) : (c.receivers l).Nodup := by
  unfold Ctx.receivers
  split
  · exact lanesOf_nodup _
  · simp

/-- A lane after one of the lanes that compute has written (R41, R89, R117). -/
def Ctx.stepLane (c : Ctx) (val : Nat → Vals → DWord × Flags) (L : Nat → Lane) (l i : Nat) : Lane :=
  let r := val l (c.regVals l)
  let x := if i ∈ c.receivers l then (L i).given c.f.wb c.o.d (wideSlot c.slots.1) r.1 else L i
  if i = l then { x with sticky := x.sticky ||| r.2 } else x

theorem compute_lane (hu : c.uses = []) (t : Track c s u L K) (val : Nat → Vals → DWord × Flags) (l : Nat) :
    ∃ u', (do
        let e ← c.result { lane := l, vals := c.regVals l, q := (c.lane l).q } (val l (c.regVals l)).1
        c.sticky l (val l (c.regVals l)).2
        pure e : Ex (List LaneEvent)) u = .ok ([], u') ∧
      Track c s u' (c.stepLane val L l) (K.given c.o.d (wideSlot c.slots.1) (val l (c.regVals l)).1) := by
  obtain ⟨u1, h1, t1⟩ := t.put l (receivers_nodup l) (wideSlot c.slots.1) c.o.d (val l (c.regVals l)).1
  have hr : c.result { lane := l, vals := c.regVals l, q := (c.lane l).q } (val l (c.regVals l)).1 u = .ok ([], u1) := by
    unfold Ctx.result
    rw [ex_bind h1]
    simp [Ctx.putStream, hu, ex_pure]
  by_cases hz : (val l (c.regVals l)).2 = 0
  · refine ⟨u1, ?_, ?_⟩
    · rw [ex_bind hr]
      simp [Ctx.sticky, hz, ex_pure]
    · convert t1 using 1
      funext i
      simp only [Ctx.stepLane, hz]
      split
      · simp
      · rfl
  · refine ⟨u1.onLane c.r.gid c.r.weave l fun y => { y with sticky := y.sticky ||| (val l (c.regVals l)).2 }, ?_, ?_⟩
    · rw [ex_bind hr]
      simp only [Ctx.sticky, hz, if_false, Ctx.onLane]
      rw [ex_bind (ex_modify _ u1)]
      rfl
    · convert t1.onLane l fun y => { y with sticky := y.sticky ||| (val l (c.regVals l)).2 } using 1
      funext i
      simp only [Ctx.stepLane]
      split
      · next e => subst e; rfl
      · rfl

/-- A lane ready to compute. -/
def Ctx.plainIn (c : Ctx) (l : Nat) : LaneIn := { lane := l, vals := c.regVals l, q := (c.lane l).q }

theorem compute_lanes (hu : c.uses = []) (val : Nat → Vals → DWord × Flags) (body : LaneIn → Ex (List LaneEvent))
    (hb : ∀ (l : Nat) (s u' : State), (do
        let e ← c.result (c.plainIn l) (val l (c.regVals l)).1
        c.sticky l (val l (c.regVals l)).2
        pure e : Ex (List LaneEvent)) s = .ok ([], u') → ∃ e, body (c.plainIn l) s = .ok (e, u'))
    (ds : List Nat) (t : Track c s u L K) :
    ∃ evs u', (ds.map c.plainIn).mapM body u = .ok (evs, u') ∧
      Track c s u' (ds.foldl (c.stepLane val) L)
        (ds.foldl (fun g k => g.given c.o.d (wideSlot c.slots.1) (val k (c.regVals k)).1) K) := by
  induction ds generalizing u L K with
  | nil => exact ⟨[], u, rfl, t⟩
  | cons l r ih =>
    obtain ⟨u1, h1, t1⟩ := compute_lane hu t val l
    obtain ⟨e, he⟩ := hb l u u1 h1
    obtain ⟨evs, u2, h2, t2⟩ := ih t1
    refine ⟨e :: evs, u2, ?_, t2⟩
    rw [List.map_cons, List.mapM_cons, ex_bind he, ex_bind h2]
    rfl

theorem stepLane_all (val : Nat → Vals → DWord × Flags) (i : Nat) :
    c.doers.foldl (c.stepLane val) c.lane i = c.laneAfter val i := by
  unfold Ctx.laneAfter Ctx.doerOf
  by_cases hun : c.o.un = true
  · have hrec : ∀ l, c.receivers l = c.writers := by intro l; simp [Ctx.receivers, hun]
    have hd : c.doers = c.writers.take 1 := by simp [Ctx.doers, hun]
    rw [hd]
    cases hw : c.writers with
    | nil => simp
    | cons a r =>
      simp only [List.take_succ_cons, List.take_zero, List.foldl_cons, List.foldl_nil, hun, if_true, List.headD_cons]
      simp only [Ctx.stepLane, hrec, hw]
      by_cases hm : i ∈ a :: r
      · simp only [hm, if_true]
        by_cases e : a = i
        · subst e; simp
        · simp [e, Ne.symm e]
      · have : i ≠ a := fun e => hm (e ▸ List.mem_cons_self ..)
        simp [hm, this]
  · have hrec : ∀ l, c.receivers l = [l] := by intro l; simp [Ctx.receivers, hun]
    have hd : c.doers = c.writers := by simp [Ctx.doers, hun]
    rw [hd]
    simp only [hun, if_false, Bool.false_eq_true]
    have key : ∀ (ds : List Nat) (L : Nat → Lane), ds.Nodup → ds.foldl (c.stepLane val) L i =
        if i ∈ ds then
          { (L i).given c.f.wb c.o.d (wideSlot c.slots.1) (val i (c.regVals i)).1 with
            sticky := ((L i).given c.f.wb c.o.d (wideSlot c.slots.1) (val i (c.regVals i)).1).sticky |||
              (val i (c.regVals i)).2 }
        else L i := by
      intro ds
      induction ds with
      | nil => intro L _; simp
      | cons l r ih =>
        intro L hn
        rw [List.nodup_cons] at hn
        rw [List.foldl_cons, ih _ hn.2]
        by_cases e : i = l
        · subst e
          simp [hn.1, Ctx.stepLane, hrec]
        · have : c.stepLane val L l i = L i := by simp [Ctx.stepLane, hrec, e]
          simp [this, e]
    rw [key c.writers c.lane (lanesOf_nodup _)]
    simp

/-- What such an instruction does when it issues at once: the result and status `f` gives in each lane, and the fibre at
the next instruction. -/
theorem compute_plain {m : Major} {isFloat : Bool} {own : Ctx → List Nat} {f : Ctx → Nat → Vals → DWord × Flags} {o : Op}
    (hp : Plain m o s c) (ho : own c = []) :
    ∃ u, compute m isFloat own f o s = .next (c.movedOn u) ∧ Wrote c s u (f c) := by
  have hstart := Track.start hp.picked
  obtain ⟨evs, u, hm, t⟩ := compute_lanes hp.streams (f c) (fun i => do
      let i ← c.refresh i
      let (v, fl) := f c i.lane i.vals
      let e ← c.result i v
      c.sticky i.lane fl
      pure (i.evs ++ e ++ (if isFloat then [(i.lane, 4, zext32 (fl.setWidth 32))] else []))) (by
    intro l s u' h
    have hr : c.refresh (c.plainIn l) s = .ok (c.plainIn l, s) := rfl
    rw [ex_bind hr]
    dsimp only [Ctx.plainIn] at h ⊢
    cases h1 : c.result { lane := l, vals := c.regVals l, q := (c.lane l).q } (f c l (c.regVals l)).1 s with
    | error e =>
      exfalso
      have : (c.result { lane := l, vals := c.regVals l, q := (c.lane l).q } (f c l (c.regVals l)).1 >>= fun e => do
        c.sticky l (f c l (c.regVals l)).2
        pure e : Ex (List LaneEvent)) s = .error e := by
        show Except.bind (c.result _ _ s) _ = _
        rw [h1]; rfl
      rw [this] at h; cases h
    | ok p =>
      rw [ex_bind (show c.result _ _ s = .ok (p.1, p.2) from h1)] at h ⊢
      cases h2 : c.sticky l (f c l (c.regVals l)).2 p.2 with
      | error e =>
        exfalso
        have : (c.sticky l (f c l (c.regVals l)).2 >>= fun _ => pure p.1 : Ex (List LaneEvent)) p.2 = .error e := by
          show Except.bind (c.sticky _ _ p.2) _ = _
          rw [h2]; rfl
        rw [this] at h; cases h
      | ok q =>
        rw [ex_bind (show c.sticky _ _ p.2 = .ok (q.1, q.2) from h2)] at h ⊢
        rw [ex_pure] at h ⊢
        have h' := (Prod.mk.injEq .. ▸ Except.ok.inj h : _ ∧ _)
        exact ⟨_, by rw [h'.2]⟩) c.doers hstart
  have hK : (c.doers.foldl (fun g k => g.given c.o.d (wideSlot c.slots.1) (f c k (c.regVals k)).1) c.g).core = c.g.core ∧
      (c.doers.foldl (fun g k => g.given c.o.d (wideSlot c.slots.1) (f c k (c.regVals k)).1) c.g).bent = c.g.bent := by
    generalize c.doers = ds
    generalize hg : c.g = g0
    clear hg
    induction ds generalizing g0 with
    | nil => exact ⟨rfl, rfl⟩
    | cons l r ih =>
      rw [List.foldl_cons]
      obtain ⟨a, b⟩ := ih (g0.given c.o.d (wideSlot c.slots.1) (f c l (c.regVals l)).1)
      exact ⟨a.trans (Group.given_core ..), b.trans (Group.given_bent ..)⟩
  refine ⟨u, ?_, ?_⟩
  · apply issue_done hp.toIssues
    rw [ex_bind (check_ok hp.slots ho _), ex_bind (ready_plain hp.streams true _)]
    show (((c.doers.map c.plainIn).mapM _) >>= fun evs => c.finish [] evs.flatten) _ = _
    rw [ex_bind hm, finish_ok hp.toIssues (t.kept hp.toIssues hK.1 hK.2)]
  · obtain ⟨hr, hoth, h, hg, hk, hw, hv, hl⟩ := t
    refine ⟨hr, hoth, fun l => ?_, h, hg, hk, hw, hv⟩
    rw [← stepLane_all, ← hl l]
    simp [State.lane, hg]

end Sys2Proof.Machine
end

