-- ==== Sys2Proof/Laws/Dispatch.lean ====
section
/-! SUPPORT. The meaning that `exec` gives each constructor. -/
namespace Sys2Proof.Machine
open Sys2Proof

@[simp] theorem exec_nop {o} {s} : exec (.nop o) s = execNop o s := rfl
@[simp] theorem exec_nopExt {o} {s} : exec (.nopExt o) s = execNopExt o s := rfl
@[simp] theorem exec_bra {o} {s} : exec (.bra o) s = execBra o s := rfl
@[simp] theorem exec_braExt {o} {s} : exec (.braExt o) s = execBraExt o s := rfl
@[simp] theorem exec_call {o} {s} : exec (.call o) s = execCall o s := rfl
@[simp] theorem exec_callExt {o} {s} : exec (.callExt o) s = execCallExt o s := rfl
@[simp] theorem exec_ret {o} {s} : exec (.ret o) s = execRet o s := rfl
@[simp] theorem exec_retExt {o} {s} : exec (.retExt o) s = execRetExt o s := rfl
@[simp] theorem exec_quit {o} {s} : exec (.quit o) s = execQuit o s := rfl
@[simp] theorem exec_quitExt {o} {s} : exec (.quitExt o) s = execQuitExt o s := rfl
@[simp] theorem exec_exit {o} {s} : exec (.exit o) s = execExit o s := rfl
@[simp] theorem exec_exitExt {o} {s} : exec (.exitExt o) s = execExitExt o s := rfl
@[simp] theorem exec_bar {o} {s} : exec (.bar o) s = execBar o s := rfl
@[simp] theorem exec_barExt {o} {s} : exec (.barExt o) s = execBarExt o s := rfl
@[simp] theorem exec_yield {o} {s} : exec (.yield o) s = execYield o s := rfl
@[simp] theorem exec_yieldExt {o} {s} : exec (.yieldExt o) s = execYieldExt o s := rfl
@[simp] theorem exec_iadd {o} {s} : exec (.iadd o) s = execIadd o s := rfl
@[simp] theorem exec_iaddExt {o} {s} : exec (.iaddExt o) s = execIaddExt o s := rfl
@[simp] theorem exec_isub {o} {s} : exec (.isub o) s = execIsub o s := rfl
@[simp] theorem exec_isubExt {o} {s} : exec (.isubExt o) s = execIsubExt o s := rfl
@[simp] theorem exec_imul {o} {s} : exec (.imul o) s = execImul o s := rfl
@[simp] theorem exec_imulExt {o} {s} : exec (.imulExt o) s = execImulExt o s := rfl
@[simp] theorem exec_imulh {o} {s} : exec (.imulh o) s = execImulh o s := rfl
@[simp] theorem exec_imulhExt {o} {s} : exec (.imulhExt o) s = execImulhExt o s := rfl
@[simp] theorem exec_idiv {o} {s} : exec (.idiv o) s = execIdiv o s := rfl
@[simp] theorem exec_idivExt {o} {s} : exec (.idivExt o) s = execIdivExt o s := rfl
@[simp] theorem exec_irem {o} {s} : exec (.irem o) s = execIrem o s := rfl
@[simp] theorem exec_iremExt {o} {s} : exec (.iremExt o) s = execIremExt o s := rfl
@[simp] theorem exec_imin {o} {s} : exec (.imin o) s = execImin o s := rfl
@[simp] theorem exec_iminExt {o} {s} : exec (.iminExt o) s = execIminExt o s := rfl
@[simp] theorem exec_imax {o} {s} : exec (.imax o) s = execImax o s := rfl
@[simp] theorem exec_imaxExt {o} {s} : exec (.imaxExt o) s = execImaxExt o s := rfl
@[simp] theorem exec_iabs {o} {s} : exec (.iabs o) s = execIabs o s := rfl
@[simp] theorem exec_iabsExt {o} {s} : exec (.iabsExt o) s = execIabsExt o s := rfl
@[simp] theorem exec_and {o} {s} : exec (.and o) s = execAnd o s := rfl
@[simp] theorem exec_andExt {o} {s} : exec (.andExt o) s = execAndExt o s := rfl
@[simp] theorem exec_or {o} {s} : exec (.or o) s = execOr o s := rfl
@[simp] theorem exec_orExt {o} {s} : exec (.orExt o) s = execOrExt o s := rfl
@[simp] theorem exec_xor {o} {s} : exec (.xor o) s = execXor o s := rfl
@[simp] theorem exec_xorExt {o} {s} : exec (.xorExt o) s = execXorExt o s := rfl
@[simp] theorem exec_andn {o} {s} : exec (.andn o) s = execAndn o s := rfl
@[simp] theorem exec_andnExt {o} {s} : exec (.andnExt o) s = execAndnExt o s := rfl
@[simp] theorem exec_shl {o} {s} : exec (.shl o) s = execShl o s := rfl
@[simp] theorem exec_shlExt {o} {s} : exec (.shlExt o) s = execShlExt o s := rfl
@[simp] theorem exec_shr {o} {s} : exec (.shr o) s = execShr o s := rfl
@[simp] theorem exec_shrExt {o} {s} : exec (.shrExt o) s = execShrExt o s := rfl
@[simp] theorem exec_sar {o} {s} : exec (.sar o) s = execSar o s := rfl
@[simp] theorem exec_sarExt {o} {s} : exec (.sarExt o) s = execSarExt o s := rfl
@[simp] theorem exec_rol {o} {s} : exec (.rol o) s = execRol o s := rfl
@[simp] theorem exec_rolExt {o} {s} : exec (.rolExt o) s = execRolExt o s := rfl
@[simp] theorem exec_popc {o} {s} : exec (.popc o) s = execPopc o s := rfl
@[simp] theorem exec_popcExt {o} {s} : exec (.popcExt o) s = execPopcExt o s := rfl
@[simp] theorem exec_clz {o} {s} : exec (.clz o) s = execClz o s := rfl
@[simp] theorem exec_clzExt {o} {s} : exec (.clzExt o) s = execClzExt o s := rfl
@[simp] theorem exec_brev {o} {s} : exec (.brev o) s = execBrev o s := rfl
@[simp] theorem exec_brevExt {o} {s} : exec (.brevExt o) s = execBrevExt o s := rfl
@[simp] theorem exec_bfx {o} {s} : exec (.bfx o) s = execBfx o s := rfl
@[simp] theorem exec_bfxExt {o} {s} : exec (.bfxExt o) s = execBfxExt o s := rfl
@[simp] theorem exec_iset {o} {s} : exec (.iset o) s = execIset o s := rfl
@[simp] theorem exec_isetExt {o} {s} : exec (.isetExt o) s = execIsetExt o s := rfl
@[simp] theorem exec_mov {o} {s} : exec (.mov o) s = execMov o s := rfl
@[simp] theorem exec_movExt {o} {s} : exec (.movExt o) s = execMovExt o s := rfl
@[simp] theorem exec_movi {o} {s} : exec (.movi o) s = execMovi o s := rfl
@[simp] theorem exec_moviExt {o} {s} : exec (.moviExt o) s = execMoviExt o s := rfl
@[simp] theorem exec_plop {o} {s} : exec (.plop o) s = execPlop o s := rfl
@[simp] theorem exec_plopExt {o} {s} : exec (.plopExt o) s = execPlopExt o s := rfl
@[simp] theorem exec_mfs {o} {s} : exec (.mfs o) s = execMfs o s := rfl
@[simp] theorem exec_mfsExt {o} {s} : exec (.mfsExt o) s = execMfsExt o s := rfl
@[simp] theorem exec_iaddw {o} {s} : exec (.iaddw o) s = execIaddw o s := rfl
@[simp] theorem exec_iaddwExt {o} {s} : exec (.iaddwExt o) s = execIaddwExt o s := rfl
@[simp] theorem exec_fadd {o} {s} : exec (.fadd o) s = execFadd o s := rfl
@[simp] theorem exec_faddExt {o} {s} : exec (.faddExt o) s = execFaddExt o s := rfl
@[simp] theorem exec_fsub {o} {s} : exec (.fsub o) s = execFsub o s := rfl
@[simp] theorem exec_fsubExt {o} {s} : exec (.fsubExt o) s = execFsubExt o s := rfl
@[simp] theorem exec_fmul {o} {s} : exec (.fmul o) s = execFmul o s := rfl
@[simp] theorem exec_fmulExt {o} {s} : exec (.fmulExt o) s = execFmulExt o s := rfl
@[simp] theorem exec_fmin {o} {s} : exec (.fmin o) s = execFmin o s := rfl
@[simp] theorem exec_fminExt {o} {s} : exec (.fminExt o) s = execFminExt o s := rfl
@[simp] theorem exec_fmax {o} {s} : exec (.fmax o) s = execFmax o s := rfl
@[simp] theorem exec_fmaxExt {o} {s} : exec (.fmaxExt o) s = execFmaxExt o s := rfl
@[simp] theorem exec_fdiv {o} {s} : exec (.fdiv o) s = execFdiv o s := rfl
@[simp] theorem exec_fdivExt {o} {s} : exec (.fdivExt o) s = execFdivExt o s := rfl
@[simp] theorem exec_fsqrt {o} {s} : exec (.fsqrt o) s = execFsqrt o s := rfl
@[simp] theorem exec_fsqrtExt {o} {s} : exec (.fsqrtExt o) s = execFsqrtExt o s := rfl
@[simp] theorem exec_frcp {o} {s} : exec (.frcp o) s = execFrcp o s := rfl
@[simp] theorem exec_frcpExt {o} {s} : exec (.frcpExt o) s = execFrcpExt o s := rfl
@[simp] theorem exec_frsq {o} {s} : exec (.frsq o) s = execFrsq o s := rfl
@[simp] theorem exec_frsqExt {o} {s} : exec (.frsqExt o) s = execFrsqExt o s := rfl
@[simp] theorem exec_fexp2 {o} {s} : exec (.fexp2 o) s = execFexp2 o s := rfl
@[simp] theorem exec_fexp2Ext {o} {s} : exec (.fexp2Ext o) s = execFexp2Ext o s := rfl
@[simp] theorem exec_flog2 {o} {s} : exec (.flog2 o) s = execFlog2 o s := rfl
@[simp] theorem exec_flog2Ext {o} {s} : exec (.flog2Ext o) s = execFlog2Ext o s := rfl
@[simp] theorem exec_fsin {o} {s} : exec (.fsin o) s = execFsin o s := rfl
@[simp] theorem exec_fsinExt {o} {s} : exec (.fsinExt o) s = execFsinExt o s := rfl
@[simp] theorem exec_fcos {o} {s} : exec (.fcos o) s = execFcos o s := rfl
@[simp] theorem exec_fcosExt {o} {s} : exec (.fcosExt o) s = execFcosExt o s := rfl
@[simp] theorem exec_xmov {o} {s} : exec (.xmov o) s = execXmov o s := rfl
@[simp] theorem exec_xmovExt {o} {s} : exec (.xmovExt o) s = execXmovExt o s := rfl
@[simp] theorem exec_xadd {o} {s} : exec (.xadd o) s = execXadd o s := rfl
@[simp] theorem exec_xaddExt {o} {s} : exec (.xaddExt o) s = execXaddExt o s := rfl
@[simp] theorem exec_xsub {o} {s} : exec (.xsub o) s = execXsub o s := rfl
@[simp] theorem exec_xsubExt {o} {s} : exec (.xsubExt o) s = execXsubExt o s := rfl
@[simp] theorem exec_xmul {o} {s} : exec (.xmul o) s = execXmul o s := rfl
@[simp] theorem exec_xmulExt {o} {s} : exec (.xmulExt o) s = execXmulExt o s := rfl
@[simp] theorem exec_ld {o} {s} : exec (.ld o) s = execLd o s := rfl
@[simp] theorem exec_ldExt {o} {s} : exec (.ldExt o) s = execLdExt o s := rfl
@[simp] theorem exec_st {o} {s} : exec (.st o) s = execSt o s := rfl
@[simp] theorem exec_stExt {o} {s} : exec (.stExt o) s = execStExt o s := rfl
@[simp] theorem exec_brx {o} {s} : exec (.brx o) s = execBrx o s := rfl
@[simp] theorem exec_calli {o} {s} : exec (.calli o) s = execCalli o s := rfl
@[simp] theorem exec_fork {o} {s} : exec (.fork o) s = execFork o s := rfl
@[simp] theorem exec_barb {o} {s} : exec (.barb o) s = execBarb o s := rfl
@[simp] theorem exec_span {o} {s} : exec (.span o) s = execSpan o s := rfl
@[simp] theorem exec_loop {o} {s} : exec (.loop o) s = execLoop o s := rfl
@[simp] theorem exec_vote {o} {s} : exec (.vote o) s = execVote o s := rfl
@[simp] theorem exec_shfl {o} {s} : exec (.shfl o) s = execShfl o s := rfl
@[simp] theorem exec_imad {o} {s} : exec (.imad o) s = execImad o s := rfl
@[simp] theorem exec_bfi {o} {s} : exec (.bfi o) s = execBfi o s := rfl
@[simp] theorem exec_sel {o} {s} : exec (.sel o) s = execSel o s := rfl
@[simp] theorem exec_lea {o} {s} : exec (.lea o) s = execLea o s := rfl
@[simp] theorem exec_imadw {o} {s} : exec (.imadw o) s = execImadw o s := rfl
@[simp] theorem exec_ffma {o} {s} : exec (.ffma o) s = execFfma o s := rfl
@[simp] theorem exec_fset {o} {s} : exec (.fset o) s = execFset o s := rfl
@[simp] theorem exec_fclass {o} {s} : exec (.fclass o) s = execFclass o s := rfl
@[simp] theorem exec_dadd {o} {s} : exec (.dadd o) s = execDadd o s := rfl
@[simp] theorem exec_dmul {o} {s} : exec (.dmul o) s = execDmul o s := rfl
@[simp] theorem exec_dfma {o} {s} : exec (.dfma o) s = execDfma o s := rfl
@[simp] theorem exec_ddiv {o} {s} : exec (.ddiv o) s = execDdiv o s := rfl
@[simp] theorem exec_dset {o} {s} : exec (.dset o) s = execDset o s := rfl
@[simp] theorem exec_hadd2 {o} {s} : exec (.hadd2 o) s = execHadd2 o s := rfl
@[simp] theorem exec_hmul2 {o} {s} : exec (.hmul2 o) s = execHmul2 o s := rfl
@[simp] theorem exec_hfma2 {o} {s} : exec (.hfma2 o) s = execHfma2 o s := rfl
@[simp] theorem exec_xdiv {o} {s} : exec (.xdiv o) s = execXdiv o s := rfl
@[simp] theorem exec_xsqrt {o} {s} : exec (.xsqrt o) s = execXsqrt o s := rfl
@[simp] theorem exec_xmin {o} {s} : exec (.xmin o) s = execXmin o s := rfl
@[simp] theorem exec_xmax {o} {s} : exec (.xmax o) s = execXmax o s := rfl
@[simp] theorem exec_xsgn {o} {s} : exec (.xsgn o) s = execXsgn o s := rfl
@[simp] theorem exec_xcmp {o} {s} : exec (.xcmp o) s = execXcmp o s := rfl
@[simp] theorem exec_xbnd {o} {s} : exec (.xbnd o) s = execXbnd o s := rfl
@[simp] theorem exec_sever {o} {s} : exec (.sever o) s = execSever o s := rfl
@[simp] theorem exec_snap {o} {s} : exec (.snap o) s = execSnap o s := rfl
@[simp] theorem exec_xref {o} {s} : exec (.xref o) s = execXref o s := rfl
@[simp] theorem exec_cvt {o} {s} : exec (.cvt o) s = execCvt o s := rfl
@[simp] theorem exec_cvtf {o} {s} : exec (.cvtf o) s = execCvtf o s := rfl
@[simp] theorem exec_ldx {o} {s} : exec (.ldx o) s = execLdx o s := rfl
@[simp] theorem exec_ldv {o} {s} : exec (.ldv o) s = execLdv o s := rfl
@[simp] theorem exec_stv {o} {s} : exec (.stv o) s = execStv o s := rfl
@[simp] theorem exec_ldb {o} {s} : exec (.ldb o) s = execLdb o s := rfl
@[simp] theorem exec_stb {o} {s} : exec (.stb o) s = execStb o s := rfl
@[simp] theorem exec_atom {o} {s} : exec (.atom o) s = execAtom o s := rfl
@[simp] theorem exec_cas {o} {s} : exec (.cas o) s = execCas o s := rfl
@[simp] theorem exec_fence {o} {s} : exec (.fence o) s = execFence o s := rfl
@[simp] theorem exec_mon {o} {s} : exec (.mon o) s = execMon o s := rfl
@[simp] theorem exec_mwait {o} {s} : exec (.mwait o) s = execMwait o s := rfl
@[simp] theorem exec_sbind {o} {s} : exec (.sbind o) s = execSbind o s := rfl
@[simp] theorem exec_sxp {o} {s} : exec (.sxp o) s = execSxp o s := rfl
@[simp] theorem exec_sxu {o} {s} : exec (.sxu o) s = execSxu o s := rfl
@[simp] theorem exec_aset {o} {s} : exec (.aset o) s = execAset o s := rfl
@[simp] theorem exec_await {o} {s} : exec (.await o) s = execAwait o s := rfl
@[simp] theorem exec_kick {o} {s} : exec (.kick o) s = execKick o s := rfl
@[simp] theorem exec_padv {o} {s} : exec (.padv o) s = execPadv o s := rfl
@[simp] theorem exec_pwait {o} {s} : exec (.pwait o) s = execPwait o s := rfl
@[simp] theorem exec_mma {o} {s} : exec (.mma o) s = execMma o s := rfl
@[simp] theorem exec_mmas {o} {s} : exec (.mmas o) s = execMmas o s := rfl
@[simp] theorem exec_mconv {o} {s} : exec (.mconv o) s = execMconv o s := rfl
@[simp] theorem exec_mzero {o} {s} : exec (.mzero o) s = execMzero o s := rfl
@[simp] theorem exec_mldc {o} {s} : exec (.mldc o) s = execMldc o s := rfl
@[simp] theorem exec_mstc {o} {s} : exec (.mstc o) s = execMstc o s := rfl
@[simp] theorem exec_guard {o} {s} : exec (.guard o) s = execGuard o s := rfl
@[simp] theorem exec_gset {o} {s} : exec (.gset o) s = execGset o s := rfl
@[simp] theorem exec_dist {o} {s} : exec (.dist o) s = execDist o s := rfl
@[simp] theorem exec_topkClr {o} {s} : exec (.topkClr o) s = execTopkClr o s := rfl
@[simp] theorem exec_topkIns {o} {s} : exec (.topkIns o) s = execTopkIns o s := rfl
@[simp] theorem exec_topkRd {o} {s} : exec (.topkRd o) s = execTopkRd o s := rfl
@[simp] theorem exec_stload {o} {s} : exec (.stload o) s = execStload o s := rfl
@[simp] theorem exec_task {o} {s} : exec (.task o) s = execTask o s := rfl
@[simp] theorem exec_tnext {o} {s} : exec (.tnext o) s = execTnext o s := rfl
@[simp] theorem exec_launch {o} {s} : exec (.launch o) s = execLaunch o s := rfl
@[simp] theorem exec_tryOpen {o} {s} : exec (.tryOpen o) s = execTryOpen o s := rfl
@[simp] theorem exec_fail {o} {s} : exec (.fail o) s = execFail o s := rfl
@[simp] theorem exec_mark {o} {s} : exec (.mark o) s = execMark o s := rfl
@[simp] theorem exec_cut {o} {s} : exec (.cut o) s = execCut o s := rfl
@[simp] theorem exec_steal {o} {s} : exec (.steal o) s = execSteal o s := rfl
@[simp] theorem exec_trail {o} {s} : exec (.trail o) s = execTrail o s := rfl
@[simp] theorem exec_trap {o} {s} : exec (.trap o) s = execTrap o s := rfl
@[simp] theorem exec_sysc {o} {s} : exec (.sysc o) s = execSysc o s := rfl
@[simp] theorem exec_eret {o} {s} : exec (.eret o) s = execEret o s := rfl
@[simp] theorem exec_mfsr {o} {s} : exec (.mfsr o) s = execMfsr o s := rfl
@[simp] theorem exec_mtsr {o} {s} : exec (.mtsr o) s = execMtsr o s := rfl
@[simp] theorem exec_tlbi {o} {s} : exec (.tlbi o) s = execTlbi o s := rfl
@[simp] theorem exec_cflush {o} {s} : exec (.cflush o) s = execCflush o s := rfl
@[simp] theorem exec_cinv {o} {s} : exec (.cinv o) s = execCinv o s := rfl
@[simp] theorem exec_waiti {o} {s} : exec (.waiti o) s = execWaiti o s := rfl
@[simp] theorem exec_acct {o} {s} : exec (.acct o) s = execAcct o s := rfl
@[simp] theorem exec_gauge {o} {s} : exec (.gauge o) s = execGauge o s := rfl
@[simp] theorem exec_hread {o} {s} : exec (.hread o) s = execHread o s := rfl
@[simp] theorem exec_hwrite {o} {s} : exec (.hwrite o) s = execHwrite o s := rfl
@[simp] theorem exec_hstep {o} {s} : exec (.hstep o) s = execHstep o s := rfl
@[simp] theorem exec_hrun {o} {s} : exec (.hrun o) s = execHrun o s := rfl
@[simp] theorem exec_hstat {o} {s} : exec (.hstat o) s = execHstat o s := rfl
@[simp] theorem exec_sample {o} {s} : exec (.sample o) s = execSample o s := rfl
@[simp] theorem exec_trace {o} {s} : exec (.trace o) s = execTrace o s := rfl
@[simp] theorem exec_cntr {o} {s} : exec (.cntr o) s = execCntr o s := rfl
@[simp] theorem exec_issueChoice {core port dt} {s} : exec (.issueChoice core port dt) s = execIssueChoice core port dt s := rfl
@[simp] theorem exec_bartime {ofBent owner barrier} {s} : exec (.bartime ofBent owner barrier) s = execBartime ofBent owner barrier s := rfl
@[simp] theorem exec_lapidaryRequestEnter {bay idx} {s} : exec (.lapidaryRequestEnter bay idx) s = execLapidaryRequestEnter bay idx s := rfl
@[simp] theorem exec_lapidaryAnswer {bay idx} {s} : exec (.lapidaryAnswer bay idx) s = execLapidaryAnswer bay idx s := rfl
@[simp] theorem exec_xrefAnswer {bay idx} {s} : exec (.xrefAnswer bay idx) s = execXrefAnswer bay idx s := rfl
@[simp] theorem exec_lapidaryTranslationFault {bay idx} {s} : exec (.lapidaryTranslationFault bay idx) s = execLapidaryTranslationFault bay idx s := rfl
@[simp] theorem exec_logReclaim {gid} {s} : exec (.logReclaim gid) s = execLogReclaim gid s := rfl
@[simp] theorem exec_copyRecordStart {bay core} {s} : exec (.copyRecordStart bay core) s = execCopyRecordStart bay core s := rfl
@[simp] theorem exec_copyRecordComplete {bay idx} {s} : exec (.copyRecordComplete bay idx) s = execCopyRecordComplete bay idx s := rfl
@[simp] theorem exec_matrixCommandHead {bay steps} {s} : exec (.matrixCommandHead bay steps) s = execMatrixCommandHead bay steps s := rfl
@[simp] theorem exec_matrixCommandRetire {bay} {s} : exec (.matrixCommandRetire bay) s = execMatrixCommandRetire bay s := rfl
@[simp] theorem exec_stloadCompletion {idx status data} {s} : exec (.stloadCompletion idx status data) s = execStloadCompletion idx status data s := rfl
@[simp] theorem exec_pwaitComplete {f} {s} : exec (.pwaitComplete f) s = execPwaitComplete f s := rfl
@[simp] theorem exec_awaitComplete {f} {s} : exec (.awaitComplete f) s = execAwaitComplete f s := rfl
@[simp] theorem exec_mwaitWake {f} {s} : exec (.mwaitWake f) s = execMwaitWake f s := rfl
@[simp] theorem exec_waitiExpire {f} {s} : exec (.waitiExpire f) s = execWaitiExpire f s := rfl
@[simp] theorem exec_groupRetire {gid} {s} : exec (.groupRetire gid) s = execGroupRetire gid s := rfl
@[simp] theorem exec_bentRetire {bent} {s} : exec (.bentRetire bent) s = execBentRetire bent s := rfl
@[simp] theorem exec_bentPlacement {bent bay places} {s} : exec (.bentPlacement bent bay places) s = execBentPlacement bent bay places s := rfl
@[simp] theorem exec_preemption {bent} {s} : exec (.preemption bent) s = execPreemption bent s := rfl
@[simp] theorem exec_restore {bent bay places} {s} : exec (.restore bent bay places) s = execRestore bent bay places s := rfl
@[simp] theorem exec_queueAdmission {queue} {s} : exec (.queueAdmission queue) s = execQueueAdmission queue s := rfl
@[simp] theorem exec_ringEntryNop {queue} {s} : exec (.ringEntryNop queue) s = execRingEntryNop queue s := rfl
@[simp] theorem exec_ringEntryLaunch {queue} {s} : exec (.ringEntryLaunch queue) s = execRingEntryLaunch queue s := rfl
@[simp] theorem exec_ringEntryWait {queue} {s} : exec (.ringEntryWait queue) s = execRingEntryWait queue s := rfl
@[simp] theorem exec_ringEntryAdvance {queue} {s} : exec (.ringEntryAdvance queue) s = execRingEntryAdvance queue s := rfl
@[simp] theorem exec_queueWaitDone {queue idx} {s} : exec (.queueWaitDone queue idx) s = execQueueWaitDone queue idx s := rfl
@[simp] theorem exec_launchStart {launch} {s} : exec (.launchStart launch) s = execLaunchStart launch s := rfl
@[simp] theorem exec_launchComplete {launch} {s} : exec (.launchComplete launch) s = execLaunchComplete launch s := rfl
@[simp] theorem exec_taskReady {task} {s} : exec (.taskReady task) s = execTaskReady task s := rfl
@[simp] theorem exec_taskSplit {core place} {s} : exec (.taskSplit core place) s = execTaskSplit core place s := rfl
@[simp] theorem exec_haltReport {f} {s} : exec (.haltReport f) s = execHaltReport f s := rfl
@[simp] theorem exec_stepComplete {f} {s} : exec (.stepComplete f) s = execStepComplete f s := rfl
@[simp] theorem exec_sampleTick {socket} {s} : exec (.sampleTick socket) s = execSampleTick socket s := rfl
@[simp] theorem exec_powerOn {b} {s} : exec (.powerOn b) s = execPowerOn b s := rfl
@[simp] theorem exec_systemCoreAccess {a} {s} : exec (.systemCoreAccess a) s = execSystemCoreAccess a s := rfl
@[simp] theorem exec_effectiveClassReaches7 {bent bay} {s} : exec (.effectiveClassReaches7 bent bay) s = execEffectiveClassReaches7 bent bay s := rfl
@[simp] theorem exec_faultQueueConsumerUpdate {socket value} {s} : exec (.faultQueueConsumerUpdate socket value) s = execFaultQueueConsumerUpdate socket value s := rfl
@[simp] theorem exec_serviceQueueConsumerUpdate {socket value} {s} : exec (.serviceQueueConsumerUpdate socket value) s = execServiceQueueConsumerUpdate socket value s := rfl
@[simp] theorem exec_resolveRetry {socket seq} {s} : exec (.resolveRetry socket seq) s = execResolveRetry socket seq s := rfl
@[simp] theorem exec_resolveAbort {socket seq} {s} : exec (.resolveAbort socket seq) s = execResolveAbort socket seq s := rfl
@[simp] theorem exec_syscAnswer {socket seq value} {s} : exec (.syscAnswer socket seq value) s = execSyscAnswer socket seq value s := rfl
@[simp] theorem exec_preemptRegister {socket gid} {s} : exec (.preemptRegister socket gid) s = execPreemptRegister socket gid s := rfl
@[simp] theorem exec_killRegister {socket gid} {s} : exec (.killRegister socket gid) s = execKillRegister socket gid s := rfl
@[simp] theorem exec_sysregWrite {socket index value} {s} : exec (.sysregWrite socket index value) s = execSysregWrite socket index value s := rfl
@[simp] theorem exec_debugWindowGo {socket window} {s} : exec (.debugWindowGo socket window) s = execDebugWindowGo socket window s := rfl
@[simp] theorem exec_notifyStore {queue value host} {s} : exec (.notifyStore queue value host) s = execNotifyStore queue value host s := rfl
@[simp] theorem exec_firmwareUpdate {slotB image} {s} : exec (.firmwareUpdate slotB image) s = execFirmwareUpdate slotB image s := rfl
@[simp] theorem exec_clearTopologyRecord {s} : exec .clearTopologyRecord s = execClearTopologyRecord s := rfl
@[simp] theorem exec_getVersion {s} : exec .getVersion s = execGetVersion s := rfl
@[simp] theorem exec_getCapabilities {s} : exec .getCapabilities s = execGetCapabilities s := rfl
@[simp] theorem exec_negotiateAlgorithms {asym hash} {s} : exec (.negotiateAlgorithms asym hash) s = execNegotiateAlgorithms asym hash s := rfl
@[simp] theorem exec_getDigests {s} : exec .getDigests s = execGetDigests s := rfl
@[simp] theorem exec_getCertificate {offset length} {s} : exec (.getCertificate offset length) s = execGetCertificate offset length s := rfl
@[simp] theorem exec_challenge {nonce} {s} : exec (.challenge nonce) s = execChallenge nonce s := rfl
@[simp] theorem exec_getMeasurements {index} {s} : exec (.getMeasurements index) s = execGetMeasurements index s := rfl
@[simp] theorem exec_linkCrcRetry {link} {s} : exec (.linkCrcRetry link) s = execLinkCrcRetry link s := rfl
@[simp] theorem exec_linkRetrain {link} {s} : exec (.linkRetrain link) s = execLinkRetrain link s := rfl
@[simp] theorem exec_rhautPortFailure {port} {s} : exec (.rhautPortFailure port) s = execRhautPortFailure port s := rfl
@[simp] theorem exec_warmReset {socket} {s} : exec (.warmReset socket) s = execWarmReset socket s := rfl
@[simp] theorem exec_hostAccess {a} {s} : exec (.hostAccess a) s = execHostAccess a s := rfl
@[simp] theorem exec_peerAccess {a} {s} : exec (.peerAccess a) s = execPeerAccess a s := rfl

end Sys2Proof.Machine
end

