-- ==== Sys2Proof/Laws/Translate.lean ====
section
/-! SUPPORT. What a translation can change (R306 to R310, R369): memory, whose canonical form it keeps, with the record of
stores and the groups and sinks that its A and D bits reach, the caches of the die, the stores on their way, the record of
granules, and the model's open choices and free values; nothing else. -/
namespace Sys2Proof.Machine
open Sys2Proof

/-- `t` is `s` but for what a translation may change. -/
structure OnlyTranslated (s t : State) : Prop where
  rest : { t with mem := s.mem, groups := s.groups, dies := s.dies, homes := s.homes, oracle := s.oracle,
                  fresh := s.fresh, past := s.past, agenda := s.agenda } = s
  form : Memory.wf s.mem = true → Memory.wf t.mem = true

theorem OnlyTranslated.refl (s : State) : OnlyTranslated s s := ⟨rfl, id⟩

theorem OnlyTranslated.trans {s t u : State} (a : OnlyTranslated s t) (b : OnlyTranslated t u) : OnlyTranslated s u where
  rest := by
    have h := b.rest
    rw [← a.rest]
    cases t; cases u
    simp only [State.mk.injEq] at h ⊢
    simp_all
  form h := b.form (a.form h)

theorem choose_translated (s : State) (n : Nat) : OnlyTranslated s (s.choose n).2 := by
  unfold State.choose
  split
  · exact .refl s
  · exact ⟨rfl, id⟩

theorem setDie_translated (s : State) (k : Nat) (d : Die) : OnlyTranslated s (s.setDie k d) := ⟨rfl, id⟩

theorem putMem_translated (s : State) (pa : Nat) (bs : List Byte) (a : Actor) (k : Nat) (r : Bool) :
    OnlyTranslated s (s.putMem pa bs a k r) := by
  refine ⟨?_, putMem_wf s pa bs a k r⟩
  unfold State.putMem
  split <;> rfl

theorem putPhys_translated (s : State) (pa : Nat) (bs : List Byte) : OnlyTranslated s (s.putPhys pa bs) := by
  unfold State.putPhys
  split
  · exact ⟨rfl, id⟩
  · exact putMem_translated ..

theorem touch_translated (s : State) (l : Leaf) (acc : Access) : OnlyTranslated s (s.touch l acc) := by
  unfold State.touch
  generalize (0x40 ||| (if acc.writes then 0x80 else 0) : DWord) = bits
  dsimp only
  split
  · exact .refl s
  · exact putPhys_translated ..

theorem addTlb_translated (s : State) (k : Nat) (es : List TlbEntry) (ps : List PtrEntry) :
    OnlyTranslated s (s.addTlb k es ps) := by
  unfold State.addTlb
  dsimp only
  split
  · exact .refl s
  · exact setDie_translated ..

theorem remember_translated (s : State) (a : Agent) (asid : Nat) (va : DWord) (path : List (Nat × Nat)) (l : Leaf) :
    OnlyTranslated s (s.remember a asid va path l) := addTlb_translated ..

theorem useGranule_translated (s : State) (va : DWord) (acc : Access) (l : Leaf) :
    OnlyTranslated s (s.useGranule va acc l) := by
  unfold State.useGranule
  generalize freeBytes 4096 s.fresh = bs
  dsimp only
  split
  · exact .refl s
  · split
    · exact ⟨rfl, id⟩
    · split
      · exact .refl s
      · split
        · exact ⟨rfl, id⟩
        · exact ⟨rfl, fun h => memPutBytes_wf bs _ _ h⟩

theorem groupLeaf_translated (s : State) (va : DWord) (l : Leaf) : OnlyTranslated s (s.groupLeaf va l).1 := by
  unfold State.groupLeaf
  dsimp only
  split
  · exact .refl s
  · split
    · exact .refl s
    · split <;> (try split) <;> exact choose_translated ..

theorem rememberRoot_translated (s : State) (k : Nat) (r : Nat × Nat × Nat) : OnlyTranslated s (s.rememberRoot k r) := by
  unfold State.rememberRoot
  dsimp only
  split
  · exact .refl s
  · exact setDie_translated ..

theorem pickSource_translated (s : State) (l : List Source) : OnlyTranslated s (s.pickSource l).2 := by
  unfold State.pickSource
  split
  · exact .refl s
  · exact choose_translated ..

theorem endWalk_translated (s : State) (asid : Nat) (va : DWord) (w : Walk) (root : Option (Nat × Nat × Nat)) :
    OnlyTranslated s (s.endWalk asid va w root).1 := by
  unfold State.endWalk
  split
  · exact .refl s
  · exact groupLeaf_translated ..

theorem choosePage_translated (s : State) (a : Agent) (space : Nat) (va : DWord) :
    OnlyTranslated s (s.choosePage a space va).1 := by
  unfold State.choosePage
  split
  · exact .refl s
  · dsimp only
    have h := pickSource_translated s (s.stale a space va (s.walkSpace space va))
    split <;> rename_i hp <;> rw [hp] at h
    · exact h.trans (endWalk_translated ..)
    · exact h.trans (endWalk_translated ..)
    · exact h.trans (addTlb_translated ..)

theorem keepWalk_translated (s : State) (a : Agent) (va : DWord) (acc : Access) (c : Chosen) :
    OnlyTranslated s (s.keepWalk a va acc c) := by
  have h := ((touch_translated s c.leaf acc).trans (remember_translated _ a c.asid va c.path c.leaf)).trans
    (useGranule_translated _ va acc c.leaf)
  unfold State.keepWalk
  dsimp only
  split
  · exact h.trans (rememberRoot_translated ..)
  · exact h

theorem useChosen_translated (s : State) (a : Agent) (va : DWord) (acc : Access) (c : Chosen) :
    OnlyTranslated s (s.useChosen a va acc c).1 := by
  unfold State.useChosen
  split
  · exact setDie_translated ..
  · exact .refl s
  · dsimp only
    split
    · exact keepWalk_translated ..
    · exact .refl s

/-- A translation changes only what `OnlyTranslated` names. -/
theorem translate_translated (s : State) (a : Agent) (space : Nat) (va : DWord) (acc : Access) :
    OnlyTranslated s (s.translate a space va acc).1 := by
  have h := choosePage_translated s a space va
  unfold State.translate
  split <;> rename_i hp <;> rw [hp] at h
  · exact h
  · exact h.trans (useChosen_translated ..)

/-- So does the translation of a page for the rest of an issue. -/
theorem settlePage_translated (s : State) (memo : Memo) (a : Agent) (space : Nat) (va : DWord) :
    OnlyTranslated s (s.settlePage memo a space va).1 := by
  unfold State.settlePage
  dsimp only
  split
  · exact .refl s
  · exact choosePage_translated ..

/-- So does the translation of one access of an issue. -/
theorem pageAt_translated (s : State) (memo : Memo) (a : Agent) (space : Nat) (va : DWord) (acc : Access) :
    OnlyTranslated s (s.pageAt memo a space va acc).1 := by
  have h := settlePage_translated s memo a space va
  unfold State.pageAt
  dsimp only
  split
  · exact h
  · exact h.trans (useChosen_translated ..)

end Sys2Proof.Machine
end

