-- ==== Sys2Proof/Tests/Slice0.lean ====
section
/-! SUPPORT. Tests and witnesses. A test's expected result comes from the manual's encoding tables and worked examples; a
witness shows a state and operands that meet the hypotheses of a statement. -/
namespace Sys2Proof.Machine
open Sys2Proof
set_option Elab.async false

/-- Every word of a list decodes to its instruction: bits of the row, the word, the instruction. -/
def reads (l : List (Nat × Nat × Instr)) : Bool := l.all fun t => decodeTableWord t.1 t.2.1 == some t.2.2

/-- Words of control flow, laid out from Tables 40 to 47 and the encoding tables of the entries. -/
def wordsControl1 : List (Nat × Nat × Instr) := [
    (32, 0x00000004, .nop { form := .base, un := true }),
    (96, 0x0000000b_00000000_00000001, .nopExt { neg := true, pred := 3 }),
    (32, 0xfffee808, .bra { form := .base, imm22 := 4194299, neg := true, pred := 2 }),
    (96, 0xc2f70001_00000000_00000009, .braExt { imm22 := 3194304, pred := 1 }),
    (160, 0x00000000_01000200_00000009_00000000_0000000a, .braExt { form := .extLit, lit := some 0x1000200, neg := true, pred := 1 }),
    (96, 0x00000000_01000200_0000100b, .braExt { form := .baseLit, lit := some 0x1000200, pred := 4 }),
    (96, 0xffff0007_00096300_00000011, .brx { a := .a 3, b := .g 9, imm22 := 4194240 }),
    (96, 0x00032205_00006300_00000011, .brx { a := .a 3, b := .imm, imm22 := 200, pred := 5 }),
    (32, 0x7fffdc18, .call { form := .base, imm22 := 131071 }),
    (96, 0x00005006_00000000_00000019, .callExt { imm22 := 20, pred := 6 }),
    (96, 0x00000000_40000000_00001c1b, .callExt { form := .baseLit, lit := some 0x40000000 }),
    (96, 0x00002007_00876f00_00000021, .calli { a := .a 15, b := .k 7, imm22 := 8 }),
    (32, 0x00000c28, .ret { form := .base, pred := 3 }),
    (96, 0x0000000b_00000000_00000029, .retExt { neg := true, pred := 3 }),
    (96, 0x00003007_00008a00_00000031, .fork { a := .k 10, imm22 := 12 }),
    (160, 0x00000000_01000100_00000007_00006200_00000032, .fork { form := .extLit, a := .a 2, lit := some 0x1000100 }),
    (32, 0x00000038, .quit { form := .base }),
    (96, 0x00000001_00000000_00000039, .quitExt { pred := 1 }),
    (32, 0x00000040, .exit { form := .base }),
    (96, 0x00000003_00000000_00000041, .exitExt { pred := 3 }),
    (32, 0x83c00048, .bar { form := .base, imm22 := 15 }),
    (96, 0x00001c07_00000000_00000049, .barExt { imm22 := 7 }),
    (96, 0x00000c07_00000000_00000051, .barb { imm22 := 3 }),
    (96, 0x0000fc07_00000000_00000059, .span { imm22 := 63 })]

theorem test_decode_control_1 : reads wordsControl1 = true := by decide +kernel

theorem test_wf_control_1 : (wordsControl1.all fun t => t.2.2.wf false) = true := by decide +kernel

/-- Words of control flow, laid out from Tables 40 to 47 and the encoding tables of the entries. -/
def wordsControl2 : List (Nat × Nat × Instr) := [
    (160, 0x80000000_00000001_00000007_00000000_0000005a, .span { form := .extLit, lit := some 0x8000000000000001 }),
    (96, 0xffffe407_0000000c_00000061, .loop { d := .g 12, imm22 := 4194297 }),
    (160, 0x00000000_01000104_00000007_00000085_00000066, .loop { form := .extLit, un := true, d := .k 5, lit := some 0x1000104 }),
    (32, 0x00000068, .yield { form := .base }),
    (96, 0x00000007_00000000_00000069, .yieldExt {}),
    (96, 0x00000001_00007208_00030071, .vote { mod := 0x3, d := .g 8, a := .p 2, pred := 1 }),
    (96, 0x00000007_00007473_00010071, .vote { mod := 0x1, d := .p 3, a := .p 4 }),
    (96, 0x00000607_71000001_00020079, .shfl { mod := 0x2, d := .g 1, a := .g 0, b := .imm, c := .p 1, imm22 := 1 }),
    (96, 0x00000007_77890201_00000079, .shfl { d := .g 1, a := .g 2, b := .k 9, c := .p 7 })]

theorem test_decode_control_2 : reads wordsControl2 = true := by decide +kernel

theorem test_wf_control_2 : (wordsControl2.all fun t => t.2.2.wf false) = true := by decide +kernel

/-- Words of integer instructions, laid out from Tables 40 to 47 and the encoding tables of the entries. -/
def wordsInteger1 : List (Nat × Nat × Instr) := [
    (32, 0x2881fc80, .iadd { form := .base, mod := 0x2, d := .g 63, a := .g 1, b := .g 34 }),
    (32, 0xa8210880, .iadd { form := .base, mod := 0x2, d := .g 2, a := .g 33, b := .imm, imm22 := 4194272 }),
    (96, 0x8000020a_0000ff05_00020081, .iaddExt { mod := 0x2, d := .g 5, a := .k 127, b := .imm, imm22 := 2097152, neg := true, pred := 2 }),
    (32, 0x1881fc88, .isub { form := .base, mod := 0x1, d := .g 63, a := .g 1, b := .g 34 }),
    (32, 0x98210888, .isub { form := .base, mod := 0x1, d := .g 2, a := .g 33, b := .imm, imm22 := 4194272 }),
    (96, 0x8000020a_0000ff05_00010089, .isubExt { mod := 0x1, d := .g 5, a := .k 127, b := .imm, imm22 := 2097152, neg := true, pred := 2 }),
    (32, 0x0881fc90, .imul { form := .base, d := .g 63, a := .g 1, b := .g 34 }),
    (32, 0x88210890, .imul { form := .base, d := .g 2, a := .g 33, b := .imm, imm22 := 4194272 }),
    (96, 0x8000020a_0000ff05_00000091, .imulExt { d := .g 5, a := .k 127, b := .imm, imm22 := 2097152, neg := true, pred := 2 }),
    (32, 0x1881fca0, .imulh { form := .base, mod := 0x1, d := .g 63, a := .g 1, b := .g 34 }),
    (32, 0x982108a0, .imulh { form := .base, mod := 0x1, d := .g 2, a := .g 33, b := .imm, imm22 := 4194272 }),
    (96, 0x8000020a_0000ff05_000100a1, .imulhExt { mod := 0x1, d := .g 5, a := .k 127, b := .imm, imm22 := 2097152, neg := true, pred := 2 }),
    (32, 0x1881fca8, .idiv { form := .base, mod := 0x1, d := .g 63, a := .g 1, b := .g 34 }),
    (32, 0x982108a8, .idiv { form := .base, mod := 0x1, d := .g 2, a := .g 33, b := .imm, imm22 := 4194272 }),
    (96, 0x8000020a_0000ff05_000100a9, .idivExt { mod := 0x1, d := .g 5, a := .k 127, b := .imm, imm22 := 2097152, neg := true, pred := 2 }),
    (32, 0x0881fcb0, .irem { form := .base, d := .g 63, a := .g 1, b := .g 34 }),
    (32, 0x882108b0, .irem { form := .base, d := .g 2, a := .g 33, b := .imm, imm22 := 4194272 }),
    (96, 0x8000020a_0000ff05_000000b1, .iremExt { d := .g 5, a := .k 127, b := .imm, imm22 := 2097152, neg := true, pred := 2 }),
    (32, 0x1881fcb8, .imin { form := .base, mod := 0x1, d := .g 63, a := .g 1, b := .g 34 }),
    (32, 0x982108b8, .imin { form := .base, mod := 0x1, d := .g 2, a := .g 33, b := .imm, imm22 := 4194272 }),
    (96, 0x8000020a_0000ff05_000100b9, .iminExt { mod := 0x1, d := .g 5, a := .k 127, b := .imm, imm22 := 2097152, neg := true, pred := 2 }),
    (32, 0x1881fcc0, .imax { form := .base, mod := 0x1, d := .g 63, a := .g 1, b := .g 34 }),
    (32, 0x982108c0, .imax { form := .base, mod := 0x1, d := .g 2, a := .g 33, b := .imm, imm22 := 4194272 }),
    (96, 0x8000020a_0000ff05_000100c1, .imaxExt { mod := 0x1, d := .g 5, a := .k 127, b := .imm, imm22 := 2097152, neg := true, pred := 2 })]

theorem test_decode_integer_1 : reads wordsInteger1 = true := by decide +kernel

theorem test_wf_integer_1 : (wordsInteger1.all fun t => t.2.2.wf false) = true := by decide +kernel

/-- Words of integer instructions, laid out from Tables 40 to 47 and the encoding tables of the entries. -/
def wordsInteger2 : List (Nat × Nat × Instr) := [
    (32, 0x0881fcd0, .and { form := .base, d := .g 63, a := .g 1, b := .g 34 }),
    (32, 0x882108d0, .and { form := .base, d := .g 2, a := .g 33, b := .imm, imm22 := 4194272 }),
    (96, 0x8000020a_0000ff05_000000d1, .andExt { d := .g 5, a := .k 127, b := .imm, imm22 := 2097152, neg := true, pred := 2 }),
    (32, 0x0881fcd8, .or { form := .base, d := .g 63, a := .g 1, b := .g 34 }),
    (32, 0x882108d8, .or { form := .base, d := .g 2, a := .g 33, b := .imm, imm22 := 4194272 }),
    (96, 0x8000020a_0000ff05_000000d9, .orExt { d := .g 5, a := .k 127, b := .imm, imm22 := 2097152, neg := true, pred := 2 }),
    (32, 0x0881fce0, .xor { form := .base, d := .g 63, a := .g 1, b := .g 34 }),
    (32, 0x882108e0, .xor { form := .base, d := .g 2, a := .g 33, b := .imm, imm22 := 4194272 }),
    (96, 0x8000020a_0000ff05_000000e1, .xorExt { d := .g 5, a := .k 127, b := .imm, imm22 := 2097152, neg := true, pred := 2 }),
    (32, 0x0881fce8, .andn { form := .base, d := .g 63, a := .g 1, b := .g 34 }),
    (32, 0x882108e8, .andn { form := .base, d := .g 2, a := .g 33, b := .imm, imm22 := 4194272 }),
    (96, 0x8000020a_0000ff05_000000e9, .andnExt { d := .g 5, a := .k 127, b := .imm, imm22 := 2097152, neg := true, pred := 2 }),
    (32, 0x0881fcf0, .shl { form := .base, d := .g 63, a := .g 1, b := .g 34 }),
    (32, 0x882108f0, .shl { form := .base, d := .g 2, a := .g 33, b := .imm, imm22 := 4194272 }),
    (96, 0x8000020a_0000ff05_000000f1, .shlExt { d := .g 5, a := .k 127, b := .imm, imm22 := 2097152, neg := true, pred := 2 }),
    (32, 0x0881fcf8, .shr { form := .base, d := .g 63, a := .g 1, b := .g 34 }),
    (32, 0x882108f8, .shr { form := .base, d := .g 2, a := .g 33, b := .imm, imm22 := 4194272 }),
    (96, 0x8000020a_0000ff05_000000f9, .shrExt { d := .g 5, a := .k 127, b := .imm, imm22 := 2097152, neg := true, pred := 2 }),
    (32, 0x0881fd00, .sar { form := .base, d := .g 63, a := .g 1, b := .g 34 }),
    (32, 0x88210900, .sar { form := .base, d := .g 2, a := .g 33, b := .imm, imm22 := 4194272 }),
    (96, 0x8000020a_0000ff05_00000101, .sarExt { d := .g 5, a := .k 127, b := .imm, imm22 := 2097152, neg := true, pred := 2 }),
    (32, 0x0881fd08, .rol { form := .base, d := .g 63, a := .g 1, b := .g 34 }),
    (32, 0x88210908, .rol { form := .base, d := .g 2, a := .g 33, b := .imm, imm22 := 4194272 }),
    (96, 0x8000020a_0000ff05_00000109, .rolExt { d := .g 5, a := .k 127, b := .imm, imm22 := 2097152, neg := true, pred := 2 })]

theorem test_decode_integer_2 : reads wordsInteger2 = true := by decide +kernel

theorem test_wf_integer_2 : (wordsInteger2.all fun t => t.2.2.wf false) = true := by decide +kernel

/-- Words of integer instructions, laid out from Tables 40 to 47 and the encoding tables of the entries. -/
def wordsInteger3 : List (Nat × Nat × Instr) := [
    (32, 0x1881fd28, .bfx { form := .base, mod := 0x1, d := .g 63, a := .g 1, b := .g 34 }),
    (32, 0x98210928, .bfx { form := .base, mod := 0x1, d := .g 2, a := .g 33, b := .imm, imm22 := 4194272 }),
    (96, 0x8000020a_0000ff05_00010129, .bfxExt { mod := 0x1, d := .g 5, a := .k 127, b := .imm, imm22 := 2097152, neg := true, pred := 2 }),
    (96, 0xffffffff_80000000_90030883, .iaddExt { form := .baseLit, mod := 0x1, d := .g 2, a := .g 3, b := .imm, lit := some 0xFFFFFFFF80000000 }),
    (96, 0x00000007_00868584_00030085, .iaddExt { un := true, mod := 0x3, d := .k 4, a := .k 5, b := .k 6 }),
    (96, 0x00000007_00797803_00000081, .iaddExt { d := .g 3, a := .q 0, b := .q 1 }),
    (96, 0x00000007_84030201_00000099, .imad { d := .g 1, a := .g 2, b := .g 3, c := .k 4 }),
    (160, 0x00000000_12345678_00000307_00030201_0000009a, .imad { form := .extLit, d := .g 1, a := .g 2, b := .g 3, c := .imm, lit := some 0x12345678 }),
    (32, 0x202810c8, .iabs { form := .base, mod := 0x2, d := .g 4, a := .g 40 }),
    (96, 0x00000007_00007f04_000200c9, .iabsExt { mod := 0x2, d := .g 4, a := .q 7 }),
    (32, 0x00051110, .popc { form := .base, d := .g 4, a := .g 5 }),
    (96, 0x00000007_00008584_00000115, .popcExt { un := true, d := .k 4, a := .k 5 }),
    (32, 0x00071918, .clz { form := .base, d := .g 6, a := .g 7 }),
    (96, 0x00000007_00000706_00000119, .clzExt { d := .g 6, a := .g 7 }),
    (32, 0x00092120, .brev { form := .base, d := .g 8, a := .g 9 }),
    (96, 0x00000007_00000908_00000121, .brevExt { d := .g 8, a := .g 9 }),
    (96, 0x00101207_03000201_00000131, .bfi { d := .g 1, a := .g 2, b := .imm, c := .g 3, imm22 := 1028 }),
    (32, 0x40c10938, .iset { form := .base, mod := 0x80, d := .p 2, a := .g 1, b := .g 3 }),
    (32, 0x80040538, .iset { form := .base, d := .p 1, a := .g 4, b := .imm }),
    (96, 0x00000007_00078375_00410139, .isetExt { mod := 0x41, d := .p 5, a := .k 3, b := .g 7 }),
    (96, 0x00001507_76030001_00000141, .sel { d := .g 1, a := .imm, b := .g 3, c := .p 6, imm22 := 5 }),
    (32, 0x00142948, .mov { form := .base, d := .g 10, a := .g 20 }),
    (96, 0x00000007_00008864_0000014d, .movExt { un := true, d := .a 4, a := .k 8 }),
    (96, 0x00000007_00006804_00000149, .movExt { d := .g 4, a := .a 8 })]

theorem test_decode_integer_3 : reads wordsInteger3 = true := by decide +kernel

theorem test_wf_integer_3 : (wordsInteger3.all fun t => t.2.2.wf false) = true := by decide +kernel

/-- Words of integer instructions, laid out from Tables 40 to 47 and the encoding tables of the entries. -/
def wordsInteger4 : List (Nat × Nat × Instr) := [
    (32, 0x8fc00950, .movi { form := .base, d := .g 2, b := .imm, imm22 := 4194303 }),
    (160, 0x00fedcba_98765432_00000207_00000065_00000156, .moviExt { form := .extLit, un := true, d := .a 5, b := .imm, lit := some 0xFEDCBA98765432 }),
    (96, 0x00000000_40490fdb_80001553, .moviExt { form := .baseLit, d := .g 5, b := .imm, lit := some 0x40490FDB }),
    (96, 0x00004007_00866361_0003015d, .lea { un := true, mod := 0x3, d := .a 1, a := .a 3, b := .k 6, imm22 := 16 }),
    (32, 0x10c20560, .plop { form := .base, mod := 0x1, d := .p 1, a := .p 2, b := .p 3 }),
    (96, 0x00025807_74737271_00000161, .plopExt { d := .p 1, a := .p 2, b := .p 3, c := .p 4, imm22 := 150 }),
    (32, 0x81c00d68, .mfs { form := .base, d := .g 3, b := .imm, imm22 := 7 }),
    (96, 0x00002607_00000083_0000016d, .mfsExt { un := true, d := .k 3, b := .imm, imm22 := 9 }),
    (32, 0x11c40970, .iaddw { form := .base, mod := 0x1, d := .g 2, a := .g 4, b := .g 7 }),
    (96, 0x00000007_00830402_00000171, .iaddwExt { d := .g 2, a := .g 4, b := .k 3 }),
    (96, 0xfffff607_06000402_00010179, .imadw { mod := 0x1, d := .g 2, a := .g 4, b := .imm, c := .g 6, imm22 := 4194301 })]

theorem test_decode_integer_4 : reads wordsInteger4 = true := by decide +kernel

theorem test_wf_integer_4 : (wordsInteger4.all fun t => t.2.2.wf false) = true := by decide +kernel

/-- Words of lane float instructions, laid out from Tables 40 to 47 and the encoding tables of the entries. -/
def wordsFloat1 : List (Nat × Nat × Instr) := [
    (32, 0x30c20580, .fadd { form := .base, mod := 0x3, d := .g 1, a := .g 2, b := .g 3 }),
    (160, 0x00000000_3f800000_00000207_00008201_000f0182, .faddExt { form := .extLit, mod := 0xF, d := .g 1, a := .k 2, b := .imm, lit := some 0x3F800000 }),
    (32, 0x10c20588, .fsub { form := .base, mod := 0x1, d := .g 1, a := .g 2, b := .g 3 }),
    (160, 0x00000000_3f800000_00000207_00008201_000d018a, .fsubExt { form := .extLit, mod := 0xD, d := .g 1, a := .k 2, b := .imm, lit := some 0x3F800000 }),
    (32, 0x20c20590, .fmul { form := .base, mod := 0x2, d := .g 1, a := .g 2, b := .g 3 }),
    (160, 0x00000000_3f800000_00000207_00008201_000e0192, .fmulExt { form := .extLit, mod := 0xE, d := .g 1, a := .k 2, b := .imm, lit := some 0x3F800000 }),
    (32, 0x00c205b0, .fdiv { form := .base, d := .g 1, a := .g 2, b := .g 3 }),
    (160, 0x00000000_3f800000_00000207_00008201_000c01b2, .fdivExt { form := .extLit, mod := 0xC, d := .g 1, a := .k 2, b := .imm, lit := some 0x3F800000 }),
    (32, 0x00c205a0, .fmin { form := .base, d := .g 1, a := .g 2, b := .g 3 }),
    (96, 0x00000007_00030201_000801a1, .fminExt { mod := 0x8, d := .g 1, a := .g 2, b := .g 3 }),
    (32, 0x00c205a8, .fmax { form := .base, d := .g 1, a := .g 2, b := .g 3 }),
    (96, 0x00000007_00030201_000801a9, .fmaxExt { mod := 0x8, d := .g 1, a := .g 2, b := .g 3 }),
    (32, 0x200c2db8, .fsqrt { form := .base, mod := 0x2, d := .g 11, a := .g 12 }),
    (96, 0x00000007_00000c0b_000501b9, .fsqrtExt { mod := 0x5, d := .g 11, a := .g 12 }),
    (32, 0x200c2dc0, .frcp { form := .base, mod := 0x2, d := .g 11, a := .g 12 }),
    (96, 0x00000007_00000c0b_000501c1, .frcpExt { mod := 0x5, d := .g 11, a := .g 12 }),
    (32, 0x200c2dc8, .frsq { form := .base, mod := 0x2, d := .g 11, a := .g 12 }),
    (96, 0x00000007_00000c0b_000501c9, .frsqExt { mod := 0x5, d := .g 11, a := .g 12 }),
    (32, 0x200c2dd0, .fexp2 { form := .base, mod := 0x2, d := .g 11, a := .g 12 }),
    (96, 0x00000007_00000c0b_000501d1, .fexp2Ext { mod := 0x5, d := .g 11, a := .g 12 }),
    (32, 0x200c2dd8, .flog2 { form := .base, mod := 0x2, d := .g 11, a := .g 12 }),
    (96, 0x00000007_00000c0b_000501d9, .flog2Ext { mod := 0x5, d := .g 11, a := .g 12 }),
    (32, 0x200c2de0, .fsin { form := .base, mod := 0x2, d := .g 11, a := .g 12 }),
    (96, 0x00000007_00000c0b_000501e1, .fsinExt { mod := 0x5, d := .g 11, a := .g 12 })]

theorem test_decode_float_1 : reads wordsFloat1 = true := by decide +kernel

theorem test_wf_float_1 : (wordsFloat1.all fun t => t.2.2.wf false) = true := by decide +kernel

/-- Words of lane float instructions, laid out from Tables 40 to 47 and the encoding tables of the entries. -/
def wordsFloat2 : List (Nat × Nat × Instr) := [
    (32, 0x200c2de8, .fcos { form := .base, mod := 0x2, d := .g 11, a := .g 12 }),
    (96, 0x00000007_00000c0b_000501e9, .fcosExt { mod := 0x5, d := .g 11, a := .g 12 }),
    (96, 0x00000007_04030201_001d0199, .ffma { mod := 0x1D, d := .g 1, a := .g 2, b := .g 3, c := .g 4 }),
    (96, 0x00000007_00030271_00c001f1, .fset { mod := 0xC0, d := .p 1, a := .g 2, b := .g 3 }),
    (96, 0x00000007_00000201_000101f9, .fclass { mod := 0x1, d := .g 1, a := .g 2 }),
    (96, 0x00000007_00000301_000001f9, .fclass { d := .g 1, a := .g 3 }),
    (96, 0x00000007_00060402_00050201, .dadd { mod := 0x5, d := .g 2, a := .g 4, b := .g 6 }),
    (160, 0x3ff80000_00000000_00000207_00008402_0008020a, .dmul { form := .extLit, mod := 0x8, d := .g 2, a := .k 4, b := .imm, lit := some 0x3FF8000000000000 }),
    (96, 0x00000007_08060402_00130211, .dfma { mod := 0x13, d := .g 2, a := .g 4, b := .g 6, c := .g 8 }),
    (96, 0x00000007_00060402_00000219, .ddiv { d := .g 2, a := .g 4, b := .g 6 }),
    (96, 0x00000007_00860273_00600221, .dset { mod := 0x60, d := .p 3, a := .g 2, b := .k 6 }),
    (96, 0x00000007_00030201_00010229, .hadd2 { mod := 0x1, d := .g 1, a := .g 2, b := .g 3 }),
    (96, 0x00000007_00030201_00040231, .hmul2 { mod := 0x4, d := .g 1, a := .g 2, b := .g 3 }),
    (96, 0x00000007_04030201_00100239, .hfma2 { mod := 0x10, d := .g 1, a := .g 2, b := .g 3, c := .g 4 })]

theorem test_decode_float_2 : reads wordsFloat2 = true := by decide +kernel

theorem test_wf_float_2 : (wordsFloat2.all fun t => t.2.2.wf false) = true := by decide +kernel

/-- Words of real registers, laid out from Tables 40 to 47 and the encoding tables of the entries. -/
def wordsReal : List (Nat × Nat × Instr) := [
    (32, 0x101f0e40, .xmov { form := .base, mod := 0x1, d := .x 3, a := .x 31 }),
    (96, 0x00000007_00000543_00000241, .xmovExt { d := .x 3, a := .g 5 }),
    (96, 0x00000007_00004443_00020241, .xmovExt { mod := 0x2, d := .x 3, a := .x 4 }),
    (32, 0x00c20648, .xadd { form := .base, d := .x 1, a := .x 2, b := .x 3 }),
    (96, 0x00000004_00434241_00000249, .xaddExt { d := .x 1, a := .x 2, b := .x 3, pred := 4 }),
    (32, 0x00c27a50, .xsub { form := .base, d := .x 30, a := .x 2, b := .x 3 }),
    (96, 0x00000007_00434241_00000251, .xsubExt { d := .x 1, a := .x 2, b := .x 3 }),
    (32, 0x00c20658, .xmul { form := .base, d := .x 1, a := .x 2, b := .x 3 }),
    (96, 0x00000007_00434241_00000259, .xmulExt { d := .x 1, a := .x 2, b := .x 3 }),
    (96, 0x00000007_00434241_00000261, .xdiv { d := .x 1, a := .x 2, b := .x 3 }),
    (96, 0x00000007_00434241_00000271, .xmin { d := .x 1, a := .x 2, b := .x 3 }),
    (96, 0x00000007_00434241_00000279, .xmax { d := .x 1, a := .x 2, b := .x 3 }),
    (96, 0x00000007_00004241_00000269, .xsqrt { d := .x 1, a := .x 2 }),
    (96, 0x00000007_00734271_00000281, .xsgn { d := .p 1, a := .x 2, b := .p 3 }),
    (96, 0x00000007_00434271_00a00289, .xcmp { mod := 0xA0, d := .p 1, a := .x 2, b := .x 3 }),
    (96, 0x00000007_00004201_00020291, .xbnd { mod := 0x2, d := .g 1, a := .x 2 }),
    (96, 0x00000007_00004241_00000299, .sever { d := .x 1, a := .x 2 }),
    (96, 0x00000007_00004241_000002a1, .snap { d := .x 1, a := .x 2 }),
    (96, 0x00001407_00004241_000002a9, .xref { d := .x 1, a := .x 2, imm22 := 5 }),
    (96, 0x00000007_00000302_003902b1, .cvt { mod := 0x39, d := .g 2, a := .g 3 }),
    (96, 0x00000007_00008442_03bc02b1, .cvt { mod := 0x3BC, d := .x 2, a := .k 4 }),
    (96, 0x00000007_00000302_007102b9, .cvtf { mod := 0x71, d := .g 2, a := .g 3 })]

theorem test_decode_real : reads wordsReal = true := by decide +kernel

theorem test_wf_real : (wordsReal.all fun t => t.2.2.wf false) = true := by decide +kernel

/-- Words of memory, streams and packing, laid out from Tables 40 to 47 and the encoding tables of the entries. -/
def wordsMemory : List (Nat × Nat × Instr) := [
    (32, 0xa0ff0ac0, .ld { form := .base, mod := 0x2, d := .g 2, a := .a 3, imm22 := 63 }),
    (32, 0x00c10ac0, .ld { form := .base, mod := 0x1000, d := .g 2, a := .a 3, b := .g 1 }),
    (32, 0xd3ff52c8, .st { form := .base, mod := 0x5, d := .g 20, a := .a 15, imm22 := 504 }),
    (32, 0x80c056c8, .st { form := .base, d := .g 21, a := .a 3 }),
    (96, 0x00000012_3456789a_80c00ac3, .ldExt { form := .baseLit, d := .g 2, a := .a 3, lit := some 0x123456789A }),
    (96, 0xffffc077_00056443_940602c1, .ldExt { mod := 0x9406, d := .x 3, a := .a 4, b := .g 5, imm22 := 4194288, scope := 7 }),
    (96, 0x00040007_00000604_002502c1, .ldExt { mod := 0x25, d := .g 4, a := .g 6, imm22 := 256 }),
    (96, 0x00010107_00000004_011002c9, .stExt { mod := 0x110, d := .g 4, a := .imm, imm22 := 64 }),
    (96, 0x00400007_00006304_220502d1, .ldx { mod := 0x2205, d := .g 4, a := .a 3, imm22 := 4096 }),
    (96, 0x00008007_00006108_008102d9, .ldv { mod := 0x81, d := .g 8, a := .a 1, imm22 := 32 }),
    (96, 0x00000007_00008304_002002e1, .stv { mod := 0x20, d := .g 4, a := .k 3 }),
    (96, 0x00000007_72038804_004502e9, .ldb { mod := 0x45, d := .g 4, a := .k 8, b := .g 3, c := .p 2 }),
    (96, 0x00002a57_77008804_800102f1, .stb { mod := 0x8001, d := .g 4, a := .k 8, b := .imm, c := .p 7, imm22 := 10, scope := 5 }),
    (96, 0x00001007_84000302_002e02f9, .atom { mod := 0x2E, d := .g 2, a := .g 3, c := .k 4, imm22 := 4 }),
    (96, 0x00000707_00046300_148002f9, .atom { mod := 0x1480, a := .a 3, b := .g 4, c := .imm, imm22 := 1 }),
    (96, 0x00000087_05006302_80000301, .cas { mod := 0x8000, d := .g 2, a := .a 3, c := .g 5, scope := 8 }),
    (96, 0x00000057_00000000_80000309, .fence { mod := 0x8000, scope := 5 }),
    (96, 0x000000a2_00000000_80000309, .fence { mod := 0x8000, scope := 10, pred := 2 }),
    (96, 0x00000007_00026400_12000311, .mon { mod := 0x1200, a := .a 4, b := .g 2 }),
    (96, 0x00000007_00000000_00000319, .mwait {}),
    (96, 0x0003fc07_00008c78_00000321, .sbind { d := .q 0, a := .k 12, imm22 := 255 }),
    (96, 0x00000007_0000007b_00010321, .sbind { mod := 0x1, d := .q 3 }),
    (96, 0x00000007_00000201_00f50329, .sxp { mod := 0xF5, d := .g 1, a := .g 2 }),
    (96, 0x00000007_00000201_00070331, .sxu { mod := 0x7, d := .g 1, a := .g 2 })]

theorem test_decode_memory : reads wordsMemory = true := by decide +kernel

theorem test_wf_memory : (wordsMemory.all fun t => t.2.2.wf false) = true := by decide +kernel

/-- Words of arrival words, pegs and matrix commands, laid out from Tables 40 to 47 and the encoding tables of the entries. -/
def wordsEngine : List (Nat × Nat × Instr) := [
    (96, 0x00000e07_00001400_00000339, .aset { a := .g 20, b := .imm, imm22 := 3 }),
    (160, 0x00000000_00000001_00040207_00001400_00000342, .await { form := .extLit, a := .g 20, b := .imm, imm22 := 256, lit := some 0x1 }),
    (96, 0x00010007_00858400_00000349, .kick { a := .k 4, b := .k 5, imm22 := 64 }),
    (96, 0x00000007_00860000_00450351, .padv { mod := 0x45, b := .k 6 }),
    (96, 0x00000607_00000000_00030359, .pwait { mod := 0x3, b := .imm, imm22 := 1 }),
    (96, 0x00051407_03020000_1a220361, .mma { mod := 0x1A22, a := .g 0, b := .g 2, c := .g 3, imm22 := 325 }),
    (96, 0x00002407_88628684_48000369, .mmas { mod := 0x4800, d := .k 4, a := .k 6, b := .a 2, c := .k 8, imm22 := 9 }),
    (160, 0x00000000_00100400_00000307_00050400_18220372, .mconv { form := .extLit, mod := 0x1822, a := .g 4, b := .g 5, c := .imm, lit := some 0x100400 }),
    (96, 0x0001fc07_00000000_02000379, .mzero { mod := 0x200, imm22 := 127 }),
    (96, 0x00001c07_86008500_08010381, .mldc { mod := 0x801, a := .k 5, c := .k 6, imm22 := 7 }),
    (96, 0x08001c07_86000000_0c000381, .mldc { mod := 0xC00, c := .k 6, imm22 := 131079 }),
    (96, 0x01000807_07006500_01120389, .mstc { mod := 0x112, a := .a 5, c := .g 7, imm22 := 16386 }),
    (96, 0x00003c07_00000000_00000391, .guard { imm22 := 15 }),
    (96, 0x00000004_00738800_00000399, .gset { a := .k 8, b := .p 3, pred := 4 })]

theorem test_decode_engine : reads wordsEngine = true := by decide +kernel

theorem test_wf_engine : (wordsEngine.all fun t => t.2.2.wf false) = true := by decide +kernel

/-- Words of search, storage, tasks and launches, laid out from Tables 40 to 47 and the encoding tables of the entries. -/
def wordsSearch : List (Nat × Nat × Instr) := [
    (96, 0x00020207_fe000444_027303a1, .dist { mod := 0x273, d := .x 4, a := .g 4, b := .imm, c := .k 126, imm22 := 128 }),
    (96, 0x00002a07_00008200_000403a9, .topkClr { mod := 0x4, a := .k 2, b := .imm, imm22 := 10 }),
    (96, 0x00010007_84430200_000103a9, .topkIns { mod := 0x1, a := .g 2, b := .x 3, c := .k 4, imm22 := 64 }),
    (96, 0x00000e07_47008605_000203a9, .topkRd { mod := 0x2, d := .g 5, a := .k 6, b := .imm, c := .x 7, imm22 := 3 }),
    (96, 0xffff0007_00006300_004503b1, .stload { mod := 0x45, a := .a 3, imm22 := 4194240 }),
    (96, 0x00010007_00006504_000003b9, .task { d := .g 4, a := .a 5, imm22 := 64 }),
    (96, 0xffffe407_00000090_000003c5, .tnext { un := true, d := .k 16, imm22 := 4194297 }),
    (160, 0x00000000_01000000_00000007_00000090_000003c6, .tnext { form := .extLit, un := true, d := .k 16, lit := some 0x1000000 }),
    (96, 0x00040007_00006504_000003c9, .launch { d := .g 4, a := .a 5, imm22 := 256 })]

theorem test_decode_search : reads wordsSearch = true := by decide +kernel

theorem test_wf_search : (wordsSearch.all fun t => t.2.2.wf false) = true := by decide +kernel

/-- Words of choice instructions, laid out from Tables 40 to 47 and the encoding tables of the entries. -/
def wordsChoice : List (Nat × Nat × Instr) := [
    (96, 0x00002207_00000001_ffff03d1, .tryOpen { mod := 0xFFFF, d := .g 1, b := .imm, imm22 := 8 }),
    (96, 0x00000007_00830001_000503d1, .tryOpen { mod := 0x5, d := .g 1, b := .k 3 }),
    (96, 0xfffff407_00000000_000003d9, .fail { imm22 := 4194301 }),
    (160, 0x00000000_01000040_00000007_00000000_000003da, .fail { form := .extLit, lit := some 0x1000040 }),
    (96, 0x00000007_00000009_000003e1, .mark { d := .g 9 }),
    (96, 0x00000907_00000000_000007e1, .cut { a := .imm, imm22 := 2 }),
    (96, 0x00001407_00000009_00000be1, .steal { d := .g 9, imm22 := 5 }),
    (96, 0x00000007_00000000_00010fe1, .trail { mod := 0x1 })]

theorem test_decode_choice : reads wordsChoice = true := by decide +kernel

theorem test_wf_choice : (wordsChoice.all fun t => t.2.2.wf false) = true := by decide +kernel

/-- Words of system and debug instructions, laid out from Tables 40 to 47 and the encoding tables of the entries. -/
def wordsSystem : List (Nat × Nat × Instr) := [
    (96, 0x7ffffc07_00000000_000003e9, .trap { imm22 := 2097151 }),
    (96, 0x00013407_00008684_000007ed, .sysc { un := true, d := .k 4, a := .k 6, imm22 := 77 }),
    (96, 0x00000007_73000200_00000be9, .eret { a := .g 2, c := .p 3 }),
    (96, 0x00000007_00890084_10000fed, .mfsr { un := true, mod := 0x1000, d := .k 4, b := .k 9 }),
    (96, 0x00048c07_00000006_000013e9, .mtsr { d := .g 6, imm22 := 291 }),
    (96, 0x00000077_00040000_800117e9, .tlbi { mod := 0x8001, b := .g 4, scope := 7 }),
    (96, 0x00001267_00006500_80001be9, .cflush { mod := 0x8000, a := .a 5, b := .imm, imm22 := 4, scope := 6 }),
    (96, 0xffff0007_00836500_00001fe9, .cinv { a := .a 5, b := .k 3, imm22 := 4194240 }),
    (96, 0x00019107_00000000_000023e9, .waiti { a := .imm, imm22 := 100 }),
    (96, 0x00000007_00000000_000127e9, .acct { mod := 0x1 }),
    (96, 0x00001b07_00056204_000203f1, .gauge { mod := 0x2, d := .g 4, a := .a 2, b := .g 5, c := .imm, imm22 := 6 }),
    (96, 0x00002607_74000201_000007f1, .hread { d := .g 1, a := .g 2, b := .imm, c := .p 4, imm22 := 9 }),
    (96, 0x00000007_77858201_00000bf1, .hwrite { d := .g 1, a := .k 2, b := .k 5, c := .p 7 }),
    (96, 0x00000007_71000200_00010ff1, .hstep { mod := 0x1, a := .g 2, c := .p 1 }),
    (96, 0x00000007_77008200_000013f1, .hrun { a := .k 2, c := .p 7 }),
    (96, 0x00000007_00000204_000017f1, .hstat { d := .g 4, a := .g 2 }),
    (96, 0x00000e07_00006100_00021bf1, .sample { mod := 0x2, a := .a 1, b := .imm, imm22 := 3 }),
    (96, 0x00003c07_00008200_00001ff1, .trace { a := .k 2, imm22 := 15 }),
    (96, 0x00001d07_00830002_000123f1, .cntr { mod := 0x1, d := .g 2, a := .imm, b := .k 3, imm22 := 7 })]

theorem test_decode_system : reads wordsSystem = true := by decide +kernel

theorem test_wf_system : (wordsSystem.all fun t => t.2.2.wf false) = true := by decide +kernel

/-- Words that the entries and the programs of the manual write out. -/
theorem test_decode_manual : reads [
    (32, 0x20810d80, .fadd { form := .base, mod := 2, d := .g 3, a := .g 1, b := .g 2 }),
    (32, 0x00021a50, .xsub { form := .base, d := .x 6, a := .x 2, b := .x 0 }),
    (32, 0x40c10938, .iset { form := .base, mod := 0x80, d := .p 2, a := .g 1, b := .g 3 }),
    (32, 0x80040538, .iset { form := .base, d := .p 1, a := .g 4, b := .imm }),
    (96, 0x00000007_00454473_00400289, .xcmp { mod := 0x40, d := .p 3, a := .x 4, b := .x 5 }),
    (96, 0x00000007_00000605_001302b9, .cvtf { mod := 0x13, d := .g 5, a := .g 6 }),
    (96, 0x00000057_00000000_80000309, .fence { mod := 0x8000, scope := 5 }),
    (160, 0x00000000_00000001_00040207_00001400_00000342, .await { form := .extLit, a := .g 20, b := .imm, imm22 := 0x100, lit := some 1 }),
    (96, 0x00020807_06050000_1f220361, .mma { mod := 0x1F22, b := .g 5, c := .g 6, imm22 := 130 }),
    (96, 0x00000004_00006600_004003b1, .stload { mod := 0x40, a := .a 6, pred := 4 }),
    (96, 0x00000a07_00000004_000b03d1, .tryOpen { mod := 0xB, d := .g 4, b := .imm, imm22 := 2 }),
    (96, 0x0000d802_00000000_000003d9, .fail { imm22 := 54, pred := 2 }),
    (96, 0x00000c07_00000004_00000be1, .steal { d := .g 4, imm22 := 3 }),
    (96, 0x00000007_00000000_00010fe1, .trail { mod := 1 }),
    (96, 0x00000c07_00009694_000007ed, .sysc { un := true, d := .k 20, a := .k 22, imm22 := 3 }),
    (96, 0x00400107_00000000_000023e9, .waiti { a := .imm, imm22 := 4096 }),
    (96, 0x00800107_00080006_000023f1, .cntr { d := .g 6, a := .imm, b := .g 8, imm22 := 0x2000 })] = true := by decide +kernel

/-- Words that are no instruction of a lane stream, with the cause of Table 48 that each shows. -/
theorem test_decode_refuses : ([
    (1, [0x000003f8]),
    (1, [0x000003f9, 0x00000000, 0x00000007]),
    (2, [0x000013e1, 0x00000000, 0x00000007]),
    (2, [0x00000481, 0x00000000, 0x00000007]),
    (3, [0x00000010]),
    (3, [0x00000003, 0x00000000, 0x00000000]),
    (3, [0x80400083, 0x00000000, 0x00000000]),
    (3, [0x8000004b, 0x00000000, 0x00000000]),
    (4, [0x80000000]),
    (4, [0x10000090]),
    (4, [0x00010091, 0x00000000, 0x00000007]),
    (4, [0x00000081, 0x00000000, 0x0000000f]),
    (4, [0x00003c08]),
    (4, [0x600002c0]),
    (4, [0x040002c0]),
    (4, [0x80000180]),
    (4, [0x00000001, 0x00000001, 0x00000007]),
    (4, [0x00000081, 0x00000000, 0x00000407]),
    (5, [0x00000081, 0x00000040, 0x00000007]),
    (5, [0x00008248]),
    (5, [0x00002160]),
    (5, [0x00000249, 0x00004440, 0x00000007]),
    (5, [0x008002f9, 0x00006001, 0x00000007]),
    (6, [0x80000309, 0x00000000, 0x000000b7]),
    (6, [0x000002c1, 0x00006000, 0x00000057]),
    (6, [0x801002c1, 0x00000000, 0x00000067]),
    (7, [0x00000085, 0x00020201, 0x00000007]),
    (7, [0x00000081, 0x00828180, 0x00000007]),
    (7, [0x0000024d, 0x00424140, 0x00000007]),
    (8, [0x00000081, 0x00000000, 0x00000107]),
    (8, [0x00000082, 0x00000000, 0x00000007, 0x00000001, 0x00000000]),
    (8, [0x00000082, 0x00000000, 0x00000207, 0x00000000, 0x00000001]),
    (8, [0x000003ea, 0x00000000, 0x00000007, 0x00000005, 0x00000000]),
    (8, [0x00000201, 0x00000000, 0x00000207])] : List (Nat × List Word)).all
    (fun t => decodeWords false t.2 == .error t.1) = true := by decide +kernel

/-! Ill-formed terms, each refused by the check it is meant for. -/

/-- A well-formed extended IADD, to be spoilt below. -/
def goodAdd : Op := { d := .g 1, a := .g 2, b := .g 3 }

theorem test_wf_good : (Instr.iaddExt goodAdd).wf false = true := by decide +kernel

/-- Form and literal: a literal in a form without one, a literal form without one, a base row in an extended form and the
reverse (Table 41). -/
theorem test_wf_forms : [Instr.iaddExt { goodAdd with lit := some 1 }, .iaddExt { goodAdd with form := .extLit },
    .iadd goodAdd, .iaddExt { goodAdd with form := .base }, .iadd { goodAdd with form := .baseLit, lit := some 1 },
    .imad { goodAdd with form := .base }].all (fun i => !i.wf false) = true := by decide +kernel

/-- Slots: a class that the slot does not accept, a slot left empty, a slot that must be empty, two immediates, an immediate
in D (R113, R116; causes 4, 5 and 8). -/
theorem test_wf_slots : [Instr.iaddExt { goodAdd with d := .x 1 }, .iaddExt { goodAdd with b := .none },
    .iaddExt { goodAdd with c := .g 1 }, .iaddExt { goodAdd with d := .imm }, .iaddExt { goodAdd with a := .imm },
    .imad { goodAdd with b := .imm, c := .imm }, .xaddExt { d := .x 1, a := .x 2, b := .g 3 },
    .dist { d := .x 1, a := .g 1, b := .g 2, c := .k 127 }].all (fun i => !i.wf false) = true := by decide +kernel

/-- Modifiers, scope and IMM22: a reserved MOD bit, a reserved code, a scope without SCOPED, scope 11, a typed scope above
BAY, IMM22 without a use, a reserved field of IMM22 (R114, Table 44; causes 4 and 6). -/
theorem test_wf_modifiers : [Instr.iaddExt { goodAdd with mod := 4 }, .isetExt { d := .p 1, a := .g 1, b := .g 2, mod := 0xC0 },
    .iaddExt { goodAdd with scope := 1 }, .ldExt { d := .g 1, a := .a 1, scope := 5 }, .fence { mod := 0x8000, scope := 11 },
    .ldExt { d := .g 1, a := .g 1, mod := 0x8020, scope := 6 }, .iaddExt { goodAdd with imm22 := 1 }, .barExt { imm22 := 16 },
    .mma { a := .a 1, b := .a 2, c := .g 1, imm22 := 64 }, .fence {}].all (fun i => !i.wf false) = true := by decide +kernel

/-- Predicate, UN and immediates: (!P7), a predicated BAR, UN with a lane source, a K destination without UN, TNEXT without
UN, MFS of a code beyond 13, an FP64 immediate of 22 bits, a wide literal for a narrow operand (R109, R117, R138,
R149; causes 4, 7 and 8). -/
theorem test_wf_late : [Instr.iaddExt { goodAdd with neg := true }, .barExt { pred := 1 }, .iaddExt { goodAdd with un := true },
    .iaddExt { d := .k 1, a := .k 2, b := .k 3 }, .tnext { d := .k 4 }, .mfsExt { d := .g 1, b := .imm, imm22 := 14 },
    .dadd { d := .g 2, a := .g 4, b := .imm, imm22 := 1 },
    .iaddExt { goodAdd with form := .extLit, b := .imm, lit := some 0x100000000 },
    .xaddExt { d := .x 1, a := .x 2, b := .x 3, un := true }, .mark { d := .g 1, un := true }].all
    (fun i => !i.wf false) = true := by decide +kernel

/-- Base layouts: a register that no base field names, an undefined FN, an immediate beyond 6 bits, a displacement beyond 18
bits, an offset beyond 63 sizes or no multiple of the size, a predicate in B3 (R105 to R110). -/
theorem test_wf_base : [Instr.iadd { goodAdd with form := .base, a := .k 2 }, .iadd { goodAdd with form := .base, mod := 4 },
    .iadd { goodAdd with form := .base, b := .imm, imm22 := 32 }, .bra { form := .base, imm22 := 131072 },
    .ret { form := .base, imm22 := 1 }, .ld { form := .base, d := .g 1, a := .a 1, imm22 := 256 },
    .ld { form := .base, d := .g 1, a := .a 1, imm22 := 2 }, .ld { form := .base, mod := 6, d := .g 1, a := .a 1 },
    .iadd { goodAdd with form := .base, pred := 1 }, .bar { form := .base, imm22 := 16 }, .nop { form := .base, d := .g 0 },
    .retExt { form := .baseLit, lit := some 0 }].all (fun i => !i.wf false) = true := by decide +kernel

/-- Events have no words. -/
theorem test_wf_events : [Instr.groupRetire 0, .getVersion, .issueChoice 0 0 1].all (fun i => !i.wf false && !i.wf true) = true := by
  decide +kernel


/-! One step of single instructions, on the manual's worked examples. -/

/-- One privileged lane, picked to issue, in a bent that holds its bay's claim. -/
def lab : State := State.reset.withProgram []

/-- Registers G of lane 0. -/
def State.withG (s : State) (rs : List (Nat × Word)) : State :=
  s.onLane 0 0 0 fun x => rs.foldl (fun x p => x.setG p.1 p.2) x

/-- Registers X of lane 0. -/
def State.withX (s : State) (rs : List (Nat × XReg)) : State :=
  s.onLane 0 0 0 fun x => rs.foldl (fun x p => x.setX p.1 p.2) x

/-- Registers K and A of the group. -/
def State.withKA (s : State) (ks : List (Nat × Word)) (as : List (Nat × DWord)) : State :=
  s.onGroup 0 fun g => as.foldl (fun g p => g.setA p.1 p.2) (ks.foldl (fun g p => g.setK p.1 p.2) g)

/-- A state whose memory holds some bytes from an address up. -/
def State.holding (s : State) (pa : Nat) (bs : List Byte) : State := { s with mem := memPutBytes s.mem pa bs }

/-- `n` lanes in one weave, all in the issuing fibre. -/
def State.lanesWide (s : State) (n : Nat) : State :=
  (s.onGroup 0 fun g => { g with size := n }).onWeave 0 0 fun v =>
    { v with size := n, fibres := v.fibres.map fun f => { f with lanes := maskOf (List.range n) } }

/-- The state after one instruction; the state after reset where it does not complete. -/
def after (i : Instr) (s : State) : State :=
  match exec i s with
  | .next t => t
  | _ => State.reset

/-- Operands in G1, G2 and G3 of lane 0. -/
def given3 (a b c : Word) : State := lab.withG [(1, a), (2, b), (3, c)]

/-- G0 of lane 0, and its sticky status. -/
def result (i : Instr) (s : State) : Word × Flags := let x := (after i s).lane 0 0 0; (x.gAt 0, x.sticky)

/-- G0 and G1 of lane 0 as a pair, and its sticky status. -/
def result2 (i : Instr) (s : State) : DWord × Flags :=
  let x := (after i s).lane 0 0 0; (pairOf (x.gAt 0) (x.gAt 1), x.sticky)

/-- Two sources and G0. -/
def two (mod : BitVec 16 := 0) : Op := { mod := mod, d := .g 0, a := .g 1, b := .g 2 }
/-- One source and G0. -/
def one (mod : BitVec 16 := 0) : Op := { mod := mod, d := .g 0, a := .g 1 }
/-- Three sources and G0. -/
def three (mod : BitVec 16 := 0) : Op := { mod := mod, d := .g 0, a := .g 1, b := .g 2, c := .g 3 }

/-- The examples of Table 57. -/
theorem test_integer_examples : [(Instr.iaddExt (two 2), 0x7FFFFFF0, 0x20, 0, 0x7FFFFFFF, flagOF),
    (.isubExt (two), 3, 5, 0, 0xFFFFFFFE, 0), (.imulExt (two), 0x10000, 0x10001, 0, 0x10000, 0),
    (.imad (three), 3, 4, 5, 17, 0), (.imulhExt (two 1), 0xFFFFFFFF, 0xFFFFFFFF, 0, 0xFFFFFFFE, 0),
    (.idivExt (two), 0xFFFFFFF9, 2, 0, 0xFFFFFFFD, 0), (.idivExt (two), 7, 0, 0, 0xFFFFFFFF, flagDZ),
    (.iremExt (two), 0xFFFFFFF9, 2, 0, 0xFFFFFFFF, 0), (.iminExt (two 1), 0xFFFFFFFF, 1, 0, 1, 0),
    (.imaxExt (two), 0xFFFFFFFF, 1, 0, 1, 0), (.iabsExt (one), 0xFFFFFFF9, 0, 0, 7, 0),
    (.iabsExt (one 2), 0x80000000, 0, 0, 0x7FFFFFFF, flagOF), (.andnExt (two), 0xF0F0, 0x0FF0, 0, 0xF000, 0),
    (.shlExt (two), 1, 32, 0, 0, 0), (.shrExt (two), 0x80000000, 31, 0, 1, 0),
    (.sarExt (two), 0x80000000, 40, 0, 0xFFFFFFFF, 0), (.rolExt (two), 0x80000001, 1, 0, 3, 0),
    (.clzExt (one), 1, 0, 0, 31, 0), (.popcExt (one), 0xF0F, 0, 0, 8, 0), (.brevExt (one), 1, 0, 0, 0x80000000, 0),
    (.bfxExt (two), 0xF00, 0x408, 0, 0xFFFFFFFF, 0), (.bfxExt (two 1), 0xF00, 0x408, 0, 0xF, 0),
    (.bfi (three), 5, 0x404, 0xFFFFFFFF, 0xFFFFFF5F, 0)].all
    (fun t => result t.1 (given3 t.2.1 t.2.2.1 t.2.2.2.1) == t.2.2.2.2) = true := by decide +kernel

theorem test_wide_examples :
    (result2 (.iaddwExt { d := .g 0, a := .g 2, b := .g 4 }) (lab.withG [(2, 0xFFFFFFFF), (4, 1)]) == (0x100000000, 0) &&
    result2 (.imadw { mod := 1, d := .g 0, a := .g 2, b := .g 3, c := .g 4 }) (lab.withG [(2, 0xFFFFFFFF), (3, 2)]) ==
      (0x1FFFFFFFE, 0) &&
    ((after (.lea { un := true, mod := 3, d := .a 1, a := .a 3, b := .k 6, imm22 := 16 })
      (lab.withKA [(6, 3)] [(3, 0x40000000)])).group 0).map (·.aAt 1) == some 0x40000028) = true := by decide +kernel

/-- ISET, SEL, MOV, MOVI, PLOP (R147's example), MFS and VOTE.BALLOT. -/
theorem test_moves : ((((after (.isetExt { mod := 0x40, d := .p 1, a := .g 1, b := .g 2 }) (given3 0xFFFFFFFF 1 0)).lane 0 0 0).pred 1) &&
    !(((after (.isetExt { mod := 0x41, d := .p 1, a := .g 1, b := .g 2 }) (given3 0xFFFFFFFF 1 0)).lane 0 0 0).pred 1) &&
    result (.sel { d := .g 0, a := .g 1, b := .g 2, c := .p 3 }) (given3 5 6 0) == (6, 0) &&
    result (.movExt (one)) (given3 5 6 0) == (5, 0) && result (.moviExt { d := .g 0, b := .imm, imm22 := 0x3FFFFF }) lab == (0xFFFFFFFF, 0) &&
    !(((after (.plop { form := .base, d := .p 3, a := .p 1, b := .p 2 })
      (lab.onLane 0 0 0 fun x => (x.setPred 1 true).setPred 3 true)).lane 0 0 0).pred 3) &&
    ((after (.mfsExt { d := .g 0, b := .imm }) (lab.lanesWide 4)).lane 0 0 3).gAt 0 == 3 &&
    result2 (.vote { mod := 3, d := .g 0, a := .p 1 }) ((lab.lanesWide 4).onLane 0 0 2 fun x => x.setPred 1 true) == (4, 0)) = true := by
  decide +kernel

/-- The examples of Table 60 and Table 61. -/
theorem test_float_examples : [(Instr.faddExt (two 2), 0x3F800000, 0x33800000, 0, 0x3F800001, flagNX),
    (.faddExt (two), 0x3F800000, 0x33800000, 0, 0x3F800000, flagNX), (.fsubExt (two 3), 0x3F800000, 0x3F800000, 0, 0x80000000, 0),
    (.fmulExt (two), 0x00800000, 0x3F000000, 0, 0x00400000, 0), (.ffma (three 0x10), 0x3F800001, 0x3F7FFFFF, 0x3F800000, 0x337FFFFE, 0),
    (.fminExt (two), 0, 0x80000000, 0, 0x80000000, 0), (.fdivExt (two), 0x3F800000, 0, 0, 0x7F800000, flagDZ),
    (.fclass (one), 1, 0, 0, 0x80, 0), (.hadd2 (two), 0x7BFF3C00, 0x3C003C00, 0, 0x7BFF4000, flagNX),
    (.fsqrtExt (one), 0x40000000, 0, 0, 0x3FB504F3, flagNX), (.frcpExt (one), 0x40800000, 0, 0, 0x3E800000, 0),
    (.frsqExt (one), 0x40800000, 0, 0, 0x3F000000, 0), (.fexp2Ext (one), 0x40400000, 0, 0, 0x41000000, 0),
    (.flog2Ext (one), 0x41000000, 0, 0, 0x40400000, 0), (.fsinExt (one), 0x3F000000, 0, 0, 0x3F800000, 0),
    (.fcosExt (one), 0x3F800000, 0, 0, 0xBF800000, 0), (.cvt { d := .g 0, a := .g 1, mod := 12 <<< 2 }, 0x40200000, 0, 0, 2, flagNX),
    (.cvt { d := .g 0, a := .g 1, mod := 12 <<< 2 ||| 3 }, 0xC0200000, 0, 0, 0xFFFFFFFD, flagNX),
    (.cvt { d := .g 0, a := .g 1, mod := 8 <<< 2 ||| 12 <<< 6 }, 300, 0, 0, 0x7F, flagIV)].all
    (fun t => result t.1 (given3 t.2.1 t.2.2.1 t.2.2.2.1) == t.2.2.2.2) = true := by decide +kernel

theorem test_double_examples :
    (result2 (.dadd { d := .g 0, a := .g 2, b := .g 4 })
      (lab.withG [(2, 0x9999999A), (3, 0x3FB99999), (4, 0x9999999A), (5, 0x3FC99999)]) == (0x3FD3333333333334, flagNX) &&
    result2 (.ddiv { d := .g 0, a := .g 2, b := .g 4 }) (lab.withG [(3, 0x3FF00000), (5, 0x40080000)]) ==
      (0x3FD5555555555555, flagNX) &&
    !((after (.fset { mod := 0x40, d := .p 1, a := .g 1, b := .g 2 })
      ((given3 0x7FC00000 0x3F800000 0).onLane 0 0 0 fun x => x.setPred 1 true)).lane 0 0 0).pred 1) = true := by decide +kernel

/-- Table 38: the same value narrowed four times with its residue. -/
theorem test_cvtf_feedback :
    let i : Instr := .cvtf { mod := 0x13, d := .g 0, a := .g 1 }
    let s1 := after i (lab.withG [(1, 0x3F880000)])
    let again (s : State) : State := { s with cur := some ⟨0, 0, 0⟩ }
    let s2 := after i (again s1)
    ((s1.lane 0 0 0).gAt 0 == 0x38 && (s2.lane 0 0 0).gAt 0 == 0x39) = true := by decide +kernel

/-- The interval of an X register of lane 0. -/
def boundsAfter (i : Instr) (s : State) (n : Nat) : Word × Word := let x := ((after i s).lane 0 0 0).xAt n; (x.lo, x.hi)

/-- A point. -/
def pt (w : Word) : XReg := { lo := w, hi := w, exact := true }

/-- The examples of Table 63, of R155 and of R157. -/
theorem test_interval_examples :
    (boundsAfter (.xsubExt { d := .x 6, a := .x 2, b := .x 1 }) (lab.withX [(2, pt 0x3F800000), (1, pt 1)]) 6 ==
      (0x3F7FFFFF, 0x3F800000) &&
    boundsAfter (.xdiv { d := .x 3, a := .x 1, b := .x 2 }) (lab.withX [(1, pt 0x3F800000), (2, pt 0x40400000)]) 3 ==
      (0x3EAAAAAA, 0x3EAAAAAB) &&
    boundsAfter (.xsqrt { d := .x 3, a := .x 1 }) (lab.withX [(1, pt 0x40000000)]) 3 == (0x3FB504F3, 0x3FB504F4) &&
    boundsAfter (.xmovExt { mod := 1, d := .x 3, a := .x 1 }) (lab.withX [(1, { lo := 0x3F800000, hi := 0x40000000 })]) 3 ==
      (0xC0000000, 0xBF800000) &&
    (((after (.xmovExt { d := .x 3, a := .k 7 }) (lab.withKA [(7, 0x7F800000)] [])).lane 0 0 0).xAt 3).invalid &&
    boundsAfter (.snap { d := .x 3, a := .x 1 }) (lab.withX [(1, { lo := 0x3F800000, hi := 0x3F800001 })]) 3 ==
      (0x3F800000, 0x3F800000) &&
    ((after (.xcmp { mod := 0x40, d := .p 3, a := .x 4, b := .x 5 })
      (lab.withX [(4, { lo := 0x3F800000, hi := 0x40000000 }), (5, pt 0x40400000)])).lane 0 0 0).pred 3) = true := by
  decide +kernel

/-- CALL of R135's example, its offsets kept: the window, the return point and the target. -/
theorem test_call :
    let t := after (.call { form := .base, imm22 := 20 }) lab
    ((t.fibre ⟨0, 0, 0⟩).map (fun f => (f.pc, f.wb)) == some (0x1000050, 16) &&
      (t.lane 0 0 0).gAt 16 == 0x1000004 && (t.lane 0 0 0).gAt 17 == 0) = true := by decide +kernel

/-- (P3) EXIT in lanes 0 and 1 of a fibre of eight (R137's example). -/
theorem test_exit :
    let s := [0, 1].foldl (fun s l => s.onLane 0 0 l fun x => x.setPred 3 true) (lab.lanesWide 8)
    ((after (.exitExt { pred := 3 }) s).fibre ⟨0, 0, 0⟩).map (fun f => (f.lanes, f.pc)) = some (0xFC, 0x100000C) := by decide +kernel

/-- A loop counter of 2 goes to 1 and branches; one of 1 goes to 0 and falls through (R140). -/
theorem test_loop :
    let i : Instr := .loop { un := true, d := .k 5, imm22 := 0x3FFFFE }
    (((after i (lab.withKA [(5, 2)] [])).fibre ⟨0, 0, 0⟩).map (·.pc) == some 0xFFFFF8 &&
      ((after i (lab.withKA [(5, 1)] [])).fibre ⟨0, 0, 0⟩).map (·.pc) == some 0x100000C) = true := by decide +kernel

/-- SHFL.DOWN by 1: lane 0 reads lane 1; the last lane keeps its own value and clears P1 (R143). -/
theorem test_shfl :
    let s := (List.range 4).foldl (fun s l => s.onLane 0 0 l fun x => x.setG 1 (BitVec.ofNat 32 (10 * l))) (lab.lanesWide 4)
    let t := after (.shfl { mod := 2, d := .g 0, a := .g 1, b := .imm, c := .p 1, imm22 := 1 }) s
    ([0, 1, 2, 3].map fun l => ((t.lane 0 0 l).gAt 0, (t.lane 0 0 l).pred 1)) =
      [(10, true), (20, true), (30, true), (30, false)] := by decide +kernel

/-- LD of a word and of a signed byte, ST of a halfword, at a mapped address (R203). -/
theorem test_load_store :
    let s := ((lab.putNat 0x50010 4 0xCAFE80).withG [(1, 0x10), (4, 0x12345678)]).withKA [] [(3, 0x50000)]
    (((after (.ld { form := .base, mod := 0x1000, d := .g 2, a := .a 3, b := .g 1 }) s).lane 0 0 0).gAt 2 == 0xCAFE80 &&
      ((after (.ldExt { mod := 1, d := .g 2, a := .a 3, imm22 := 0x10 }) s).lane 0 0 0).gAt 2 == 0xFFFFFF80 &&
      memNat (after (.stExt { mod := 3, d := .g 4, a := .a 3, imm22 := 0x10 }) s) 0x5000F 6 == 0xCA567800) = true := by
  decide +kernel

/-- ATOM.ADD of R207's example, and CAS of Table 96: lane 0 succeeds, lane 1 sees its 1. -/
theorem test_atomics :
    let a := after (.atom { mod := 0x1400, d := .g 9, a := .a 3, b := .g 4, c := .imm, imm22 := 1 })
      (((lab.putNat 0x5000C 4 1).withG [(4, 3)]).withKA [] [(3, 0x50000)])
    let s := [0, 1].foldl (fun s l => s.onLane 0 0 l fun x => x.setG 2 (BitVec.ofNat 32 (l + 1))) (lab.lanesWide 2)
    let c := after (.cas { d := .g 1, a := .a 3, c := .g 2 }) (s.withKA [] [(3, 0x50000)])
    ((a.lane 0 0 0).gAt 9 == 1 && memNat a 0x5000C 4 == 2 && memNat c 0x50000 4 == 1 && (c.lane 0 0 0).gAt 1 == 0 &&
      (c.lane 0 0 1).gAt 1 == 1) = true := by decide +kernel

/-- LDB.I32 at index 64 of a length of 64 writes 0 and P2 = 0 (R206's example). -/
theorem test_ldb_limit :
    let s := ((lab.withG [(5, 64), (3, 7)]).withKA [(12, 0x50000), (14, 64)] []).onLane 0 0 0 fun x => x.setPred 2 true
    let t := after (.ldb { d := .g 3, a := .k 12, b := .g 5, c := .p 2 }) s
    ((t.lane 0 0 0).gAt 3 == 0 && !(t.lane 0 0 0).pred 2) = true := by decide +kernel

/-- SXP.SX5 of Table 35's inputs (R213's example). -/
theorem test_sxp :
    let ins : List (Nat × Word) := [(0, 0x40400000), (1, 0xBF000000), (4, 0x3EC00000), (5, 0x3E300000), (6, 0xBE800000)]
    let s := ins.foldl (fun s p => s.onLane 0 0 p.1 fun x => x.setG 1 p.2) (lab.lanesWide 16)
    let t := after (.sxp { mod := 6, d := .g 2, a := .g 1 }) s
    ([0, 1, 2, 4, 5, 6, 15].map fun l => (t.lane 0 0 l).gAt 2) =
      [0x81FC000C, 0x81FC001E, 0x81FC0000, 0x81FC000C, 0x81FC0006, 0x81FC0018, 0x81FC0000] := by decide +kernel

/-- TRY of R289's example: the record, G4 and the push counter; FAIL then takes its second alternative and pops it. -/
theorem test_try_fail :
    let s := lab.withG [(3, 14), (4, 9)]
    let t := after (.tryOpen { mod := 0xB, d := .g 4, b := .imm, imm22 := 2 }) s
    let u := after (.fail { imm22 := 54 }) (({ t with cur := some ⟨0, 0, 0⟩ }).withG [(3, 99)])
    ((t.lane 0 0 0).recs.map (fun r => (r.resume, r.next, r.count, r.mark, r.dest, r.mask, r.token)) ==
        [(0x100000C, 1, 2, 0, 4, 0xB, 0)] && (t.lane 0 0 0).gAt 4 == 0 &&
      (u.lane 0 0 0).gAt 4 == 1 && (u.lane 0 0 0).gAt 3 == 14 && (u.lane 0 0 0).recs.isEmpty &&
      (u.fibre ⟨0, 0, 0⟩).map (·.pc) == some 0x100000C) = true := by decide +kernel

/-- MFSR of DIE into a K pair, MTSR of ASTB, and TRAP #5 under a domain whose fault disposition is END (R303, R360,
R363). -/
theorem test_system :
    ((((after (.mfsr { un := true, d := .k 4, imm22 := 16 }) (lab.withKA [(4, 9), (5, 9)] [])).group 0).map fun g =>
        (g.kAt 4, g.kAt 5)) == some (0, 0) &&
      ((after (.mtsr { un := true, d := .k 4, imm22 := 0 }) (lab.withKA [(4, 0x10000)] [])).sysReg 0 0 == 0x10000) &&
      ((after (.trap { imm22 := 5 }) lab).bent 0).map (·.st) != some .resident) = true := by decide +kernel


/-! Witnesses. Each theorem is named after a statement and shows that its hypotheses can be met together. -/

/-- The context of an instruction that a fibre is picked to issue. -/
def seen (m : Major) (o : Op) (s : State) : Ctx :=
  (ctxOf m o s).getD { s0 := s, r := ⟨0, 0, 0⟩, m := m, o := o
                       g := { gid := 0, bent := 0, role := 0, number := 0, size := 0, gBudget := 0, xBudget := 0, core := 0, slot := 0
                              logical := 0, phys := 0, dataLen := 0, logStore := 0, logSpill := 0, recCap := 0, kerfCap := 0 }
                       v := { size := 0 }, f := { id := 0, pc := 0, lanes := 0 }, act := 0, wr := 0, len := 0, joiner := false
                       priv := false, space := 0, bent := 0 }

/-- The parts of `Issues`, as a test. -/
def issuesTest (m : Major) (o : Op) (s : State) : Bool :=
  let c := seen m o s
  (ctxOf m o s).isSome && !c.scoreboard && c.f.lanes != 0 && c.v.fibres.all (fun f => decide (f.halts = [])) &&
    decide ((s.coreAt (s.coreOf c.r.gid)).gauges = [])

theorem issues_of {m : Major} {o : Op} {s : State} (h : issuesTest m o s = true) : Issues m o s (seen m o s) := by
  simp only [issuesTest, Bool.and_eq_true, Bool.not_eq_true', bne_iff_ne, ne_eq, List.all_eq_true, decide_eq_true_eq] at h
  obtain ⟨⟨⟨⟨h1, h2⟩, h3⟩, h4⟩, h5⟩ := h
  refine ⟨?_, h2, h3, h4, h5⟩
  obtain ⟨c, hc⟩ := Option.isSome_iff_exists.mp h1
  simp [seen, hc]

/-- The parts of `Plain`, as a test. -/
def plainTest (m : Major) (o : Op) (s : State) : Bool :=
  issuesTest m o s && (let c := seen m o s; decide (c.each.flatMap (slotRefusals c) = []) && decide (c.uses = []))

theorem plain_of {m : Major} {o : Op} {s : State} (h : plainTest m o s = true) : Plain m o s (seen m o s) := by
  simp only [plainTest, Bool.and_eq_true, decide_eq_true_eq] at h
  exact ⟨issues_of h.1, h.2.1, h.2.2⟩

/-- The parts of `Plain` for the instruction of a word. -/
def rowPlain (s : State) (t : Nat × Nat × Instr) : Bool :=
  match t.2.2.major, t.2.2.op with
  | some (m, _), some o => plainTest m o s
  | _, _ => false

theorem rowPlain_of {s : State} {t : Nat × Nat × Instr} (h : rowPlain s t = true) :
    ∃ m b o, t.2.2.major = some (m, b) ∧ t.2.2.op = some o ∧ Plain m o s (seen m o s) := by
  unfold rowPlain at h
  split at h
  · exact ⟨_, _, _, ‹_›, ‹_›, plain_of h⟩
  · cases h

/-- Words that use no stream. -/
def noStream (l : List (Nat × Nat × Instr)) : List (Nat × Nat × Instr) :=
  l.filter fun t => match t.2.2.op with
    | some o => [o.d, o.a, o.b, o.c].all fun x => match x with
      | .q _ => false
      | _ => true
    | none => false

/-- Every row of a list issues at once with operands that raise no cause. -/
def AllPlain (s : State) (l : List (Nat × Nat × Instr)) : Prop :=
  ∀ t ∈ l, ∃ m b o, t.2.2.major = some (m, b) ∧ t.2.2.op = some o ∧ Plain m o s (seen m o s)

theorem allPlain_of {s : State} {l : List (Nat × Nat × Instr)} (h : l.all (rowPlain s) = true) : AllPlain s l :=
  fun t ht => rowPlain_of (List.all_eq_true.mp h t ht)

theorem ok_of {ε α : Type} {e : Except ε α} {a : α} (h : e.toOption = some a) : e = .ok a := by
  cases e with
  | error x => cases h
  | ok b => cases h; rfl

/-- Whether a step goes on. -/
def goes (x : Host.Outcome State Fault Refusal) : Bool := match x with
  | .next _ => true
  | _ => false

theorem goes_of {x : Host.Outcome State Fault Refusal} (h : goes x = true) : ∃ t, x = .next t := by
  cases x with
  | next t => exact ⟨t, rfl⟩
  | fault f => cases h
  | refused r => cases h

/-- Words decode and are well-formed, in a lane stream and in a joiner stream, where UN may stand on a lane source. -/
theorem witness_encoding : (Instr.iaddExt { un := true, d := .g 63, a := .g 0, b := .k 127 }).wf true = true ∧
    (Instr.iaddExt { un := true, d := .g 63, a := .g 0, b := .k 127 }).wf false = false ∧
    (∃ i, decode true 0x00000085 0x00ff003f 0x00000007 0 0 = .ok i) :=
  ⟨by decide +kernel, by decide +kernel, ⟨.iaddExt { un := true, d := .g 63, a := .g 0, b := .k 127 }, by decide +kernel⟩⟩

/-- A step from a state that meets the invariant. -/
theorem witness_StepKeepsInvariant : (State.reset.withProgram [0, 0, 0, 0]).Inv ∧ ∃ t, step (State.reset.withProgram [0, 0, 0, 0]) = .next t :=
  ⟨by unfold State.Inv; decide +kernel, goes_of (by decide +kernel)⟩

/-- The fibre of the lab. -/
def labFibre : Fibre := { id := 0, pc := 0x1000000, lanes := 1 }

theorem words_of {s : State} {r : FibreRef} {f : Fibre} {p : State → List Word → Bool}
    (h : (match s.fetchWords r f with
      | .words t ws => p t ws
      | .stop _ => false) = true) : ∃ t ws, s.fetchWords r f = .words t ws ∧ p t ws = true := by
  split at h
  · exact ⟨_, _, ‹_›, h⟩
  · cases h

/-- A fetched word that decodes (NOP), one that does not (the reserved opcode), and an event on the agenda. -/
theorem witness_StepRunsDecoded :
    (∃ (s t : State) (r : FibreRef) (f : Fibre) (ws : List Word) (i : Instr), s.cur = some r ∧ s.fibre r = some f ∧ s.fetchWords r f = .words t ws ∧
      decodeWords (t.isJoiner r.gid) ws = .ok i ∧ t.stallAs r i = 0) ∧
    (∃ (s t : State) (r : FibreRef) (f : Fibre) (ws : List Word) (n : Nat), s.cur = some r ∧ s.fibre r = some f ∧ s.fetchWords r f = .words t ws ∧
      decodeWords (t.isJoiner r.gid) ws = .error n) ∧
    (∃ (s t : State) (r : FibreRef) (f : Fibre), s.cur = some r ∧ s.fibre r = some f ∧ s.fetchWords r f = .stop t) ∧
    (∃ (s : State) (i : Instr) (l : List Instr), s.cur = none ∧ s.agenda = i :: l) := by
  refine ⟨⟨State.reset.withProgram [0, 0, 0, 0], ?_⟩, ⟨State.reset.withProgram [0xF8, 3, 0, 0], ?_⟩,
    ⟨(State.reset.withProgram []).onFibre ⟨0, 0, 0⟩ fun f => { f with pc := 0x100000000 }, ?_⟩, ⟨{ State.reset with agenda := [.clearTopologyRecord] }, _, _, rfl, rfl⟩⟩
  · obtain ⟨t, ws, h, hd⟩ := words_of (s := State.reset.withProgram [0, 0, 0, 0]) (r := ⟨0, 0, 0⟩) (f := labFibre)
      (p := fun t ws => decide (decodeWords (t.isJoiner 0) ws = .ok (.nop { form := .base }) ∧ t.stallAs ⟨0, 0, 0⟩ (.nop { form := .base }) = 0))
      (by decide +kernel)
    exact ⟨t, ⟨0, 0, 0⟩, labFibre, ws, _, by decide +kernel, by decide +kernel, h, of_decide_eq_true hd⟩
  · obtain ⟨t, ws, h, hd⟩ := words_of (s := State.reset.withProgram [0xF8, 3, 0, 0]) (r := ⟨0, 0, 0⟩) (f := labFibre)
      (p := fun t ws => decodeWords (t.isJoiner 0) ws == .error 1) (by decide +kernel)
    exact ⟨t, ⟨0, 0, 0⟩, labFibre, ws, _, by decide +kernel, by decide +kernel, h, by simpa using hd⟩
  · have h : ∀ x : Fetched, (match x with
        | .words _ _ => false
        | .stop _ => true) = true → ∃ t, x = .stop t := by
      intro x h
      cases x with
      | words t ws => cases h
      | stop t => exact ⟨t, rfl⟩
    obtain ⟨t, ht⟩ := h (State.fetchWords ((State.reset.withProgram []).onFibre ⟨0, 0, 0⟩ fun f => { f with pc := 0x100000000 }) ⟨0, 0, 0⟩
      { labFibre with pc := 0x100000000 }) (by decide +kernel)
    exact ⟨t, ⟨0, 0, 0⟩, { labFibre with pc := 0x100000000 }, by decide +kernel, by decide +kernel, ht⟩

theorem triple_of {α β ε γ : Type} {x : α × β × Except ε γ} {b : γ} (h : x.2.2.toOption = some b) : x = (x.1, x.2.1, .ok b) :=
  Prod.ext rfl (Prod.ext rfl (ok_of h))

/-- An instruction of five words that ends at the end of its line: 20 bytes from offset 108 of 128. -/
theorem witness_FetchReadsMemory :
    let s := lab.putNat 0x100006C 4 0x342
    let f : Fibre := { labFibre with pc := 0x100006C }
    ∃ u memo pa, s.pageAt [] (s.agentOf 0) (s.spaceOf 0) f.pc .fetch = (u, memo, .ok pa) ∧ u.past = [] ∧ pa / 2 ^ 48 = 0 ∧
      pa + 20 ≤ u.capacity ∧ (∀ l ∈ (u.coreAt (s.coreOf 0)).code, l.line ≠ pa / 128) ∧
      (let n := lenBytes (memNat u pa 1 % 4)
       pa % 128 + n = 128 ∧ f.pc.toNat % 4096 + n ≤ 4096 ∧ pa % 4096 = f.pc.toNat % 4096 ∧ f.pc.toNat + n < 2 ^ 57) := by
  intro s f
  refine ⟨(s.pageAt [] (s.agentOf 0) (s.spaceOf 0) f.pc .fetch).1, (s.pageAt [] (s.agentOf 0) (s.spaceOf 0) f.pc .fetch).2.1,
    0x100006C, ?_, by decide +kernel, by decide +kernel, by decide +kernel, by decide +kernel, by decide +kernel⟩
  exact triple_of (by decide +kernel)

/-- A state that meets the invariant, and the boundary predicate P7. -/
theorem witness_StorageReadAfterWrite : lab.Inv ∧ lab.physBad 0x50000 = none ∧ lab.physBad (2 ^ 52) ≠ none ∧ 7 < 8 :=
  ⟨by unfold State.Inv; decide +kernel, by decide +kernel, by decide +kernel, by decide⟩

/-- Every row of the integer instructions, base and extended, issues plainly; MOV's own rule is kept. -/
theorem witness_IntegerArithmetic : AllPlain lab (noStream (wordsInteger1 ++ wordsInteger2)) :=
  allPlain_of (by decide +kernel)
theorem witness_LogicAndShifts : AllPlain (lab.lanesWide 64) (noStream (wordsInteger2 ++ wordsInteger3)) :=
  allPlain_of (by decide +kernel)
theorem witness_MovesAndPredicates : AllPlain lab (noStream (wordsInteger4 ++ wordsControl2)) ∧
    movRefusals { un := true, d := .a 4, a := .k 8 } = [] :=
  ⟨allPlain_of (by decide +kernel), by decide⟩
theorem witness_FloatArithmetic : AllPlain lab (noStream (wordsFloat1 ++ wordsFloat2)) := allPlain_of (by decide +kernel)

/-- What a list of issues meets, all together. -/
theorem meets_of {P : Ctx → Prop} [DecidablePred P] {l : List (Major × Op × State)}
    (h : (l.all fun p => plainTest p.1 p.2.1 p.2.2 && decide (P (seen p.1 p.2.1 p.2.2))) = true) :
    ∀ p ∈ l, Plain p.1 p.2.1 p.2.2 (seen p.1 p.2.1 p.2.2) ∧ P (seen p.1 p.2.1 p.2.2) := by
  intro p hp
  have hx := List.all_eq_true.mp h p hp
  simp only [Bool.and_eq_true, decide_eq_true_eq] at hx
  exact ⟨plain_of hx.1, hx.2⟩

/-- Every format and mode, and a tie of the nearest mode. -/
theorem witness_OneRounding :
    (∀ f ∈ [fmt32, fmt64, fmt16, fmtB16, fmtE5M2], ∀ mode ∈ [RMode.rn, .rz, .ru, .rd],
      (froundFin f mode true 1 0).2 &&& flagOF = 0) ∧
    (∃ k p, fdecode fmt32 (froundFin fmt32 .rn false 16777217 0).1 = .fin false k p ∧
      |(FVal.fin false k p).rat - (FVal.fin false 16777217 0).rat| * 2 = (2 : ℚ) ^ p) := by
  refine ⟨by decide +kernel, 8388608, 1, by decide +kernel, ?_⟩
  norm_num [FVal.rat]

/-- A NaN operand, without 0 × ∞; and quotients of numbers other than 0 that overflow and that do not. -/
theorem witness_ExactOperations : (∃ a : FVal, a.isNaN = true ∧ zeroTimesInf a (.fin false 0 0) = false) ∧
    (∀ f ∈ [fmt32, fmt64, fmt16, fmtB16, fmtE5M2], ∀ mode ∈ [RMode.rn, .rz, .ru, .rd],
      (fdivV f mode (.fin true 1 0) (.fin false 3 0)).2 &&& flagOF = 0 ∧
      (fdivV f mode (.fin true 1 1000) (.fin false 1 (-1000))).2 &&& flagOF ≠ 0) :=
  ⟨⟨fdecode fmt32 0x7F800001, by decide +kernel, by decide +kernel⟩, by decide +kernel⟩

/-- A finite operand, 0, a negative one, an integer and a half-integer; two numbers that FMIN compares. -/
theorem witness_FloatFunctions : (∀ b ∈ [0x80000000, 0x3F800000, 0xBF000000, 0x3FA00000], ∃ n m e, fdecode fmt32 b = .fin n m e) ∧
    (fdecode fmt32 0x7F800000).isNaN = false ∧ (fdecode fmt32 0x80000000).isNaN = false := by
  refine ⟨?_, by decide +kernel, by decide +kernel⟩
  intro b hb
  simp only [List.mem_cons, List.not_mem_nil, or_false] at hb
  obtain rfl | rfl | rfl | rfl := hb
  · exact ⟨true, 0, -149, by decide +kernel⟩
  · exact ⟨false, 8388608, -23, by decide +kernel⟩
  · exact ⟨true, 8388608, -24, by decide +kernel⟩
  · exact ⟨false, 10485760, -23, by decide +kernel⟩

/-- A target that can be a PC, for the writing lanes. -/
abbrev targetsFit (target : Ctx → Nat → DWord) (c : Ctx) : Prop :=
  ∀ l ∈ c.writers, (target c l).toNat % 4 = 0 ∧ (target c l).toNat < 2 ^ 57

/-- The lane's window 16 entries up, with a return point in G0 and G1. -/
def callee : State := (lab.withG [(16, 0xFFFFFFFC), (17, 0x01FFFFFF)]).onFibre ⟨0, 0, 0⟩ fun f => { f with wb := 16 }

/-- Each form; the highest target, a window that just fits its budget. -/
theorem witness_BranchesAndCalls :
    (∀ p ∈ [(Major.bra, { form := .base, imm22 := 0x3E0000 }, lab), (.bra, { lit := some 0x1FFFFFFFFFFFFFC, form := .extLit }, lab),
        (.call, { form := .base, imm22 := 20 }, lab.onGroup 0 fun g => { g with gBudget := 32 }),
        (.call, { form := .baseLit, lit := some 0x1FFFFFFFFFFFFFC }, lab)],
      Plain p.1 p.2.1 p.2.2 (seen p.1 p.2.1 p.2.2) ∧
      (targetsFit dispTarget (seen p.1 p.2.1 p.2.2) ∧ (seen p.1 p.2.1 p.2.2).writers ≠ [] ∧
        (seen p.1 p.2.1 p.2.2).f.wb + 32 ≤ (seen p.1 p.2.1 p.2.2).g.gBudget)) ∧
    (∀ p ∈ [(Major.ret, { form := .base }, callee), (.ret, {}, callee)],
      Plain p.1 p.2.1 p.2.2 (seen p.1 p.2.1 p.2.2) ∧
      (targetsFit (fun c l => BitVec.ofNat 64 ((c.lane l).gAt c.f.wb).toNat +
        BitVec.ofNat 64 (((c.lane l).gAt (c.f.wb + 1)).toNat % 2 ^ 25 * 2 ^ 32)) (seen p.1 p.2.1 p.2.2) ∧
        (seen p.1 p.2.1 p.2.2).wr ≠ 0 ∧ (seen p.1 p.2.1 p.2.2).f.wb ≠ 0)) ∧
    (∀ p ∈ [(Major.brx, { a := .a 3, b := .imm, imm22 := 0x3FFFFC }, lab.withKA [] [(3, 0x200000000000000)]),
        (.calli, { a := .a 3, b := .g 1, imm22 := 8 }, (lab.withKA [] [(3, 0x1000000)]).withG [(1, 0xFFFFFFF0)])],
      Plain p.1 p.2.1 p.2.2 (seen p.1 p.2.1 p.2.2) ∧
      (targetsFit regTarget (seen p.1 p.2.1 p.2.2) ∧ (seen p.1 p.2.1 p.2.2).f.wb + 32 ≤ (seen p.1 p.2.1 p.2.2).g.gBudget)) := by
  refine ⟨meets_of (P := fun c => targetsFit dispTarget c ∧ c.writers ≠ [] ∧ c.f.wb + 32 ≤ c.g.gBudget) ?_,
    meets_of (P := fun c => targetsFit _ c ∧ c.wr ≠ 0 ∧ c.f.wb ≠ 0) ?_,
    meets_of (P := fun c => targetsFit regTarget c ∧ c.f.wb + 32 ≤ c.g.gBudget) ?_⟩ <;> decide +kernel

/-- A G counter, and a K counter under UN. -/
theorem witness_LoopCounts : ∀ p ∈ [(Major.loop, { d := .g 12, imm22 := 0x3FFFF9 }, lab.lanesWide 64),
      (.loop, { un := true, d := .k 5, lit := some 0x1FFFFFFFFFFFFFC, form := .extLit }, lab)],
    Plain p.1 p.2.1 p.2.2 (seen p.1 p.2.1 p.2.2) ∧ targetsFit dispTarget (seen p.1 p.2.1 p.2.2) := by
  refine meets_of (P := targetsFit dispTarget) ?_
  decide +kernel

/-- A weave of 64 lanes, the upper 63 dormant, with a mask of them all in K10 and K11. -/
def sleepers : State :=
  ((lab.withKA [(10, 0xFFFFFFFF), (11, 0xFFFFFFFF)] []).onGroup 0 fun g => { g with size := 64 }).onWeave 0 0 fun v =>
    { v with size := 64, lanes := (List.range 63).map fun i => (i + 1, { st := .dormant }) }

/-- FORK of dormant lanes, and QUIT and EXIT in both forms. -/
theorem witness_LaneLife :
    (∃ o s, Issues .fork o s (seen .fork o s) ∧ (let c := seen .fork o s
      c.each.flatMap (slotRefusals c) = [] ∧ o.pred = 7 ∧ c.v.fibres.length ≤ 64 ∧ (dispTarget c 0).toNat % 4 = 0 ∧
      (dispTarget c 0).toNat < 2 ^ 57)) ∧
    (Issues .fork { a := .k 10, imm22 := 12, pred := 3 } sleepers (seen .fork { a := .k 10, imm22 := 12, pred := 3 } sleepers) ∧
      (let c := seen .fork { a := .k 10, imm22 := 12, pred := 3 } sleepers; c.each.flatMap (slotRefusals c) = [])) ∧
    (∀ o ∈ [({ form := .base } : Op), { pred := 3, neg := true }], ∀ m ∈ [Major.quit, .exit],
      Issues m o (lab.lanesWide 64) (seen m o (lab.lanesWide 64)) ∧
        (let c := seen m o (lab.lanesWide 64); c.each.flatMap (slotRefusals c) = [])) := by
  refine ⟨⟨{ a := .k 10, imm22 := 12 }, sleepers, issues_of (by decide +kernel), by decide +kernel⟩, ⟨issues_of (by decide +kernel), by decide +kernel⟩, ?_⟩
  intro o ho m hm
  simp only [List.mem_cons, List.not_mem_nil, or_false] at ho hm
  obtain rfl | rfl := ho <;> obtain rfl | rfl := hm <;> exact ⟨issues_of (by decide +kernel), by decide +kernel⟩

/-- The parts of `Arrives`' premises, as a test. -/
def arrivesTest (m : Major) (o : Op) (s : State) : Bool :=
  let c := seen m o s
  issuesTest m o s && decide (c.each.flatMap (slotRefusals c) = []) && decide (c.f.st = .ready) &&
    (match s.bent c.g.bent with
      | some b => b.uid == c.g.bent && b.groups.contains c.r.gid
      | none => false)

/-- Two live lanes, of which one is in the issuing fibre. -/
def pairOfFibres : State :=
  (lab.onGroup 0 fun g => { g with size := 2 }).onWeave 0 0 fun v =>
    { v with size := 2, fibres := v.fibres ++ [{ id := 1, pc := 0x1000100, lanes := 2 }] }

/-- The same, the second one parked at group barrier 15. -/
def meeting : State :=
  (pairOfFibres.onFibre ⟨0, 0, 1⟩ fun f => { f with st := .parked, wait := .bar false 15, len := 4 }).onGroup 0 fun g =>
    { g with bars := [(15, { count := 1, gen := 0, age := some 2 })] }

/-- One fibre arrives last, where another is parked. -/
theorem witness_BarriersMet : let o : Op := { form := .base, imm22 := 15 }
    Issues .bar o meeting (seen .bar o meeting) ∧ (seen .bar o meeting).each.flatMap (slotRefusals (seen .bar o meeting)) = [] ∧
      (seen .bar o meeting).f.st = .ready ∧ (barrierOf (seen .bar o meeting) meeting false).count + 1 = meeting.expected 0 false ∧
      0 ∈ meeting.barGroups 0 false ∧ (meeting.fibre ⟨0, 0, 1⟩).map (fun x => (x.st, x.wait)) = some (.parked, .bar false 15) :=
  ⟨issues_of (by decide +kernel), by decide +kernel⟩

/-- Each form, as the last arrival and as one that waits, at the highest barriers. -/
theorem witness_Barriers : ∀ p ∈ [(Major.bar, ({ form := .base, imm22 := 15 } : Op), false), (.bar, { imm22 := 15 }, false),
      (.barb, { imm22 := 3 }, true)], ∀ s ∈ [lab, pairOfFibres],
    Issues p.1 p.2.1 s (seen p.1 p.2.1 s) ∧ (seen p.1 p.2.1 s).each.flatMap (slotRefusals (seen p.1 p.2.1 s)) = [] ∧
      (seen p.1 p.2.1 s).f.st = .ready ∧
      (∃ b, s.bent (seen p.1 p.2.1 s).g.bent = some b ∧ b.uid = (seen p.1 p.2.1 s).g.bent ∧ (seen p.1 p.2.1 s).r.gid ∈ b.groups) ∧
      ((barrierOf (seen p.1 p.2.1 s) s p.2.2).count + (lanesOf (seen p.1 p.2.1 s).f.lanes).length = s.expected 0 p.2.2 ↔ s = lab) := by
  intro p hp s hs
  simp only [List.mem_cons, List.not_mem_nil, or_false] at hp hs
  have key : ∀ (m : Major) (o : Op) (t : State), arrivesTest m o t = true →
      Issues m o t (seen m o t) ∧ (seen m o t).each.flatMap (slotRefusals (seen m o t)) = [] ∧ (seen m o t).f.st = .ready ∧
      (∃ b, t.bent (seen m o t).g.bent = some b ∧ b.uid = (seen m o t).g.bent ∧ (seen m o t).r.gid ∈ b.groups) := by
    intro m o t h
    unfold arrivesTest at h
    simp only [Bool.and_eq_true, decide_eq_true_eq] at h
    obtain ⟨⟨⟨h1, h2⟩, h3⟩, h4⟩ := h
    refine ⟨issues_of h1, h2, h3, ?_⟩
    split at h4
    · rename_i b hb
      simp only [Bool.and_eq_true, beq_iff_eq, List.contains_iff_mem] at h4
      exact ⟨b, hb, h4.1, h4.2⟩
    · cases h4
  obtain rfl | rfl | rfl := hp <;> obtain rfl | rfl := hs <;>
    exact (fun x y => ⟨x.1, x.2.1, x.2.2.1, x.2.2.2, y⟩) (key _ _ _ (by decide +kernel)) (by decide +kernel)

/-- Four lanes and the oracle with a choice left; on record, a store by lane 1, that lane 0 has then read, and a fence of
lane 0 at BENT scope. -/
def onRecord : State :=
  let at_ : ByteAt × Byte := ((0, 0, 0x50000), 7)
  { lab.lanesWide 4 with oracle := [1], past := [
    { actor := lab.laneActor 0 0 1, scope := 2, act := .access false true [at_] [] },
    { actor := lab.laneActor 0 0 0, scope := 2, act := .access true false [at_] [] },
    { actor := lab.laneActor 0 0 0, scope := 4, act := .fence }] }

/-- 32 registers up to the end of the budget staged, the hints in both forms, a fence with a record and without one;
lane 0's load meets lane 1's store that it has read before its fence, and lane 1's own one would meet it as the maker's. -/
theorem witness_HintsAndStaging :
    (∀ m ∈ [Major.nop, .yield, .fence], ∀ o ∈ [({ form := .base } : Op), { mod := 0x8000, scope := 10 }],
      Issues m o lab (seen m o lab) ∧ (seen m o lab).each.flatMap (slotRefusals (seen m o lab)) = []) ∧
    (∃ o s, Issues .span o s (seen .span o s) ∧ (let c := seen .span o s
      c.each.flatMap (slotRefusals c) = [] ∧ 1 ≤ (lanesOf o.ownBits).length ∧ (lanesOf o.ownBits).length = 32 ∧
      ∀ i ∈ lanesOf o.ownBits, c.f.wb + i < c.g.gBudget)) ∧ lab.past = [] ∧ lab.oracle = [] ∧ onRecord.oracle ≠ [] ∧
    Issues .fence { mod := 0x8000, scope := 10 } onRecord (seen .fence { mod := 0x8000, scope := 10 } onRecord) ∧
      (let c := seen .fence { mod := 0x8000, scope := 10 } onRecord
       c.each.flatMap (slotRefusals c) = [] ∧ c.writers = [0, 1, 2, 3]) ∧
    (∃ x y f, onRecord.past = [x, y, f] ∧ x.act.writes = true ∧ y.act.reads = true ∧ x.act.overlaps y.act = true ∧
      y.act.missed.contains 0 = false ∧ f.act = .fence ∧
      (∀ e ∈ [y, f], e.actor.same (lab.laneActor 0 0 0) = true) ∧ x.actor.same (lab.laneActor 0 0 0) = false ∧
      (lab.laneActor 0 0 0).near 15 x.actor ≤ f.scope ∧ (lab.laneActor 0 0 0).level ≤ f.scope ∧
      (candidates [x] (lab.laneActor 0 0 0) 15 2 0 x.act.cells).length = 1 ∧
      candidates [x] (lab.laneActor 0 0 1) 15 2 0 x.act.cells = []) := by
  refine ⟨?_, ⟨{ form := .extLit, lit := some 0xFFFFFFFF }, lab.onGroup 0 fun g => { g with gBudget := 32 },
    issues_of (by decide +kernel), by decide +kernel⟩, rfl, rfl, by decide +kernel, issues_of (by decide +kernel),
    by decide +kernel, _, _, _, rfl, by decide +kernel⟩
  intro m hm o ho
  simp only [List.mem_cons, List.not_mem_nil, or_false] at ho hm
  obtain rfl | rfl | rfl := hm <;> obtain rfl | rfl := ho <;> exact ⟨issues_of (by decide +kernel), by decide +kernel⟩

/-- SHFL in 64 lanes. -/
theorem witness_Shuffle : Plain .shfl { mod := 2, d := .g 1, a := .g 0, b := .imm, c := .p 1, imm22 := 1 } (lab.lanesWide 64)
    (seen .shfl { mod := 2, d := .g 1, a := .g 0, b := .imm, c := .p 1, imm22 := 1 } (lab.lanesWide 64)) :=
  plain_of (by decide +kernel)

/-- The log of the group with room for exactly the nodes that `val` needs. -/
def fitted (val : Op → Ctx → Nat → Vals → XMake) (m : Major) (o : Op) (s : State) : State :=
  let c := seen m o s
  s.onGroup 0 fun g =>
    { g with logStore := g.nodes.length + ((c.doers.map fun l => val o c l (c.regVals l)).map XMake.need).sum + 1 }

/-- Room in the log without its spill region. -/
abbrev roomFor (val : Op → Ctx → Nat → Vals → XMake) (c : Ctx) : Prop :=
  c.g.nodes.length + ((c.doers.map fun l => val c.o c l (c.regVals l)).map XMake.need).sum < c.g.logStore

/-- An X register that is the destination. -/
abbrev toX (c : Ctx) : Prop := ∃ i, i < 32 ∧ c.o.d = .x (BitVec.ofNat 5 i)

/-- Two intervals, each in need of a leaf of its own. -/
def spread : State := (lab.lanesWide 3).withX
  [(1, { lo := 0x3F800000, hi := 0x40000000 }), (2, { lo := 0xC0000000, hi := 0x40400000 })]

/-- A log with a pair and a leaf in order. -/
theorem witness_logOrdered : ∃ g : Group, ((spread.onGroup 0 fun g => { g with
    nodes := [(2, nodeOf opDOT 0x50000 0 4), (3, nodeOf opCONT 0 0 0), (5, nodeOf opLEAF32 1 0 0)] }).group 0) = some g ∧ g.logOrdered ∧
    (tfind g.nodes 5).isSome = true := by
  refine ⟨(State.group _ 0).get (by decide +kernel), (Option.some_get _).symm, ⟨?_, ?_, ?_⟩, ?_⟩ <;> decide +kernel

/-- A row of real registers: form, operation, sources. -/
def rowX (m : Major) (o : Op) (op : Nat) (isOne : Bool) : (Op → Ctx → Nat → Vals → XMake) × Major × Op × State :=
  (opOf op isOne, m, o, fitted (opOf op isOne) m o spread)

/-- Each operation and form, the log just large enough. -/
theorem witness_IntervalOperations :
    ∀ p ∈ [rowX .xadd { form := .base, d := .x 31, a := .x 1, b := .x 2 } opADD false,
        rowX .xadd { d := .x 1, a := .x 1, b := .x 2 } opADD false, rowX .xsub { form := .base, d := .x 0, a := .x 1, b := .x 2 } opSUB false,
        rowX .xsub { d := .x 3, a := .x 1, b := .x 2 } opSUB false, rowX .xmul { form := .base, d := .x 3, a := .x 1, b := .x 2 } opMUL false,
        rowX .xmul { d := .x 3, a := .x 1, b := .x 2 } opMUL false, rowX .xdiv { d := .x 3, a := .x 2, b := .x 1 } opDIV false,
        rowX .xsqrt { d := .x 3, a := .x 1 } opSQRT true, rowX .xmin { d := .x 3, a := .x 1, b := .x 2 } opMIN false,
        rowX .xmax { d := .x 3, a := .x 1, b := .x 2 } opMAX false, rowX .xmov { form := .base, mod := 1, d := .x 3, a := .x 1 } opNEG true,
        rowX .xmov { mod := 2, d := .x 3, a := .x 1 } opABS true],
      Plain p.2.1 p.2.2.1 p.2.2.2 (seen p.2.1 p.2.2.1 p.2.2.2) ∧ toX (seen p.2.1 p.2.2.1 p.2.2.2) ∧
        roomFor p.1 (seen p.2.1 p.2.2.1 p.2.2.2) := by
  intro p hp
  have key : ∀ q : (Op → Ctx → Nat → Vals → XMake) × Major × Op × State,
      (plainTest q.2.1 q.2.2.1 q.2.2.2 && decide (toX (seen q.2.1 q.2.2.1 q.2.2.2) ∧ roomFor q.1 (seen q.2.1 q.2.2.1 q.2.2.2))) = true →
      Plain q.2.1 q.2.2.1 q.2.2.2 (seen q.2.1 q.2.2.1 q.2.2.2) ∧ toX (seen q.2.1 q.2.2.1 q.2.2.2) ∧
        roomFor q.1 (seen q.2.1 q.2.2.1 q.2.2.2) := by
    intro q h
    simp only [Bool.and_eq_true, decide_eq_true_eq] at h
    exact ⟨plain_of h.1, h.2⟩
  simp only [List.mem_cons, List.not_mem_nil, or_false] at hp
  obtain rfl | rfl | rfl | rfl | rfl | rfl | rfl | rfl | rfl | rfl | rfl | rfl := hp <;> exact key _ (by decide +kernel)

/-- A point, an interval and an INVALID register severed, snapped and read; room in the log for one leaf. -/
theorem witness_SeverSnapBounds : ∀ p ∈ [(Major.sever, ({ d := .x 3, a := .x 1 } : Op), spread), (.sever, { d := .x 3, a := .x 4 }, spread),
      (.snap, { d := .x 3, a := .x 1 }, spread), (.snap, { d := .x 3, a := .x 1 }, spread.withX [(1, xInvalid)]),
      (.xbnd, { mod := 3, d := .g 63, a := .x 1 }, spread)],
    Plain p.1 p.2.1 p.2.2 (seen p.1 p.2.1 p.2.2) ∧
      (seen p.1 p.2.1 p.2.2).g.nodes.length + (seen p.1 p.2.1 p.2.2).doers.length < (seen p.1 p.2.1 p.2.2).g.logStore :=
  meets_of (P := fun c => c.g.nodes.length + c.doers.length < c.g.logStore) (by decide +kernel)

/-- Bounds that differ, the lower one infinite, capped at the least finite value. -/
theorem witness_SnapMidpoint : let a : XReg := { lo := 0xFF800000, hi := 0x3F800000 }
    let cap (w : Word) : Word := if w = 0xFF800000 then 0xFF7FFFFF else if w = 0x7F800000 then 0x7F7FFFFF else w
    a.lo ≠ a.hi ∧ ∃ n m e k l d, fdecode fmt32 (cap a.lo).toNat = .fin n m e ∧ fdecode fmt32 (cap a.hi).toNat = .fin k l d :=
  ⟨by decide, true, 16777215, 104, false, 8388608, -23, by decide +kernel, by decide +kernel⟩

/-- Values in two intervals, at their ends, with a divisor that is not 0. -/
theorem witness_IntervalInclusion : ∃ (a b : XReg) (x y : ℚ), a.holds x ∧ b.holds y ∧ y ≠ 0 ∧ x = 1 ∧ y = 3 := by
  have h1 : fdecode fmt32 0x3F800000 = .fin false 8388608 (-23) := by decide +kernel
  have h2 : fdecode fmt32 0x40000000 = .fin false 8388608 (-22) := by decide +kernel
  have h3 : fdecode fmt32 0x40400000 = .fin false 12582912 (-22) := by decide +kernel
  refine ⟨{ lo := 0x3F800000, hi := 0x40000000 }, { lo := 0x40000000, hi := 0x40400000 }, 1, 3, ⟨rfl, ?_, ?_⟩, ⟨rfl, ?_, ?_⟩,
    by norm_num, rfl, rfl⟩
  · show match fdecode fmt32 0x3F800000 with | .fin n m e => (FVal.fin n m e).rat ≤ 1 | .inf n => n = true | _ => False
    rw [h1]; norm_num [FVal.rat]
  · show match fdecode fmt32 0x40000000 with | .fin n m e => 1 ≤ (FVal.fin n m e).rat | .inf n => n = false | _ => False
    rw [h2]; norm_num [FVal.rat]
  · show match fdecode fmt32 0x40000000 with | .fin n m e => (FVal.fin n m e).rat ≤ 3 | .inf n => n = true | _ => False
    rw [h2]; norm_num [FVal.rat]
  · show match fdecode fmt32 0x40400000 with | .fin n m e => 3 ≤ (FVal.fin n m e).rat | .inf n => n = false | _ => False
    rw [h3]; norm_num [FVal.rat]

/-- No source is INVALID, and the weave has room for one more fibre. -/
abbrev decidable2 (c : Ctx) : Prop :=
  (∀ l ∈ c.doers, (c.xSrc l c.o.a).invalid = false ∧ (c.xSrc l c.o.b).invalid = false) ∧ c.v.fibres.length < 64

/-- A decision in some lanes and an open one in others (X2 spans 0), both predicates P7, and a decided comparison. -/
theorem witness_Decisions : ∀ p ∈ [(Major.xsgn, ({ d := .p 1, a := .x 2, b := .p 2 } : Op), spread),
      (.xsgn, { d := .p 7, a := .x 1, b := .p 7 }, spread), (.xcmp, { mod := 0xA0, d := .p 3, a := .x 1, b := .x 2 }, spread),
      (.xcmp, { mod := 0x40, d := .p 3, a := .x 1, b := .x 3 }, lab)],
    Plain p.1 p.2.1 p.2.2 (seen p.1 p.2.1 p.2.2) ∧ (decidable2 (seen p.1 p.2.1 p.2.2) ∧ (p.1 = .xsgn → p.2.1.d ≠ p.2.1.b ∨ p.2.1.d = .p 7)) := by
  intro p hp
  have h := meets_of (P := decidable2) (l := [(Major.xsgn, ({ d := .p 1, a := .x 2, b := .p 2 } : Op), spread),
      (.xsgn, { d := .p 7, a := .x 1, b := .p 7 }, spread), (.xcmp, { mod := 0xA0, d := .p 3, a := .x 1, b := .x 2 }, spread),
      (.xcmp, { mod := 0x40, d := .p 3, a := .x 1, b := .x 3 }, lab)]) (by decide +kernel) p hp
  refine ⟨h.1, h.2, ?_⟩
  simp only [List.mem_cons, List.not_mem_nil, or_false] at hp
  obtain rfl | rfl | rfl | rfl := hp <;> decide

/-- The stages 0 and 5, and an INVALID source. -/
theorem witness_XrefAsks : ∀ p ∈ [(Major.xref, ({ d := .x 31, a := .x 1 } : Op), spread), (.xref, { d := .x 1, a := .x 1, imm22 := 5 }, spread),
      (.xref, { d := .x 1, a := .x 1, imm22 := 5 }, spread.withX [(1, xInvalid)])],
    Plain p.1 p.2.1 p.2.2 (seen p.1 p.2.1 p.2.2) ∧ toX (seen p.1 p.2.1 p.2.2) := meets_of (P := toX) (by decide +kernel)

/-- The conversions to a lane type, to X from each of its sources, with feedback, and SXP and SXU in 16 lanes. -/
theorem witness_Conversions :
    (∀ p ∈ [(Major.cvt, ({ mod := 14 <<< 2, d := .g 2, a := .g 3 } : Op), lab), (.cvtf, { mod := 0x7B, d := .g 2, a := .g 3 }, lab.lanesWide 64),
        (.sxp, { mod := 0xF6, d := .g 1, a := .g 2 }, lab.lanesWide 16), (.sxu, { mod := 7, d := .g 1, a := .g 2 }, lab.lanesWide 64)],
      Plain p.1 p.2.1 p.2.2 (seen p.1 p.2.1 p.2.2) ∧ (bitsAt (seen p.1 p.2.1 p.2.2).o.mod 2 4 ≠ 15 ∧ (seen p.1 p.2.1 p.2.2).o.un = false)) ∧
    (∀ p ∈ [(Major.cvt, ({ mod := 60, d := .x 2, a := .g 3 } : Op), lab), (.cvt, { mod := 60 + 14 * 64, d := .x 2, a := .g 4 }, lab),
        (.cvt, { mod := 60 + 12 * 64, d := .x 2, a := .k 3 }, lab), (.cvt, { mod := 60 + 13 * 64, d := .x 2, a := .imm, imm22 := 9 }, lab)],
      Plain p.1 p.2.1 p.2.2 (seen p.1 p.2.1 p.2.2) ∧ (bitsAt (seen p.1 p.2.1 p.2.2).o.mod 2 4 = 15 ∧ toX (seen p.1 p.2.1 p.2.2) ∧
        (seen p.1 p.2.1 p.2.2).g.nodes.length + (seen p.1 p.2.1 p.2.2).doers.length < (seen p.1 p.2.1 p.2.2).g.logStore)) := by
  refine ⟨meets_of (P := fun c => bitsAt c.o.mod 2 4 ≠ 15 ∧ c.o.un = false) (by decide +kernel),
    meets_of (P := fun c => bitsAt c.o.mod 2 4 = 15 ∧ toX c ∧ c.g.nodes.length + c.doers.length < c.g.logStore) (by decide +kernel)⟩

/-- A narrowing that saturates, one to integers that does and one that does not; a block with a NaN and one without. -/
theorem witness_Narrowing : (cvtfLane 4 0x7F7FFFFF 0).2.2 &&& flagOF ≠ 0 ∧ (cvtfLane 8 0x43800000 0).2.2 &&& flagIV ≠ 0 ∧
    (cvtfLane 8 0x3F800000 0x7F800000).2.2 &&& flagIV = 0 ∧
    (∀ w ∈ [0x7FC00000, 0x7F800000], let part : List (Nat × Word × Word) := [(16, BitVec.ofNat 32 w, 0), (31, 0x3F800000, 0x7FC00000)]
      (part.map fun p => p.1 % 16).Nodup ∧ ((part.any fun p => (fdecode fmt32 p.2.1.toNat).isNaN) = true ↔ w = 0x7FC00000)) := by
  decide +kernel

/-- The lanes of an issue made ready with a memory operand. -/
def madeReady (c : Ctx) (use : MemUse) (s : State) : Gather :=
  (c.doers.map fun l => { lane := l, vals := c.regVals l, q := (c.lane l).q }).foldl (c.readyMem use) { st := { s with cur := none } }

/-- `Loc.quiet`, as a test. -/
def quietTest (s : State) (x : Loc) : Bool := match x with
  | .phys segs => segs.all fun p => decide (p.1 < 3 * 2 ^ 48 ∧ s.physBad p.1 = none)
  | _ => true

theorem quiet_of {s : State} {x : Loc} (h : quietTest s x = true) : x.quiet s := by
  cases x with
  | phys segs =>
    intro p hp
    have := List.all_eq_true.mp h p hp
    simpa using this
  | data k o => trivial
  | wst o => trivial
  | cst o => trivial

/-- The parts of `Reaches`, as a test. -/
def reachTest (c : Ctx) (use : MemUse) (s : State) : Bool :=
  let g := madeReady c use s
  c.uses.isEmpty && (c.doers.all fun l => match use.ea l (c.regVals l) with
    | some ea => ea.toNat % use.align == 0
    | none => true) && g.bad.isNone && g.late.isEmpty && g.ins.all fun i => quietTest g.st i.place

theorem reaches_of {c : Ctx} {use : MemUse} {s : State} (h : reachTest c use s = true) (later : Bool) :
    Reaches c s later use (madeReady c use s) := by
  simp only [reachTest, Bool.and_eq_true, List.isEmpty_iff, Option.isNone_iff_eq_none, List.all_eq_true] at h
  obtain ⟨⟨⟨⟨h1, h2⟩, h3⟩, h4⟩, h5⟩ := h
  refine ⟨ready_mem h1 later use ?_ _, h3, h4, fun i hi => quiet_of (h5 i hi)⟩
  intro l hl ea he
  have := h2 l hl
  rw [he] at this
  simpa using this

/-- What a list of issues with a memory operand meets, all together. -/
theorem reach_meets {use : Ctx → MemUse} {P : Ctx → Gather → Prop} [∀ c g, Decidable (P c g)] {l : List (Major × Op × State)}
    (h : (l.all fun p => plainTest p.1 p.2.1 p.2.2 && reachTest (seen p.1 p.2.1 p.2.2) (use (seen p.1 p.2.1 p.2.2)) p.2.2 &&
      decide (P (seen p.1 p.2.1 p.2.2) (madeReady (seen p.1 p.2.1 p.2.2) (use (seen p.1 p.2.1 p.2.2)) p.2.2))) = true) (later : Bool) :
    ∀ p ∈ l, Plain p.1 p.2.1 p.2.2 (seen p.1 p.2.1 p.2.2) ∧
      ∃ g, Reaches (seen p.1 p.2.1 p.2.2) p.2.2 later (use (seen p.1 p.2.1 p.2.2)) g ∧ P (seen p.1 p.2.1 p.2.2) g := by
  intro p hp
  have hx := List.all_eq_true.mp h p hp
  simp only [Bool.and_eq_true, decide_eq_true_eq] at hx
  exact ⟨plain_of hx.1.1, _, reaches_of hx.1.2 later, hx.2⟩

/-- The translations have left the issuing group as it was. -/
abbrev kept (c : Ctx) (g : Gather) : Prop := g.st.group c.r.gid = some c.g

/-- Four lanes; A3 at the last words of the mapped gigabyte; G1 the byte offset of each lane's word. -/
def four : State :=
  (List.range 4).foldl (fun s l => s.onLane 0 0 l fun x => (x.setG 1 (BitVec.ofNat 32 (4 * l))).setG 2 (BitVec.ofNat 32 (8 * l)))
    ((lab.lanesWide 4).withKA [(12, 0x50000), (14, 4), (6, 64)] [(3, 0x3FFFFFF0), (4, 0x50000), (5, 0x3FFFFFE0)])

/-- A base load, an extended one of each space and width, a load into X, and LDX, up to the last mapped byte and the last
byte of the data parts. -/
theorem witness_LoadsRead :
    (∀ p ∈ [(Major.ld, ({ form := .base, mod := 0x1000, d := .g 2, a := .a 3, b := .g 1 } : Op), four),
        (.ld, { mod := 0x1005, d := .g 4, a := .a 5, b := .g 2 }, four), (.ld, { mod := 0x1016, d := .x 3, a := .imm, b := .g 1 }, four),
        (.ld, { mod := 0x21, un := true, d := .k 4, a := .imm, imm22 := 4095 }, four), (.ld, { mod := 0x35, d := .g 4, a := .k 6 }, four)],
      Plain p.1 p.2.1 p.2.2 (seen p.1 p.2.1 p.2.2) ∧ ∃ g, Reaches (seen p.1 p.2.1 p.2.2) p.2.2 false
        (operandOf (seen p.1 p.2.1 p.2.2) (typeSize (bitsAt (seen p.1 p.2.1 p.2.2).o.mod 0 4))
          (typeSize (bitsAt (seen p.1 p.2.1 p.2.2).o.mod 0 4)) .load) g ∧
        (kept (seen p.1 p.2.1 p.2.2) g ∧ g.st.oracle = [] ∧ (seen p.1 p.2.1 p.2.2).g.nodes.length + (seen p.1 p.2.1 p.2.2).doers.length <
          (seen p.1 p.2.1 p.2.2).g.logStore)) ∧
    (∀ p ∈ [(Major.ldx, ({ mod := 0x3010, d := .g 4, a := .a 3, b := .g 3 } : Op), four)],
      Plain p.1 p.2.1 p.2.2 (seen p.1 p.2.1 p.2.2) ∧ ∃ g, Reaches (seen p.1 p.2.1 p.2.2) p.2.2 false
        (indexedOf (seen p.1 p.2.1 p.2.2) (typeSize (bitsAt (seen p.1 p.2.1 p.2.2).o.mod 0 4))) g ∧ (kept (seen p.1 p.2.1 p.2.2) g ∧ g.st.oracle = [])) ∧
    (let cells : List (ByteAt × Byte) := [((0, 0, 0x50000), 9)];
      lab.oracle = [] ∧ ((lab.laneActor 0 0 2).level ≠ 9 ∧ (candidates onRecord.past (lab.laneActor 0 0 2) 15 2 0 cells).map (·.at_) = [0] ∧
        (onRecord.loadPart (lab.laneActor 0 0 2) 15 2 0 cells).2 = [7])) := by
  refine ⟨reach_meets (use := fun c => operandOf c (typeSize (bitsAt c.o.mod 0 4)) (typeSize (bitsAt c.o.mod 0 4)) .load)
    (P := fun c g => kept c g ∧ g.st.oracle = [] ∧ c.g.nodes.length + c.doers.length < c.g.logStore) (by decide +kernel) false,
    reach_meets (use := fun c => indexedOf c (typeSize (bitsAt c.o.mod 0 4))) (P := fun c g => kept c g ∧ g.st.oracle = []) (by decide +kernel) false,
    by decide +kernel⟩

/-- Lane 0 holds a choice record, and its kerf is one short of full. -/
def trailing : State :=
  (four.onGroup 0 fun g => { g with kerfCap := 1 }).onLane 0 0 0 fun x =>
    { x with recs := [{ resume := 0x1000000, next := 1, count := 2, mark := 0, dest := 4, mask := 0, wb := 0, token := 0 }] }

/-- The group works on a sealed piece whose version has room for just one line of each of two lanes. -/
def sealedLab : State :=
  { lab.lanesWide 2 with
    tasks := [(9, { uid := 9, socket := 0, launch := 0, gid := 0, record := (List.replicate 28 0) ++ [8] ++ List.replicate 35 0
                    dcb := 0x30000, depth := 2, role := 1, number := 0, bent := 0 })]
    bents := (lab.lanesWide 2).bents.map fun p => (p.1, { p.2 with piece := some { task := 9, first := 0, next := 0, stop := 4 } }) }

/-- Stores in base and extended form, to each space, a trailed store with room for its entry, and stores of a sealed piece. -/
theorem witness_StoresWrite :
    (∀ p ∈ [(Major.st, ({ form := .base, d := .g 21, a := .a 3 } : Op), lab.withKA [] [(3, 0x3FFFFFFC)]),
        (.st, { mod := 0x1000, d := .g 2, a := .a 3, b := .g 1 }, four), (.st, { mod := 0x25, d := .g 4, a := .imm, imm22 := 4088 }, four),
        (.st, { mod := 0x34, d := .g 4, a := .imm, imm22 := 64 }, four), (.st, { mod := 0x1100, d := .g 2, a := .a 3, b := .g 1 }, trailing)],
      Plain p.1 p.2.1 p.2.2 (seen p.1 p.2.1 p.2.2) ∧ ∃ g, Reaches (seen p.1 p.2.1 p.2.2) p.2.2 true
        (operandOf (seen p.1 p.2.1 p.2.2) (typeSize (bitsAt (seen p.1 p.2.1 p.2.2).o.mod 0 4))
          (typeSize (bitsAt (seen p.1 p.2.1 p.2.2).o.mod 0 4)) .store) g ∧
        ((seen p.1 p.2.1 p.2.2).s0.isSealed 0 = false ∧ bitsAt (seen p.1 p.2.1 p.2.2).o.mod 4 2 ≠ 1 ∧
          ((seen p.1 p.2.1 p.2.2).o.mod.getLsbD 8 = true → bitsAt (seen p.1 p.2.1 p.2.2).o.mod 4 2 ≠ 3) ∧
          (seen p.1 p.2.1 p.2.2).v.choiceBytes + 16 * g.ins.length ≤ 16384 ∧ ∀ l ∈ (seen p.1 p.2.1 p.2.2).doers, ((seen p.1 p.2.1 p.2.2).lane l).kerf.length < (seen p.1 p.2.1 p.2.2).g.kerfCap)) ∧
    (((trailing.lane 0 0 0).recs ≠ [] ∧ (trailing.lane 0 0 0).notrail = false) ∧ ∃ p, sealedLab.pieceOf 0 = some p ∧ p.lines + 2 * 2 ≤ Config.sealedLines) ∧
    (∀ p ∈ [(Major.st, ({ d := .g 2, a := .a 3 } : Op), sealedLab)],
      Plain p.1 p.2.1 p.2.2 (seen p.1 p.2.1 p.2.2) ∧ ∃ g, Reaches (seen p.1 p.2.1 p.2.2) p.2.2 true (operandOf (seen p.1 p.2.1 p.2.2) 4 4 .store) g ∧
        ((seen p.1 p.2.1 p.2.2).s0.isSealed 0 = true ∧ g.ins.length = 2)) := by
  refine ⟨reach_meets (use := fun c => operandOf c (typeSize (bitsAt c.o.mod 0 4)) (typeSize (bitsAt c.o.mod 0 4)) .store)
    (P := fun c g => c.s0.isSealed 0 = false ∧ bitsAt c.o.mod 4 2 ≠ 1 ∧ (c.o.mod.getLsbD 8 = true → bitsAt c.o.mod 4 2 ≠ 3) ∧
      c.v.choiceBytes + 16 * g.ins.length ≤ 16384 ∧ ∀ l ∈ c.doers, (c.lane l).kerf.length < c.g.kerfCap) (by decide +kernel) true,
    ⟨by decide +kernel, { task := 9, first := 0, next := 0, stop := 4 }, by decide +kernel⟩,
    reach_meets (use := fun c => operandOf c 4 4 .store) (P := fun c g => c.s0.isSealed 0 = true ∧ g.ins.length = 2) (by decide +kernel) true⟩

/-- The bounded operand of LDB and STB (R206), as `VectorAndBounded` has it. -/
def boundOf (acc : Access) (c : Ctx) : MemUse :=
  let n := typeSize (bitsAt c.o.mod 0 4)
  let k : Nat := match c.o.a with
    | .k i => i.toNat
    | _ => 0
  { space := 0, size := n, align := n, acc := acc
    ea := fun _ v => if (lowWord v.b).toNat + n ≤ (c.g.kAt (k + 2)).toNat then
      some (BitVec.ofNat 64 ((c.g.kAt k).toNat + 2 ^ 32 * (c.g.kAt (k + 1)).toNat) + (lowWord v.b).zeroExtend 64) else none }

/-- LDV of 32 words, STV of 4, LDB and STB with one lane inside the limit and three beyond it. -/
theorem witness_VectorAndBounded :
    (∀ p ∈ [(Major.ldv, ({ mod := 3, d := .g 60, a := .a 4 } : Op), four), (.ldv, { mod := 0x21, d := .g 8, a := .imm, imm22 := 4064 }, four)],
      Plain p.1 p.2.1 p.2.2 (seen p.1 p.2.1 p.2.2) ∧ ∃ g, Reaches (seen p.1 p.2.1 p.2.2) p.2.2 false
        (operandOf (seen p.1 p.2.1 p.2.2) (4 * (4 * 2 ^ bitsAt (seen p.1 p.2.1 p.2.2).o.mod 0 2)) 16 .load) g ∧ (kept (seen p.1 p.2.1 p.2.2) g ∧ g.st.oracle = [])) ∧
    (∀ p ∈ [(Major.stv, ({ mod := 0, d := .g 0, a := .a 5, imm22 := 16 } : Op), four)],
      Plain p.1 p.2.1 p.2.2 (seen p.1 p.2.1 p.2.2) ∧ ∃ g, Reaches (seen p.1 p.2.1 p.2.2) p.2.2 false
        (operandOf (seen p.1 p.2.1 p.2.2) (4 * (4 * 2 ^ bitsAt (seen p.1 p.2.1 p.2.2).o.mod 0 2)) 16 .store) g ∧
        (seen p.1 p.2.1 p.2.2).s0.isSealed 0 = false) ∧
    (∀ p ∈ [(Major.ldb, ({ d := .g 3, a := .k 12, b := .g 1, c := .p 2 } : Op), four)],
      Plain p.1 p.2.1 p.2.2 (seen p.1 p.2.1 p.2.2) ∧ ∃ g, Reaches (seen p.1 p.2.1 p.2.2) p.2.2 false (boundOf .load (seen p.1 p.2.1 p.2.2)) g ∧
        (kept (seen p.1 p.2.1 p.2.2) g ∧ g.st.oracle = [] ∧ (g.ins.filter fun i => i.loc.isSome).length = 1)) ∧
    (∀ p ∈ [(Major.stb, ({ d := .g 3, a := .k 12, b := .g 1, c := .p 7 } : Op), four)],
      Plain p.1 p.2.1 p.2.2 (seen p.1 p.2.1 p.2.2) ∧ ∃ g, Reaches (seen p.1 p.2.1 p.2.2) p.2.2 true (boundOf .store (seen p.1 p.2.1 p.2.2)) g ∧
        (g.ins.filter fun i => i.loc.isSome).length = 1) := by
  refine ⟨reach_meets (use := fun c => operandOf c (4 * (4 * 2 ^ bitsAt c.o.mod 0 2)) 16 .load) (P := fun c g => kept c g ∧ g.st.oracle = []) (by decide +kernel) false,
    reach_meets (use := fun c => operandOf c (4 * (4 * 2 ^ bitsAt c.o.mod 0 2)) 16 .store) (P := fun c _ => c.s0.isSealed 0 = false)
      (by decide +kernel) false,
    reach_meets (use := boundOf .load) (P := fun c g => kept c g ∧ g.st.oracle = [] ∧ (g.ins.filter fun i => i.loc.isSome).length = 1) (by decide +kernel) false,
    reach_meets (use := boundOf .store) (P := fun _ g => (g.ins.filter fun i => i.loc.isSome).length = 1) (by decide +kernel) true⟩

/-- Atomics of both widths, in global memory and in A space, and CAS. -/
theorem witness_Atomics :
    ∀ p ∈ [(Major.atom, ({ mod := 0x1087, a := .a 3, b := .g 1, c := .g 2 } : Op), four), (.atom, { mod := 0x6C, d := .g 2, a := .imm, c := .k 4, imm22 := 4088 }, four),
        (.cas, { mod := 0x1000, d := .g 4, a := .a 3, b := .g 1, c := .g 2 }, four),
        (.cas, { mod := 0x28, d := .g 4, a := .imm, c := .g 2 }, four)],
      Plain p.1 p.2.1 p.2.2 (seen p.1 p.2.1 p.2.2) ∧ ∃ g, Reaches (seen p.1 p.2.1 p.2.2) p.2.2 true
        (operandOf (seen p.1 p.2.1 p.2.2) (if (seen p.1 p.2.1 p.2.2).o.mod.getLsbD 3 then 8 else 4)
          (if (seen p.1 p.2.1 p.2.2).o.mod.getLsbD 3 then 8 else 4) .atomic) g ∧
        (kept (seen p.1 p.2.1 p.2.2) g ∧ bitsAt (seen p.1 p.2.1 p.2.2).o.mod 4 2 ≠ 1 ∧ bitsAt (seen p.1 p.2.1 p.2.2).o.mod 4 2 ≠ 3 ∧
          (seen p.1 p.2.1 p.2.2).s0.isSealed 0 = false) :=
  reach_meets (use := fun c => operandOf c (if c.o.mod.getLsbD 3 then 8 else 4) (if c.o.mod.getLsbD 3 then 8 else 4) .atomic)
    (P := fun c g => kept c g ∧ bitsAt c.o.mod 4 2 ≠ 1 ∧ bitsAt c.o.mod 4 2 ≠ 3 ∧ c.s0.isSealed 0 = false) (by decide +kernel) true

/-- Lane 0's monitor armed, with or without a store seen. -/
def armed (hit : Bool) : State := four.onLane 0 0 0 fun x => { x with monArmed := true, monLine := 0x50000, monPa := 0x50000, monHit := hit }

/-- The fibre parked at a wait, at an instruction of 12 bytes. -/
def parkedAt (w : Wait) : State :=
  { four with cur := none }.onFibre ⟨0, 0, 0⟩ fun f => { f with st := .parked, wait := w, len := 12 }

/-- MON of the last mapped byte; MWAIT without an armed lane, with a store seen and without; the wake. -/
theorem witness_MonitorAndWait :
    (∀ p ∈ [(Major.mon, ({ a := .a 4, imm22 := 63 } : Op), four), (.mon, { mod := 0x1000, a := .a 3, b := .g 1 }, four)],
      Plain p.1 p.2.1 p.2.2 (seen p.1 p.2.1 p.2.2) ∧ ∃ g, Reaches (seen p.1 p.2.1 p.2.2) p.2.2 false (operandOf (seen p.1 p.2.1 p.2.2) 1 1 .load) g ∧
        (kept (seen p.1 p.2.1 p.2.2) g ∧ bitsAt (seen p.1 p.2.1 p.2.2).o.mod 4 2 = 0)) ∧
    (∀ p ∈ [(Major.mwait, ({} : Op), four), (.mwait, {}, armed true), (.mwait, {}, armed false)],
      Plain p.1 p.2.1 p.2.2 (seen p.1 p.2.1 p.2.2) ∧ True) ∧
    (let c := seen .mwait {} (armed false)
     (c.writers.filter fun l => (c.lane l).monArmed) = [0] ∧ (c.lane 0).monHit = false) ∧
    (∃ f, (parkedAt (.monitor 1)).fibre ⟨0, 0, 0⟩ = some f ∧ f.st = .parked ∧ f.wait = .monitor 1 ∧ f.halts = [] ∧
      ((parkedAt (.monitor 1)).group 0).all (fun h => (h.weave 0).fibres.all fun f => f.halts.isEmpty) = true) :=
  ⟨reach_meets (use := fun c => operandOf c 1 1 .load) (P := fun c g => kept c g ∧ bitsAt c.o.mod 4 2 = 0) (by decide +kernel) false,
    meets_of (P := fun _ => True) (by decide +kernel), by decide +kernel,
    { labFibre with lanes := 15, st := .parked, wait := .monitor 1, len := 12 }, by decide +kernel⟩

/-- A data part of 16 KiB whose entry 255 is a stream of words in A space. -/
def table255 : State :=
  lab.onGroup 0 fun g => { g with
    dataLen := 16384
    data := g.data.putBytes (32 * 255) (leBytes 8 0x2000000000000040 ++ leBytes 4 4 ++ leBytes 4 256 ++ leBytes 4 3 ++ leBytes 12 0) }

/-- A stream of words in A space that reads, or writes with bit 8 of its access, at a step. -/
def aStream (access step : Word) : QStream :=
  { base := 0x2000000000000040, lane := 4, stride := 256, length := 3, access := access, step := step }

/-- Q2 bound in lane 0. -/
def streaming (access step : Word) : State := lab.onLane 0 0 0 fun x => { x with q := [(2, aStream access step)] }

/-- Binding the last entry, unbinding, and an IADD that reads a live stream, an exhausted one, and writes one. -/
theorem witness_StreamTables :
    (∀ p ∈ [(Major.sbind, ({ mod := 1, d := .q 2 } : Op), streaming 0 0), (.sbind, { d := .q 7, a := .g 1, imm22 := 255 }, table255)],
      Plain p.1 p.2.1 p.2.2 (seen p.1 p.2.1 p.2.2) ∧ (seen p.1 p.2.1 p.2.2).o.ownBits.toNat ≤ 255) ∧
    (table255.typedAt 0 2 (0 + 32 * 255) 32 = .ok (.data 0 8160) ∧
      streamOk (table255.loadAt 0 (table255.bayOf 0) (.data 0 8160) 32).2 = true) ∧
    (∀ p ∈ [(({ d := .g 3, a := .q 2, b := .g 1 } : Op), streaming 0 2, 576), ({ d := .g 3, a := .q 2, b := .g 1 }, streaming 0 3, 0),
        ({ d := .q 2, a := .g 3, b := .g 1 }, streaming 0x100 0, 64)],
      Issues .iadd p.1 p.2.1 (seen .iadd p.1 p.2.1) ∧ (let c := seen .iadd p.1 p.2.1
        c.each.flatMap (slotRefusals c) = [] ∧ c.writers = [0] ∧ tsorted none (c.lane 0).q = true ∧ p.2.1.oracle = [] ∧
        (p.2.2 ≠ 0 → p.2.1.typedAt c.bent 2 p.2.2 4 = .ok (.data 0 p.2.2)))) := by
  refine ⟨meets_of (P := fun c => c.o.ownBits.toNat ≤ 255) (by decide +kernel), by decide +kernel, ?_⟩
  intro p hp
  simp only [List.mem_cons, List.not_mem_nil, or_false] at hp
  obtain rfl | rfl | rfl := hp <;> exact ⟨issues_of (by decide +kernel), by decide +kernel⟩

/-- An A-space word as `ArrivalWords` takes it. -/
def arrivalUse (n : Nat) (acc : Access) (c : Ctx) : MemUse :=
  { space := 2, size := n, align := n, acc := acc, ea := fun _ v => some (BitVec.ofNat 64 ((v.a + c.o.own).toNat % 2 ^ 32)) }

/-- A copy record: 64 bytes from global memory to A space. -/
def copyBytes1 : List Byte := leBytes 8 0x50000 ++ leBytes 8 0x2000000000000100 ++ leBytes 4 64 ++ leBytes 2 1 ++ leBytes 10 0
/-- The group with that record at the end of its data part. -/
def kicking : State := (lab.onGroup 0 fun g => { g with data := g.data.putBytes 4064 copyBytes1 }).withG [(1, 4064), (2, 1)]
/-- The record as the kick register holds it. -/
def copyRec1 : CopyRec := { bent := 0, gid := 0, core := 0, pc := 0x1000000, weave := 0, slot := 0, bytes := copyBytes1 }

/-- The last word of the data part set, awaited with its generation reached and not yet, and a kick of one record. -/
theorem witness_ArrivalWords :
    (∀ p ∈ [(Major.aset, ({ a := .imm, b := .g 2, imm22 := 4080 } : Op), kicking)],
      Plain p.1 p.2.1 p.2.2 (seen p.1 p.2.1 p.2.2) ∧ ∃ g, Reaches (seen p.1 p.2.1 p.2.2) p.2.2 false (arrivalUse 16 .store (seen p.1 p.2.1 p.2.2)) g ∧
        ∀ l ∈ (seen p.1 p.2.1 p.2.2).doers, lowWord ((seen p.1 p.2.1 p.2.2).regVals l).b ≠ 0) ∧
    (∀ p ∈ [(Major.await, ({ a := .g 3, b := .imm, imm22 := 0 } : Op), kicking)],
      Plain p.1 p.2.1 p.2.2 (seen p.1 p.2.1 p.2.2) ∧ ∃ g, Reaches (seen p.1 p.2.1 p.2.2) p.2.2 false (arrivalUse 16 .load (seen p.1 p.2.1 p.2.2)) g ∧
        ∀ i ∈ g.ins, g.st.arrived 0 i.ea.toNat (lowWord ((seen p.1 p.2.1 p.2.2).regVals i.lane).b) = true) ∧
    (∀ p ∈ [(Major.await, ({ a := .g 3, b := .imm, imm22 := 1 } : Op), kicking)],
      Plain p.1 p.2.1 p.2.2 (seen p.1 p.2.1 p.2.2) ∧ ∃ g, Reaches (seen p.1 p.2.1 p.2.2) p.2.2 false (arrivalUse 16 .load (seen p.1 p.2.1 p.2.2)) g ∧
        ∃ i ∈ g.ins, g.st.arrived 0 i.ea.toNat (lowWord ((seen p.1 p.2.1 p.2.2).regVals i.lane).b) = false) ∧
    (∀ p ∈ [(Major.kick, ({ a := .g 1, b := .g 2 } : Op), kicking)],
      Plain p.1 p.2.1 p.2.2 (seen p.1 p.2.1 p.2.2) ∧ ∃ g, Reaches (seen p.1 p.2.1 p.2.2) p.2.2 false (arrivalUse 32 .load (seen p.1 p.2.1 p.2.2)) g ∧
        (let c := seen p.1 p.2.1 p.2.2
         (∀ l ∈ c.doers, (lowWord (c.regVals l).b).toNat = 1) ∧ c.s0.isSealed 0 = false ∧ c.s0.oracle = [] ∧ (c.s0.bayAt (c.s0.bayOf 0)).kickFull c.g.core c.doers.length = false ∧
         ∀ i ∈ g.ins, g.st.typedAt c.bent 2 i.ea.toNat (32 * (lowWord i.vals.b).toNat) = .ok (.data 0 4064) ∧
          (c.fetchKick g.st { i with loc := some (.data 0 4064) }).2.toOption = some [copyRec1])) :=
  ⟨reach_meets (use := arrivalUse 16 .store) (P := fun c _ => ∀ l ∈ c.doers, lowWord (c.regVals l).b ≠ 0) (by decide +kernel) false,
    reach_meets (use := arrivalUse 16 .load) (P := fun c g => ∀ i ∈ g.ins, g.st.arrived 0 i.ea.toNat (lowWord (c.regVals i.lane).b) = true)
      (by decide +kernel) false,
    reach_meets (use := arrivalUse 16 .load) (P := fun c g => ∃ i ∈ g.ins, g.st.arrived 0 i.ea.toNat (lowWord (c.regVals i.lane).b) = false)
      (by decide +kernel) false,
    reach_meets (use := arrivalUse 32 .load) (P := fun c g => (∀ l ∈ c.doers, (lowWord (c.regVals l).b).toNat = 1) ∧ c.s0.isSealed 0 = false ∧ c.s0.oracle = [] ∧
      (c.s0.bayAt (c.s0.bayOf 0)).kickFull c.g.core c.doers.length = false ∧
      ∀ i ∈ g.ins, g.st.typedAt c.bent 2 i.ea.toNat (32 * (lowWord i.vals.b).toNat) = .ok (.data 0 4064) ∧
        (c.fetchKick g.st { i with loc := some (.data 0 4064) }).2.toOption = some [copyRec1]) (by decide +kernel) false⟩

/-- A launch with a peg table at 0x60000. -/
def pegged : State :=
  { lab with launches := lab.launches.map fun p => (p.1, { p.2 with record := (List.replicate 88 0) ++ leBytes 8 0x60000 ++ List.replicate 160 0 }) }

theorem pair_of {α β γ : Type} {x : α × Except β γ} {b : γ} (h : x.2.toOption = some b) : x = (x.1, .ok b) :=
  Prod.ext rfl (ok_of h)

/-- PADV at the last peg in one lane, and PWAIT with a threshold just met, one just not met, and in no lane. -/
theorem witness_Pegs :
    (∀ p ∈ [(Major.padv, ({ mod := 0x7F, b := .g 2 } : Op), pegged.withG [(2, 0xFFFFFFFF), (3, 0xFFFFFFFF)]),
        (.pwait, { mod := 0x40, b := .g 2 }, pegged.withG [(2, 1), (3, 0x80000000)]), (.pwait, { mod := 0, b := .imm, imm22 := 1 }, pegged)],
      Plain p.1 p.2.1 p.2.2 (seen p.1 p.2.1 p.2.2) ∧ (seen p.1 p.2.1 p.2.2).doers = [0] ∧ (seen p.1 p.2.1 p.2.2).s0.isSealed 0 = false) ∧
    (∀ p ∈ [(Major.pwait, ({ mod := 0x40, b := .g 2, pred := 1 } : Op), pegged)],
      Plain p.1 p.2.1 p.2.2 (seen p.1 p.2.1 p.2.2) ∧ (seen p.1 p.2.1 p.2.2).doers = []) ∧ (∃ l, pegged.launchOf 0 = some l) ∧
    (∃ v memo, ({ pegged with cur := none }).pegAt [] (pegged.agentOf 0) 0 63 .atomic = (v, memo, .ok 0x601F8)) ∧
    (∃ v memo, ({ pegged with cur := none }).pegAt [] (pegged.agentOf 0) 0 0 .load = (v, memo, .ok 0x60000) ∧
      (BitVec.ofNat 64 (memNat v 0x60000 8) - 0x8000000000000001).toNat < 2 ^ 63 ∧
      ¬(BitVec.ofNat 64 (memNat v 0x60000 8) - 1).toNat < 2 ^ 63) :=
  ⟨meets_of (P := fun c => c.doers = [0] ∧ c.s0.isSealed 0 = false) (by decide +kernel),
    meets_of (P := fun c => c.doers = []) (by decide +kernel), ⟨_, rfl⟩,
    ⟨_, _, triple_of (by decide +kernel)⟩, ⟨_, _, triple_of (by decide +kernel), by decide +kernel, by decide +kernel⟩⟩

/-- The lab's group as the joiner of its bent: a shape of 16 elements in rows of 32 bytes, and an open guard 4. -/
def joinLab : State :=
  (((lab.onBent 0 fun b => { b with joiner := some 0 }).onBay 0 fun y => { y with guards := [(4, .opened), (5, .no), (6, .yes)] }).withG
    [(0, 0), (2, 0x1000), (3, 0x02020010), (4, 0x1000), (5, 0x2000), (7, 0x80)]).withKA
    [(4, 64), (5, 16), (6, 48), (8, 0x02020010)] [(2, 0x50000), (5, 0x60010)]

/-- A matrix command whose operands keep to their rules in a joiner's stream. -/
abbrev acceptable (s : State) (c : Ctx) : Prop :=
  c.joiner = true ∧ (s.bayAt (s.bayOf c.r.gid)).mq.length + c.doers.length ≤ Config.matrixQueue ∧ c.doers ≠ [] ∧
    ∀ l ∈ c.doers, (c.command (c.regVals l)).broken = false ∧ ((c.command (c.regVals l)).guard.all fun n => tget .free (s.bayAt (s.bayOf c.r.gid)).guards n != .free) ∧
      ((c.command (c.regVals l)).bases.all fun a => a.toNat % 16 == 0) ∧ s.rangeBad (c.command (c.regVals l)) = none

/-- Each command in the joiner's stream, guarded, with a peg and from every kind of space; and each outside it. -/
theorem witness_MatrixCommandsQueue :
    (∀ p ∈ [(Major.mma, ({ mod := 0x1A22, a := .g 0, b := .g 2, c := .g 3, imm22 := 0x145 } : Op), joinLab),
        (.mmas, { mod := 0x4800, d := .k 4, a := .k 6, b := .a 2, c := .k 8, imm22 := 9 }, joinLab),
        (.mconv, { form := .extLit, mod := 0x1822, a := .g 0, b := .g 5, c := .imm, lit := some 0x10000010 }, joinLab),
        (.mzero, { mod := 0x300, imm22 := 0x407F }, joinLab), (.mldc, { mod := 0x801, a := .k 5, c := .k 6, imm22 := 7 }, joinLab),
        (.mldc, { mod := 0xC00, c := .k 6, imm22 := 0x20007 }, joinLab), (.mstc, { mod := 0x112, a := .a 5, c := .g 7, imm22 := 0x4002 }, joinLab)],
      Plain p.1 p.2.1 p.2.2 (seen p.1 p.2.1 p.2.2) ∧ acceptable joinLab (seen p.1 p.2.1 p.2.2)) ∧
    (∀ p ∈ [(Major.mma, ({ mod := 0x1A22, a := .g 0, b := .g 2, c := .g 3, imm22 := 0x145 } : Op), lab),
        (.mmas, { mod := 0x4800, d := .k 4, a := .k 6, b := .a 2, c := .k 8, imm22 := 9 }, lab),
        (.mconv, { form := .extLit, mod := 0x1822, a := .g 0, b := .g 5, c := .imm, lit := some 0x10000010 }, lab),
        (.mzero, { mod := 0x300, imm22 := 0x407F }, lab), (.mldc, { mod := 0x801, a := .k 5, c := .k 6, imm22 := 7 }, lab),
        (.mstc, { mod := 0x112, a := .a 5, c := .g 7, imm22 := 0x4002 }, lab)],
      Plain p.1 p.2.1 p.2.2 (seen p.1 p.2.1 p.2.2) ∧ (seen p.1 p.2.1 p.2.2).joiner = false) :=
  ⟨meets_of (P := acceptable joinLab) (by decide +kernel), meets_of (P := fun c => c.joiner = false) (by decide +kernel)⟩

/-- An MZERO of tile 63, under guard 5. -/
def zeroing : MCmd :=
  { bent := 0, gid := 0, pc := 0x1000000, major := .mzero, mod := 0x100, tile := 63, peg := none, guard := some 5, stile := 0
    opA := 0, opB := 0, shape := 0, bitmap := 0, slot := 0 }

/-- The bay with one command at the head. -/
def heading (k : MCmd) : State := joinLab.onBay 0 fun y => { y with mq := [k] }

/-- What a command at the head makes of peg 63, which lies at 0x601F8, and of the queue by an event. -/
def headPeg (k : MCmd) (i : Instr) : Option (Nat × Nat) :=
  match exec i { heading k with launches := pegged.launches } with
  | .next t => some (memNat t 0x601F8 8, (t.bayAt 0).mq.length)
  | _ => none

/-- A matrix command that finds the queue full waits at issue, as a step has it. -/
theorem witness_StallAtIssue : ∃ (t : State) (ws : List Word) (i : Instr),
    let s := (joinLab.onBay 0 fun y => { y with mq := List.replicate Config.matrixQueue zeroing }).holding 0x1000000 ((encode (.mzero { imm22 := 63 })).flatMap fun w => leBytes 4 w.toNat)
    s.cur = some ⟨0, 0, 0⟩ ∧ s.fibre ⟨0, 0, 0⟩ = some labFibre ∧ s.fetchWords ⟨0, 0, 0⟩ labFibre = .words t ws ∧
      decodeWords (t.isJoiner 0) ws = .ok i ∧ t.stallAs ⟨0, 0, 0⟩ i ≠ 0 := by
  obtain ⟨t, ws, h, hd⟩ := words_of (s := (joinLab.onBay 0 fun y => { y with mq := List.replicate Config.matrixQueue zeroing }).holding 0x1000000
      ((encode (.mzero { imm22 := 63 })).flatMap fun w => leBytes 4 w.toNat)) (r := ⟨0, 0, 0⟩) (f := labFibre)
    (p := fun t ws => decide (decodeWords (t.isJoiner 0) ws = .ok (.mzero { imm22 := 63 }) ∧ t.stallAs ⟨0, 0, 0⟩ (.mzero { imm22 := 63 }) ≠ 0))
    (by decide +kernel)
  exact ⟨t, ws, _, by decide +kernel, by decide +kernel, h, of_decide_eq_true hd⟩

/-- A guard resolved NO, one resolved YES, no guard, and a command that has run; both with a peg; a bent that stops. -/
theorem witness_MatrixCommandsRun :
    (∀ k ∈ [zeroing, { zeroing with guard := some 6 }, { zeroing with guard := none }, { zeroing with guard := none, major := .mldc, mod := 0x400 }],
      ((heading k).bayAt 0).mq = [k] ∧ (heading k).engineWaits (socketOf k.gid) k.entries (.matrix k.gid) = false ∧
        ¬(k.started = true ∧ k.total ≤ k.step)) ∧
    tget .free ((heading zeroing).bayAt 0).guards 5 = .no ∧ tget .free ((heading zeroing).bayAt 0).guards 6 = .yes ∧
    (∀ k ∈ [{ zeroing with guard := some 6 }, { zeroing with guard := none }],
      ∃ d t, k.run 0 4 (heading k) = ((d, none), t)) ∧
    (let k := { zeroing with started := true, acc := List.replicate 4096 0 }
     k.total ≤ k.step ∧ k.entries = [] ∧ k.acc.length = 4096) ∧
    headPeg { zeroing with peg := some 63 } (.matrixCommandHead 0 4) = some (1, 0) ∧
    headPeg { zeroing with peg := some 63, started := true, acc := List.replicate 4096 0 } (.matrixCommandRetire 0) = some (1, 0) ∧
    (heading zeroing).isStopping 0 = false ∧ ((heading zeroing).onBent 0 fun b => { b with st := .stopping }).isStopping 0 = true ∧
    zeroing.rows = [] := by
  refine ⟨by decide +kernel, by decide +kernel, by decide +kernel, ?_, by decide +kernel⟩
  have key : ∀ k : MCmd, (k.run 0 4 (heading k)).1.2.isNone = true → ∃ d t, k.run 0 4 (heading k) = ((d, none), t) := fun k h =>
    ⟨_, _, Prod.ext (Prod.ext rfl (Option.isNone_iff_eq_none.mp h)) rfl⟩
  intro k hk
  simp only [List.mem_cons, List.not_mem_nil, or_false] at hk
  obtain rfl | rfl := hk <;> exact key _ (by decide +kernel)

/-- Integers whose sum passes the bound and whose sum does not; a sum of 0 and one that is not; a NaN in a row and in the
accumulator. -/
theorem witness_StepArithmetic :
    (∀ l ∈ [[FVal.fin false 3 0, .fin true 2 0], [FVal.fin false 127 0, .fin true 128 0]],
      (∀ v ∈ l ++ l, ∃ n m e, v = .fin n m e) ∧ ∀ v ∈ l ++ l, v.exp = 0) ∧
    (∃ n m e, (FVal.fin n m e).rat = (([FVal.fin false 3 0].zip [FVal.fin false 5 0]).map fun p => p.1.rat * p.2.rat).sum ∧ m ≠ 0) ∧
    (([FVal.fin false 3 0].zip [FVal.fin false 0 0]).map fun p => p.1.rat * p.2.rat).sum = 0 ∧
    (∃ t f, stepSum (MRow.of [.fin false 3 0]) (MRow.of [.fin false 5 0]) = some (t, f)) ∧
    (fdecode fmt32 0x3F800000).isNaN = false ∧ (fdecode fmt32 0x3F800000).isInf = false ∧ (fdecode fmt32 0x7FC00000).isNaN = true ∧
    ([FVal.nan false] ++ [FVal.fin false 1 0]).any FVal.isNaN = true := by
  refine ⟨?_, ⟨false, 15, 0, by norm_num [FVal.rat], by decide⟩, by norm_num [FVal.rat], ?_, by decide +kernel⟩
  · intro l hl
    simp only [List.mem_cons, List.not_mem_nil, or_false] at hl
    obtain rfl | rfl := hl <;> simp [FVal.exp]
  · exact Option.isSome_iff_exists.mp (show (stepSum (MRow.of [.fin false 3 0]) (MRow.of [.fin false 5 0])).isSome = true by decide +kernel)
      |>.elim fun x h => ⟨x.1, x.2, h⟩

/-- The last guard slot opened; slots 4 and 15 set, one open and one free. -/
theorem witness_Guards :
    (∀ p ∈ [(Major.guard, ({ imm22 := 15 } : Op), joinLab), (.guard, { imm22 := 5 }, joinLab)],
      Plain p.1 p.2.1 p.2.2 (seen p.1 p.2.1 p.2.2) ∧ ((seen p.1 p.2.1 p.2.2).joiner = true ∧ (seen p.1 p.2.1 p.2.2).doers ≠ [] ∧
        (seen p.1 p.2.1 p.2.2).o.ownBits.toNat ≤ 15 ∧ (joinLab.bayAt 0).guardBusy (seen p.1 p.2.1 p.2.2).o.ownBits.toNat = false)) ∧
    (∀ p ∈ [(Major.gset, ({ a := .imm, b := .p 3, imm22 := 4 } : Op), joinLab), (.gset, { a := .imm, b := .p 3, imm22 := 15 }, joinLab)],
      Plain p.1 p.2.1 p.2.2 (seen p.1 p.2.1 p.2.2) ∧ ((seen p.1 p.2.1 p.2.2).doers = [0] ∧
        ((seen p.1 p.2.1 p.2.2).s0.bent (seen p.1 p.2.1 p.2.2).bent).map (·.claim) = some true ∧
        (lowWord ((seen p.1 p.2.1 p.2.2).regVals 0).a).toNat ≤ 15)) ∧
    tget .free (joinLab.bayAt 0).guards 4 = .opened ∧ tget .free (joinLab.bayAt 0).guards 15 = .free :=
  ⟨meets_of (P := fun c => c.joiner = true ∧ c.doers ≠ [] ∧ c.o.ownBits.toNat ≤ 15 ∧ (joinLab.bayAt 0).guardBusy c.o.ownBits.toNat = false)
      (by decide +kernel),
    meets_of (P := fun c => c.doers = [0] ∧ (c.s0.bent c.bent).map (·.claim) = some true ∧ (lowWord (c.regVals 0).a).toNat ≤ 15)
      (by decide +kernel), by decide +kernel⟩

/-- What DIST's lanes gather before their places, and the places. -/
def distReady (o : Op) (s : State) : Gather := let c := seen .dist o s
  { st := { s with cur := none }, ins := c.doers.map fun l => { lane := l, vals := c.regVals l, q := (c.lane l).q } }
/-- The two places of each lane of DIST. -/
def distPlaced (o : Op) (s : State) : Gather × List (LaneIn × Loc × Loc) :=
  (seen .dist o s).distPlaces (if o.mod.getLsbD 5 then 1 else 2) (rowBytes (bitsAt o.mod 0 4) (seen .dist o s).dim) (distReady o s)
/-- The premises of `Distances`, as a test. -/
def distTest (o : Op) (s : State) : Bool :=
  let c := seen .dist o s
  let fmt := bitsAt o.mod 0 4
  let n := if elemBits fmt < 8 then 1 else elemBits fmt / 8
  let g := (distPlaced o s).1
  plainTest .dist o s && decide (1 ≤ c.dim ∧ c.dim ≤ 4096 ∧ ¬((fmt = 10 ∨ fmt = 11) ∧ c.dim % 2 = 1)) &&
    (c.doers.all fun j => c.queryAt (c.regVals j) % n == 0 && (c.rowAt (c.regVals j)).toNat % n == 0) &&
    decide (c.g.nodes.length + 2 * c.doers.length < c.g.logStore) && decide (c.doers.length ≤ (c.g.freePairs.map (·.2)).sum) &&
    g.bad.isNone && g.late.isEmpty && decide (g.st.group c.r.gid = some c.g) && g.st.oracle.isEmpty && !(distPlaced o s).2.isEmpty &&
    (distPlaced o s).2.all fun p => quietTest g.st p.2.1 && quietTest g.st p.2.2

/-- Rows of 64 bytes from A4 on, of 8 elements; and one row of 4,096 elements of 4 bits. -/
def rows : State := four.withKA [(20, 8), (21, 8), (22, 0), (23, 4096)] []

/-- An inner product of BF16 rows, and L2 of rows of 4,096 elements of 4 bits with the query in W space; then an exact
sum of 8-bit integers. -/
theorem witness_Distances :
    (∀ p ∈ [(({ mod := 0x0102, d := .x 4, a := .g 2, b := .g 20, c := .k 20 } : Op), rows),
        ({ mod := 0x013A, d := .x 31, a := .g 2, b := .imm, c := .k 22 }, rows)],
      ∃ g0 g l, Plain .dist p.1 p.2 (seen .dist p.1 p.2) ∧ (let c := seen .dist p.1 p.2
        let fmt := bitsAt p.1.mod 0 4
        1 ≤ c.dim ∧ c.dim ≤ 4096 ∧ ¬((fmt = 10 ∨ fmt = 11) ∧ c.dim % 2 = 1) ∧
        c.ready false none { p.2 with cur := none } = .ok (g0, { p.2 with cur := none }) ∧
        (∀ j ∈ c.doers, let n := if elemBits fmt < 8 then 1 else elemBits fmt / 8
          c.queryAt (c.regVals j) % n = 0 ∧ (c.rowAt (c.regVals j)).toNat % n = 0) ∧
        c.g.nodes.length + 2 * c.doers.length < c.g.logStore ∧ c.doers.length ≤ (c.g.freePairs.map (·.2)).sum ∧
        c.distPlaces (if p.1.mod.getLsbD 5 then 1 else 2) (rowBytes fmt c.dim) g0 = (g, l) ∧ g.bad = none ∧ g.late = [] ∧
        g.st.group c.r.gid = some c.g ∧ g.settledMemory ∧ l ≠ [] ∧ ∀ p ∈ l, p.2.1.quiet g.st ∧ p.2.2.quiet g.st)) ∧
    (∀ j < 2, ∃ n m e n' m' e', typeVal 8 (leNat [3, 4] / 2 ^ (elemBits 8 * j)) = .fin n m e ∧
      typeVal 8 (leNat [5, 255] / 2 ^ (elemBits 8 * j)) = .fin n' m' e') := by
  have key : ∀ o s, distTest o s = true → ∃ g0 g l, Plain .dist o s (seen .dist o s) ∧ (let c := seen .dist o s
        let fmt := bitsAt o.mod 0 4
        1 ≤ c.dim ∧ c.dim ≤ 4096 ∧ ¬((fmt = 10 ∨ fmt = 11) ∧ c.dim % 2 = 1) ∧
        c.ready false none { s with cur := none } = .ok (g0, { s with cur := none }) ∧
        (∀ j ∈ c.doers, let n := if elemBits fmt < 8 then 1 else elemBits fmt / 8
          c.queryAt (c.regVals j) % n = 0 ∧ (c.rowAt (c.regVals j)).toNat % n = 0) ∧
        c.g.nodes.length + 2 * c.doers.length < c.g.logStore ∧ c.doers.length ≤ (c.g.freePairs.map (·.2)).sum ∧
        c.distPlaces (if o.mod.getLsbD 5 then 1 else 2) (rowBytes fmt c.dim) g0 = (g, l) ∧ g.bad = none ∧ g.late = [] ∧
        g.st.group c.r.gid = some c.g ∧ g.settledMemory ∧ l ≠ [] ∧ ∀ p ∈ l, p.2.1.quiet g.st ∧ p.2.2.quiet g.st) := by
    intro o s h
    simp only [distTest, Bool.and_eq_true, decide_eq_true_eq, List.all_eq_true, beq_iff_eq, Option.isNone_iff_eq_none,
      List.isEmpty_iff, Bool.not_eq_true'] at h
    obtain ⟨⟨⟨⟨⟨⟨⟨⟨⟨⟨h1, h2⟩, h3⟩, h4⟩, h5⟩, h6⟩, h7⟩, h8⟩, hs⟩, h9⟩, h10⟩ := h
    refine ⟨distReady o s, (distPlaced o s).1, (distPlaced o s).2, plain_of h1, h2.1, h2.2.1, h2.2.2, ?_, h3, h4, h5, rfl, h6, h7, h8, hs, ?_,
      fun p hp => ⟨quiet_of (h10 p hp).1, quiet_of (h10 p hp).2⟩⟩
    · exact ready_none (plain_of h1).streams false _
    · intro h; rw [h] at h9; simp at h9
  constructor
  · intro p hp
    simp only [List.mem_cons, List.not_mem_nil, or_false] at hp
    obtain rfl | rfl := hp <;> exact key _ _ (by decide +kernel)
  · intro j hj
    interval_cases j <;> exact ⟨_, _, _, _, _, _, rfl, rfl⟩

/-- A data part of 64 KiB with an empty list for 4 entries at 0, and one of one entry at 1024. -/
def listed : State :=
  (lab.lanesWide 2).onGroup 0 fun g => { g with
    dataLen := 65536
    data := ((g.data.putBytes 0 (leBytes 4 4 ++ leBytes 28 0)).putBytes 1024 (leBytes 4 4 ++ leBytes 4 1 ++ leBytes 24 0)) }

/-- What `TopkLists` asks of a list instruction. -/
abbrev listsFit (k : Ctx → Vals → Nat) (c : Ctx) (g : Gather) : Prop :=
  c.claimsBusy = false ∧ ∀ i ∈ g.ins, (match c.s0.typedAt c.bent 2 (c.listAt i.vals) (32 + 32 * k c i.vals) with
    | .ok _ => true
    | _ => false) = true

/-- A list of 1,024 cleared, a pair put into an empty list, and reading at the last position and beyond it. -/
theorem witness_TopkLists :
    (∀ p ∈ [(Major.topkClr, ({ mod := 4, a := .imm, b := .g 2, imm22 := 32 } : Op), (listed.lanesWide 1).withG [(2, 1024)])],
      Plain p.1 p.2.1 p.2.2 (seen p.1 p.2.1 p.2.2) ∧ ∃ g, Reaches (seen p.1 p.2.1 p.2.2) p.2.2 false (seen p.1 p.2.1 p.2.2).headUse g ∧
        (listsFit (fun _ v => (lowWord v.b).toNat) (seen p.1 p.2.1 p.2.2) g ∧ (seen p.1 p.2.1 p.2.2).doers = [0] ∧
          (lowWord ((seen p.1 p.2.1 p.2.2).regVals 0).b).toNat = 1024)) ∧
    (∀ p ∈ [(Major.topkIns, ({ a := .imm, b := .x 1, c := .g 2 } : Op), listed.lanesWide 1)],
      Plain p.1 p.2.1 p.2.2 (seen p.1 p.2.1 p.2.2) ∧ ∃ g, Reaches (seen p.1 p.2.1 p.2.2) p.2.2 false (seen p.1 p.2.1 p.2.2).headUse g ∧
        (listsFit (fun c v => headK (c.headOf v)) (seen p.1 p.2.1 p.2.2) g ∧ (seen p.1 p.2.1 p.2.2).doers = [0] ∧
          ((seen p.1 p.2.1 p.2.2).xSrc 0 (seen p.1 p.2.1 p.2.2).o.b).invalid = false ∧
          headOk ((seen p.1 p.2.1 p.2.2).headOf ((seen p.1 p.2.1 p.2.2).regVals 0)) 0 = true ∧
          headCount ((seen p.1 p.2.1 p.2.2).headOf ((seen p.1 p.2.1 p.2.2).regVals 0)) = 0)) ∧
    (∀ p ∈ [(Major.topkRd, ({ d := .g 4, a := .imm, b := .g 1, c := .x 2, imm22 := 1024 } : Op), listed.onLane 0 0 1 fun x => x.setG 1 1)],
      Plain p.1 p.2.1 p.2.2 (seen p.1 p.2.1 p.2.2) ∧ ∃ g, Reaches (seen p.1 p.2.1 p.2.2) p.2.2 false (seen p.1 p.2.1 p.2.2).headUse g ∧
        (listsFit (fun c v => headK (c.headOf v)) (seen p.1 p.2.1 p.2.2) g ∧
          (∀ l ∈ (seen p.1 p.2.1 p.2.2).doers, (seen p.1 p.2.1 p.2.2).headBad ((seen p.1 p.2.1 p.2.2).regVals l) = false) ∧
          ((seen p.1 p.2.1 p.2.2).doers.map fun l => decide ((lowWord ((seen p.1 p.2.1 p.2.2).regVals l).b).toNat <
            headCount ((seen p.1 p.2.1 p.2.2).headOf ((seen p.1 p.2.1 p.2.2).regVals l)))) = [true, false])) :=
  ⟨reach_meets (use := fun c => c.headUse) (P := fun c g => listsFit (fun _ v => (lowWord v.b).toNat) c g ∧ c.doers = [0] ∧
      (lowWord (c.regVals 0).b).toNat = 1024) (by decide +kernel) false,
    reach_meets (use := fun c => c.headUse) (P := fun c g => listsFit (fun c v => headK (c.headOf v)) c g ∧ c.doers = [0] ∧
      (c.xSrc 0 c.o.b).invalid = false ∧ headOk (c.headOf (c.regVals 0)) 0 = true ∧ headCount (c.headOf (c.regVals 0)) = 0) (by decide +kernel) false,
    reach_meets (use := fun c => c.headUse) (P := fun c g => listsFit (fun c v => headK (c.headOf v)) c g ∧
      (∀ l ∈ c.doers, c.headBad (c.regVals l) = false) ∧ (c.doers.map fun l => decide ((lowWord (c.regVals l).b).toNat <
        headCount (c.headOf (c.regVals l)))) = [true, false]) (by decide +kernel) false⟩

/-- A launch record of one bent of one group of 64 lanes; a task record of grain 3; a storage descriptor for one block. -/
def launchBytes1 : List Byte :=
  leBytes 8 0 ++ leBytes 4 (64 + 2 ^ 11) ++ leBytes 4 0 ++ leBytes 48 0 ++ leBytes 8 0x30000 ++ leBytes 4 1 ++ leBytes 2 1 ++ leBytes 2 1 ++ leBytes 176 0
def taskBytes1 : List Byte := leBytes 16 0 ++ leBytes 8 10 ++ leBytes 4 3 ++ leBytes 36 0
def stBytes1 : List Byte := leBytes 8 0x61000 ++ leBytes 8 0 ++ leBytes 2 0 ++ leBytes 2 0 ++ leBytes 4 7 ++ leBytes 8 0

/-- The records in memory at 0x40000, 0x40100 and 0x40140, a peg table, and a queue pair 0 of drive 7 with one entry free. -/
def spawning : State :=
  { ((({ pegged with cur := none }.holding 0x40000 launchBytes1).holding 0x40100 taskBytes1).holding 0x40140 stBytes1).withKA [] [(5, 0x40000)] with
    cur := lab.cur, pairs := [(0, { nsids := [7], lbaSize := 512, maxXfer := 4096, free := 1 })] }

/-- The group works on a piece of items 5 to 9, of grain 3. -/
def working (next : Nat) : State :=
  { lab with
    tasks := [(9, { uid := 9, socket := 0, launch := 0, gid := 0, record := taskBytes1, dcb := 0x30000, depth := 2, role := 1, number := 0, bent := 0 })]
    bents := lab.bents.map fun p => (p.1, { p.2 with piece := some { task := 9, first := 5, next := next, stop := 9 } }) }

/-- The memory operand of LAUNCH, TASK and STLOAD. -/
def recordOf (n align : Nat) (c : Ctx) : MemUse := { space := 0, size := n, align := align, acc := .load, ea := fun _ v => some (v.a + c.o.own) }

/-- The last launch depth and the one beyond it. -/
def deep (n : Nat) : State := { spawning with launches := spawning.launches.map fun p => (p.1, { p.2 with depth := n }) }

/-- A launch accepted, one refused for its record and one for its depth; a task accepted; the last chunk of a piece and
none left; a storage load. -/
theorem witness_TasksAndLaunches :
    (∀ p ∈ [(Major.launch, ({ d := .g 4, a := .a 5 } : Op), deep 23), (.launch, { d := .g 4, a := .a 5, imm22 := 0x400 }, spawning),
        (.launch, { d := .g 4, a := .a 5 }, deep 24)],
      Plain p.1 p.2.1 p.2.2 (seen p.1 p.2.1 p.2.2) ∧ ∃ g, Reaches (seen p.1 p.2.1 p.2.2) p.2.2 false (recordOf 256 64 (seen p.1 p.2.1 p.2.2)) g ∧
        (kept (seen p.1 p.2.1 p.2.2) g ∧ g.st.oracle = [] ∧ (seen p.1 p.2.1 p.2.2).doers = [0] ∧ (seen p.1 p.2.1 p.2.2).s0.isSealed 0 = false ∧
          ((g.st.choose 2).1 = 0 ∧ g.st.rejectFirst (bytesOf (seen p.1 p.2.1 p.2.2) g 256 0) false = none ↔ (seen p.1 p.2.1 p.2.2).o.imm22 = 0) ∧
          g.st.poolUsed 0 < Config.launchPool)) ∧
    (∀ p ∈ [(Major.task, ({ d := .g 4, a := .a 5, imm22 := 0x100 } : Op), deep 23)],
      Plain p.1 p.2.1 p.2.2 (seen p.1 p.2.1 p.2.2) ∧ ∃ g, Reaches (seen p.1 p.2.1 p.2.2) p.2.2 false (recordOf 64 64 (seen p.1 p.2.1 p.2.2)) g ∧
        (kept (seen p.1 p.2.1 p.2.2) g ∧ g.st.oracle = [] ∧ (seen p.1 p.2.1 p.2.2).doers = [0] ∧ (seen p.1 p.2.1 p.2.2).s0.isSealed 0 = false ∧
          (seen p.1 p.2.1 p.2.2).joiner = false ∧ (g.st.launchOf 0).isSome = true ∧
          taskShape (bytesOf (seen p.1 p.2.1 p.2.2) g 64 0) (((g.st.launchOf 0).map fun l => recPegs l.record).getD 0) = true)) ∧
    (∀ p ∈ [(Major.tnext, ({ un := true, d := .k 124, imm22 := 7 } : Op), working 7), (.tnext, { un := true, d := .k 124, imm22 := 7 }, working 9),
        (.tnext, { un := true, d := .k 0, imm22 := 0x3FFFFF }, lab)],
      Plain p.1 p.2.1 p.2.2 (seen p.1 p.2.1 p.2.2) ∧ ((dispTarget (seen p.1 p.2.1 p.2.2) 0).toNat % 4 = 0 ∧
        (dispTarget (seen p.1 p.2.1 p.2.2) 0).toNat < 2 ^ 57)) ∧
    ((∃ (p : Piece) (t : Task), (working 7).pieceOf 0 = some p ∧ tfind (working 7).tasks p.task = some t ∧ p.next < p.stop ∧
        min (p.next + taskGrain t.record) p.stop = 9) ∧ (working 9).pieceOf 0 = some { task := 9, first := 5, next := 9, stop := 9 } ∧
      lab.pieceOf 0 = none) ∧
    (∀ p ∈ [(Major.stload, ({ a := .a 5, imm22 := 0x140 } : Op), spawning)],
      Plain p.1 p.2.1 p.2.2 (seen p.1 p.2.1 p.2.2) ∧ ∃ g, Reaches (seen p.1 p.2.1 p.2.2) p.2.2 false (recordOf 32 32 (seen p.1 p.2.1 p.2.2)) g ∧
        (kept (seen p.1 p.2.1 p.2.2) g ∧ g.st.oracle = [] ∧ (seen p.1 p.2.1 p.2.2).doers = [0] ∧ (seen p.1 p.2.1 p.2.2).s0.isSealed 0 = false ∧
          g.st.stDesc (bytesOf (seen p.1 p.2.1 p.2.2) g 32 0) = some { dst := 0x61000, slba := 0, nlb := 0, nsid := 7, qp := 0, bytes := 512 } ∧
          (let x := g.st.globalAt g.memo (g.st.engineOf 0) (seen p.1 p.2.1 p.2.2).space 0x61000 512 .engineWrite
           x.2.2 = .ok (.phys [(0x61000, 512)]) ∧ x.1.group 0 = some (seen p.1 p.2.1 p.2.2).g ∧
           tfind x.1.pairs 0 = some { nsids := [7], lbaSize := 512, maxXfer := 4096, free := 1 }))) :=
  ⟨reach_meets (use := recordOf 256 64) (P := fun c g => kept c g ∧ g.st.oracle = [] ∧ c.doers = [0] ∧ c.s0.isSealed 0 = false ∧
      ((g.st.choose 2).1 = 0 ∧ g.st.rejectFirst (bytesOf c g 256 0) false = none ↔ c.o.imm22 = 0) ∧ g.st.poolUsed 0 < Config.launchPool) (by decide +kernel) false,
    reach_meets (use := recordOf 64 64) (P := fun c g => kept c g ∧ g.st.oracle = [] ∧ c.doers = [0] ∧ c.s0.isSealed 0 = false ∧ c.joiner = false ∧
      (g.st.launchOf 0).isSome = true ∧ taskShape (bytesOf c g 64 0) (((g.st.launchOf 0).map fun l => recPegs l.record).getD 0) = true)
      (by decide +kernel) false,
    meets_of (P := fun c => (dispTarget c 0).toNat % 4 = 0 ∧ (dispTarget c 0).toNat < 2 ^ 57) (by decide +kernel),
    ⟨⟨{ task := 9, first := 5, next := 7, stop := 9 },
      { uid := 9, socket := 0, launch := 0, gid := 0, record := taskBytes1, dcb := 0x30000, depth := 2, role := 1, number := 0, bent := 0 },
      by decide +kernel⟩, by decide +kernel⟩,
    reach_meets (use := recordOf 32 32) (P := fun c g => kept c g ∧ g.st.oracle = [] ∧ c.doers = [0] ∧ c.s0.isSealed 0 = false ∧
      g.st.stDesc (bytesOf c g 32 0) = some { dst := 0x61000, slba := 0, nlb := 0, nsid := 7, qp := 0, bytes := 512 } ∧
      (let x := g.st.globalAt g.memo (g.st.engineOf 0) c.space 0x61000 512 .engineWrite
       x.2.2 = .ok (.phys [(0x61000, 512)]) ∧ x.1.group 0 = some c.g ∧
       tfind x.1.pairs 0 = some { nsids := [7], lbaSize := 512, maxXfer := 4096, free := 1 })) (by decide +kernel) false⟩

/-- What the lanes of a system or debug instruction leave, as `Sites` has it. -/
def sitesFold (m : Major) (act : State → Site → Op → Nat → Vals → Done) (o : Op) (s : State) (c : Ctx) : Option (State × Memo) :=
  c.doers.foldl (fun u l => u.bind fun u => match act u.1 { c.site with memo := u.2 } o l (c.regVals l) with
    | .ok t d p memo =>
      let t := if m.dests.1 then c.wrote t l c.o.d (wideSlot c.slots.1) d else t
      some (if m.dests.2.2.2 then c.wrote t l c.o.c false (if p then 1 else 0) else t, memo ++ u.2)
    | _ => none) (some ({ s with cur := none }, []))

/-- The premises of `Sites` hold together. -/
def Sited (m : Major) (isPriv : Ctx → Bool) (own : Ctx → List Nat) (bad : State → Site → Op → Vals → List Nat → List Nat)
    (align : Op → Vals → Option (DWord × Nat)) (act : State → Site → Op → Nat → Vals → Done) (o : Op) (s : State) : Prop :=
  ∃ u memo, Plain m o s (seen m o s) ∧ (isPriv (seen m o s) = true → (seen m o s).priv = true) ∧ own (seen m o s) = [] ∧
    (∀ l ∈ (seen m o s).doers, bad s (seen m o s).site o ((seen m o s).regVals l) [] = [] ∧ align o ((seen m o s).regVals l) = none) ∧
    sitesFold m act o s (seen m o s) = some (u, memo) ∧ Untouched (seen m o s) u ∧ (seen m o s).doers ≠ []

/-- The same as a test. -/
def sitedTest (m : Major) (isPriv : Ctx → Bool) (own : Ctx → List Nat) (bad : State → Site → Op → Vals → List Nat → List Nat)
    (align : Op → Vals → Option (DWord × Nat)) (act : State → Site → Op → Nat → Vals → Done) (o : Op) (s : State) : Bool :=
  let c := seen m o s
  plainTest m o s && (!isPriv c || c.priv) && (own c).isEmpty && (c.doers.all fun l => (bad s c.site o (c.regVals l) []).isEmpty &&
    (align o (c.regVals l)).isNone) && !c.doers.isEmpty && (match sitesFold m act o s c with
    | some u => decide (u.1.fibre c.r = some c.f) && (match u.1.group c.r.gid with
      | some h => (h.weave c.r.weave).fibres.all fun f => f.halts.isEmpty
      | none => true)
    | none => false)

theorem sited_of {m : Major} {isPriv : Ctx → Bool} {own : Ctx → List Nat} {bad : State → Site → Op → Vals → List Nat → List Nat}
    {align : Op → Vals → Option (DWord × Nat)} {act : State → Site → Op → Nat → Vals → Done} {o : Op} {s : State}
    (h : sitedTest m isPriv own bad align act o s = true) : Sited m isPriv own bad align act o s := by
  simp only [sitedTest, Bool.and_eq_true, Bool.or_eq_true, Bool.not_eq_true', List.isEmpty_iff, List.all_eq_true,
    Option.isNone_iff_eq_none] at h
  obtain ⟨⟨⟨⟨⟨h1, h2⟩, h3⟩, h4⟩, h5⟩, h6⟩ := h
  split at h6
  · rename_i u hu
    simp only [Bool.and_eq_true, decide_eq_true_eq] at h6
    refine ⟨u.1, u.2, plain_of h1, fun hp => h2.resolve_left (by simp [hp]), h3, h4, hu, ⟨h6.1, fun g hg f hf => ?_⟩, by
      intro h; rw [h] at h5; simp at h5⟩
    have h7 := h6.2
    rw [hg] at h7
    exact List.isEmpty_iff.mp (List.all_eq_true.mp h7 f hf)
  · cases h6

/-- The index of MFSR and MTSR, as `SystemRegisters` has it. -/
abbrev indexOf (o : Op) (v : Vals) : Nat := if o.mod.getLsbD 12 then v.b.toNat % 2 ^ 12 else o.ownBits.toNat % 2 ^ 12
/-- A register of those that any group may read. -/
abbrev userReg (o : Op) (v : Vals) : Bool := 0x10 ≤ indexOf o v && indexOf o v ≤ 0x12

/-- The lab's group, unprivileged. -/
def unprivileged : State := { lab with launches := lab.launches.map fun p => (p.1, { p.2 with priv := false }) }

/-- A user's register read in an unprivileged group, the last of them by its index in a register, a privileged one; and
registers 1 and 7 written; register 5 read by a literal index. -/
theorem witness_SystemRegisters :
    (∀ p ∈ [(({ un := true, d := .g 4, imm22 := 16 } : Op), unprivileged), ({ un := true, d := .k 4, imm22 := 18 }, unprivileged),
        ({ mod := 0x1000, d := .g 4, b := .g 1 }, lab.withG [(1, 7)]),
        ({ form := .extLit, un := true, d := .g 4, lit := some 5 }, lab)],
      Sited .mfsr (fun c => if c.o.mod.getLsbD 12 then c.doers.any fun l => !userReg c.o (c.regVals l) else !userReg c.o {})
        (fun _ => []) (fun _ _ o v _ => if indexOf o v ≤ 7 ∨ (0x10 ≤ indexOf o v ∧ indexOf o v ≤ 0x12) then [] else [11])
        (fun _ _ => none) (fun s t o _ v => .ok s (s.sysReg t.socket (indexOf o v)) false) p.1 p.2) ∧
    (∀ p ∈ [(({ un := true, d := .g 4, imm22 := 1 } : Op), lab.withG [(4, 0x1FFF1FFF)]), ({ un := true, d := .g 4, imm22 := 7 }, lab.withG [(4, 9)])],
      Sited .mtsr (fun _ => true) (fun c => if c.s0.isSealed c.r.gid then [11] else [])
        (fun _ _ o v _ => if indexOf o v ≤ 7 ∧ v.d &&& ~~~regMask (indexOf o v) = 0 then [] else [11])
        (fun _ _ => none) (fun s t o _ v => .ok (s.writeReg t.socket (indexOf o v) v.d) 0 false) p.1 p.2) := by
  constructor
  · intro p hp
    simp only [List.mem_cons, List.not_mem_nil, or_false] at hp
    obtain rfl | rfl | rfl | rfl := hp <;> exact sited_of (by decide +kernel)
  · intro p hp
    simp only [List.mem_cons, List.not_mem_nil, or_false] at hp
    obtain rfl | rfl := hp <;> exact sited_of (by decide +kernel)

/-- A triple known by its third part. -/
theorem eq_of_third {α β γ : Type} {p : α × β × γ} {b : γ} (h : p.2.2 = b) : p = (p.1, p.2.1, b) := by cases h; rfl

/-- CINV of a range that translates completes. -/
theorem cinv_ok {s u : State} {d : Site} {o : Op} {v : Vals} {m : Memo} {segs : List (Nat × Nat)} (l : Nat)
    (h : s.rangeOf d o v = (u, m, .ok (.phys segs))) : ∃ t, cinvAct s d o l v = .ok t 0 false m := by
  unfold cinvAct
  rw [h]
  exact ⟨_, rfl⟩

/-- A site on die 0 in space 0. -/
def site0 : Site := { socket := 0, space := 0, core := some 0 }

/-- Each extent of TLBI; flushing and invalidating a range over two pages, up to the last mapped byte; and what the acts
give. -/
theorem witness_CachesMaintained :
    (∀ o ∈ [({ scope := 6 } : Op), { mod := 1, scope := 7, b := .imm, imm22 := 0 }, { un := true, mod := 2, scope := 6, a := .a 5, b := .k 14 }],
      Sited .tlbi (fun _ => true) Ctx.noSealed (fun _ _ _ _ _ => []) (fun _ _ => none) tlbiAct o four) ∧
    (∀ s ∈ [four.withG [(1, 0)], (four.withG [(1, 4096)]).withKA [] [(3, 0x3FFFF000)], (four.withG [(1, 4096)]).withKA [] [(3, 0x50800)]],
      Sited .cflush (fun _ => false) (fun _ => []) (fun _ _ _ _ _ => []) (fun _ _ => none) cflushAct { scope := 6, a := .a 3, b := .g 1 } s ∧
      Sited .cinv (fun _ => false) (fun _ => []) (fun _ _ _ _ _ => []) (fun _ _ => none) cinvAct { scope := 5, a := .a 3, b := .g 1 } s) ∧
    (∃ t x p m segs, cinvAct lab site0 { scope := 5 } 0 { a := 0x50800, b := 4096, c := 0, d := 0 } = .ok t x p m ∧
      (lab.rangeOf site0 { scope := 5 } { a := 0x50800, b := 4096, c := 0, d := 0 }).2.2 = .ok (.phys segs) ∧ segs ≠ []) := by
  refine ⟨?_, ?_, ?_⟩
  · intro o ho
    simp only [List.mem_cons, List.not_mem_nil, or_false] at ho
    obtain rfl | rfl | rfl := ho <;> exact sited_of (by decide +kernel)
  · have h : ([four.withG [(1, 0)], (four.withG [(1, 4096)]).withKA [] [(3, 0x3FFFF000)], (four.withG [(1, 4096)]).withKA [] [(3, 0x50800)]].all
        fun s => sitedTest .cflush (fun _ => false) (fun _ => []) (fun _ _ _ _ _ => []) (fun _ _ => none) cflushAct { scope := 6, a := .a 3, b := .g 1 } s &&
          sitedTest .cinv (fun _ => false) (fun _ => []) (fun _ _ _ _ _ => []) (fun _ _ => none) cinvAct { scope := 5, a := .a 3, b := .g 1 } s) = true := by
      decide +kernel
    intro s hs
    have h1 := Bool.and_eq_true_iff.mp (List.all_eq_true.mp h s hs)
    exact ⟨sited_of h1.1, sited_of h1.2⟩
  · have h : (lab.rangeOf site0 { scope := 5 } { a := 0x50800, b := 4096, c := 0, d := 0 }).2.2 = .ok (.phys [(0x50800, 0x800), (0x51000, 0x800)]) := by
      decide +kernel
    have h0 := eq_of_third h
    obtain ⟨u, hu⟩ := cinv_ok 0 h0
    exact ⟨u, _, _, _, _, hu, h, by decide⟩

/-- The die has a service queue at 0x64000. -/
def serving : State := lab.setDie 0 { lab.die 0 with svcb := 0x64000 }

/-- No wait and one cycle; ACCT; SYSC without a service queue and with one; TRAP in no lane. -/
theorem witness_WaitsAndService :
    (∀ p ∈ [(Major.waiti, ({ a := .g 1 } : Op), lab), (.waiti, { a := .imm, imm22 := 1 }, lab), (.acct, {}, lab), (.acct, { mod := 1 }, lab)],
      Plain p.1 p.2.1 p.2.2 (seen p.1 p.2.1 p.2.2) ∧ True) ∧
    (∀ p ∈ [(Major.sysc, ({ un := true, d := .k 127, a := .k 126, imm22 := 0x3FFFFF } : Op), lab), (.sysc, { un := true, d := .k 3, a := .k 2, imm22 := 1 }, serving)],
      Plain p.1 p.2.1 p.2.2 (seen p.1 p.2.1 p.2.2) ∧ (p.2.2.isSealed (seen p.1 p.2.1 p.2.2).r.gid = false ∧ ((p.2.2.die (seen p.1 p.2.1 p.2.2).socket).svcb = 0 ↔ (seen p.1 p.2.1 p.2.2).o.imm22 ≠ 1))) ∧
    (∀ p ∈ [(Major.trap, ({ imm22 := 5, pred := 1 } : Op), lab)], Plain p.1 p.2.1 p.2.2 (seen p.1 p.2.1 p.2.2) ∧ (seen p.1 p.2.1 p.2.2).wr = 0) :=
  ⟨meets_of (P := fun _ => True) (by decide +kernel),
    by
      have := meets_of (l := [(Major.sysc, ({ un := true, d := .k 127, a := .k 126, imm22 := 0x3FFFFF } : Op), lab), (.sysc, { un := true, d := .k 3, a := .k 2, imm22 := 1 }, serving)])
        (P := fun c => c.s0.isSealed c.r.gid = false ∧ ((c.s0.die c.socket).svcb = 0 ↔ c.o.imm22 ≠ 1)) (by decide +kernel)
      intro p hp
      have h := this p hp
      simp only [List.mem_cons, List.not_mem_nil, or_false] at hp
      obtain rfl | rfl := hp <;> exact h,
    meets_of (P := fun c => c.wr = 0) (by decide +kernel)⟩

/-- A handler descriptor at 0x65000: ring at 0x66000 of 16 records, notify peg at 0x67000, class 9 halting, `used` records not yet
consumed. -/
def handlerBytes (used : Nat) : List Byte :=
  leBytes 8 0x66000 ++ leBytes 4 4 ++ leBytes 4 (15 + used) ++ leBytes 4 15 ++ leBytes 4 0xFFFFFFFF ++ leBytes 4 0x200 ++ leBytes 4 0x7F ++ leBytes 8 0x67000 ++ leBytes 24 0

/-- The lab's domain has that handler. -/
def handled (used : Nat) : State :=
  ({ lab with cur := none }.holding 0x65000 (handlerBytes used)).onBent 0 fun b => { b with dom := some { handler := 0x65000 } }

/-- TRAP in one lane; a trap taken with a handler that halts its class, and without a handler. -/
theorem witness_TrapEntry :
    (∀ p ∈ [(Major.trap, ({ imm22 := 5 } : Op), lab)], Plain p.1 p.2.1 p.2.2 (seen p.1 p.2.1 p.2.2) ∧ (seen p.1 p.2.1 p.2.2).wr ≠ 0) ∧
    (∀ s ∈ [handled 15, lab], (∃ (f : Fibre) (g : Group) (b : Bent), s.fibre ⟨0, 0, 0⟩ = some f ∧ s.group 0 = some g ∧ s.bent g.bent = some b ∧
        b.alive = true) ∧ (∀ p ∈ s.bents, p.2.uid = p.1) ∧
      ((s.deliver (s.domOf 0) [List.replicate 64 0]).haltsOn (s.domOf 0) 9 = true ↔ s = handled 15)) := by
  refine ⟨meets_of (P := fun c => c.wr ≠ 0) (by decide +kernel), ?_⟩
  have key : ∀ s : State, ((s.fibre ⟨0, 0, 0⟩).isSome && match s.group 0 with
      | some g => (match s.bent g.bent with
        | some b => b.alive
        | none => false)
      | none => false) = true → ∃ (f : Fibre) (g : Group) (b : Bent), s.fibre ⟨0, 0, 0⟩ = some f ∧ s.group 0 = some g ∧ s.bent g.bent = some b ∧
        b.alive = true := by
    intro s h
    simp only [Bool.and_eq_true] at h
    obtain ⟨f, hf⟩ := Option.isSome_iff_exists.mp h.1
    have h2 := h.2
    split at h2
    · rename_i g hg
      split at h2
      · rename_i b hb
        exact ⟨f, g, b, hf, hg, hb, h2⟩
      · cases h2
    · cases h2
  intro s hs
  simp only [List.mem_cons, List.not_mem_nil, or_false] at hs
  obtain rfl | rfl := hs <;> exact ⟨key _ (by decide +kernel), by decide +kernel, by decide +kernel⟩

/-- Records that just fit over the ring's end, and the same one more than fits. -/
theorem witness_RecordsDelivered : ∀ used ∈ [14, 15], let s := handled used
    let recs : List (List Byte) := [List.replicate 64 1, List.replicate 64 2]
    s.handlerOk 0x65000 = true ∧ (∀ r ∈ recs, r.length = 64) ∧ (memNat s 0x65000 8 + 64 * 2 ^ memNat s 0x65008 4 ≤ 0x65000 ∨ 0x65000 + 64 ≤ memNat s 0x65000 8) ∧
    (memNat s 0x65020 8 + 8 ≤ 0x65000 ∨ 0x65000 + 64 ≤ memNat s 0x65020 8) ∧
    (memNat s 0x65020 8 + 8 ≤ memNat s 0x65000 8 ∨ memNat s 0x65000 8 + 64 * 2 ^ memNat s 0x65008 4 ≤ memNat s 0x65020 8) ∧
    ((memNat s 0x6500C 4 + 2 ^ 32 - memNat s 0x65010 4) % 2 ^ 32 + recs.length ≤ 2 ^ memNat s 0x65008 4 ↔ used = 14) := by
  decide +kernel

/-- A group with a budget of 16 G and no X. -/
def tight : State := lab.onGroup 0 fun g => { g with gBudget := 16, xBudget := 0 }

/-- Each of the eleven and of the extended IADD with a register just beyond the budget or an odd pair; each privileged instruction of a user; loads and
stores of a misaligned word, in each form. -/
theorem witness_CausesTrap :
    (∀ p ∈ [(Major.iadd, ({ form := .base, d := .g 16, a := .g 1, b := .g 2 } : Op)), (.iadd, { d := .g 0, a := .g 16, b := .k 1 }),
        (.imul, { d := .g 0, a := .g 1, b := .g 63 }), (.and, { d := .g 63, a := .g 1, b := .g 2 }), (.shl, { d := .g 16, a := .g 1, b := .g 2 }),
        (.sel, { d := .g 0, a := .g 16, b := .g 2, c := .p 1 }), (.fadd, { d := .g 0, a := .g 16, b := .g 2 }),
        (.ffma, { d := .g 0, a := .g 1, b := .g 2, c := .g 16 }), (.dfma, { d := .g 1, a := .g 15, b := .g 2, c := .g 4 }),
        (.xadd, { d := .x 0, a := .x 0, b := .x 0 }), (.ld, { form := .base, d := .g 16, a := .a 3 })],
      Issues p.1 p.2 tight (seen p.1 p.2 tight) ∧ (lowestCause ((seen p.1 p.2 tight).each.flatMap (slotRefusals (seen p.1 p.2 tight)))).isSome = true) ∧
    (∀ m ∈ [Major.mtsr, .tlbi, .eret, .hread, .hwrite, .hstep, .hrun, .hstat, .gauge, .sample],
      Issues m {} unprivileged (seen m {} unprivileged) ∧ (seen m {} unprivileged).priv = false) ∧
    (∀ p ∈ [(Major.mfsr, ({ un := true, d := .g 4, imm22 := 15 } : Op)), (.mfsr, { mod := 0x1000, d := .g 4, b := .g 1 }),
        (.cntr, { mod := 1, d := .g 4, a := .g 1, b := .g 2 }), (.cntr, { d := .g 4, a := .g 1, b := .g 2 })],
      Issues p.1 p.2 unprivileged (seen p.1 p.2 unprivileged) ∧ (seen p.1 p.2 unprivileged).priv = false ∧
        (seen p.1 p.2 unprivileged).peek.any (fun v => !(v.2.a.getLsbD 13) &&
          decide ((if p.2.mod.getLsbD 12 then v.2.b.toNat % 2 ^ 12 else p.2.imm22.toNat % 2 ^ 12) < 16)) = true) ∧
    (∀ p ∈ [(Major.ld, ({ form := .base, mod := 0, d := .g 2, a := .a 3 } : Op), lab.withKA [] [(3, 0x50002)]),
        (.ld, { mod := 5, d := .g 2, a := .a 3 }, lab.withKA [] [(3, 0x50004)]), (.st, { form := .base, mod := 0, d := .g 2, a := .a 3 }, lab.withKA [] [(3, 0x50003)]),
        (.st, { mod := 0x1000, d := .g 2, a := .a 3, b := .g 1 }, four.withKA [] [(3, 0x50001)])],
      Plain p.1 p.2.1 p.2.2 (seen p.1 p.2.1 p.2.2) ∧ ((seen p.1 p.2.1 p.2.2).s0.isSealed 0 = false ∧ bitsAt (seen p.1 p.2.1 p.2.2).o.mod 4 2 = 0 ∧
        (let c := seen p.1 p.2.1 p.2.2
         let n := typeSize (bitsAt c.o.mod 0 4)
         (c.doers.filter fun k => (((operandOf c n n .load).ea k (c.regVals k)).getD 0).toNat % n != 0) ≠ []))) := by
  refine ⟨?_, ?_, ?_, meets_of (P := fun c => c.s0.isSealed 0 = false ∧ bitsAt c.o.mod 4 2 = 0 ∧ (let n := typeSize (bitsAt c.o.mod 0 4)
      (c.doers.filter fun k => (((operandOf c n n .load).ea k (c.regVals k)).getD 0).toNat % n != 0) ≠ [])) (by decide +kernel)⟩
  · intro p hp
    have h : ([(Major.iadd, ({ form := .base, d := .g 16, a := .g 1, b := .g 2 } : Op)), (.iadd, { d := .g 0, a := .g 16, b := .k 1 }),
        (.imul, { d := .g 0, a := .g 1, b := .g 63 }), (.and, { d := .g 63, a := .g 1, b := .g 2 }), (.shl, { d := .g 16, a := .g 1, b := .g 2 }),
        (.sel, { d := .g 0, a := .g 16, b := .g 2, c := .p 1 }), (.fadd, { d := .g 0, a := .g 16, b := .g 2 }),
        (.ffma, { d := .g 0, a := .g 1, b := .g 2, c := .g 16 }), (.dfma, { d := .g 1, a := .g 15, b := .g 2, c := .g 4 }),
        (.xadd, { d := .x 0, a := .x 0, b := .x 0 }), (.ld, { form := .base, d := .g 16, a := .a 3 })].all fun p => issuesTest p.1 p.2 tight &&
      (lowestCause ((seen p.1 p.2 tight).each.flatMap (slotRefusals (seen p.1 p.2 tight)))).isSome) = true := by decide +kernel
    have h1 := List.all_eq_true.mp h p hp
    simp only [Bool.and_eq_true] at h1
    exact ⟨issues_of h1.1, h1.2⟩
  · intro m hm
    have h : ([Major.mtsr, .tlbi, .eret, .hread, .hwrite, .hstep, .hrun, .hstat, .gauge, .sample].all fun m => issuesTest m {} unprivileged &&
      !(seen m {} unprivileged).priv) = true := by decide +kernel
    have h1 := List.all_eq_true.mp h m hm
    simp only [Bool.and_eq_true, Bool.not_eq_true'] at h1
    exact ⟨issues_of h1.1, h1.2⟩
  · intro p hp
    simp only [List.mem_cons, List.not_mem_nil, or_false] at hp
    obtain rfl | rfl | rfl | rfl := hp <;> exact ⟨issues_of (by decide +kernel), by decide +kernel⟩

/-- A second weave, of one lane, whose fibre is halted and reported. -/
def halting (cause detail : Nat) : State := lab.onGroup 0 fun g => { g with
  size := 65
  weaves := g.weaves ++ [(1, { size := 1, fibres := [{ id := 0, pc := 0x1000000, lanes := 1, st := .halted, reported := true, cause := cause, detail := detail }] })] }

/-- Each request on the own weave, refused, and on the other, and what the acts need. -/
theorem witness_DebugRequests :
    (∀ s ∈ [(halting 2 9).withKA [(12, 0), (13, 0), (14, 0), (15, 1)] []], ∀ k ∈ [(12 : BitVec 7), 14],
      (Sited .hread (fun _ => true) (fun _ => []) (fun _ _ _ v _ => targetBad false v.a) (fun _ _ => none) hreadAct { un := true, d := .k 20, a := .k k, b := .imm, c := .p 2, imm22 := 3 } s ∧
       Sited .hwrite (fun _ => true) (fun _ => []) (fun _ _ _ v _ => targetBad false v.a) (fun _ _ => none) hwriteAct { un := true, d := .k 20, a := .k k, b := .imm, c := .p 2, imm22 := 3 } s ∧
       Sited .hstep (fun _ => true) (fun _ => []) (fun _ _ _ v _ => targetBad false v.a) (fun _ _ => none) hstepAct { un := true, mod := 1, a := .k k, c := .p 2 } s) ∧
      Sited .hrun (fun _ => true) (fun _ => []) (fun _ _ _ v _ => targetBad true v.a) (fun _ _ => none) hrunAct { un := true, a := .k k, c := .p 2 } s ∧
      Sited .hstat (fun _ => true) (fun _ => []) (fun _ _ _ v _ => targetBad true v.a) (fun _ _ => none) hstatAct { un := true, d := .g 4, a := .k k } s ∧
      Sited .eret (fun _ => true) (fun _ => []) (fun _ _ _ v _ => targetBad false v.a) (fun _ _ => none) eretAct { un := true, a := .k k, c := .p 2 } s) ∧
    (∀ s ∈ [halting 2 9, halting 1 0], ∀ sc ∈ [0, 1], let t := targetOf (0x100000000 + BitVec.ofNat 64 (sc * 2 ^ 48))
      (∃ (g : Group) (f : Fibre), s.group t.gid = some g ∧ (g.weave t.weave).holding t.lane = some f ∧
        (g.retired = false ∧ t.weave < g.weaveCount ∧ f.shown = true ∧ f.replay = 0 ∧ site0.own ≠ some (t.gid, t.weave) ∧ 255 < g.gBudget ∧
          (s.die (socketOf t.gid)).gtab = 0 ∧ (g.weave t.weave).fibre f.id = some f ∧ t.fid = f.id ∧ g.gid = t.gid ∧
          (∃ p ∈ g.weaves, p.1 = t.weave ∧ p.2 = g.weave t.weave))) ∧ t.scope = sc) := by
  constructor
  · intro s hs k hk
    simp only [List.mem_cons, List.not_mem_nil, or_false] at hs hk
    subst hs
    obtain rfl | rfl := hk <;> exact ⟨⟨sited_of (by decide +kernel), sited_of (by decide +kernel), sited_of (by decide +kernel)⟩,
      sited_of (by decide +kernel), sited_of (by decide +kernel), sited_of (by decide +kernel)⟩
  · have key : ∀ (s : State) (t : Target), (match s.group t.gid with
        | some g => (match (g.weave t.weave).holding t.lane with
          | some f => decide (g.retired = false ∧ t.weave < g.weaveCount ∧ f.shown = true ∧ f.replay = 0 ∧ site0.own ≠ some (t.gid, t.weave) ∧ 255 < g.gBudget ∧
              (s.die (socketOf t.gid)).gtab = 0 ∧ (g.weave t.weave).fibre f.id = some f ∧ t.fid = f.id ∧ g.gid = t.gid ∧
              (∃ p ∈ g.weaves, p.1 = t.weave ∧ p.2 = g.weave t.weave))
          | none => false)
        | none => false) = true →
        ∃ (g : Group) (f : Fibre), s.group t.gid = some g ∧ (g.weave t.weave).holding t.lane = some f ∧
          (g.retired = false ∧ t.weave < g.weaveCount ∧ f.shown = true ∧ f.replay = 0 ∧ site0.own ≠ some (t.gid, t.weave) ∧ 255 < g.gBudget ∧
            (s.die (socketOf t.gid)).gtab = 0 ∧ (g.weave t.weave).fibre f.id = some f ∧ t.fid = f.id ∧ g.gid = t.gid ∧
            (∃ p ∈ g.weaves, p.1 = t.weave ∧ p.2 = g.weave t.weave)) := by
      intro s t h
      split at h
      · rename_i g hg
        split at h
        · rename_i f hf
          exact ⟨g, f, hg, hf, of_decide_eq_true h⟩
        · cases h
      · cases h
    intro s hs sc hsc
    simp only [List.mem_cons, List.not_mem_nil, or_false] at hs hsc
    obtain rfl | rfl := hs <;> obtain rfl | rfl := hsc <;> exact (fun x y => ⟨x, y⟩) (key _ _ (by decide +kernel)) (by decide)

/-- The status word of a fibre halted and reported by a TRAP, of a weave that is not there, and of no group (Table 183). -/
theorem test_hstat : (halting 2 9).hstat (targetOf 0x100000000) = 0x01000000_01090203 ∧
    (halting 2 9).hstat (targetOf 0x500000000) = 0xFF ∧ (halting 2 9).hstat (targetOf 9) = 0xFF ∧ (halting 2 9).group 9 = none := by decide +kernel

/-- A sink's control block at 0x50000: a ring of 128 records at 0x70000, period 10; core 1 of bay 0 has a gauge that has hits. -/
def sinking : State :=
  (({ lab with cur := none }.holding 0x50000 (leBytes 8 0x70000 ++ leBytes 4 7 ++ leBytes 12 0 ++ leBytes 4 0xA00 ++ leBytes 36 0)).setCore 1
    { ({ lab with cur := none }).coreAt 1 with gauges := [(15, { ctrl := 0x2000, hits := 7 })] }).withKA [] [(5, 0x50000), (6, 0x51000)]

/-- The same, with a fibre picked. -/
def sinks : State := { sinking with cur := lab.cur }

/-- Each operation of each instruction, on a core of its own bay, at the highest numbers. -/
theorem witness_GaugesAndSinks :
    (∀ o ∈ [({ d := .g 4, a := .a 6, b := .imm, c := .g 1, imm22 := 0 } : Op), { mod := 1, d := .g 4, b := .g 2, c := .g 1 }, { mod := 2, d := .g 4, b := .g 2, c := .g 1 }],
      Sited .gauge (fun _ => true) Ctx.noSealed gaugeBad gaugeAlign gaugeAct o (sinks.withG [(1, 1), (2, 15)])) ∧
    (∀ o ∈ [({ a := .a 5, b := .g 2 } : Op), { mod := 1, b := .g 2 }, { mod := 2, a := .a 5, b := .g 2 }, { mod := 3, b := .g 2 }],
      Sited .sample (fun _ => true) Ctx.noSealed sampleBad sampleAlign sampleAct o sinks) ∧
    Sited .trace (fun _ => false) (fun _ => []) (fun _ _ _ _ _ => []) (fun _ _ => none) traceAct { a := .g 2, imm22 := 15 } unprivileged ∧
    (∀ p ∈ [(({ d := .g 4, a := .g 1, b := .g 2 } : Op), unprivileged.withG [(1, 0x2000), (2, 7)]), ({ mod := 1, d := .g 4, a := .g 1, b := .g 2 }, sinks.withG [(1, 1), (2, 0xF07)]),
        ({ mod := 2, d := .g 4, a := .g 1, b := .g 2 }, sinks.withG [(1, 0), (2, 0x1F)])],
      Sited .cntr (fun c => let other (v : Vals) : Bool := !(lowWord v.a).getLsbD 13
          bitsAt c.o.mod 0 2 != 0 || (if c.o.a = .imm then other (c.regVals 0) else c.doers.any fun l => other (c.regVals l)))
        (fun c => if bitsAt c.o.mod 0 2 = 1 ∧ c.s0.isSealed c.r.gid = true then [11] else []) cntrBad (fun _ _ => none) cntrAct p.1 p.2) ∧
    (∃ t x p m g, gaugeAct lab site0 {} 0 { a := 0x51000, b := 15, c := 1, d := 0 } = .ok t x p m ∧
      gaugeOf (lab.siteRead site0 0 (siteAddr {} { a := 0x51000, b := 15, c := 1, d := 0 }) 32).2.2.2 = some g) ∧
    selectorCores site0 1 = [1] := by
  refine ⟨?_, ?_, sited_of (by decide +kernel), ?_, ?_, by decide +kernel⟩
  · intro o ho
    simp only [List.mem_cons, List.not_mem_nil, or_false] at ho
    obtain rfl | rfl | rfl := ho <;> exact sited_of (by decide +kernel)
  · intro o ho
    simp only [List.mem_cons, List.not_mem_nil, or_false] at ho
    obtain rfl | rfl | rfl | rfl := ho <;> exact sited_of (by decide +kernel)
  · intro p hp
    simp only [List.mem_cons, List.not_mem_nil, or_false] at hp
    obtain rfl | rfl | rfl := hp <;> exact sited_of (by decide +kernel)
  · have key : ∀ (x : Done) (y : Option Gauge), ((match x with
      | .ok _ _ _ _ => true
      | _ => false) && y.isSome) = true → ∃ t d p m g, x = .ok t d p m ∧ y = some g := by
      intro x y h
      simp only [Bool.and_eq_true] at h
      obtain ⟨g, hg⟩ := Option.isSome_iff_exists.mp h.2
      cases x with
      | ok t d p m => exact ⟨t, d, p, m, g, rfl, hg⟩
      | _ => simp at h
    exact key _ _ (by decide +kernel)

/-- Die 0 with an armed sample sink and an armed trace sink over that control block. -/
def tracing (isLost : Bool) : State := sinks.setDie 0 { sinks.die 0 with
  sample := some { pa := 0x50000, pins := [], space := 0, asid := 0, period := 10, due := 1024 }
  trace := some { pa := 0x50000, pins := [(0x50000, 0x50000), (0x70000, 0x70000)], space := 0, asid := 0, period := 10, due := 0, lost := isLost } }

theorem found_at {α β γ : Type} {x : α × β × γ} {b : γ} (h : x.2.2 = b) : x = (x.1, x.2.1, b) := Prod.ext rfl (Prod.ext rfl h)

/-- The translation of a sink's control block at 0x50000. -/
def blockAt (s : State) : State × Memo × Found := s.globalAt [] site0.agent site0.space 0x50000 64 .store

/-- A control block to arm, of 2^7 records and of 2^6; a sink to stop; and one to put records to, lost and with room. -/
theorem witness_Sinks :
    (∃ u m, blockAt sinks = (u, m, .ok (.phys [(0x50000, 64)])) ∧ memNat u 0x50008 4 % 32 = 7 ∧ memNat u 0x50000 8 % 4096 = 0 ∧ memNat u 0x50018 4 / 2 ^ 8 % 32 = 10 ∧
      ∀ k < 64, u.physBad (0x50000 + k) = none) ∧
    (∃ t m, sampleAct sinks site0 {} 0 { a := 0x50000, b := 0, c := 0, d := 0 } = .ok t 0 true m) ∧
    (∃ u m, blockAt (sinks.putNat 0x50008 4 6) = (u, m, .ok (.phys [(0x50000, 64)])) ∧ memNat u 0x50008 4 % 32 < 7) ∧
    (∃ k, ((tracing false).die 0).sink false = some k) ∧
    (∀ b ∈ [true, false], ∃ k, ((tracing b).die site0.socket).trace = some k ∧ k.moved = false ∧ k.drops = false ∧ k.lost = b ∧
      (memNat (tracing b) 0x5000C 4 + 2 ^ 32 - memNat (tracing b) 0x50010 4) % 2 ^ 32 < 2 ^ (memNat (tracing b) 0x50008 4 % 32) ∧
      k.pa + 64 ≤ (k.pins.getD 1 (0, 0)).2 ∧ (∀ j < 64, (tracing b).physBad (k.pa + j) = none) ∧
      (tracing b).physBad (k.pins.getD 1 (0, 0)).2 = none) := by
  refine ⟨⟨_, _, found_at (by decide +kernel), by decide +kernel⟩, ?_, ⟨_, _, found_at (by decide +kernel), by decide +kernel⟩, Option.isSome_iff_exists.mp (by decide +kernel), ?_⟩
  · have key : ∀ x : Done, (match x with
      | .ok _ 0 true _ => true
      | _ => false) = true → ∃ t m, x = .ok t 0 true m := by
      intro x h
      split at h
      · exact ⟨_, _, rfl⟩
      · cases h
    exact key _ (by decide +kernel)
  · intro b hb
    simp only [List.mem_cons, List.not_mem_nil, or_false] at hb
    obtain rfl | rfl := hb <;> exact ⟨Option.get _ (by decide +kernel), (Option.some_get _).symm, by decide +kernel⟩

/-- A choice record with one more alternative, in the stack of a lane. -/
def openRec (token : Word) : ChoiceRec := { resume := 0x1000010, next := 1, count := 3, mark := 0, dest := 4, mask := 0, wb := 0, token := token }

/-- Lane 0 with the records `rs`, in a group that holds at most two a lane. -/
def stacked (s : State) (rs : List ChoiceRec) : State := (s.onGroup 0 fun g => { g with recCap := 2 }).onLane 0 0 0 fun x => { x with recs := rs }

/-- Lane 0 with a record whose alternatives it has left, and one trailed store of a word at 0x50000. -/
def trailed : State := (stacked lab [openRec 5]).onLane 0 0 0 fun x => { x with kerf := [{ space := 0, size := 2, addr := 0x50000, old := 7 }] }

/-- TRY with room, with the most alternatives, and with a full stack; FAIL with no record, with one, with a record's last
alternative, and over a trailed store. -/
theorem witness_TryAndFail :
    (∀ p ∈ [(Major.tryOpen, ({ d := .g 2, b := .imm, mod := 0x8003, imm22 := 1 } : Op), stacked lab [openRec 5]), (.tryOpen, { d := .g 2, b := .g 3 }, lab.withG [(3, 65535)]),
        (.tryOpen, { d := .g 2, b := .imm, imm22 := 2 }, stacked lab [openRec 5, openRec 6])],
      Plain p.1 p.2.1 p.2.2 (seen p.1 p.2.1 p.2.2) ∧ ((seen p.1 p.2.1 p.2.2).joiner = false ∧ (seen p.1 p.2.1 p.2.2).v.choiceBytes + 96 * (seen p.1 p.2.1 p.2.2).writers.length ≤ 16384 ∧
        ((List.range 16).all fun i => !(seen p.1 p.2.1 p.2.2).o.mod.getLsbD i || (seen p.1 p.2.1 p.2.2).f.wb + i < (seen p.1 p.2.1 p.2.2).g.gBudget) = true ∧
        (∀ l ∈ (seen p.1 p.2.1 p.2.2).writers, 1 ≤ (lowWord ((seen p.1 p.2.1 p.2.2).regVals l).b).toNat ∧ (lowWord ((seen p.1 p.2.1 p.2.2).regVals l).b).toNat ≤ 65535 ∧
          ((seen p.1 p.2.1 p.2.2).g.cutAt ((seen p.1 p.2.1 p.2.2).lane l) = none ∧ ((seen p.1 p.2.1 p.2.2).lane l).unwinding = false)) ∧
        ((seen p.1 p.2.1 p.2.2).o.imm22 = 2 ↔ ∃ l ∈ (seen p.1 p.2.1 p.2.2).writers, (seen p.1 p.2.1 p.2.2).g.recCap ≤ ((seen p.1 p.2.1 p.2.2).lane l).recs.length))) ∧
    (∀ p ∈ [(Major.fail, ({ imm22 := 0x3FFFFF } : Op), lab), (.fail, { imm22 := 7 }, stacked lab [openRec 5]), (.fail, { imm22 := 7 }, stacked lab [openRec 5, { openRec 6 with next := 2 }])],
      Plain p.1 p.2.1 p.2.2 (seen p.1 p.2.1 p.2.2) ∧ ((seen p.1 p.2.1 p.2.2).joiner = false ∧ (seen p.1 p.2.1 p.2.2).v.choiceBytes + 96 * (seen p.1 p.2.1 p.2.2).writers.length ≤ 16384 ∧ (dispTarget (seen p.1 p.2.1 p.2.2) 0).toNat % 4 = 0 ∧
        (dispTarget (seen p.1 p.2.1 p.2.2) 0).toNat < 2 ^ 57 ∧ ∀ l ∈ (seen p.1 p.2.1 p.2.2).writers, ((seen p.1 p.2.1 p.2.2).g.cutAt ((seen p.1 p.2.1 p.2.2).lane l) = none ∧ ((seen p.1 p.2.1 p.2.2).lane l).unwinding = false) ∧
          (((seen p.1 p.2.1 p.2.2).lane l).recs.getLast?.all fun r => decide (r.next < r.count) && decide (((seen p.1 p.2.1 p.2.2).lane l).kerf.length ≤ r.mark)) = true)) ∧
    (∀ p ∈ [(Major.fail, ({ imm22 := 7 } : Op), trailed)], Plain p.1 p.2.1 p.2.2 (seen p.1 p.2.1 p.2.2) ∧ ((seen p.1 p.2.1 p.2.2).joiner = false ∧ (seen p.1 p.2.1 p.2.2).v.choiceBytes + 96 * (seen p.1 p.2.1 p.2.2).writers.length ≤ 16384 ∧
      (seen p.1 p.2.1 p.2.2).s0.isSealed 0 = false ∧ (seen p.1 p.2.1 p.2.2).writers = [0] ∧ ((seen p.1 p.2.1 p.2.2).g.cutAt ((seen p.1 p.2.1 p.2.2).lane 0) = none ∧ ((seen p.1 p.2.1 p.2.2).lane 0).unwinding = false) ∧
      ((seen p.1 p.2.1 p.2.2).lane 0).recs.getLast? = some (openRec 5) ∧ ((seen p.1 p.2.1 p.2.2).lane 0).kerf = [] ++ [{ space := 0, size := 2, addr := 0x50000, old := 7 }] ∧
      ((seen p.1 p.2.1 p.2.2).place [] 0 0x50000 4 .store { trailed with cur := none }).2.2 = .ok (.phys [(0x50000, 4)]))) :=
  ⟨meets_of (P := fun c => c.joiner = false ∧ c.v.choiceBytes + 96 * c.writers.length ≤ 16384 ∧ ((List.range 16).all fun i => !c.o.mod.getLsbD i || c.f.wb + i < c.g.gBudget) = true ∧
      (∀ l ∈ c.writers, 1 ≤ (lowWord (c.regVals l).b).toNat ∧ (lowWord (c.regVals l).b).toNat ≤ 65535 ∧ (c.g.cutAt (c.lane l) = none ∧ (c.lane l).unwinding = false)) ∧
      (c.o.imm22 = 2 ↔ ∃ l ∈ c.writers, c.g.recCap ≤ (c.lane l).recs.length)) (by decide +kernel),
    meets_of (P := fun c => c.joiner = false ∧ c.v.choiceBytes + 96 * c.writers.length ≤ 16384 ∧ (dispTarget c 0).toNat % 4 = 0 ∧ (dispTarget c 0).toNat < 2 ^ 57 ∧ ∀ l ∈ c.writers, (c.g.cutAt (c.lane l) = none ∧ (c.lane l).unwinding = false) ∧
      ((c.lane l).recs.getLast?.all fun r => decide (r.next < r.count) && decide ((c.lane l).kerf.length ≤ r.mark)) = true) (by decide +kernel),
    meets_of (P := fun c => c.joiner = false ∧ c.v.choiceBytes + 96 * c.writers.length ≤ 16384 ∧ c.s0.isSealed 0 = false ∧ c.writers = [0] ∧ (c.g.cutAt (c.lane 0) = none ∧ (c.lane 0).unwinding = false) ∧ (c.lane 0).recs.getLast? = some (openRec 5) ∧
      (c.lane 0).kerf = [] ++ [{ space := 0, size := 2, addr := 0x50000, old := 7 }] ∧ (c.place [] 0 0x50000 4 .store { trailed with cur := none }).2.2 = .ok (.phys [(0x50000, 4)]))
      (by decide +kernel)⟩

/-- Lane 0 and lane 1 in fibres of their own, with the records given. -/
def sharing (r0 r1 : List ChoiceRec) : State := (stacked pairOfFibres r0).onLane 0 0 1 fun x => { x with recs := r1 }

/-- A depth read, below the stack's limit. -/
theorem witness_MarkDepth : ∀ p ∈ [(Major.mark, ({ d := .g 63 } : Op), stacked lab [openRec 5]), (.mark, { d := .g 2 }, lab)],
    Plain p.1 p.2.1 p.2.2 (seen p.1 p.2.1 p.2.2) ∧ ((seen p.1 p.2.1 p.2.2).joiner = false ∧ (seen p.1 p.2.1 p.2.2).v.choiceBytes ≤ 16384 ∧
      (∀ l ∈ (seen p.1 p.2.1 p.2.2).writers, (seen p.1 p.2.1 p.2.2).g.cutAt ((seen p.1 p.2.1 p.2.2).lane l) = none ∧
        ((seen p.1 p.2.1 p.2.2).lane l).unwinding = false) ∧
      (∀ l < 64, ((seen p.1 p.2.1 p.2.2).lane l).recs.length ≤ (seen p.1 p.2.1 p.2.2).g.recCap) ∧ (seen p.1 p.2.1 p.2.2).g.recCap ≤ 65535) :=
  meets_of (P := fun c => c.joiner = false ∧ c.v.choiceBytes ≤ 16384 ∧ (∀ l ∈ c.writers, c.g.cutAt (c.lane l) = none ∧ (c.lane l).unwinding = false) ∧
    (∀ l < 64, (c.lane l).recs.length ≤ c.g.recCap) ∧ c.g.recCap ≤ 65535) (by decide +kernel)

/-- A depth read; a cut of an unshared record and of one whose copy another lane stole; a theft with nothing to steal and with a
victim; TRAIL; and the joiner. -/
theorem witness_CutsAndThefts :
    (∀ p ∈ [(Major.mark, ({ d := .g 2 } : Op), stacked lab [openRec 5]), (.trail, {}, lab), (.trail, { mod := 1 }, lab)],
      Plain p.1 p.2.1 p.2.2 (seen p.1 p.2.1 p.2.2) ∧ ((seen p.1 p.2.1 p.2.2).joiner = false ∧ (seen p.1 p.2.1 p.2.2).v.choiceBytes + 96 * (seen p.1 p.2.1 p.2.2).writers.length ≤ 16384 ∧
        ∀ l ∈ (seen p.1 p.2.1 p.2.2).writers, ((seen p.1 p.2.1 p.2.2).g.cutAt ((seen p.1 p.2.1 p.2.2).lane l) = none ∧ ((seen p.1 p.2.1 p.2.2).lane l).unwinding = false))) ∧
    (∀ p ∈ [(Major.cut, ({ a := .imm, imm22 := 1 } : Op), stacked lab [openRec 5, openRec 6])],
      Plain p.1 p.2.1 p.2.2 (seen p.1 p.2.1 p.2.2) ∧ ((seen p.1 p.2.1 p.2.2).joiner = false ∧ (seen p.1 p.2.1 p.2.2).v.choiceBytes + 96 * (seen p.1 p.2.1 p.2.2).writers.length ≤ 16384 ∧ (seen p.1 p.2.1 p.2.2).g.cuts.length ≤ Config.cutSetSize ∧
        (∀ l ∈ (seen p.1 p.2.1 p.2.2).writers, (((seen p.1 p.2.1 p.2.2).lane l).recs.drop 1).all (fun r => !r.stolen && !r.cut) = true))) ∧
    (∀ p ∈ [(Major.cut, ({ a := .imm } : Op), sharing [{ openRec 5 with cut := true }] [{ openRec 5 with stolen := true }])],
      Plain p.1 p.2.1 p.2.2 (seen p.1 p.2.1 p.2.2) ∧ ((seen p.1 p.2.1 p.2.2).joiner = false ∧ (seen p.1 p.2.1 p.2.2).v.choiceBytes + 96 * (seen p.1 p.2.1 p.2.2).writers.length ≤ 16384 ∧ (seen p.1 p.2.1 p.2.2).writers = [0] ∧
        ((seen p.1 p.2.1 p.2.2).lane 0).recs.drop 0 = [{ openRec 5 with cut := true }] ∧ (seen p.1 p.2.1 p.2.2).g.posted 5 = false ∧
        (seen p.1 p.2.1 p.2.2).g.holders 5 ≠ 0 ∧ (seen p.1 p.2.1 p.2.2).g.cuts.length < Config.cutSetSize ∧ tsorted none (seen p.1 p.2.1 p.2.2).g.weaves = true ∧
        ∀ w ∈ (seen p.1 p.2.1 p.2.2).g.weaves, tsorted none w.2.lanes = true)) ∧
    (∀ p ∈ [(Major.steal, ({ d := .g 2, imm22 := 7 } : Op), sharing [] []), (.steal, { d := .g 2, imm22 := 8 }, sharing [] [openRec 5])],
      Plain p.1 p.2.1 p.2.2 (seen p.1 p.2.1 p.2.2) ∧ ((seen p.1 p.2.1 p.2.2).joiner = false ∧ (seen p.1 p.2.1 p.2.2).v.choiceBytes + 96 * (seen p.1 p.2.1 p.2.2).writers.length ≤ 16384 ∧ (dispTarget (seen p.1 p.2.1 p.2.2) 0).toNat % 4 = 0 ∧
        (dispTarget (seen p.1 p.2.1 p.2.2) 0).toNat < 2 ^ 57 ∧ (seen p.1 p.2.1 p.2.2).writers = [0] ∧ ((seen p.1 p.2.1 p.2.2).g.cutAt ((seen p.1 p.2.1 p.2.2).lane 0) = none ∧ ((seen p.1 p.2.1 p.2.2).lane 0).unwinding = false) ∧
        ((seen p.1 p.2.1 p.2.2).lane 0).recs.length < (seen p.1 p.2.1 p.2.2).g.recCap ∧
        ((((seen p.1 p.2.1 p.2.2).g.weaves.flatMap fun w => w.2.lanes).all fun q => q.2.recs.isEmpty) = true ↔ (seen p.1 p.2.1 p.2.2).o.imm22 = 7) ∧
        (((seen p.1 p.2.1 p.2.2).g.victim 0 0).map fun v => (v.lane, v.rec_)) = (if (seen p.1 p.2.1 p.2.2).o.imm22 = 7 then none else some (1, openRec 5)))) ∧
    (∀ p ∈ [(Major.fail, ({ imm22 := 7 } : Op), joinLab), (.mark, { d := .g 2 }, joinLab), (.cut, { a := .imm }, joinLab), (.trail, {}, joinLab),
        (.steal, { d := .g 2 }, joinLab), (.tryOpen, { mod := 0x8003, d := .g 2, b := .imm, imm22 := 1 }, joinLab)],
      Plain p.1 p.2.1 p.2.2 (seen p.1 p.2.1 p.2.2) ∧ ((seen p.1 p.2.1 p.2.2).joiner = true ∧ 16 ≤ (seen p.1 p.2.1 p.2.2).g.gBudget ∧
        ((seen p.1 p.2.1 p.2.2).g.weaves.all fun w => w.2.lanes.all fun q => q.2.recs.isEmpty) = true)) :=
  ⟨meets_of (P := fun c => c.joiner = false ∧ c.v.choiceBytes + 96 * c.writers.length ≤ 16384 ∧ ∀ l ∈ c.writers, (c.g.cutAt (c.lane l) = none ∧ (c.lane l).unwinding = false)) (by decide +kernel),
    meets_of (P := fun c => c.joiner = false ∧ c.v.choiceBytes + 96 * c.writers.length ≤ 16384 ∧ c.g.cuts.length ≤ Config.cutSetSize ∧ (∀ l ∈ c.writers, ((c.lane l).recs.drop 1).all (fun r => !r.stolen && !r.cut) = true))
      (by decide +kernel),
    meets_of (P := fun c => c.joiner = false ∧ c.v.choiceBytes + 96 * c.writers.length ≤ 16384 ∧ c.writers = [0] ∧ (c.lane 0).recs.drop 0 = [{ openRec 5 with cut := true }] ∧ c.g.posted 5 = false ∧ c.g.holders 5 ≠ 0 ∧
      c.g.cuts.length < Config.cutSetSize ∧ tsorted none c.g.weaves = true ∧ ∀ w ∈ c.g.weaves, tsorted none w.2.lanes = true) (by decide +kernel),
    meets_of (P := fun c => c.joiner = false ∧ c.v.choiceBytes + 96 * c.writers.length ≤ 16384 ∧ (dispTarget c 0).toNat % 4 = 0 ∧ (dispTarget c 0).toNat < 2 ^ 57 ∧ c.writers = [0] ∧ (c.g.cutAt (c.lane 0) = none ∧ (c.lane 0).unwinding = false) ∧
      (c.lane 0).recs.length < c.g.recCap ∧ (((c.g.weaves.flatMap fun w => w.2.lanes).all fun q => q.2.recs.isEmpty) = true ↔ c.o.imm22 = 7) ∧
      ((c.g.victim 0 0).map fun v => (v.lane, v.rec_)) = (if c.o.imm22 = 7 then none else some (1, openRec 5))) (by decide +kernel),
    meets_of (P := fun c => c.joiner = true ∧ 16 ≤ c.g.gBudget ∧ (c.g.weaves.all fun w => w.2.lanes.all fun q => q.2.recs.isEmpty) = true) (by decide +kernel)⟩

/-- HREAD as a window's words, of G3 of the lane that the window's A names; and IADD. -/
def readWords : List Word := encode (.hread { un := true, d := .k 20, a := .k 12, b := .imm, c := .p 2, imm22 := 3 })
def addWords : List Word := encode (.iaddExt { d := .g 0, a := .g 1, b := .g 2 })

/-- A state with window 15 of die 0 loaded with words, its A naming lane 0 of weave 1. -/
def windowed (ws : List Word) : State := (halting 2 9).setWindow 0 15 { words := ws, a := 0x100000000 }

theorem hread_of {s : State} {d : Site} {o : Op} {l : Nat} {v : Vals} {w : Word}
    (h1 : s.itemRefused (targetOf v.a) (itemClass (lowWord v.b)) (itemIndex (lowWord v.b)) false = none)
    (h2 : ((s.targetGroup (targetOf v.a)).bind fun g => s.itemRead g (targetOf v.a) (itemClass (lowWord v.b)) (itemIndex (lowWord v.b))) = some w)
    (h3 : (d.isOwn (targetOf v.a) && inWeave (itemClass (lowWord v.b))) = false) : hreadAct s d o l v = .ok s (zext32 w) true := by
  obtain ⟨g, hg, hw⟩ := Option.bind_eq_some_iff.mp h2
  simp [hreadAct, h1, hg, hw, h3]

/-- Die 0 is reset, with window 15 there to go; port 1 of the hosts and of the peers is disabled. -/
def cutOff : State := { (halting 2 9).setDie 0 { (halting 2 9).die 0 with offline := true } with
  links := [(pcieKey 1, { down := true }), (rhautKey 1, { down := true })] }

/-- Stores to the last byte of memory; system registers with their largest values; groups there and not there; windows; and what is
reset or disabled. -/
theorem witness_OutsideAccesses :
    ((halting 2 9).mgmt.phase = .running ∧ 0xFF < (halting 2 9).capacity ∧ (∀ k < 8, ((halting 2 9).die k).held = [] ∧ ((halting 2 9).die k).svcHeld = [] ∧
      ((halting 2 9).die k).offline = false) ∧ (0x1FFF1FFF : DWord) &&& ~~~regMask 1 = 0 ∧ (0x2000 : DWord) &&& ~~~regMask 1 ≠ 0) ∧
    (cutOff.mgmt.phase = .running ∧ (cutOff.die 0).offline = true ∧ (∀ k < 8, (cutOff.die k).held = [] ∧ (cutOff.die k).svcHeld = []) ∧
      (tget {} cutOff.links (pcieKey 1)).down = true ∧ (tget {} cutOff.links (rhautKey 1)).down = true ∧
      (tget {} cutOff.links (pcieKey 0)).down = false) ∧
    (lab.group 9 = none ∧ ∃ (g : Group) (b : Bent), lab.group 0 = some g ∧ g.retired = false ∧ lab.bent g.bent = some b ∧ (∀ p ∈ lab.bents, p.2.uid = p.1) ∧ socketOf 0 = 0 ∧
      b.st = .resident ∧ b.alive = true) ∧
    (let s := windowed readWords
     let w := s.window 0 15
     ∃ o x, bitsAt (w.words.getD 2 0) 0 4 = 7 ∧ decodeWords false w.words = .ok (.hread o) ∧ o.d ≠ .none ∧ targetBad false (w.vals .hread o).a = [] ∧
       hreadAct s { socket := 0, space := bitsAt w.space 0 12 } o 0 (w.vals .hread o) = .ok s x true) ∧
    (∃ o, bitsAt (((windowed addWords).window 0 15).words.getD 2 0) 0 4 = 7 ∧ decodeWords false ((windowed addWords).window 0 15).words = .ok (.iaddExt o)) := by
  refine ⟨by decide +kernel, by decide +kernel, ⟨by decide +kernel, ?_⟩, ?_, ⟨{ d := .g 0, a := .g 1, b := .g 2 }, by decide +kernel⟩⟩
  · exact ⟨_, _, rfl, by decide +kernel, rfl, by decide +kernel, by decide, rfl, rfl⟩
  · exact ⟨{ un := true, d := .k 20, a := .k 12, b := .imm, c := .p 2, imm22 := 3 }, 0, by decide +kernel, by decide +kernel, by decide, by decide +kernel,
      hread_of (w := 0) (by decide +kernel) (by decide +kernel) (by decide +kernel)⟩

/-- An entry of group 0, and a request of its fibre. -/
def entryOf (seq : Option Word) : FaultEntry :=
  { seq := seq, va := 0x5000, mask := 1, pc := 0x1000000, gid := 0, weave := 0, engine := false, slot := 0, hint := 0, access := 0, kind := 0, who := .group 0, taken := 0 }
def requestOf (seq : Option Word) : SvcReq := { seq := seq, code := 1, gid := 0, arg := 2, pc := 0x1000000, weave := 0, fid := 0, tag := 9 }

/-- Die 0 with a fault queue at 0x68000 and a service queue at 0x69000 of two entries each, of which one is outstanding, its sequence number
3, and one fault held when `isHeld`. -/
def queued (isHeld : Bool) : State :=
  ((({ lab with cur := none }.holding 0x68000 (leBytes 8 0x6A000 ++ leBytes 4 1 ++ leBytes 4 4 ++ leBytes 4 3 ++ leBytes 44 0)).holding 0x69000
    (leBytes 8 0x6B000 ++ leBytes 4 1 ++ leBytes 4 4 ++ leBytes 4 3 ++ leBytes 44 0)).onFibre ⟨0, 0, 0⟩ fun f => { f with st := .parked, wait := .sysc 9 127, len := 12 }).setDie 0
    { lab.die 0 with fqcb := 0x68000, svcb := 0x69000, entries := [entryOf (some 3)], held := if isHeld then [entryOf none] else [], svc := [requestOf (some 3)] }

/-- The same with its die reset. -/
def queuedOffline : State := (queued false).setDie 0 { (queued false).die 0 with offline := true }

/-- The same with its bent saved. -/
def queuedSaved : State := (queued false).onBent 0 fun b => { b with st := .saved }

/-- No fault held, and one with room once the index is stored; the outstanding entry, and none; the request of a resident and of a
saved bent. -/
theorem witness_FaultAndServiceQueues :
    ((queued false).mgmt.phase = .running ∧ queuedOffline.mgmt.phase = .running ∧ (queuedOffline.die 0).offline = true ∧ (queuedOffline.die 0).fqcb ≠ 0) ∧
    (∀ h ∈ [true, false], ((queued h).die 0).fqcb ≠ 0 ∧ ((queued h).die 0).svcb ≠ 0 ∧ ((queued h).die 0).svcHeld = [] ∧ (((queued h).die 0).held = [] ↔ h = false)) ∧
    (((queued true).die 0).held = [entryOf none] ∧ ((queued true).putNat 0x68010 4 3).ringRoom 0x68000 = true) ∧
    (((queued false).die 0).entries.find? fun e => e.seq == some 9) = none ∧ (((queued false).die 0).entries.find? fun e => e.seq == some 3) = some (entryOf (some 3)) ∧
    (((queued false).die 0).gtab = 0 ∧ (∀ p ∈ (queued false).bents, p.2.uid = p.1) ∧ (entryOf (some 3)).who = .group (entryOf (some 3)).gid ∧
      ∃ (g : Group) (b : Bent), (queued false).group 0 = some g ∧ (queued false).bent g.bent = some b ∧ b.alive = true) ∧
    (((queued false).die 0).svc.find? fun q => q.seq == some 9 && q.answer == none) = none ∧
    (((queued false).die 0).svc.find? fun q => q.seq == some 3 && q.answer == none) = some (requestOf (some 3)) ∧
    ((queuedSaved.die 0).svc.find? fun q => q.seq == some 3 && q.answer == none) = some (requestOf (some 3)) ∧ (queuedSaved.bentOf 0).map (·.st) = some .saved ∧
    ((queued false).bentOf 0).map (·.st) = some .resident ∧
    ((queued false).group 0).map (fun g => (g.weave 0).fibres) = some [{ labFibre with lanes := 1, st := .parked, wait := .sysc 9 127, len := 12 }] := by
  refine ⟨by decide +kernel, by decide +kernel, by decide +kernel, by decide +kernel, by decide +kernel, ⟨by decide +kernel, by decide +kernel, rfl, _, _, rfl, rfl, rfl⟩, by decide +kernel,
    by decide +kernel, by decide +kernel, by decide +kernel, by decide +kernel, by decide +kernel⟩

/-- What is there to take, taken. -/
theorem some_of {α : Type} {x : Option α} (h : x.isSome = true) : ∃ a, x = some a := Option.isSome_iff_exists.mp h

/-- The lab's fibre changed, with no fibre picked. -/
def resting (f : Fibre → Fibre) : State := { lab with cur := none }.onFibre ⟨0, 0, 0⟩ f

/-- Group barrier 15 with `a` cycles since its first arrival. -/
def barred (a : Nat) : State :=
  (resting fun f => { f with st := .parked, wait := .bar false 15, len := 12 }).onGroup 0 fun g => { g with bars := [(15, { count := 1, gen := 3, age := some a })] }

/-- Die 0 counts halts on a peg at 0x60000. -/
def halted (peg : DWord) : State := (resting fun f => { f with st := .halted, cause := 1 }).setDie 0 { lab.die 0 with haltpg := peg }

/-- Two ready fibres, the one of the lower PC not aged. -/
def contending : State := { pairOfFibres with cur := none }.onFibre ⟨0, 0, 1⟩ fun f => { f with aged := true }

/-- A sample sink whose tick is due. -/
def ticking : State := { lab with cur := none, cycle := 5000 }.setDie 0 { lab.die 0 with sample := some { pa := 0x50000, pins := [], space := 0, asid := 0, period := 12, due := 4096 } }

/-- Each wait just ended and just not; a halt and a step; a barrier at its time-out and just before it; a choice; a tick. -/
theorem witness_WaitsEndAndIssue :
    (let s := resting fun f => { f with st := .parked, wait := .peg 0x60000 [0, 0x8000000000000001], len := 12 }
     (∃ f, s.fibre ⟨0, 0, 0⟩ = some f ∧ f.isParked = true ∧ f.wait = .peg 0x60000 [0, 0x8000000000000001]) ∧ s.isResident 0 = true ∧
      (s.translate (s.agentOf 0) (s.spaceOf 0) 0x60000 .load).2.toOption = some 0x60000 ∧
      (s.translate (s.agentOf 0) (s.spaceOf 0) 0x60000 .load).1.dword 0x60000 = 0 ∧
      [(0 : DWord), 0x8000000000000001].all (fun t => decide ((BitVec.ofNat 64 0 - t).toNat < 2 ^ 63)) = true) ∧
    (let s := resting fun f => { f with st := .parked, wait := .await [(4080, 0)], len := 12 }
     (∃ f, s.fibre ⟨0, 0, 0⟩ = some f ∧ f.isParked = true ∧ f.wait = .await [(4080, 0)]) ∧ s.isResident 0 = true ∧ s.arrived 0 4080 0 = true) ∧
    (∀ due ∈ [0, 1], let s := resting fun f => { f with st := .parked, wait := .clock due, len := 12 }
     (∃ f, s.fibre ⟨0, 0, 0⟩ = some f ∧ f.isParked = true ∧ f.wait = .clock due) ∧ s.isResident 0 = true ∧ (due ≤ s.cycle ↔ due = 0)) ∧
    (∀ peg ∈ [0, 0x60000], ∃ f, (halted peg).fibre ⟨0, 0, 0⟩ = some f ∧ ((halted peg).die 0).gtab = 0 ∧ f.st = .halted ∧ f.reported = false ∧
      ((halted peg).die 0).haltpg.toNat = peg.toNat) ∧
    (∃ f, (resting fun f => { f with step := 2 }).fibre ⟨0, 0, 0⟩ = some f ∧ f.step = 2 ∧ f.st ≠ .halted) ∧
    (∀ a ∈ [2 ^ 24, 2 ^ 24 - 1], ∃ (g : Group) (v : Weave) (f : Fibre) (l : Launch), (barred a).group 0 = some g ∧ (barred a).isResident 0 = true ∧
      (barred a).launchOf 0 = some l ∧ (tget {} g.bars 15).age = some a ∧ g.weaves = [(0, v)] ∧ v.parkedAt false 15 = [f] ∧ recTimeout l.record = 2 ^ 24) ∧
    (∃ c, (contending.pass 4).taken 0 0 = some c ∧ ((contending.pass 4).coreAt ((contending.pass 4).coreOf c.gid)).gauges = [] ∧ (c.v.fibres.map (·.id)).Nodup ∧ c.f.id = 1) ∧
    (contending.cur = none ∧ (contending.dies.all fun p => p.2.sample.isNone && p.2.trace.isNone) = true) ∧ (∃ x, (ticking.die 0).sample = some x ∧ x.due ≤ ticking.cycle) ∧
    (∃ (g : Group), contending.group 0 = some g ∧ g.gid = 0 ∧ (g.weave 0).fibres.map (fun x => (x.id, x.st, x.waitCount)) = [(0, .ready, 0), (1, .ready, 0)]) := by
  refine ⟨⟨⟨_, rfl, rfl, rfl⟩, by decide +kernel⟩, ⟨⟨_, rfl, rfl, rfl⟩, by decide +kernel⟩, ?_, ?_, ⟨_, rfl, rfl, by decide⟩, ?_, ?_, by decide +kernel, ⟨_, rfl, by decide +kernel⟩,
    ⟨_, rfl, rfl, by decide +kernel⟩⟩
  · intro due hd
    simp only [List.mem_cons, List.not_mem_nil, or_false] at hd
    obtain rfl | rfl := hd <;> exact ⟨⟨_, rfl, rfl, rfl⟩, by decide +kernel⟩
  · intro peg hp
    simp only [List.mem_cons, List.not_mem_nil, or_false] at hp
    obtain rfl | rfl := hp <;> exact ⟨_, rfl, by decide +kernel, rfl, rfl, by decide +kernel⟩
  · intro a ha
    simp only [List.mem_cons, List.not_mem_nil, or_false] at ha
    obtain rfl | rfl := ha <;> exact ⟨_, _, _, _, rfl, by decide +kernel, rfl, rfl, rfl, rfl, by decide +kernel⟩
  · have key : ∀ o : Option Contender, (match o with
        | some c => decide (((contending.pass 4).coreAt ((contending.pass 4).coreOf c.gid)).gauges = [] ∧ (c.v.fibres.map (·.id)).Nodup ∧ c.f.id = 1)
        | none => false) = true → ∃ c, o = some c ∧ ((contending.pass 4).coreAt ((contending.pass 4).coreOf c.gid)).gauges = [] ∧ (c.v.fibres.map (·.id)).Nodup ∧ c.f.id = 1 := by
      intro o h
      cases o with
      | none => cases h
      | some c => exact ⟨c, rfl, of_decide_eq_true h⟩
    exact key _ (by decide +kernel)

/-- A decision on an exact point, and one whose node reads a row that is not mapped. -/
def askOf (kind : ReqKind) (a : XReg) : Request := { gid := 0, weave := 0, lane := 0, pc := 0x1000000, slot := 0, kind := kind, a := a, b := {} }
def pointOne : XReg := { lo := 0x3F800000, hi := 0x3F800000, exact := true }
def dotReg : XReg := { lo := 0xBF800000, hi := 0x3F800000, handle := 2 }

/-- Bay 0 works on a request, its lane refining; its group has a DOT node whose row lies beyond the mapped gigabyte, and a dead node. -/
def asking (q : Request) : State :=
  (({ lab with cur := none }.onBay 0 fun y => { y with lap := [q] }).onFibre ⟨0, 0, 0⟩ fun f => { f with st := .refining, len := 12 }).onGroup 0 fun g => { g with
    nodes := [(2, { nodeOf opDOT 0x40001000 0 4 with refs := 1 }), (3, nodeOf opCONT 0 0 0), (5, { nodeOf opDOT 0 0 4 with refs := 0 }), (6, nodeOf opCONT 0 0 0)] }

/-- Copies kicked: two records in one kick, one in the next; and one started. -/
def copying : State := { kicking with cur := none }.onBay 0 fun y => { y with kicks := [[copyRec1, copyRec1], [copyRec1]], started := [copyRec1] }

/-- A storage read issued, of 512 bytes to 0x61000. -/
def reading : State := { spawning with
  cur := none
  stcmds := [{ launch := 0, dom := {}, fibre := ⟨0, 0, 0⟩, pc := 0x1000000, lane := 0, qp := 0, desc := 0x40140, dst := [(0x61000, 512)], bytes := 512, peg := none
               nsid := 7, slba := 0, nlb := 0 }] }

/-- A waiting request with room; a comparison, a sign, a refinement and a missed page; dead nodes; the next record of a kick of two and
of one; a last row; an armed word; a storage read. -/
theorem witness_BayEngines :
    (let s := { lab with cur := none }.onBay 0 fun y => { y with lapWait := [askOf (.cmp 0 (.p 1)) pointOne] }
     (s.bayAt 0).lapWait = [askOf (.cmp 0 (.p 1)) pointOne] ∧ (s.bayAt 0).lap.length < Config.lapidaryQueue ∧
       s.sharesFull 0 (askOf (.cmp 0 (.p 1)) pointOne) = []) ∧
    (∀ k ∈ [ReqKind.cmp 0 (.p 1), .sgn (.p 1) (.p 7), .xref 3 2], let q := askOf k pointOne
      (asking q).workOn 0 0 = some q ∧ ((asking q).group 0).isSome = true ∧ ((asking q).coreAt ((asking q).coreOf 0)).gauges = [] ∧
      ((asking q).bayAt 0).answered ≠ some (asking q).cycle ∧ (match ((asking q).runRequest q).2 with
        | .decided _ _ => true
        | .refined (some _) _ _ => k == .xref 3 2
        | _ => false) = true ∧
      (((asking q).group 0).map fun g => decide (((g.weave 0).fibres.find? (fun x => x.lanes.getLsbD 0)).map (fun x => (x.st, x.replay)) = some (.refining, 0) ∧ ((g.weave 0).fibres.map (·.id)).Nodup ∧
        ∀ x ∈ (g.weave 0).fibres, x.halts = [])) = some true) ∧
    (let q := askOf (.cmp 0 (.p 1)) dotReg
     (asking q).workOn 0 0 = some q ∧ (∃ va kd h, ((asking q).runRequest q).2 = .faulted (.late [(va, kd, h)])) ∧ ((asking q).die 0).fqcb = 0) ∧
    (∃ g, (asking (askOf (.cmp 0 (.p 1)) pointOne)).group 0 = some g ∧ g.gid = 0 ∧ (∃ p ∈ g.nodes, p.2.dead = true) ∧
      tsorted none g.nodes = true ∧ ∀ p ∈ g.nodes, (p.2.op = opDOT ∨ p.2.op = opL2) → g.nodes.any fun k => k.1 == p.1 + 1 && k.2.op == opCONT) ∧
    (∀ i < 5, let s := copying.onBay 0 fun y => { y with turn := (5 - i) % 5 }
      copyRec1.core < 5 ∧ ((s.bayAt 0).turn + i) % 5 = copyRec1.core ∧
        ∀ j < i, ∀ k ∈ (s.bayAt 0).kicks, ∀ x ∈ k, x.core ≠ ((s.bayAt 0).turn + j) % 5) ∧
    (copying.bayAt 0).kicks = (copyRec1 :: [copyRec1]) :: [[copyRec1]] ∧
    (copying.isStopping 0 = false ∧ (copying.onBent 0 fun b => { b with st := .stopping }).isStopping 0 = true ∧ copyRec1.bent = 0 ∧ copying.oracle = []) ∧
    ((copying.bayAt 0).started[0]? = some copyRec1 ∧ copying.bayOf 0 = 0 ∧ copyRec1.row + 1 = copyRows copyRec1.bytes ∧ copyAW copyRec1.bytes = false ∧
      copyPV copyRec1.bytes = false ∧ (copying.die 0).held = [] ∧
      (let x := copying.enginePlace [] 0 0 (copySrcSpace copyRec1.bytes) (BitVec.ofNat 64 (copySrc copyRec1.bytes)) (copyBytes copyRec1.bytes) .engineRead
       x.2.2 = .ok (.phys [(0x50000, 64)]) ∧
       (x.1.enginePlace x.2.1 0 0 (copyDstSpace copyRec1.bytes) (BitVec.ofNat 64 (copyDst copyRec1.bytes)) (copyBytes copyRec1.bytes) .engineWrite).2.2 = .ok (.data 0 256) ∧
       quietTest (x.1.enginePlace x.2.1 0 0 (copyDstSpace copyRec1.bytes) (BitVec.ofNat 64 (copyDst copyRec1.bytes)) (copyBytes copyRec1.bytes) .engineWrite).1
         (.phys [(0x50000, 64)]) = true)) ∧
    (let s := lab.onGroup 0 fun g => { g with data := g.data.putBytes 4080 (leBytes 4 64 ++ leBytes 8 0 ++ leBytes 4 1) }
     ∃ g, s.group 0 = some g ∧ fieldOf (g.data.bytes 4080 16) 0 4 ≠ 0 ∧ fieldOf (g.data.bytes 4080 16) 12 4 % 2 = 1) ∧
    (∃ c, reading.stcmds[0]? = some c ∧ c.peg = none ∧ c.dst = [(0x61000, c.bytes)] ∧ (List.replicate 512 (7 : Byte)).length = c.bytes ∧ 0x61000 < reading.capacity ∧
      (tfind reading.pairs c.qp).isSome = true) := by
  refine ⟨by decide +kernel, ?_, ⟨by decide +kernel, ?_, by decide +kernel⟩, ⟨_, rfl, rfl, by decide +kernel, by decide +kernel, by decide +kernel⟩, ?_,
    by decide +kernel, by decide +kernel, by decide +kernel, ⟨_, rfl, by decide +kernel⟩, ⟨_, rfl, by decide +kernel⟩⟩
  · intro k hk
    simp only [List.mem_cons, List.not_mem_nil, or_false] at hk
    obtain rfl | rfl | rfl := hk <;> decide +kernel
  · have key : ∀ v : Verdict, (match v with
        | .faulted (.late [_]) => true
        | _ => false) = true → ∃ va kd h, v = .faulted (.late [(va, kd, h)]) := by
      intro v h
      split at h
      · exact ⟨_, _, _, rfl⟩
      · cases h
    exact key _ (by decide +kernel)
  · decide +kernel

/-- A bent 5 that waits, of a launch of one group of 64 lanes with 8 bytes of arguments. -/
def waiting : State := { lab with
  cur := none
  launches := lab.launches ++ [(7, { uid := 7, origin := .device 0, addr := 0x40000, record := launchBytes1, space := 0, depth := 1, priv := false
                                     started := true, bents := [5], args := leBytes 8 0x1122334455667788 })]
  bents := lab.bents ++ [(5, { uid := 5, number := 0, launch := 7, dcb := 0x30000, socket := 0 })], uids := 8 }

/-- The same, its domain ageing by a class every 65,536 cycles, at the last cycle below class 7 and the first in it. -/
def ageing (cycle : Nat) : State := { waiting.holding 0x30020 (leBytes 4 1) with cycle := cycle }

/-- The lab's bent in another state. -/
def bentIn (st : BentSt) (holds : Bool) : State := { lab with cur := none }.onBent 0 fun b => { b with st := st, holds := holds }

/-- The lab's group with no fibre left; and retired. -/
def quitted : State := { lab with cur := none }.onWeave 0 0 fun v => { v with fibres := [] }
def doneGroup : State := quitted.onGroup 0 fun g => { g with retired := true, weaves := [] }

/-- A task of 4 chunks, or of none, of which bent 0 works on the piece `p`. -/
def splitting (p : Option Piece) (stop : Nat) : State := { lab with
  cur := none
  tasks := [(9, { uid := 9, socket := 0, launch := 0, gid := 0, record := leBytes 8 0 ++ leBytes 8 5 ++ leBytes 8 stop ++ leBytes 4 3 ++ leBytes 36 0, dcb := 0x30000, depth := 2, role := 0, number := 0, bent := 0 })]
  launches := lab.launches.map fun x => (x.1, { x.2 with record := launchBytes1 })
  bents := lab.bents.map fun x => (x.1, { x.2 with piece := p }) }

/-- A bent placed; one that reaches class 7; one stopped and one saved; a group that has quit and a bent whose groups have retired; a
task with no item and one with items; and a split. -/
theorem witness_BentLives :
    (∃ (b : Bent) (l : Launch), waiting.bent 5 = some b ∧ b.uid = 5 ∧ b.st = .waiting ∧ waiting.mayPlace b 11 [⟨3, 0⟩] = true ∧ tfind waiting.launches b.launch = some l ∧
      waiting.groups.length + (waiting.members b l).length < 2 ^ 28 ∧ (waiting.members b l).length = 1 ∧ l.args.length / 4 = 2) ∧
    (∀ n ∈ [458751, 458752], ∃ b : Bent, (ageing n).bent 5 = some b ∧ b.awaits = true ∧ b.seven = false ∧ (((ageing n).view b.dcb).classAt ((ageing n).cycle - b.since) = 7 ↔ n = 458752) ∧
      ((ageing n).chooseBay b).isSome = true) ∧
    (∃ b : Bent, (bentIn .stopping true).bent 0 = some b ∧ b.uid = 0 ∧ b.st = .stopping ∧ b.claim = true ∧ ((bentIn .stopping true).bayAt b.bay).started = [] ∧ ((bentIn .stopping true).choose 2).1 = 0) ∧
    (∃ b : Bent, (bentIn .saved false).bent 0 = some b ∧ b.uid = 0 ∧ b.st = .saved ∧ (bentIn .saved false).mayPlace b 2 [⟨1, 4096⟩] = true ∧ ((bentIn .saved false).die b.socket).svc = [] ∧ ((bentIn .saved false).choose 3).1 = 0 ∧
      ∀ p ∈ (bentIn .saved false).groups, p.2.gid = p.1) ∧
    (∃ (g : Group) (b : Bent), quitted.group 0 = some g ∧ g.gid = 0 ∧ quitted.bent g.bent = some b ∧ g.retired = false ∧ b.st = .resident ∧ (∀ w ∈ g.weaves, w.2.fibres = []) ∧
      quitted.copiesOf 0 = false) ∧
    (∃ b : Bent, doneGroup.bent 0 = some b ∧ b.st = .resident ∧ b.piece = none ∧ b.groups = [0] ∧ (doneGroup.group 0).map (·.retired) = some true ∧ (doneGroup.bayAt b.bay).mq = [] ∧
      b.holds = true ∧ b.claim = true) ∧
    (∀ stop ∈ [5, 6], ∃ (x : Task) (l : Launch), tfind (splitting none stop).tasks 9 = some x ∧ x.ready = false ∧ tfind (splitting none stop).launches x.launch = some l ∧ taskPairs x.record = [] ∧
      (fieldOf x.record 16 8 ≤ fieldOf x.record 8 8 ↔ stop = 5)) ∧
    (let s := splitting (some { task := 9, first := 5, next := 5, stop := 17 }) 17
     ∃ (b n : Bent) (p : Piece) (x : Task), s.largestPiece 0 = some (b, p) ∧ s.bent b.uid = some b ∧ b.uid ≠ s.uids ∧ tfind s.tasks p.task = some x ∧ taskGrain x.record = 3 ∧ p.next < p.stop ∧
       2 ≤ (p.stop - p.next + 3 - 1) / 3 ∧ (s.baysOf 0).contains 0 = true ∧ (∀ q ∈ s.bents, q.2.awaits = false) ∧
       (let u := (s.onBent b.uid fun b => { b with piece := some { p with stop := 11 } }).newPiece p.task 11 p.stop
        u.bent s.uids = some n ∧ s.admits n 0 [] true = true ∧ placesFit (u.demands n) [⟨1, 0⟩] (u.loads 0 []) = true)) := by
  refine ⟨⟨_, _, rfl, rfl, rfl, by decide +kernel, rfl, by decide +kernel, by decide +kernel, by decide +kernel⟩, ?_,
    ⟨_, rfl, rfl, rfl, rfl, by decide +kernel, by decide +kernel⟩, ⟨_, rfl, rfl, rfl, by decide +kernel, by decide +kernel, by decide +kernel, by decide +kernel⟩,
    ⟨_, _, rfl, rfl, rfl, rfl, rfl, by decide +kernel, by decide +kernel⟩, ⟨_, rfl, rfl, rfl, rfl, by decide +kernel, by decide +kernel, rfl, rfl⟩, ?_,
    ⟨_, _, _, _, rfl, rfl, by decide +kernel, rfl, by decide +kernel, by decide +kernel, by decide +kernel, by decide +kernel, by decide +kernel, rfl, by decide +kernel, by decide +kernel⟩⟩
  · intro n hn
    simp only [List.mem_cons, List.not_mem_nil, or_false] at hn
    obtain rfl | rfl := hn <;> exact ⟨_, rfl, rfl, rfl, by decide +kernel, by decide +kernel⟩
  · intro stop hs
    simp only [List.mem_cons, List.not_mem_nil, or_false] at hs
    obtain rfl | rfl := hs <;> exact ⟨_, _, rfl, rfl, rfl, by decide +kernel, by decide +kernel⟩

/-- A QCB: a ring of 16 entries at 0x6D000, domain 0x30000, head 3, a completion peg. -/
def qcbBytes (state : Nat) : List Byte := leBytes 8 0x6D000 ++ leBytes 8 4 ++ leBytes 8 0x30000 ++ leBytes 4 3 ++ leBytes 4 state ++ leBytes 8 0x6E000 ++ leBytes 24 0

/-- A ring entry of a kind, naming the launch record at 0x40000 or the peg at 0x60000, with a threshold or addend of 1. -/
def entryBytes (kind : Nat) (va : Nat) : List Byte := leBytes 8 kind ++ leBytes 8 va ++ leBytes 8 1 ++ leBytes 8 0

/-- Queue 0 with that QCB at 0x6C000 and one announced entry, waiting for a slot. -/
def queueing (kind va : Nat) (x : HostQ) : State :=
  { (((({ lab with cur := none }.holding 0x6C000 (qcbBytes 0)).holding (0x6D000 + 32 * 3) (entryBytes kind va)).holding 0x40000 launchBytes1)) with
    queues := [(0, { x with place := some 0x6C000 })] }

/-- The same, admitted. -/
def admitted (kind va : Nat) (pend : List (Word × Pend)) : State :=
  queueing kind va { announced := 4, head := 3, active := true, qcb := qcbBytes 1, pend := pend }

/-- What `nextEntry` gives, as a test. -/
def nextIs (s : State) (kind : Nat) : Bool := match (s.nextEntry 0).2 with
  | .ok (some (i, b)) => i == (s.queue 0).head && fieldOf b 0 1 == kind
  | _ => false

/-- Queue 0 once its next entry, of a kind, has been taken. -/
def entered (kind va : Nat) : State :=
  let u := ((admitted kind va []).nextEntry 0).1
  (u.deviceOp [.unit 4 0]).2.setQueue 0 { u.queue 0 with head := (u.queue 0).head + 1 }

/-- A launch of device 0 taken, not started, of four bents; and one started whose bents have ended. -/
def startable : State := { spawning with
  cur := none
  launches := [(0, { uid := 0, origin := .device 0, addr := 0x40000, record := launchBytes1.set 72 4, space := 0, depth := 1, priv := true })], bents := [] }
def completable : State := { pegged with
  cur := none
  launches := lab.launches.map fun p => (p.1, { p.2 with record := ((List.replicate 80 0) ++ leBytes 8 (64 + 63)) ++ leBytes 8 0x60000 ++ List.replicate 160 0 })
  bents := lab.bents.map fun p => (p.1, { p.2 with st := .ended }) }

/-- A store that announces, and one that goes back; an admission, of an acceptable and of a refused QCB; each kind of entry; a wait met and
not; a status stored; a launch started and one completed, with a peg and without. -/
theorem witness_QueuesAndLaunches :
    ((∀ pa ∈ [0x6C000, 0x6F000], (queueing 0 0 {}).physBad (pa + 28) = none) ∧
      (∀ k ∈ [0, 4, 1, 2, 3], (admitted k 0x60000 []).oracle = [])) ∧
    (let s : State := { queueing 0 0 { announced := 3 } with links := [(pcieKey 0, { down := true })] }
     s.mgmt.phase = .running ∧ (tget {} s.links (pcieKey 0)).down = true) ∧
    (let s := queueing 0 0 { announced := 3 }
     (tget {} s.links (pcieKey 0)).down = false ∧ s.mgmt.phase = .running ∧ (s.queue 0).place = some 0x6C000 ∧ ¬((s.mgmt.straps.split = true ∧ 0 % 2 ≠ 0 % 2) ∨ 2 ^ 31 ≤ ((19 : Word) - (s.queue 0).announced).toNat ∨
        2 ^ (memNat s 0x6C008 4 % 32) < ((19 : Word) - BitVec.ofNat 32 (memNat s 0x6C018 4)).toNat) ∧
      2 ^ 31 ≤ ((2 : Word) - (s.queue 0).announced).toNat ∧ 2 ^ (memNat s 0x6C008 4 % 32) < ((20 : Word) - BitVec.ofNat 32 (memNat s 0x6C018 4)).toNat) ∧
    (∀ pa ∈ [0x6C000, 0x6F000], let s : State := { queueing 0 0 {} with queues := [(0, { place := some pa, announced := 4, head := 3 })] }
      s.mgmt.phase = .running ∧ (s.queue 0).place = some pa ∧ s.competes (s.queue 0) = true ∧ (s.queue 0).pend = [] ∧ (s.queues.all fun p => p.1 == 0) = true ∧
      (s.queues.filter fun p => p.2.active).length < 64 ∧ BitVec.ofNat 32 (fieldOf (memBytes s.mem pa 64) 24 4) ≠ (s.queue 0).announced ∧ (s.qcbOk (memBytes s.mem pa 64) = true ↔ pa = 0x6C000)) ∧
    (nextIs (admitted 0 0 []) 0 = true ∧ nextIs (admitted 4 0 []) 4 = true ∧ nextIs (admitted 1 0x40000 []) 1 = true ∧ nextIs (admitted 2 0x60000 []) 2 = true ∧ nextIs (admitted 3 0x60000 []) 3 = true ∧
      ((entered 1 0x40000).takeRecord 0 0x40000).2.1.toOption = some launchBytes1 ∧ (((entered 1 0x40001).takeRecord 0 0x40001).2.1.toOption = none ∧ ((entered 1 0x40001).takeRecord 0 0x40001).2.2 = []) ∧
      ((entered 3 0x60000).translate ioAgent 0 0x60000 .atomic).2.toOption = some 0x60000) ∧
    (∀ th ∈ [(0 : Nat), 1], let s := admitted 2 0x60000 [(2, .wait 0x60000 (BitVec.ofNat 64 th))]
      (s.queue 0).active = true ∧ (s.queue 0).pend[0]? = some (2, .wait 0x60000 (BitVec.ofNat 64 th)) ∧ (s.translate ioAgent 0 0x60000 .load).2.toOption = some 0x60000 ∧
      (((s.translate ioAgent 0 0x60000 .load).1.dword 0x60000 - BitVec.ofNat 64 th).toNat < 2 ^ 63 ↔ th = 0)) ∧
    (let s : State := { admitted 0 0 [] with queues := [(0, { announced := 4, head := 3, active := true, qcb := (leBytes 8 0x6D000 ++ leBytes 8 4 ++ leBytes 48 0) })] }
     (s.queue 0).place = none ∧ fieldOf (s.queue 0).qcb 32 8 = 0 ∧ (s.globalAt [] ioAgent 0 ((s.queue 0).entryAt 3 + 4) 4 .store).2.2 = .ok (.phys [(0x6D064, 4)])) ∧
    (∃ (l : Launch) (a : List Byte), tfind startable.launches 0 = some l ∧ l.uid = 0 ∧ l.started = false ∧ l.done = false ∧ (∀ q i, l.origin = .queue q i → (startable.queue q).active = true) ∧ recPairs l.record = [] ∧
      ((startable.edge 10 [] [] [.launch 0, .unit 5 0]).recReads l.agent l.space l.record).2 = true ∧ recDies l.record = [] ∧ startable.computeOk 0 = true ∧ recBents l.record = 4 ∧
      (let u := ((startable.edge 10 [] [] [.launch 0, .unit 5 0]).recReads l.agent l.space l.record).1
       (u.readVa l.agent l.space (BitVec.ofNat 64 (fieldOf l.record 48 8)) (recArgs l.record) (.unit 5 0)).2 = some a ∧
       (u.readVa l.agent l.space (BitVec.ofNat 64 (fieldOf l.record 48 8)) (recArgs l.record) (.unit 5 0)).1.spaceValid l.space = true)) ∧
    (∃ l : Launch, tfind completable.launches 0 = some l ∧ l.origin = .device 0 ∧ l.started = true ∧ l.done = false ∧ fieldOf l.record 160 8 = 0 ∧ (∀ u ∈ l.bents, (completable.bent u).map (·.st) = some .ended) ∧
      recDone l.record = some 63 ∧ recPegs l.record ≠ 0 ∧ (completable.translate { socket := 0 } l.space (recPegs l.record + BitVec.ofNat 64 (8 * 63)) .atomic).2.toOption = some 0x601F8) := by
  refine ⟨by decide +kernel, by decide +kernel, by decide +kernel, by decide +kernel, by decide +kernel, by decide +kernel, by decide +kernel,
    ⟨_, _, rfl, rfl, rfl, rfl, ?_, by decide +kernel, by decide +kernel, by decide +kernel, by decide +kernel, by decide +kernel, rfl, by decide +kernel⟩,
    ⟨_, rfl, rfl, rfl, rfl, by decide +kernel, by decide +kernel, by decide +kernel, by decide +kernel, by decide +kernel⟩⟩
  intro q i h
  exact absurd h (by simp)

/-- A boot with two compute dies and two memory dies populated, all passing. -/
def bootOf (links : BitVec 18) : BootInput :=
  { straps := { sockets := 0x30303 }, firmwareOk := 3, runtimeOk := 3, linksPass := links, linksHalf := 0, memoryPass := 0xFF, computePass := 0xFF
    portsPass := 0x3FFFF, portsLow := 0, clockOffsets := [] }

/-- A boot in which every populated unit passes; a package in safe mode; the three stages of an exchange; a link; and a die to take out and to
readmit. -/
theorem witness_PackageAndLinks :
    (let b := bootOf 0x3FFFF
     b.firmwareOk.getLsbD 0 = true ∧ b.runtimeOk.getLsbD 0 = true ∧ (∀ i < 18, b.straps.sockets.getLsbD i = true → b.linksPass.getLsbD i = true) ∧
      (∀ i < 18, b.straps.ports.getLsbD i = true → b.portsPass.getLsbD i = true) ∧
      (∀ i < 8, (b.straps.sockets.getLsbD i = true → b.computePass.getLsbD i = true) ∧ (b.straps.sockets.getLsbD (8 + i) = true → b.memoryPass.getLsbD i = true)) ∧
      (∃ i < 8, b.straps.sockets.getLsbD i = true) ∧ (∃ i < 8, b.straps.sockets.getLsbD (8 + i) = true)) ∧
    (∃ t, exec (.powerOn (bootOf 0x3FFFF)) State.reset = .next t ∧ t.mgmt.phase = .running) ∧
    (∃ s : State, s.mgmt.phase = .safe) ∧ (∀ n ∈ [2, 3], ∃ s : State, s.mgmt.phase ≠ .off ∧ s.mgmt.spdmStage = n) ∧
    (lab.mgmt.phase = .running ∧ (lab.die 0).offline = false ∧ lab.computeOk 0 = true ∧ ∀ p ∈ lab.bents, p.2.uid = p.1) ∧
    (let s := lab.setDie 7 { lab.die 7 with offline := true }
     s.mgmt.phase = .running ∧ (s.die 7).offline = true) := by
  refine ⟨by decide +kernel, ?_, ⟨{ lab with mgmt := { lab.mgmt with phase := .safe } }, rfl⟩, ?_, by decide +kernel, by decide +kernel⟩
  · have key : ∀ x : Host.Outcome State Fault Refusal, (match x with
        | .next t => decide (t.mgmt.phase = .running)
        | _ => false) = true → ∃ t, x = .next t ∧ t.mgmt.phase = .running := by
      intro x h
      cases x with
      | next t => exact ⟨t, rfl, of_decide_eq_true h⟩
      | _ => cases h
    exact key _ (by decide +kernel)
  · intro n hn
    exact ⟨{ lab with mgmt := { lab.mgmt with spdmStage := n } }, (by show lab.mgmt.phase ≠ .off; decide +kernel), rfl⟩


/-! Homes and translation. -/

/-- R172's worked examples: with all memory dies healthy, and with socket 10 fenced. -/
theorem test_home :
    ({ State.reset with health := 0xFF00 }).homeOf 0x403000 none = (13, 1) ∧
    (({ State.reset with health := 0xFB00 }).homeOf 0x403000 none).1 = 14 ∧
    (({ State.reset with health := 0xFB00 }).homeOf 0x403000 (some 2)).1 = 14 := by decide +kernel

/-- The lab with four contiguous 1 GiB leaves, the second with the frame given. -/
def grouped (frame : Nat) : State :=
  (((lab.putNat 0x22000 8 0x2CF).putNat 0x22008 8 (frame * 2 ^ 30 + 0x2CF)).putNat 0x22010 8 0x800002CF).putNat 0x22018 8 0xC00002CF

/-- R307: a consistent group translates each part by its own leaf; in an inconsistent one another leaf may be the base. -/
theorem test_contiguous :
    ({ grouped 1 with oracle := [1] }.translate { socket := 0 } 0 0x40001234 .load).2.toOption = some 0x40001234 ∧
    ({ grouped 2 with oracle := [0] }.translate { socket := 0 } 0 0x40001234 .load).2.toOption = some 0x80001234 ∧
    ({ grouped 2 with oracle := [1] }.translate { socket := 0 } 0 0x40001234 .load).2.toOption = some 0x40001234 := by decide +kernel

/-- The lab after a load, a change of the leaf's PIN, and another load; `flush` first flushes the granule. -/
def repinned (flush : Bool) : State :=
  let s := (lab.translate { socket := 0 } 0 0x50000 .load).1
  let s := if flush then s.flushLines 0x50000 4096 else s
  ((s.putNat 0x22000 8 0x1000000000000CF).translate { socket := 0 } 0 0x50000 .load).1

/-- R369: the granule's bytes are free values after a change of PIN without a flush, and kept after one with it. -/
theorem test_repinned : (repinned false).fresh = lab.fresh + 1 ∧ (repinned true).fresh = lab.fresh := by
  decide +kernel

/-- R306, R310: a leaf or pointer changed without TLBI may still be used, and so may an address-space entry. -/
theorem test_stale :
    (∀ c ∈ [1, 2], ({ (lab.translate { socket := 0 } 0 0x50000 .load).1.putNat 0x21000 8 0 with oracle := [c] }.translate { socket := 0 } 0 0x60000 .load).2.toOption =
      some 0x60000) ∧
    ∀ c ∈ [0, 1], ({ (lab.translate { socket := 0 } 0 0x50000 .load).1.putNat 0x10000 8 0 with oracle := [c] }.translate { socket := 0 } 0 0x60000 .load).2.toOption =
      if c = 0 then none else some 0x60000 := by
  decide +kernel

end Sys2Proof.Machine
end

/-! Storage: what a store and a register write read back (R5, R41, R344). -/
namespace Sys2Proof.Machine
open Sys2Proof

@[simp] theorem length_leBytes (n v : Nat) : (leBytes n v).length = n := by simp [leBytes]

theorem leBytes_succ (n v : Nat) : leBytes (n + 1) v = BitVec.ofNat 8 v :: leBytes n (v / 256) := by
  have shifted : ∀ i, v / 256 ^ (i + 1) = v / 256 / 256 ^ i := fun i => by
    rw [Nat.pow_succ', Nat.div_div_eq_div_mul]
  simp [leBytes, List.range_succ_eq_map, Function.comp_def, shifted]

theorem leNat_leBytes (n v : Nat) : leNat (leBytes n v) = v % 256 ^ n := by
  induction n generalizing v with
  | zero => simp [leBytes, leNat, Nat.mod_one]
  | succ n ih => rw [leBytes_succ, leNat, ih, Nat.pow_succ', Nat.mod_mul, BitVec.toNat_ofNat]

theorem putNat_mem (s : State) (pa n v : Nat) :
    (s.putNat pa n v).mem = if (s.physBad pa).isSome then s.mem else memPutBytes s.mem pa (leBytes n v) :=
  putMem_mem s pa _ _ _ _

theorem memNat_putNat (s : State) (pa n v : Nat) (h : s.physBad pa = none) :
    memNat (s.putNat pa n v) pa n = v % 256 ^ n := by
  have bytes := memBytes_memPutBytes (leBytes n v) s.mem pa
  rw [length_leBytes] at bytes
  rw [memNat, putNat_mem, h, Option.isSome_none, if_neg Bool.false_ne_true, bytes, leNat_leBytes]

theorem putNat_of_physBad (s : State) (pa n v : Nat) (h : s.physBad pa ≠ none) : s.putNat pa n v = s :=
  if_pos (Option.isSome_iff_ne_none.2 h)

theorem memGet_putNat_outside (s : State) (pa n v a : Nat) (h : a < pa ∨ pa + n ≤ a) :
    memGet (s.putNat pa n v).mem a = memGet s.mem a := by
  rw [putNat_mem]
  split
  · rfl
  · exact memGet_memPutBytes_outside _ _ _ _ (by rwa [length_leBytes])

theorem Lane.setG_gAt (x : Lane) (i j : Nat) (v : Word) : (x.setG i v).gAt j = if j = i then v else x.gAt j :=
  tget_tput 0 x.g i j v

theorem Group.setK_kAt (g : Group) (i j : Nat) (v : Word) : (g.setK i v).kAt j = if j = i then v else g.kAt j :=
  tget_tput 0 g.k i j v

theorem Group.setA_aAt (g : Group) (i j : Nat) (v : DWord) : (g.setA i v).aAt j = if j = i then v else g.aAt j :=
  tget_tput 0 g.a i j v

theorem getLsbD_one_shiftLeft {i j : Nat} (hj : j < 7) : ((1 : BitVec 7) <<< i).getLsbD j = decide (j = i) := by
  rcases Nat.lt_trichotomy j i with h | rfl | h
  · simp [h, h.ne]
  · simp [hj]
  · simp [hj, Nat.not_lt.2 h.le, h.ne', Nat.sub_ne_zero_of_lt h]

/-- A bit of the predicate file after one of its bits is written. -/
theorem getLsbD_bit_written (p : BitVec 7) (i : Nat) {j : Nat} (b : Bool) (hj : j < 7) :
    ((p &&& ~~~((1 : BitVec 7) <<< i)) ||| (if b then (1 : BitVec 7) <<< i else 0)).getLsbD j =
      if j = i then b else p.getLsbD j := by
  rw [BitVec.getLsbD_or, BitVec.getLsbD_and, BitVec.getLsbD_not, getLsbD_one_shiftLeft hj]
  cases b with
  | true => by_cases h : j = i <;> simp only [if_true, getLsbD_one_shiftLeft hj] <;> simp [h, hj]
  | false => by_cases h : j = i <;> simp [h, hj]

/-- P7 reads 1 whatever is written; P0 to P6 read what was last written to them. -/
theorem Lane.setPred_pred (x : Lane) (i j : Nat) (b : Bool) (hj : j < 8) :
    (x.setPred i b).pred j = if j = 7 then true else if j = i then b else x.pred j := by
  by_cases h7 : j = 7
  · simp [Lane.pred, h7]
  · have reads (y : Lane) : y.pred j = y.p.getLsbD j := by rw [Lane.pred, beq_eq_false_iff_ne.2 h7, Bool.false_or]
    rw [if_neg h7, reads, reads, Lane.setPred]
    by_cases hi : i < 7
    · rw [if_pos hi, getLsbD_bit_written _ _ _ (by omega)]
    · rw [if_neg hi, if_neg (by omega)]

/-- Settles O8: a number is written as the little-endian bytes that read back as it, and each register file is a
table, whose entry at one key a write to another leaves. -/
theorem storageReadAfterWrite : Obligations.StorageReadAfterWrite := by
  refine ⟨fun s pa n v => ⟨memNat_putNat s pa n v, putNat_of_physBad s pa n v, memGet_putNat_outside s pa n v,
    putNat_wf s pa n v⟩, Lane.setG_gAt, Group.setK_kAt, Group.setA_aAt, Lane.setPred_pred⟩

end Sys2Proof.Machine

/-! Instruction fetch: what the bytes of a line, the words of an instruction and its length code are (R5, R101, R102). -/
namespace Sys2Proof.Machine
open Sys2Proof

theorem take_drop_memBytes (m : List Host.Cell) (pa : Nat) {n off k : Nat} (h : off + k ≤ n) :
    ((memBytes m pa n).drop off).take k = memBytes m (pa + off) k := by
  apply List.ext_getElem
  · simp only [memBytes, List.length_take, List.length_drop, List.length_map, List.length_range]
    omega
  · intro i h1 h2
    simp [memBytes, Nat.add_assoc]

/-- A word of a line of memory is the word that memory holds at that place of it. -/
theorem wordAt_line (s : State) {pa : Nat} (h : pa % 128 + 4 ≤ 128) :
    wordAt (memBytes s.mem (128 * (pa / 128)) 128) (pa % 128) = BitVec.ofNat 32 (memNat s pa 4) := by
  rw [wordAt, fieldOf, take_drop_memBytes _ _ h, Nat.div_add_mod, memNat]

theorem memNat_succ (s : State) (pa n : Nat) :
    memNat s pa (n + 1) = (memGet s.mem pa).toNat + 256 * memNat s (pa + 1) n := by
  simp [memNat, memBytes, leNat, List.range_succ_eq_map, Function.comp_def, Nat.add_assoc, Nat.add_comm 1]

/-- The length code of a word stands in its first byte. -/
theorem lenCode_word (s : State) (pa : Nat) :
    bitsAt (BitVec.ofNat 32 (memNat s pa 4)) 0 2 = memNat s pa 1 % 4 := by
  rw [bitsAt, memNat_succ s pa 3, memNat_succ s pa 0, BitVec.toNat_ofNat]
  simp only [Nat.shiftRight_zero]
  omega

theorem lenBytes_mem (c : Nat) : lenBytes c = 4 ∨ lenBytes c = 12 ∨ lenBytes c = 20 := by
  unfold lenBytes
  split <;> simp

theorem physLoad_memory {s : State} {pa : Nat} (n : Nat) (h0 : pa / 2 ^ 48 = 0) (h : pa < s.capacity) :
    s.physLoad pa n = (s, .ok (memBytes s.mem pa n)) := by
  have good : s.physBad pa = none := by
    rw [State.physBad, h0]
    simp [h]
  rw [State.physLoad, good, h0]
  simp

/-- A line of code that no core has cached and on which no store is on record is fetched as memory holds it. -/
theorem codeLine_uncached {s : State} {core line : Nat} (launch : Nat) (hpast : s.past = [])
    (h0 : 128 * line / 2 ^ 48 = 0) (hcap : 128 * line < s.capacity) (hcode : ∀ l ∈ (s.coreAt core).code, l.line ≠ line) :
    s.codeLine core line launch =
      (s.setCore core { s.coreAt core with
          code := ⟨line, memBytes s.mem (128 * line) 128⟩ :: (s.coreAt core).code.filter fun l => l.line != line },
        memBytes s.mem (128 * line) 128) := by
  have cached : (s.coreAt core).code.filter (fun l => l.line == line) = [] := by simpa using hcode
  have unseen : s.unseenCode core line launch = [] := by simp [State.unseenCode, hpast]
  simp [State.codeLine, physLoad_memory 128 h0 hcap, cached, unseen, List.distinct]

/-- A loop that at every element only appends a word. -/
theorem foldl_appends {σ μ ε κ ω : Type} {f : σ × μ × ε × List ω → κ → σ × μ × ε × List ω} {g : κ → ω} {l : List κ}
    {s : σ} {m : μ} {e : ε} (ws : List ω) (h : ∀ ws, ∀ k ∈ l, f (s, m, e, ws) k = (s, m, e, ws ++ [g k])) :
    l.foldl f (s, m, e, ws) = (s, m, e, ws ++ l.map g) := by
  induction l generalizing ws with
  | nil => simp
  | cons k l ih =>
    rw [List.foldl_cons, h ws k List.mem_cons_self, ih _ fun ws j hj => h ws j (List.mem_cons_of_mem _ hj)]
    simp

/-- The words of an instruction that lies in one line, which a fetch reads as memory holds it. -/
theorem fetchWords_one_line {s u v : State} {memo : Memo} {r : FibreRef} {f : Fibre} {pa : Nat}
    (hpage : s.pageAt [] (s.agentOf r.gid) (s.spaceOf r.gid) f.pc .fetch = (u, memo, .ok pa))
    (hline : u.codeLine (s.coreOf r.gid) (pa / 128) (((s.launchOf r.gid).map (·.uid)).getD 0) =
      (v, memBytes u.mem (128 * (pa / 128)) 128))
    (hfits : pa % 128 + lenBytes (memNat u pa 1 % 4) ≤ 128)
    (hpc : f.pc.toNat % 4096 + lenBytes (memNat u pa 1 % 4) ≤ 4096)
    (htop : f.pc.toNat + lenBytes (memNat u pa 1 % 4) < 2 ^ 57) :
    s.fetchWords r f = .words v ((List.range (lenBytes (memNat u pa 1 % 4) / 4)).map fun k =>
      BitVec.ofNat 32 (memNat u (pa + 4 * k) 4)) := by
  have length := lenBytes_mem (memNat u pa 1 % 4)
  have first := wordAt_line u (pa := pa) (by omega)
  unfold State.fetchWords
  simp only [hpage, hline, first, lenCode_word]
  generalize lenBytes (memNat u pa 1 % 4) = n at *
  rw [foldl_appends (g := fun k => BitVec.ofNat 32 (memNat u (pa + 4 * k) 4))]
  · obtain ⟨k, hk⟩ : ∃ k, n / 4 = k + 1 := ⟨n / 4 - 1, by omega⟩
    simp [hk, List.range_succ_eq_map]
  · intro ws k hk
    have below : 4 * k + 4 ≤ n := by
      have := List.mem_range.1 (List.mem_of_mem_drop hk)
      omega
    have samePage : (f.pc + BitVec.ofNat 64 (4 * k)).toNat / 4096 = f.pc.toNat / 4096 := by
      rw [BitVec.toNat_add, BitVec.toNat_ofNat]
      omega
    have sameLine : pa / 128 = (pa + 4 * k) / 128 := by omega
    simp only [samePage, beq_self_eq_true, if_true]
    rw [List.find?_cons_of_pos (by simp [sameLine]), sameLine]
    simp only [wordAt_line u (pa := pa + 4 * k) (by omega)]

/-- Settles O7: the line is fetched as memory holds it, and each word of the instruction is a word of that line. -/
theorem fetchReadsMemory : Obligations.FetchReadsMemory := by
  intro s u memo r f pa hpage hpast h0 hcap hcode n hfits hpc _ htop
  have hline := codeLine_uncached (((s.launchOf r.gid).map (·.uid)).getD 0) hpast (by omega) (by omega) hcode
  exact ⟨_, fetchWords_one_line hpage hline hfits hpc htop, rfl, rfl, rfl⟩

end Sys2Proof.Machine

/-! Every step keeps memory canonical. For each operation of the model one lemma says that it comes from a state that
meets the invariant to one: `State.Inv.f` for an operation `State.f` on states, `f_keeps` for one of an instruction
under way, `f_inv` for every other. Memory changes by stores of bytes, which keep its canonical form, and at a boot it
is empty (R5, R344). -/
namespace Sys2Proof.Machine
open Sys2Proof

/-- The next state of an outcome, if there is one, meets the invariant. -/
def NextInv (o : Host.Outcome State Fault Refusal) : Prop := ∀ t, o = .next t → t.Inv

/-- What an instruction under way has come to: a value of which `Q` holds in a state that meets the invariant, or an
end in one. -/
def Ends {α : Type} (Q : α → Prop) : Except State (α × State) → Prop
  | .ok p => Q p.1 ∧ p.2.Inv
  | .error t => t.Inv

/-- From every state that meets the invariant, an instruction under way comes to such a value or end. -/
def Keeps {α : Type} (x : Ex α) (Q : α → Prop := fun _ => True) : Prop := ∀ s : State, s.Inv → Ends Q (x s)

section
variable {s : State}

theorem State.Inv.reset : State.reset.Inv := reset_mem_wf

theorem State.Inv.of_mem {t : State} (h : s.Inv) (e : t.mem = s.mem) : t.Inv := by
  rw [State.Inv, e]
  exact h

/-- Of a pair with a state that meets the invariant, taken apart. -/
theorem State.Inv.fst {α : Type} {p : State × α} {t : State} {x : α} (h : p.1.Inv) (e : p = (t, x)) : t.Inv := by
  rwa [e] at h

theorem State.Inv.snd {α : Type} {p : α × State} {t : State} {x : α} (h : p.2.Inv) (e : p = (x, t)) : t.Inv := by
  rwa [e] at h

theorem State.Inv.ite {p : Prop} [Decidable p] {t u : State} (h : t.Inv) (k : u.Inv) : (if p then t else u).Inv := by
  split
  · exact h
  · exact k

theorem State.Inv.foldl {α : Type} {l : List α} {f : State → α → State} (h : s.Inv)
    (hf : ∀ t x, t.Inv → (f t x).Inv) : (l.foldl f s).Inv :=
  List.foldlRecOn l f h fun q hq x _ => hf q x hq

theorem foldl_fst_inv {α β : Type} {l : List α} {f : State × β → α → State × β} {p : State × β}
    (h : p.1.Inv) (hf : ∀ q x, q.1.Inv → (f q x).1.Inv) : (l.foldl f p).1.Inv :=
  List.foldlRecOn l f h fun q hq x _ => hf q x hq

theorem foldl_st_inv {α : Type} {l : List α} {f : Gather → α → Gather} {g : Gather} (h : g.st.Inv)
    (hf : ∀ q x, q.st.Inv → (f q x).st.Inv) : (l.foldl f g).st.Inv :=
  List.foldlRecOn l f h fun q hq x _ => hf q x hq

theorem foldl_fst_st_inv {α β : Type} {l : List α} {f : Gather × β → α → Gather × β} {p : Gather × β}
    (h : p.1.st.Inv) (hf : ∀ q x, q.1.st.Inv → (f q x).1.st.Inv) : (l.foldl f p).1.st.Inv :=
  List.foldlRecOn l f h fun q hq x _ => hf q x hq

theorem NextInv.next (h : s.Inv) : NextInv (.next s) := by
  intro t e
  cases e
  exact h

theorem NextInv.refused (r : Refusal) : NextInv (.refused r) := fun _ e => by cases e

theorem NextInv.fault (r : Fault) : NextInv (.fault r) := fun _ e => by cases e

theorem NextInv.ite {p : Prop} [Decidable p] {x y : Host.Outcome State Fault Refusal} (h : NextInv x) (k : NextInv y) :
    NextInv (if p then x else y) := by
  split
  · exact h
  · exact k

end

section
variable {α β : Type} {Q : α → Prop} {R : β → Prop} {x : Ex α} {f : α → Ex β}

theorem Ends.ok {a : α} {s : State} (ha : Q a) (h : s.Inv) : Ends Q (.ok (a, s)) := ⟨ha, h⟩

theorem Ends.error {s : State} (h : s.Inv) : Ends Q (.error s) := h

theorem Ends.run {s : State} (k : Keeps x Q) (h : s.Inv) : Ends Q (x s) := k s h

theorem Ends.runFrom {s : State} (k : Keeps x Q) (h : s.Inv) : Ends Q (StateT.run x s) := k s h

theorem Ends.ended {y : Except State (Unit × State)} {P : Unit → Prop} (h : Ends P y) : (ended y).Inv := by
  cases y with
  | ok p => exact h.2
  | error t => exact h

theorem Keeps.pure {a : α} (h : Q a) : Keeps (pure a) Q := fun _ hs => ⟨h, hs⟩

theorem Keeps.value {a : α} : Keeps (Pure.pure a : Ex α) := .pure trivial

theorem Keeps.gathered {g : Gather} (h : g.st.Inv) : Keeps (Pure.pure g : Ex Gather) fun g => g.st.Inv := .pure h

theorem Keeps.bind (h : Keeps x Q) (k : ∀ a, Q a → Keeps (f a) R) : Keeps (x >>= f) R := by
  intro s hs
  have hx := h s hs
  show Ends R (Except.bind (x s) fun p => f p.1 p.2)
  cases e : x s with
  | error t =>
    rw [e] at hx
    exact hx
  | ok p =>
    rw [e] at hx
    exact k p.1 hx.1 p.2 hx.2

/-- A step of whose value nothing is said. -/
theorem Keeps.andThen (h : Keeps x) (k : ∀ a, Keeps (f a) R) : Keeps (x >>= f) R := .bind h fun a _ => k a

/-- What always ends the instruction has no value, so nothing comes after it. -/
theorem Keeps.ends (h : Keeps x fun _ => False) : Keeps (x >>= f) R := .bind h fun _ k => k.elim

theorem Keeps.modify {g : State → State} (h : ∀ s, s.Inv → (g s).Inv) : Keeps (modify g : Ex Unit) :=
  fun s hs => ⟨trivial, h s hs⟩

theorem Keeps.set {t : State} (h : t.Inv) : Keeps (set t : Ex Unit) := fun _ _ => ⟨trivial, h⟩

theorem Keeps.get : Keeps (get : Ex State) State.Inv := fun _ hs => ⟨hs, hs⟩

theorem Keeps.modifyGet {g : State → α × State} (h : ∀ s, s.Inv → (g s).2.Inv) : Keeps (modifyGet g : Ex α) :=
  fun s hs => ⟨trivial, h s hs⟩

theorem Keeps.forM {γ : Type} {l : List γ} {g : γ → Ex Unit} (h : ∀ a, Keeps (g a)) : Keeps (l.forM g) := by
  induction l with
  | nil => exact .value
  | cons a r ih => exact .bind (h a) fun _ _ => ih

theorem Keeps.mapM {γ : Type} {l : List γ} {g : γ → Ex α} (h : ∀ a, Keeps (g a)) : Keeps (l.mapM g) := by
  induction l with
  | nil => exact .value
  | cons a r ih =>
    rw [List.mapM_cons]
    exact .bind (h a) fun _ _ => .bind ih fun _ _ => .value

theorem Keeps.foldlM {γ : Type} {l : List γ} {g : α → γ → Ex α} {b : α} (h : ∀ b a, Keeps (g b a)) :
    Keeps (l.foldlM g b) := by
  induction l generalizing b with
  | nil => exact .value
  | cons a r ih => exact .bind (h b a) fun _ _ => ih

theorem Keeps.ite {p : Prop} [Decidable p] {y : Ex α} (h : Keeps x Q) (k : Keeps y Q) :
    Keeps (if p then x else y) Q := by
  split
  · exact h
  · exact k

/-- A step that is made under a condition, and what follows it in either case. -/
theorem Keeps.when {p : Prop} [Decidable p] {x : Ex Unit} {f : Unit → Ex β} (h : Keeps x) (k : ∀ a, Keeps (f a) R) :
    Keeps (if p then x >>= f else f ()) R := .ite (.andThen h k) (k ())

/-- Two ways to a value that is then used alike. -/
theorem Keeps.either {p : Prop} [Decidable p] {y : Ex α} (h : Keeps x) (h' : Keeps y) (k : ∀ a, Keeps (f a) R) :
    Keeps (if p then x >>= f else y >>= f) R := .ite (.andThen h k) (.andThen h' k)

/-- An instruction that keeps the invariant in its context gives a next state that meets it. -/
theorem issue_next_inv {m : Major} {o : Op} {s : State} {k : Ctx → Ex Unit} (h : s.Inv)
    (hk : ∀ c, c.s0.Inv → Keeps (k c)) : NextInv (issue m o s k) := by
  cases e : ctxOf m o s with
  | none =>
    rw [issue, e]
    exact .fault _
  | some c =>
    obtain ⟨-, -, -, -, -, -, hs0, -⟩ := ctxOf_facts e
    rw [issue_next m o s k e]
    have hc : c.s0.Inv := hs0 ▸ h
    have h0 : ({ s with cur := none } : State).Inv := h.of_mem rfl
    exact .next (.ite h0 (Ends.run (hk c hc) h0).ended)

end

/-! The forms in which the model gives a state back: each meets the invariant when its state does. -/

/-- The state that an optional result holds meets the invariant. -/
def SomeInv (x : Option State) : Prop := ∀ t, x = some t → t.Inv

/-- The state that a fetch leaves meets the invariant. -/
def Fetched.Inv : Fetched → Prop
  | .words s _ => s.Inv
  | .stop s => s.Inv

/-- The state that an issue starts from, or that it stops in, meets the invariant. -/
def Issued.Inv : Issued → Prop
  | .run s _ => s.Inv
  | .stop s => s.Inv
  | .none => True

/-- The state that a debug or system instruction leaves in a lane meets the invariant. -/
def Done.Inv : Done → Prop
  | .ok s _ _ _ => s.Inv
  | .late s _ _ => s.Inv
  | .illegal _ => True
  | .bad _ _ _ _ => True

/-- The state that a window's instruction leaves meets the invariant. -/
def WindowEnd.Inv : WindowEnd → Prop
  | .done s _ _ => s.Inv
  | .stop _ _ => True

/-- The state that a lane of STLOAD leaves meets the invariant. -/
def StLane.Inv : StLane → Prop
  | .done s _ => s.Inv
  | .late s _ _ => s.Inv
  | .full => True
  | .bad s _ _ _ _ => s.Inv

section
variable {s : State}

theorem SomeInv.nothing : SomeInv none := fun _ e => by cases e

theorem SomeInv.intro (h : s.Inv) : SomeInv (some s) := fun _ e => by
  cases e
  exact h

theorem SomeInv.map {α : Type} {x : Option α} {f : α → State} (h : ∀ a, (f a).Inv) : SomeInv (x.map f) := by
  cases x with
  | none => exact .nothing
  | some a => exact .intro (h a)

theorem SomeInv.bind {α : Type} {x : Option α} {f : α → Option State} (h : ∀ a, SomeInv (f a)) :
    SomeInv (x.bind f) := by
  cases x with
  | none => exact .nothing
  | some a => exact h a

theorem SomeInv.of_some {x : Option State} (h : SomeInv x) (e : x = some s) : s.Inv := h s e

theorem NextInv.of_next {x : Host.Outcome State Fault Refusal} (h : NextInv x) (e : x = .next s) : s.Inv := h s e

theorem Fetched.Inv.words {ws} (h : s.Inv) : (Fetched.words s ws).Inv := h

theorem Fetched.Inv.stop (h : s.Inv) : (Fetched.stop s).Inv := h

theorem Fetched.Inv.of_words {x : Fetched} {ws} (h : x.Inv) (e : x = .words s ws) : s.Inv := by rwa [e] at h

theorem Fetched.Inv.of_stop {x : Fetched} (h : x.Inv) (e : x = .stop s) : s.Inv := by rwa [e] at h

theorem Issued.Inv.run {i} (h : s.Inv) : (Issued.run s i).Inv := h

theorem Issued.Inv.stop (h : s.Inv) : (Issued.stop s).Inv := h

theorem Issued.Inv.nothing : Issued.none.Inv := trivial

theorem Issued.Inv.of_run {x : Issued} {i} (h : x.Inv) (e : x = .run s i) : s.Inv := by rwa [e] at h

theorem Issued.Inv.of_stop {x : Issued} (h : x.Inv) (e : x = .stop s) : s.Inv := by rwa [e] at h

theorem Done.Inv.ok {d p memo} (h : s.Inv) : (Done.ok s d p memo).Inv := h

theorem Done.Inv.late {pages memo} (h : s.Inv) : (Done.late s pages memo).Inv := h

theorem Done.Inv.illegal {n} : (Done.illegal n).Inv := trivial

theorem Done.Inv.bad {k a b d} : (Done.bad k a b d).Inv := trivial

theorem Done.Inv.of_ok {x : Done} {d p memo} (h : x.Inv) (e : x = .ok s d p memo) : s.Inv := by rwa [e] at h

theorem Done.Inv.of_late {x : Done} {pages memo} (h : x.Inv) (e : x = .late s pages memo) : s.Inv := by rwa [e] at h

theorem WindowEnd.Inv.stop {n k} : (WindowEnd.stop n k).Inv := trivial

theorem StLane.Inv.done {memo} (h : s.Inv) : (StLane.done s memo).Inv := h

theorem StLane.Inv.late {memo l} (h : s.Inv) : (StLane.late s memo l).Inv := h

theorem StLane.Inv.full : StLane.full.Inv := trivial

theorem StLane.Inv.bad {k a b d} (h : s.Inv) : (StLane.bad s k a b d).Inv := h

theorem StLane.Inv.of_done {x : StLane} {memo} (h : x.Inv) (e : x = .done s memo) : s.Inv := by rwa [e] at h

theorem StLane.Inv.of_late {x : StLane} {memo l} (h : x.Inv) (e : x = .late s memo l) : s.Inv := by rwa [e] at h

theorem StLane.Inv.of_bad {x : StLane} {k a b d} (h : x.Inv) (e : x = .bad s k a b d) : s.Inv := by rwa [e] at h

theorem Ends.of_error {α : Type} {Q : α → Prop} {x : Except State (α × State)} (h : Ends Q x) (e : x = .error s) :
    s.Inv := by rwa [e] at h

end

section
variable {s : State} {c : Ctx} {o : Op}

/-! The record of the memory order. -/

theorem State.Inv.note {e} (h : s.Inv) : (s.note e).Inv := h.of_mem (State.note_mem ..)

theorem State.Inv.edge {scope pubs src dst} (h : s.Inv) : (s.edge scope pubs src dst).Inv :=
  h.of_mem (State.edge_mem ..)

theorem State.Inv.fence {a scope} (h : s.Inv) : (s.fence a scope).Inv := h.of_mem (State.fence_mem ..)
theorem State.Inv.forked {scope pubs src op} (h : s.Inv) : (s.forked scope pubs src op).2.Inv := h.edge
theorem State.Inv.registerStore {a} (h : s.Inv) : (s.registerStore a).Inv := h.note

/-! Physical memory and translation. -/

theorem State.Inv.setDie {socket d} (h : s.Inv) : (s.setDie socket d).Inv := h.of_mem (State.setDie_mem ..)

theorem State.Inv.setMem {pa bs a scope reads} (h : s.Inv) : (s.setMem pa bs a scope reads).Inv :=
  memPutBytes_wf _ _ _ h

theorem State.Inv.putMem {pa bs a scope reads} (h : s.Inv) : (s.putMem pa bs a scope reads).Inv :=
  (putMem_translated ..).form h

theorem State.Inv.putNat {pa n v} (h : s.Inv) : (s.putNat pa n v).Inv := h.putMem
theorem State.Inv.choose {n} (h : s.Inv) : (s.choose n).2.Inv := (choose_translated ..).form h
theorem State.Inv.free (h : s.Inv) : s.free.2.Inv := h.of_mem rfl
theorem State.Inv.setBay {k b} (h : s.Inv) : (s.setBay k b).Inv := h.of_mem (State.setBay_mem ..)
theorem State.Inv.setCore {k c} (h : s.Inv) : (s.setCore k c).Inv := h.of_mem (State.setCore_mem ..)

theorem State.Inv.putReg {socket i v} (h : s.Inv) : (s.putReg socket i v).Inv := by
  unfold State.putReg
  split
  · exact h.of_mem rfl
  · exact h.of_mem rfl
  · exact h.setDie
  · exact h.setDie
  · exact h.setDie
  · exact h.setDie
  · exact h

theorem State.Inv.putPhys {pa bs a scope reads} (h : s.Inv) : (s.putPhys pa bs a scope reads).Inv :=
  .ite (h.of_mem rfl) h.putMem

theorem State.Inv.flushLines {pa n} (h : s.Inv) : (s.flushLines pa n).Inv := h.of_mem rfl

theorem State.Inv.translate {a space va acc} (h : s.Inv) : (s.translate a space va acc).1.Inv :=
  (translate_translated ..).form h

theorem State.Inv.pageAt {memo a space va acc} (h : s.Inv) : (s.pageAt memo a space va acc).1.Inv :=
  (pageAt_translated ..).form h

theorem State.Inv.physLoad {pa n} (h : s.Inv) : (s.physLoad pa n).1.Inv := by
  unfold State.physLoad
  split
  · exact h
  · split
    · exact h
    · split
      · exact h.of_mem rfl
      · exact h

theorem State.Inv.physStore {pa bs a scope reads} (h : s.Inv) : (s.physStore pa bs a scope reads).1.Inv := by
  unfold State.physStore
  split
  · exact h
  · exact h.putPhys

theorem State.Inv.addPeg {pa v a} (h : s.Inv) : (s.addPeg pa v a).Inv := h.putPhys

/-! Records of domains and launches. -/

theorem State.Inv.putRecord {q rec} (h : s.Inv) : (s.putRecord q rec).Inv := by
  unfold State.putRecord
  exact h.putMem.putNat.ite h.putMem.putNat.addPeg

theorem State.Inv.deliver {d recs} (h : s.Inv) : (s.deliver d recs).Inv :=
  ((h.foldl fun _ _ h' => h'.putRecord).ite h.putNat).ite (h.putNat.ite h)

/-! Barriers, traps, faults and the other shared operations over groups, weaves, fibres and lanes. -/

theorem State.Inv.setGroup {g} (h : s.Inv) : (s.setGroup g).Inv := h.of_mem (State.setGroup_mem ..)
theorem State.Inv.onGroup {gid f} (h : s.Inv) : (s.onGroup gid f).Inv := h.of_mem (State.onGroup_mem ..)
theorem State.Inv.onWeave {gid w f} (h : s.Inv) : (s.onWeave gid w f).Inv := h.of_mem (State.onWeave_mem ..)
theorem State.Inv.onLane {gid w l f} (h : s.Inv) : (s.onLane gid w l f).Inv := h.of_mem (State.onLane_mem ..)
theorem State.Inv.onFibre {r f} (h : s.Inv) : (s.onFibre r f).Inv := h.of_mem (State.onFibre_mem ..)
theorem State.Inv.onBent {uid f} (h : s.Inv) : (s.onBent uid f).Inv := h.of_mem (State.onBent_mem ..)
theorem State.Inv.onBay {k f} (h : s.Inv) : (s.onBay k f).Inv := h.of_mem (State.onBay_mem ..)

theorem State.Inv.countCore {core source n} (h : s.Inv) : (s.countCore core source n).Inv :=
  h.of_mem (State.countCore_mem ..)

theorem State.Inv.countDie {socket source n} (h : s.Inv) : (s.countDie socket source n).Inv :=
  h.of_mem (State.countDie_mem ..)

theorem State.Inv.reweave {gid w f} (h : s.Inv) : (s.reweave gid w f).Inv := h.of_mem (State.reweave_mem ..)

theorem State.Inv.pegAt {memo a gid n acc} (h : s.Inv) : (s.pegAt memo a gid n acc).1.Inv := by
  unfold State.pegAt
  split
  · exact h
  · exact h.pageAt

theorem State.Inv.dropEntries {gids copies} (h : s.Inv) : (s.dropEntries gids copies).Inv := h.of_mem rfl

theorem State.Inv.syncHeld {socket} (h : s.Inv) : (s.syncHeld socket).Inv :=
  (h.ite h.putNat).ite (h.ite h.putNat).putNat

theorem State.Inv.advanceDropped {c} (h : s.Inv) : (s.advanceDropped c).Inv := by
  unfold State.advanceDropped
  split
  · exact h
  · split
    · rename_i e
      exact (h.pegAt.fst e).addPeg
    · rename_i e
      exact (h.pegAt.fst e).deliver

theorem State.Inv.stopBent {uid} (h : s.Inv) : (s.stopBent uid).Inv := by
  unfold State.stopBent
  split
  · exact h
  · exact ((h.foldl fun _ _ h' => h'.advanceDropped).ite
      (h.foldl fun _ _ h' => h'.advanceDropped).onBay).dropEntries.syncHeld.onBent

theorem State.Inv.finishBent {uid} (h : s.Inv) : (s.finishBent uid).Inv := by
  unfold State.finishBent
  split
  · exact h
  · split
    · exact h.onBent
    · exact h.of_mem rfl

theorem State.Inv.closeBent {b} (h : s.Inv) : (s.closeBent b).Inv := h.finishBent.ite h.stopBent
theorem State.Inv.reportEnd {b kind w1 w2 w3} (h : s.Inv) : (s.reportEnd b kind w1 w2 w3).Inv := h.deliver

theorem State.Inv.endWithDomain {number gid b} (h : s.Inv) : (s.endWithDomain number gid b).Inv :=
  h.reportEnd.closeBent

theorem State.Inv.endDomain {uid gid d} (h : s.Inv) : (s.endDomain uid gid d).Inv :=
  h.ite (h.foldl fun _ _ h' => h'.endWithDomain)

theorem State.Inv.endBent {uid gid} (h : s.Inv) : (s.endBent uid gid).Inv := by
  unfold State.endBent
  split
  · exact h
  · exact h.ite h.stopBent.endDomain

theorem State.Inv.takeTrap {r mask cls cause info conts} (h : s.Inv) : (s.takeTrap r mask cls cause info conts).Inv := by
  unfold State.takeTrap
  split
  · exact h
  · exact h.deliver.onFibre.ite h.deliver.endBent

theorem State.Inv.eretFibre {r} (h : s.Inv) : (s.eretFibre r).Inv := h.onFibre

theorem State.Inv.takeFault {r pc mask kind w1 w2 w3} (h : s.Inv) : (s.takeFault r pc mask kind w1 w2 w3).Inv :=
  h.deliver.endBent

theorem State.Inv.onEngines {gid f} (h : s.Inv) : (s.onEngines gid f).Inv := by
  unfold State.onEngines
  split
  · exact h
  · exact h.onBent.ite h.onBay

theorem State.Inv.onWaits {who f} (h : s.Inv) : (s.onWaits who f).Inv := by
  unfold State.onWaits
  split
  · exact h.onGroup
  · exact h.onEngines
  · exact h.onEngines
  · exact h.onEngines

theorem State.Inv.syncTable {gid} (h : s.Inv) : (s.syncTable gid).Inv := by
  unfold State.syncTable
  split
  · exact h
  · exact h.putMem

theorem State.Inv.postEntry {socket e} (h : s.Inv) : (s.postEntry socket e).Inv :=
  ((h.putMem.ite h.putMem.putNat).putNat.ite
    (h.putMem.ite h.putMem.putNat).putNat.addPeg).setDie.countDie.onWaits.syncTable

theorem State.Inv.postHeld {socket n} (h : s.Inv) : (s.postHeld socket n).Inv := by
  induction n generalizing s with
  | zero => exact h
  | succ k ih =>
    unfold State.postHeld
    dsimp only
    split
    · exact h
    · exact (ih h.setDie.postEntry).ite h

theorem State.Inv.takeEntry {socket e} (h : s.Inv) : (s.takeEntry socket e).Inv :=
  .syncTable (.syncHeld (.postHeld (.countCore (.setDie (h.of_mem rfl)))))

theorem State.Inv.reportStatus {r pc lanes} (h : s.Inv) : (s.reportStatus r pc lanes).Inv := by
  unfold State.reportStatus
  split
  · exact h
  · exact h.ite (h.deliver.foldl fun _ _ h' => h'.onLane)

theorem State.Inv.setBarrier {gid ofBent n x} (h : s.Inv) : (s.setBarrier gid ofBent n x).Inv := by
  unfold State.setBarrier
  split
  · split
    · exact h.onBent
    · exact h
  · exact h.onGroup

theorem State.Inv.barrierEdge {lanes scope} (h : s.Inv) : (s.barrierEdge lanes scope).Inv := h.edge

theorem State.Inv.completeBarrier {gid ofBent n} (h : s.Inv) : (s.completeBarrier gid ofBent n).Inv := by
  unfold State.completeBarrier
  refine .setBarrier ?_
  refine .foldl ?_ fun _ _ h1 => h1.onGroup
  refine .barrierEdge ?_
  refine h.foldl fun _ _ h1 => ?_
  split
  · exact h1
  · refine h1.foldl fun _ _ h2 => ?_
    split
    · exact h2
    · exact h2.reportStatus

theorem State.Inv.checkBarrier {gid ofBent n} (h : s.Inv) : (s.checkBarrier gid ofBent n).Inv :=
  h.completeBarrier.ite h

theorem State.Inv.checkBarriers {gid} (h : s.Inv) : (s.checkBarriers gid).Inv :=
  (h.foldl fun _ _ h' => h'.checkBarrier).foldl fun _ _ h' => h'.checkBarrier

theorem State.Inv.arrive {r ofBent n len} (h : s.Inv) : (s.arrive r ofBent n len).Inv := by
  unfold State.arrive
  split
  · exact h
  · exact h.onFibre.setBarrier.checkBarrier

theorem State.Inv.timeoutBarrier {gid ofBent n} (h : s.Inv) : (s.timeoutBarrier gid ofBent n).Inv :=
  h.setBarrier.foldl fun _ _ h' => h'.takeTrap

/-! Sinks, gauges and halts. -/

theorem State.Inv.clearTable {gid} (h : s.Inv) : (s.clearTable gid).Inv := by
  unfold State.clearTable
  split
  · exact h
  · exact h.putMem

theorem State.Inv.sinkStore {k body} (h : s.Inv) : (s.sinkStore k body).Inv := h.putMem.putNat

theorem State.Inv.sinkDrop {socket isTrace k} (h : s.Inv) : (s.sinkDrop socket isTrace k).Inv :=
  h.countDie.putNat.setDie

theorem State.Inv.sinkStatus {k status} (h : s.Inv) : (s.sinkStatus k status).Inv := h.putNat

theorem State.Inv.sinkLose {socket isTrace} (h : s.Inv) : (s.sinkLose socket isTrace).Inv := by
  unfold State.sinkLose
  split
  · exact h
  · exact h.ite h.setDie.sinkStatus

theorem State.Inv.loseMoved {socket isTrace} (h : s.Inv) : (s.loseMoved socket isTrace).Inv := h.sinkLose.ite h

theorem State.Inv.sinkPut {socket isTrace body} (h : s.Inv) : (s.sinkPut socket isTrace body).Inv := by
  unfold State.sinkPut
  dsimp only
  split
  · exact h.loseMoved.countDie
  · exact h.loseMoved.sinkDrop.ite
      ((h.loseMoved.sinkStore.ite h.loseMoved).setDie.sinkDrop.ite
        (h.loseMoved.sinkStore.ite h.loseMoved).setDie.sinkStore)

theorem State.Inv.gaugeHit {r pc i noHalt e} (h : s.Inv) : (s.gaugeHit r pc i noHalt e).1.Inv := by
  unfold State.gaugeHit
  dsimp only
  split
  · exact h.setCore.countCore.sinkPut
  · exact h.setCore.countCore

theorem State.Inv.gaugeEvents {r pc noHalt evs} (h : s.Inv) : (s.gaugeEvents r pc noHalt evs).1.Inv := by
  unfold State.gaugeEvents
  dsimp only
  split
  · exact h
  · exact foldl_fst_inv h fun _ _ h1 =>
      foldl_fst_inv h1 fun _ _ h2 => foldl_fst_inv h2 fun _ _ h3 => h3.gaugeHit

theorem State.Inv.pcEvents {r pc lanes} (h : s.Inv) : (s.pcEvents r pc lanes).Inv := h.gaugeEvents
theorem State.Inv.payEvents {r f} (h : s.Inv) : (s.payEvents r f).Inv := h.ite h.pcEvents.onFibre

theorem State.Inv.applyHalt {gid w q stop} (h : s.Inv) : (s.applyHalt gid w q stop).Inv := by
  unfold State.applyHalt
  split
  · exact h.reweave
  · exact h.onWeave
  · exact h.onGroup
  · split
    · exact h.foldl fun _ _ h' => h'.onGroup
    · exact h

theorem State.Inv.settleHalts {gid w} (h : s.Inv) : (s.settleHalts gid w).Inv := by
  unfold State.settleHalts
  split
  · exact h
  · exact h.ite (h.onWeave.foldl fun _ _ h' => h'.applyHalt).syncTable

theorem State.Inv.settleEarly {r fall} (h : s.Inv) : (s.settleEarly r fall).Inv := by
  unfold State.settleEarly
  split
  · exact h
  · exact h.ite (h.onFibre.foldl fun _ _ h' => h'.reweave.ite h'.applyHalt).syncTable

theorem State.Inv.takeLate {r late} (h : s.Inv) : (s.takeLate r late).Inv := by
  unfold State.takeLate
  split
  · exact h
  · exact (h.foldl fun _ _ h' => h'.takeEntry).syncTable

/-! Pieces of range tasks. -/

theorem State.Inv.newPiece {task first stop} (h : s.Inv) : (s.newPiece task first stop).Inv := by
  unfold State.newPiece
  split
  · exact h
  · exact .of_mem h.edge rfl

theorem State.Inv.sealAbort {r line} (h : s.Inv) : (s.sealAbort r line).Inv := by
  unfold State.sealAbort
  dsimp only
  split
  · exact h
  · split
    · exact h
    · split
      · split
        · exact h.takeFault
        · exact h
      · exact h.stopBent.newPiece.newPiece

/-! The issue of one instruction: its checks, its operands, its accesses, its end. -/

theorem Ctx.stall_keeps {α : Type} {Q : α → Prop} (hc : c.s0.Inv) : Keeps (c.stall : Ex α) Q :=
  fun _ _ => .error (.of_mem hc rfl)

theorem Ctx.trap_keeps {α : Type} {Q : α → Prop} {cls cause info} : Keeps (c.trap cls cause info : Ex α) Q :=
  fun _ h => .error h.pcEvents.takeTrap

theorem Ctx.illegal_keeps {α : Type} {Q : α → Prop} {cause} : Keeps (c.illegal cause : Ex α) Q := Ctx.trap_keeps

theorem Ctx.refuse_keeps {causes} : Keeps (c.refuse causes) := by
  unfold Ctx.refuse
  split
  · exact Ctx.illegal_keeps
  · exact .pure trivial

theorem Ctx.privileged_keeps : Keeps c.privileged := .ite (.pure trivial) Ctx.trap_keeps

theorem Ctx.fail_keeps {α : Type} {Q : α → Prop} {kind w1 w2 w3} : Keeps (c.fail kind w1 w2 w3 : Ex α) Q :=
  fun _ h => .error h.payEvents.takeFault

theorem Ctx.backing_keeps {more} : Keeps (c.backing more) :=
  .ite (.pure trivial)
    (.bind (.modifyGet fun _ h => h.choose) fun _ _ =>
      .ite (.bind (.modifyGet fun _ h' => h'.free) fun _ _ => Ctx.fail_keeps) (.pure trivial))

theorem Ctx.aligned_keeps {bad} : Keeps (c.aligned bad) := by
  unfold Ctx.aligned
  split
  · exact .pure trivial
  · exact Ctx.trap_keeps

theorem Ctx.check_keeps {own} : Keeps (c.check own) := Ctx.refuse_keeps

theorem State.Inv.spanAt {memo a space acc va n k} (h : s.Inv) : (s.spanAt memo a space acc va n k).1.Inv := by
  induction k generalizing s memo va n with
  | zero => exact h
  | succ k ih =>
    unfold State.spanAt
    dsimp only
    split
    · exact h.pageAt
    · exact ih h.pageAt

theorem State.Inv.globalAt {memo a space va n acc} (h : s.Inv) : (s.globalAt memo a space va n acc).1.Inv :=
  h.spanAt

theorem State.Inv.loadAt {gid bay l n} (h : s.Inv) : (s.loadAt gid bay l n).1.Inv := by
  unfold State.loadAt
  split
  · exact foldl_fst_inv h fun _ _ h' => h'.physLoad
  · exact h
  · exact h
  · exact h

theorem State.Inv.storeAt {bay l bs a scope reads} (h : s.Inv) : (s.storeAt bay l bs a scope reads).Inv := by
  cases l with
  | phys segs =>
    exact .of_mem (s := (segs.foldl _ (s, bs)).1) (foldl_fst_inv h fun _ _ h' => h'.physStore) rfl
  | data k off => exact .of_mem (s := s.onGroup k _) h.onGroup rfl
  | wst off => exact h.of_mem rfl
  | cst off => exact h.of_mem rfl

theorem State.Inv.loadPart {a fibre scope batch cells} (h : s.Inv) : (s.loadPart a fibre scope batch cells).1.Inv := by
  unfold State.loadPart
  dsimp only
  split
  · exact h.of_mem rfl
  · exact .of_mem h.choose rfl

theorem State.Inv.loadWeak {a fibre scope gid l n chunk} (h : s.Inv) :
    (s.loadWeak a fibre scope gid l n chunk).1.Inv := by
  unfold State.loadWeak
  dsimp only
  split
  · exact h.loadAt
  · exact foldl_fst_inv h.loadAt fun _ _ h' => h'.loadPart

theorem State.Inv.loadNewest {a scope gid l n} (h : s.Inv) : (s.loadNewest a scope gid l n).1.Inv := by
  unfold State.loadNewest
  dsimp only
  split
  · exact h.loadAt
  · exact .of_mem h.loadAt rfl

theorem Ctx.store_keeps {lane va l bs scope reads} : Keeps (c.store lane va l bs scope reads) := by
  unfold Ctx.store
  intro s h
  dsimp only
  split
  · split
    · split
      · exact .ok trivial h
      · split
        · exact .ok trivial h.onBent
        · exact .error h.payEvents.sealAbort
    · exact .ok trivial h.storeAt
  · exact .ok trivial h.storeAt

theorem Ctx.load_keeps {l n} : Keeps (c.load l n) := fun _ h => .ok trivial h.loadAt

theorem Ctx.loadWeak_keeps {lane scope l n chunk} : Keeps (c.loadWeak lane scope l n chunk) :=
  fun _ h => .ok trivial h.loadWeak

theorem Ctx.place_inv {memo space ea n acc} (h : s.Inv) : (c.place memo space ea n acc s).1.Inv := by
  unfold Ctx.place
  split
  · exact h.globalAt
  · exact h

theorem State.Inv.readStream {r i e} (h : s.Inv) : (s.readStream r i e).1.Inv := h.loadWeak

theorem Ctx.useOne_inv {later memo k u} (h : s.Inv) : (c.useOne later s memo k u).1.Inv := by
  unfold Ctx.useOne
  dsimp only
  split
  · exact h
  · split
    · exact h
    · split
      · exact h
      · split
        · exact Ctx.place_inv h
        · exact Ctx.place_inv h
        · split
          · exact Ctx.place_inv h
          · split
            · exact Ctx.place_inv h
            · exact (Ctx.place_inv h).readStream

theorem Ctx.readyLane_inv {later g l} (hg : g.st.Inv) : (c.readyLane later g l).st.Inv := by
  unfold Ctx.readyLane
  dsimp only
  split
  · exact foldl_fst_inv hg fun _ _ h => Ctx.useOne_inv h
  · split <;> exact foldl_fst_inv hg fun _ _ h => Ctx.useOne_inv h

theorem Ctx.readyMem_inv {u g i} (hg : g.st.Inv) : (c.readyMem u g i).st.Inv := by
  unfold Ctx.readyMem
  dsimp only
  split
  · exact hg
  · split <;> exact Ctx.place_inv hg

theorem Ctx.faults_keeps {g} (hg : g.st.Inv) : Keeps (c.faults g) := by
  unfold Ctx.faults
  split
  · exact fun _ _ => .error hg.payEvents.takeFault
  · exact fun _ _ => .ok trivial hg

theorem Ctx.readied_inv {later} (h : s.Inv) : (c.readied later s).st.Inv :=
  foldl_st_inv h fun _ _ h' => Ctx.readyLane_inv h'

theorem Ctx.readyWith_keeps {later more} : Keeps (c.readyWith later more) fun g => g.st.Inv :=
  .bind .get fun _ h => .bind Ctx.aligned_keeps fun _ _ => .gathered (Ctx.readied_inv h)

theorem Ctx.ready_keeps {later mem} : Keeps (c.ready later mem) fun g => g.st.Inv := by
  unfold Ctx.ready
  split
  · exact Ctx.readyWith_keeps
  · exact .bind Ctx.readyWith_keeps fun _ h => .gathered (foldl_st_inv h fun _ _ h' => Ctx.readyMem_inv h')

theorem Ctx.gather_keeps {later mem} : Keeps (c.gather later mem) :=
  .bind Ctx.ready_keeps fun _ h => .bind (Ctx.faults_keeps h) fun _ _ => .pure trivial

theorem Ctx.refresh_keeps {i} : Keeps (c.refresh i) :=
  .bind .get fun _ h => .bind (.set (foldl_fst_inv h fun _ _ h' => h'.readStream)) fun _ _ => .pure trivial

theorem Ctx.onLane_keeps {l f} : Keeps (c.onLane l f) := .modify fun _ h => h.onLane

theorem Ctx.put_keeps {l wide x v} : Keeps (c.put l wide x v) := by
  unfold Ctx.put
  split
  · exact .forM fun _ => Ctx.onLane_keeps
  · exact .modify fun _ h => h.onGroup
  · exact .modify fun _ h => h.onGroup
  · exact .forM fun _ => Ctx.onLane_keeps
  · exact .pure trivial

theorem Ctx.putStream_keeps {i v} : Keeps (c.putStream i v) := by
  unfold Ctx.putStream
  dsimp only
  split
  · split
    · exact .pure trivial
    · exact .bind Ctx.store_keeps fun _ _ => .pure trivial
  · refine .bind Ctx.onLane_keeps fun _ _ => ?_
    split
    · exact .pure trivial
    · exact .bind Ctx.store_keeps fun _ _ => .pure trivial

theorem Ctx.result_keeps {i v} : Keeps (c.result i v) := .bind Ctx.put_keeps fun _ _ => Ctx.putStream_keeps

theorem Ctx.watch_keeps {waiting evs} : Keeps (c.watch waiting evs) :=
  .modify fun _ h => h.gaugeEvents.ite h.gaugeEvents.onFibre

theorem Ctx.waitFor_keeps {mask late} : Keeps (c.waitFor mask late) :=
  .modify fun _ h => h.onFibre.takeLate.settleEarly

theorem Ctx.wait_keeps {late} : Keeps (c.wait late) := Ctx.waitFor_keeps
theorem Ctx.regroup_keeps {stays dest} : Keeps (c.regroup stays dest) := .modify fun _ h => h.reweave.settleHalts

theorem Ctx.finish_keeps {late evs} : Keeps (c.finish late evs) :=
  .bind Ctx.watch_keeps fun _ _ => .ite Ctx.regroup_keeps Ctx.wait_keeps

theorem Ctx.sticky_keeps {l fl} : Keeps (c.sticky l fl) := .ite (.pure trivial) Ctx.onLane_keeps

theorem compute_inv {m isFloat own f} (h : s.Inv) : NextInv (compute m isFloat own f o s) :=
  issue_next_inv h fun _ _ =>
    .bind Ctx.check_keeps fun _ _ =>
    .bind Ctx.gather_keeps fun _ _ =>
    .bind
      (.mapM fun _ =>
        .bind Ctx.refresh_keeps fun _ _ =>
        .bind Ctx.result_keeps fun _ _ => .bind Ctx.sticky_keeps fun _ _ => .pure trivial) fun _ _ =>
    Ctx.finish_keeps

/-! The expression log, the instructions over X registers and the conversions. -/

theorem Ctx.spillRoom_inv {g need x} (hx : x.st.Inv) : (c.spillRoom g need x).st.Inv := by
  unfold Ctx.spillRoom
  dsimp only
  refine foldl_st_inv hx fun _ _ h => ?_
  split <;> exact h.translate

theorem Ctx.logRoomFor_keeps {need pairs x} (hx : x.st.Inv) : Keeps (c.logRoomFor need pairs x) fun g => g.st.Inv := by
  unfold Ctx.logRoomFor
  split
  · exact .gathered hx
  · exact .ite (.gathered hx)
      (.ite (.gathered (Ctx.spillRoom_inv hx))
        (.ite (.gathered (Ctx.spillRoom_inv hx.setGroup)) Ctx.trap_keeps))

theorem Ctx.logRoom_keeps {ms x} (hx : x.st.Inv) : Keeps (c.logRoom ms x) fun g => g.st.Inv :=
  Ctx.logRoomFor_keeps hx

theorem State.Inv.appendNode {gid n cont} (h : s.Inv) : (s.appendNode gid n cont).1.Inv := by
  unfold State.appendNode
  split
  · exact h
  · split <;> exact h.choose.setGroup

theorem State.Inv.childWord {gid x} (h : s.Inv) : (s.childWord gid x).1.Inv := by
  unfold State.childWord
  split
  · exact h
  · split
    · exact h.appendNode
    · exact h

theorem State.Inv.setX {gid w l i x} (h : s.Inv) : (s.setX gid w l i x).Inv := h.onGroup.onLane

theorem Ctx.makeX_keeps {i m} : Keeps (c.makeX i m) := by
  unfold Ctx.makeX
  refine .bind .get fun _ h => ?_
  split
  · exact .set h.setX
  · exact .set (.setX (.appendNode (foldl_fst_inv h fun _ _ h' => h'.childWord)))

theorem computeX_inv {m f} (h : s.Inv) : NextInv (computeX m o s f) :=
  issue_next_inv h fun _ _ =>
    .bind Ctx.check_keeps fun _ _ =>
    .bind Ctx.ready_keeps fun _ h1 =>
    .bind (Ctx.logRoom_keeps h1) fun _ h2 =>
    .bind (Ctx.faults_keeps h2) fun _ _ =>
    .bind
      (.mapM fun _ =>
        .bind Ctx.makeX_keeps fun _ _ =>
        .bind Ctx.putStream_keeps fun _ _ => .bind Ctx.sticky_keeps fun _ _ => .pure trivial) fun _ _ =>
    Ctx.finish_keeps

theorem intervalOp_inv {m op isUnary} (h : s.Inv) : NextInv (intervalOp m op isUnary o s) := computeX_inv h
theorem xmovOp_inv (h : s.Inv) : NextInv (xmovOp o s) := computeX_inv h
theorem execXadd_inv (h : s.Inv) : NextInv (execXadd o s) := intervalOp_inv h
theorem execXaddExt_inv (h : s.Inv) : NextInv (execXaddExt o s) := intervalOp_inv h
theorem execXsub_inv (h : s.Inv) : NextInv (execXsub o s) := intervalOp_inv h
theorem execXsubExt_inv (h : s.Inv) : NextInv (execXsubExt o s) := intervalOp_inv h
theorem execXmul_inv (h : s.Inv) : NextInv (execXmul o s) := intervalOp_inv h
theorem execXmulExt_inv (h : s.Inv) : NextInv (execXmulExt o s) := intervalOp_inv h
theorem execXdiv_inv (h : s.Inv) : NextInv (execXdiv o s) := intervalOp_inv h
theorem execXsqrt_inv (h : s.Inv) : NextInv (execXsqrt o s) := intervalOp_inv h
theorem execXmin_inv (h : s.Inv) : NextInv (execXmin o s) := intervalOp_inv h
theorem execXmax_inv (h : s.Inv) : NextInv (execXmax o s) := intervalOp_inv h
theorem execSever_inv (h : s.Inv) : NextInv (execSever o s) := computeX_inv h
theorem execSnap_inv (h : s.Inv) : NextInv (execSnap o s) := computeX_inv h
theorem execXbnd_inv (h : s.Inv) : NextInv (execXbnd o s) := compute_inv h
theorem execCvt_inv (h : s.Inv) : NextInv (execCvt o s) := .ite (computeX_inv h) (compute_inv h)

theorem execCvtf_inv (h : s.Inv) : NextInv (execCvtf o s) :=
  issue_next_inv h fun _ _ =>
    .bind Ctx.check_keeps fun _ _ =>
    .bind Ctx.gather_keeps fun _ _ =>
    .bind
      (.mapM fun _ =>
        .bind Ctx.refresh_keeps fun _ _ =>
        .bind Ctx.result_keeps fun _ _ =>
        .bind Ctx.onLane_keeps fun _ _ => .bind Ctx.sticky_keeps fun _ _ => .pure trivial) fun _ _ =>
    Ctx.finish_keeps

theorem execSxp_inv (h : s.Inv) : NextInv (execSxp o s) :=
  issue_next_inv h fun _ _ =>
    .bind Ctx.check_keeps fun _ _ =>
    .bind Ctx.gather_keeps fun _ _ =>
    .bind
      (.mapM fun _ =>
        .bind
          (.mapM fun _ =>
            .bind Ctx.result_keeps fun _ _ =>
            .when Ctx.onLane_keeps fun _ => .bind Ctx.sticky_keeps fun _ _ => .pure trivial) fun _ _ =>
        .pure trivial) fun _ _ =>
    Ctx.finish_keeps

theorem execSxu_inv (h : s.Inv) : NextInv (execSxu o s) := compute_inv h

/-! Decisions, refinement and the lapidary. -/

theorem State.Inv.dotNow {memo gid a n k} (h : s.Inv) : (s.dotNow memo gid a n k).1.Inv := by
  unfold State.dotNow
  dsimp only
  split
  · split
    · exact h.globalAt.loadWeak.loadWeak
    · exact h.globalAt
  · exact h

theorem State.Inv.runRequest {q} (h : s.Inv) : (s.runRequest q).1.Inv := by
  unfold State.runRequest
  dsimp only
  split
  · exact h
  · split
    · dsimp only
      refine foldl_fst_inv h fun _ _ h' => ?_
      split
      · exact h'
      · split
        · rename_i e
          exact h'.dotNow.fst e
        · rename_i e
          exact h'.dotNow.fst e
    · dsimp only
      refine foldl_fst_inv h fun _ _ h' => ?_
      split
      · exact h'
      · split
        · rename_i e
          exact h'.dotNow.fst e
        · rename_i e
          exact h'.dotNow.fst e

theorem State.Inv.enterRequest {bay idx} (h : s.Inv) : (s.enterRequest bay idx).Inv := h.onBay

theorem State.Inv.enterRequests {bay n} (h : s.Inv) : (s.enterRequests bay n).Inv := by
  induction n generalizing s with
  | zero => exact h
  | succ k ih =>
    unfold State.enterRequests
    split
    · exact ih h.enterRequest
    · exact h

theorem State.Inv.sendRequests {qs} (h : s.Inv) : (s.sendRequests qs).Inv := by
  unfold State.sendRequests
  dsimp only
  split
  · exact h
  · exact .enterRequests
      (.countCore (.onBay (.foldl (foldl_fst_inv h fun _ _ h' => h'.forked) fun _ _ h' => h'.onGroup)))

theorem State.Inv.dropRequest {bay q} (h : s.Inv) : (s.dropRequest bay q).Inv := h.onGroup.onBay
theorem State.Inv.answered {q} (h : s.Inv) : (s.answered q).Inv := h.edge

theorem Ctx.refine_keeps {lanes} : Keeps (c.refine lanes) :=
  .ite Ctx.regroup_keeps
    (.bind (.modify fun _ h => h.reweave) fun _ _ =>
      .ite (.modify fun _ h' => h'.settleHalts) Ctx.regroup_keeps)

theorem decideOp_inv {m own kind src} (h : s.Inv) : NextInv (decideOp m o s own kind src) := by
  unfold decideOp
  refine issue_next_inv h fun _ _ => ?_
  refine .bind Ctx.check_keeps fun _ _ => ?_
  split
  · exact Ctx.trap_keeps
  · refine .andThen ?_ fun _ =>
      .bind (.modify fun _ h' => h'.sendRequests) fun _ _ => .bind Ctx.watch_keeps fun _ _ => Ctx.refine_keeps
    refine .forM fun _ => ?_
    split
    · exact Ctx.onLane_keeps
    · exact .pure trivial

theorem execXsgn_inv (h : s.Inv) : NextInv (execXsgn o s) := decideOp_inv h
theorem execXcmp_inv (h : s.Inv) : NextInv (execXcmp o s) := decideOp_inv h

theorem execXref_inv (h : s.Inv) : NextInv (execXref o s) :=
  issue_next_inv h fun _ _ =>
    .bind Ctx.check_keeps fun _ _ =>
    .bind (.forM fun _ => .ite (.pure trivial) (.modify fun _ h1 => h1.setX)) fun _ _ =>
    .bind (.modify fun _ h2 => h2.sendRequests) fun _ _ => Ctx.finish_keeps

theorem execLapidaryRequestEnter_inv {bay idx} (h : s.Inv) : NextInv (execLapidaryRequestEnter bay idx s) :=
  .ite (.next h.enterRequest) (.refused _)

theorem State.Inv.answerEvent {r q stage isTrap} (h : s.Inv) : (s.answerEvent r q stage isTrap).1.Inv :=
  h.gaugeEvents

theorem State.Inv.requestFault {r q f} (h : s.Inv) : (s.requestFault r q f).Inv := by
  unfold State.requestFault
  split
  · exact h.takeFault
  · exact h

theorem State.Inv.keepHalts {r halts} (h : s.Inv) : (s.keepHalts r halts).Inv := h.ite h.onFibre
theorem State.Inv.countStages {q v} (h : s.Inv) : (s.countStages q v).Inv := h.countDie.countDie

theorem execXrefAnswer_inv {bay idx} (h : s.Inv) : NextInv (execXrefAnswer bay idx s) := by
  unfold execXrefAnswer
  split
  · exact .refused _
  · split
    · rename_i e
      exact .next
        (((h.runRequest.fst e).setX.onLane.ite
          (h.runRequest.fst e).setX).answered.dropRequest.enterRequests.countStages.answerEvent.foldl fun _ _ h' =>
          h'.applyHalt)
    · rename_i e
      exact .next (h.runRequest.fst e).requestFault
    · exact .refused _

theorem execLapidaryTranslationFault_inv {bay idx} (h : s.Inv) : NextInv (execLapidaryTranslationFault bay idx s) := by
  unfold execLapidaryTranslationFault
  split
  · exact .refused _
  · split
    · rename_i e
      exact .next ((h.runRequest.fst e).foldl fun _ _ h' => h'.takeEntry)
    · exact .refused _

theorem execLogReclaim_inv {gid} (h : s.Inv) : NextInv (execLogReclaim gid s) := by
  unfold execLogReclaim
  split
  · exact .ite (.next h.setGroup) (.refused _)
  · exact .refused _

/-! Choice stacks, the kerf, theft and cuts. -/

theorem Ctx.cutRoom_keeps {act lanes} : Keeps (c.cutRoom act lanes) := .ite Ctx.trap_keeps (.pure trivial)

theorem Ctx.recordRoom_keeps : Keeps c.recordRoom := by
  unfold Ctx.recordRoom
  split
  · exact Ctx.trap_keeps
  · exact .pure trivial

theorem Ctx.unwindRoom_keeps {own} : Keeps (c.unwindRoom own) := Ctx.cutRoom_keeps
theorem Ctx.now_keeps {l} : Keeps (c.now l) := fun _ h => .ok trivial h

theorem Ctx.undo_keeps {l m n u} : Keeps (c.undo l m n u) := by
  induction n generalizing u with
  | zero => exact .value
  | succ k ih =>
    unfold Ctx.undo
    dsimp only
    refine .bind Ctx.now_keeps fun _ _ => ?_
    split
    · exact .pure trivial
    · split
      · exact .pure trivial
      · refine .bind .get fun _ h' => ?_
        refine .bind (.set (Ctx.place_inv h')) fun _ _ => ?_
        split
        · exact .pure trivial
        · exact Ctx.fail_keeps
        · exact .bind Ctx.store_keeps fun _ _ => .bind Ctx.onLane_keeps fun _ _ => ih

theorem Ctx.failLane_keeps {l dry n u} : Keeps (c.failLane l dry n u) := by
  induction n generalizing u with
  | zero => exact .value
  | succ k ih =>
    unfold Ctx.failLane
    dsimp only
    refine .bind Ctx.now_keeps fun _ _ => ?_
    split
    · exact .pure trivial
    · exact .bind Ctx.undo_keeps fun _ _ =>
        .ite (.pure trivial)
          (.ite (.bind Ctx.onLane_keeps fun _ _ => .pure trivial)
            (.bind (.modify fun _ h' => h'.onGroup) fun _ _ => ih))

theorem Ctx.unwindRest_keeps {l dry u} : Keeps (c.unwindRest l dry u) :=
  .bind Ctx.now_keeps fun _ _ =>
  .bind Ctx.failLane_keeps fun _ _ => .bind Ctx.onLane_keeps fun _ _ => .pure trivial

theorem Ctx.unwind_keeps {l dry memo} : Keeps (c.unwind l dry memo) := by
  unfold Ctx.unwind
  refine .bind Ctx.now_keeps fun _ _ => ?_
  split
  · exact Ctx.unwindRest_keeps
  · refine .bind .get fun _ _ => ?_
    split
    · exact .pure trivial
    · split
      · exact .pure trivial
      · exact .bind Ctx.onLane_keeps fun _ _ =>
          .bind Ctx.undo_keeps fun _ _ =>
          .ite (.pure trivial) (.bind (.modify fun _ h' => h'.onGroup) fun _ _ => Ctx.unwindRest_keeps)

theorem Ctx.driveLanes_keeps {act ls d} (ha : ∀ memo l, Keeps (act memo l)) : Keeps (c.driveLanes act ls d) := by
  induction ls generalizing d with
  | nil => exact .value
  | cons l r ih =>
    unfold Ctx.driveLanes
    dsimp only
    refine .bind (ha _ _) fun _ _ => ?_
    split
    · exact .pure trivial
    · exact ih

theorem Ctx.drive_keeps {memo lanes early token act} (ha : ∀ memo l, Keeps (act memo l)) :
    Keeps (c.drive memo lanes early token act) :=
  .bind (Ctx.driveLanes_keeps fun _ _ => ha _ _) fun _ _ =>
  .bind Ctx.watch_keeps fun _ _ =>
  .ite Ctx.regroup_keeps
    (.bind (.modify fun _ h1 => h1.reweave) fun _ _ =>
      .bind Ctx.waitFor_keeps fun _ _ => .modify fun _ h2 => h2.settleHalts)

theorem Ctx.labelOk_keeps : Keeps c.labelOk := Ctx.aligned_keeps

theorem execTryOpen_inv (h : s.Inv) : NextInv (execTryOpen o s) := by
  unfold execTryOpen
  refine issue_next_inv h fun _ _ => ?_
  refine .bind Ctx.check_keeps fun _ _ => ?_
  refine .bind Ctx.ready_keeps fun _ h1 => ?_
  refine .bind (.modify fun _ h2 => h2.onGroup.ite h2) fun _ _ => ?_
  refine .bind Ctx.recordRoom_keeps fun _ _ => ?_
  refine .bind Ctx.unwindRoom_keeps fun _ _ => ?_
  refine .bind (Ctx.faults_keeps (h1.onGroup.ite h1)) fun _ _ => ?_
  refine .bind Ctx.backing_keeps fun _ _ => ?_
  refine Ctx.drive_keeps fun _ _ => ?_
  refine .bind Ctx.unwind_keeps fun _ _ => ?_
  split
  · exact .pure trivial
  · exact .bind Ctx.onLane_keeps fun _ _ =>
      .bind Ctx.put_keeps fun _ _ => .bind Ctx.putStream_keeps fun _ _ => .pure trivial

theorem execFail_inv (h : s.Inv) : NextInv (execFail o s) := by
  unfold execFail
  refine issue_next_inv h fun _ _ => ?_
  refine .bind Ctx.check_keeps fun _ _ => ?_
  refine .bind Ctx.labelOk_keeps fun _ _ => ?_
  refine .bind Ctx.unwindRoom_keeps fun _ _ => ?_
  refine .bind Ctx.backing_keeps fun _ _ => ?_
  refine Ctx.drive_keeps fun _ _ => ?_
  refine .bind Ctx.unwind_keeps fun _ _ => ?_
  split
  · exact .pure trivial
  · exact Ctx.failLane_keeps

theorem execMark_inv (h : s.Inv) : NextInv (execMark o s) := by
  unfold execMark
  refine issue_next_inv h fun _ _ => ?_
  refine .bind Ctx.check_keeps fun _ _ => ?_
  refine .bind Ctx.ready_keeps fun _ h' => ?_
  refine .bind Ctx.unwindRoom_keeps fun _ _ => ?_
  refine .bind (Ctx.faults_keeps h') fun _ _ => ?_
  refine .bind Ctx.backing_keeps fun _ _ => ?_
  refine Ctx.drive_keeps fun _ _ => ?_
  refine .bind Ctx.unwind_keeps fun _ _ => ?_
  split
  · exact .pure trivial
  · exact .bind Ctx.now_keeps fun _ _ => .bind Ctx.result_keeps fun _ _ => .pure trivial

theorem execCut_inv (h : s.Inv) : NextInv (execCut o s) :=
  issue_next_inv h fun _ _ =>
    .bind Ctx.check_keeps fun _ _ =>
    .bind Ctx.ready_keeps fun _ h1 =>
    .bind Ctx.cutRoom_keeps fun _ _ =>
    .bind (Ctx.faults_keeps h1) fun _ _ =>
    .bind Ctx.backing_keeps fun _ _ =>
    .bind (.forM fun _ => .bind Ctx.putStream_keeps fun _ _ => .pure trivial) fun _ _ =>
    .bind (.forM fun _ => .modify fun _ h2 => h2.onGroup) fun _ _ => Ctx.finish_keeps

theorem Ctx.take_keeps {l d v} : Keeps (c.take l d v) :=
  .bind (.modify fun _ h => h.onGroup.countCore) fun _ _ => .bind Ctx.onLane_keeps fun _ _ => .pure trivial

theorem Ctx.stealLane_keeps {d memo l} : Keeps (c.stealLane d memo l) := by
  unfold Ctx.stealLane
  refine .bind Ctx.unwind_keeps fun _ _ => ?_
  split
  · exact .pure trivial
  · refine .bind .get fun _ _ => ?_
    split
    · exact .pure trivial
    · exact .bind Ctx.take_keeps fun _ _ => .pure trivial

theorem execSteal_inv (h : s.Inv) : NextInv (execSteal o s) :=
  issue_next_inv h fun _ _ =>
    .bind .get fun _ _ =>
    .bind Ctx.refuse_keeps fun _ _ =>
    .bind Ctx.labelOk_keeps fun _ _ =>
    .bind Ctx.recordRoom_keeps fun _ _ =>
    .bind Ctx.unwindRoom_keeps fun _ _ =>
    .bind Ctx.backing_keeps fun _ _ => Ctx.drive_keeps fun _ _ => Ctx.stealLane_keeps

theorem execTrail_inv (h : s.Inv) : NextInv (execTrail o s) :=
  issue_next_inv h fun _ _ =>
    .bind Ctx.check_keeps fun _ _ => .bind (.forM fun _ => Ctx.onLane_keeps) fun _ _ => Ctx.finish_keeps

/-! Loads, stores, atomics, fences, monitors and streams. -/

theorem loadOp_inv {m ty use} (h : s.Inv) : NextInv (loadOp m ty use o s) :=
  issue_next_inv h fun _ _ =>
    .bind Ctx.check_keeps fun _ _ =>
    .bind Ctx.ready_keeps fun _ h1 =>
    .ite
      (.bind (Ctx.logRoomFor_keeps h1) fun _ h2 =>
        .bind (Ctx.faults_keeps h2) fun _ _ =>
        .bind
          (.mapM fun _ =>
            .bind Ctx.loadWeak_keeps fun _ _ =>
            .ite (.bind Ctx.makeX_keeps fun _ _ => .bind Ctx.sticky_keeps fun _ _ => .pure trivial)
              (.bind Ctx.result_keeps fun _ _ => .pure trivial)) fun _ _ =>
        Ctx.finish_keeps)
      (.bind (.gathered h1) fun _ h2 =>
        .bind (Ctx.faults_keeps h2) fun _ _ =>
        .bind
          (.mapM fun _ =>
            .bind Ctx.loadWeak_keeps fun _ _ =>
            .ite (.bind Ctx.makeX_keeps fun _ _ => .bind Ctx.sticky_keeps fun _ _ => .pure trivial)
              (.bind Ctx.result_keeps fun _ _ => .pure trivial)) fun _ _ =>
        Ctx.finish_keeps)

theorem ldOp_inv (h : s.Inv) : NextInv (ldOp o s) := loadOp_inv h
theorem execLdx_inv (h : s.Inv) : NextInv (execLdx o s) := loadOp_inv h

theorem Ctx.kerfRoom_keeps : Keeps c.kerfRoom := by
  unfold Ctx.kerfRoom
  split
  · exact Ctx.trap_keeps
  · exact .pure trivial

theorem Ctx.trailAt_keeps {i n} : Keeps (c.trailAt i n) :=
  .bind Ctx.load_keeps fun _ _ => .bind Ctx.onLane_keeps fun _ _ => .modify fun _ h' => h'.countCore

theorem stOp_inv (h : s.Inv) : NextInv (stOp o s) :=
  issue_next_inv h fun _ _ =>
    .bind Ctx.check_keeps fun _ _ =>
    .bind Ctx.ready_keeps fun _ h' =>
    .when Ctx.kerfRoom_keeps fun _ =>
    .bind (Ctx.faults_keeps h') fun _ _ =>
    .when Ctx.backing_keeps fun _ =>
    .bind
      (.mapM fun _ =>
        .bind Ctx.refresh_keeps fun _ _ =>
        .when Ctx.trailAt_keeps fun _ =>
        .bind Ctx.store_keeps fun _ _ => .bind Ctx.putStream_keeps fun _ _ => .pure trivial) fun _ _ =>
    Ctx.finish_keeps

theorem execLdv_inv (h : s.Inv) : NextInv (execLdv o s) :=
  issue_next_inv h fun _ _ =>
    .bind Ctx.check_keeps fun _ _ =>
    .bind Ctx.gather_keeps fun _ _ =>
    .bind
      (.mapM fun _ =>
        .bind Ctx.loadWeak_keeps fun _ _ =>
        .bind (.forM fun _ => .forM fun _ => Ctx.onLane_keeps) fun _ _ => .pure trivial) fun _ _ =>
    Ctx.finish_keeps

theorem execStv_inv (h : s.Inv) : NextInv (execStv o s) :=
  issue_next_inv h fun _ _ =>
    .bind Ctx.check_keeps fun _ _ =>
    .bind Ctx.gather_keeps fun _ _ =>
    .bind (.mapM fun _ => .bind (.forM fun _ => Ctx.store_keeps) fun _ _ => .pure trivial) fun _ _ =>
    Ctx.finish_keeps

theorem execLdb_inv (h : s.Inv) : NextInv (execLdb o s) :=
  issue_next_inv h fun _ _ =>
    .bind Ctx.check_keeps fun _ _ =>
    .bind Ctx.gather_keeps fun _ _ =>
    .bind
      (.mapM fun _ =>
        .either Ctx.loadWeak_keeps .value fun _ =>
        .bind Ctx.result_keeps fun _ _ => .bind Ctx.put_keeps fun _ _ => .pure trivial) fun _ _ =>
    Ctx.finish_keeps

theorem execStb_inv (h : s.Inv) : NextInv (execStb o s) :=
  issue_next_inv h fun _ _ =>
    .bind Ctx.check_keeps fun _ _ =>
    .bind Ctx.gather_keeps fun _ _ =>
    .bind
      (.mapM fun _ =>
        .bind Ctx.refresh_keeps fun _ _ =>
        .when Ctx.store_keeps fun _ =>
        .bind Ctx.putStream_keeps fun _ _ => .bind Ctx.put_keeps fun _ _ => .pure trivial) fun _ _ =>
    Ctx.finish_keeps

theorem execAtom_inv (h : s.Inv) : NextInv (execAtom o s) :=
  issue_next_inv h fun _ _ =>
    .bind Ctx.check_keeps fun _ _ =>
    .bind Ctx.gather_keeps fun _ _ =>
    .bind
      (.mapM fun _ =>
        .bind Ctx.refresh_keeps fun _ _ =>
        .bind Ctx.load_keeps fun _ _ =>
        .bind Ctx.store_keeps fun _ _ =>
        .either Ctx.putStream_keeps Ctx.result_keeps fun _ => .bind Ctx.sticky_keeps fun _ _ => .pure trivial) fun _ _ =>
    Ctx.finish_keeps

theorem execCas_inv (h : s.Inv) : NextInv (execCas o s) :=
  issue_next_inv h fun _ _ =>
    .bind Ctx.check_keeps fun _ _ =>
    .bind Ctx.gather_keeps fun _ _ =>
    .bind
      (.mapM fun _ =>
        .bind Ctx.refresh_keeps fun _ _ =>
        .bind Ctx.load_keeps fun _ _ =>
        .either Ctx.store_keeps (.modify fun _ h' => h'.loadNewest) fun _ =>
        .bind Ctx.result_keeps fun _ _ => .pure trivial) fun _ _ =>
    Ctx.finish_keeps

theorem execFence_inv (h : s.Inv) : NextInv (execFence o s) :=
  issue_next_inv h fun _ _ =>
    .bind Ctx.check_keeps fun _ _ =>
    .bind (.forM fun _ => .modify fun _ h' => h'.fence) fun _ _ => Ctx.finish_keeps

theorem execMon_inv (h : s.Inv) : NextInv (execMon o s) :=
  issue_next_inv h fun _ _ =>
    .bind Ctx.check_keeps fun _ _ =>
    .bind Ctx.gather_keeps fun _ _ => .bind (.forM fun _ => Ctx.onLane_keeps) fun _ _ => Ctx.finish_keeps

theorem Ctx.park_keeps {w} : Keeps (c.park w) := .modify fun _ h => h.onFibre.settleHalts

theorem execMwait_inv (h : s.Inv) : NextInv (execMwait o s) :=
  issue_next_inv h fun _ _ =>
    .bind Ctx.check_keeps fun _ _ => .ite Ctx.finish_keeps (.bind Ctx.watch_keeps fun _ _ => Ctx.park_keeps)

theorem execSbind_inv (h : s.Inv) : NextInv (execSbind o s) := by
  unfold execSbind
  refine issue_next_inv h fun _ _ => ?_
  refine .bind Ctx.check_keeps fun _ _ => ?_
  split
  · exact .bind (.forM fun _ => Ctx.onLane_keeps) fun _ _ => Ctx.finish_keeps
  · refine .bind Ctx.readyWith_keeps fun _ h' => ?_
    refine .bind (Ctx.faults_keeps h') fun _ _ => ?_
    refine .andThen ?_ fun _ => Ctx.finish_keeps
    refine .forM fun _ => ?_
    refine .bind .get fun _ _ => ?_
    split
    · exact .bind Ctx.loadWeak_keeps fun _ _ =>
        .ite (.bind Ctx.putStream_keeps fun _ _ => .forM fun _ => Ctx.onLane_keeps) Ctx.fail_keeps
    · exact Ctx.fail_keeps
    · exact .pure trivial

theorem State.Inv.completeFibre {r} (h : s.Inv) : (s.completeFibre r).Inv := h.onFibre.settleHalts
theorem State.Inv.joined {r pubs} (h : s.Inv) : (s.joined r pubs).Inv := h.edge

theorem execMwaitWake_inv {r} (h : s.Inv) : NextInv (execMwaitWake r s) := by
  unfold execMwaitWake
  split
  · exact .ite (.next h.completeFibre) (.refused _)
  · exact .refused _

/-! Arrival words, kicks, pegs and the copy engine. -/

theorem execAset_inv (h : s.Inv) : NextInv (execAset o s) :=
  issue_next_inv h fun _ _ =>
    .bind Ctx.check_keeps fun _ _ =>
    .bind Ctx.ready_keeps fun _ h' =>
    .bind (Ctx.faults_keeps h') fun _ _ =>
    .bind (.forM fun _ => .bind Ctx.store_keeps fun _ _ => .bind Ctx.putStream_keeps fun _ _ => .pure trivial) fun _ _ =>
    Ctx.finish_keeps

theorem Ctx.putOff_keeps {w late evs} : Keeps (c.putOff w late evs) :=
  .bind Ctx.watch_keeps fun _ _ => .bind (.modify fun _ h' => h'.onFibre) fun _ _ => Ctx.wait_keeps

theorem Ctx.join_keeps {pubs} : Keeps (c.join pubs) := .modify fun _ h => h.edge

theorem execAwait_inv (h : s.Inv) : NextInv (execAwait o s) :=
  issue_next_inv h fun _ _ =>
    .bind Ctx.check_keeps fun _ _ =>
    .bind Ctx.ready_keeps fun _ h' =>
    .bind (Ctx.faults_keeps h') fun _ _ =>
    .bind (.forM fun _ => .bind Ctx.putStream_keeps fun _ _ => .pure trivial) fun _ _ =>
    .bind .get fun _ _ =>
    .ite Ctx.putOff_keeps
      (.ite (.bind Ctx.join_keeps fun _ _ => Ctx.finish_keeps)
        (.bind Ctx.watch_keeps fun _ _ => Ctx.park_keeps))

theorem execAwaitComplete_inv {r} (h : s.Inv) : NextInv (execAwaitComplete r s) := by
  unfold execAwaitComplete
  split
  · split
    · exact .ite (.next h.joined.completeFibre) (.refused _)
    · exact .refused _
  · exact .refused _

theorem Ctx.fetchKick_inv {i} (h : s.Inv) : (c.fetchKick s i).1.Inv := h.forked.loadWeak

theorem State.Inv.submitKick {bay a recs} (h : s.Inv) : (s.submitKick bay a recs).Inv :=
  .onBay (foldl_fst_inv h fun _ _ h' => h'.forked)

theorem execKick_inv (h : s.Inv) : NextInv (execKick o s) := by
  refine issue_next_inv h fun _ h1 => .ite (.ends (Ctx.stall_keeps h1)) ?_
  refine .bind Ctx.check_keeps fun _ _ => .bind Ctx.ready_keeps fun _ h2 => .bind (Ctx.faults_keeps h2) fun _ _ => ?_
  refine .andThen (.forM fun _ => .bind .get fun _ h3 => ?_) fun _ => Ctx.finish_keeps
  dsimp only
  split
  · split
    · rename_i e
      exact .bind (.set ((Ctx.fetchKick_inv h3).fst e).submitKick) fun _ _ =>
        .bind Ctx.putStream_keeps fun _ _ => .pure trivial
    · exact .ends Ctx.fail_keeps
  · exact .ends Ctx.fail_keeps
  · exact .bind Ctx.putStream_keeps fun _ _ => .pure trivial

theorem execCopyRecordStart_inv {bay core} (h : s.Inv) : NextInv (execCopyRecordStart bay core s) := by
  unfold execCopyRecordStart
  dsimp only
  split
  · exact .refused _
  · split
    · exact .next h.setBay
    · exact .refused _

theorem State.Inv.takeEngineFault {gid weave pc mask kind w1 w2 w3} (h : s.Inv) :
    (s.takeEngineFault gid weave pc mask kind w1 w2 w3).Inv :=
  h.deliver.endBent

theorem State.Inv.enginePlace {memo gid bent space va n acc} (h : s.Inv) :
    (s.enginePlace memo gid bent space va n acc).1.Inv := by
  unfold State.enginePlace
  split
  · exact h.globalAt
  · exact h

theorem State.Inv.copyRowsFrom {memo c k r} (h : s.Inv) : (s.copyRowsFrom memo c k r).1.Inv := by
  induction k generalizing s memo r with
  | zero => exact h
  | succ k ih =>
    unfold State.copyRowsFrom
    dsimp only
    split
    · exact h.enginePlace.enginePlace
    · exact h.enginePlace.enginePlace
    · exact ih h.enginePlace.enginePlace.loadWeak.storeAt.countDie
    · exact h.enginePlace.enginePlace

theorem State.Inv.arrival {gid off bytes a} (h : s.Inv) : (s.arrival gid off bytes a).Inv := .onGroup (h.of_mem rfl)

theorem State.Inv.enginePeg {gid weave pc mask n v a} (h : s.Inv) : (s.enginePeg gid weave pc mask n v a).Inv := by
  unfold State.enginePeg
  split
  · rename_i e
    exact (h.pegAt.fst e).addPeg
  · rename_i e
    exact (h.pegAt.fst e).takeEngineFault
  · rename_i e
    exact h.pegAt.fst e

theorem execCopyRecordComplete_inv {bay idx} (h : s.Inv) : NextInv (execCopyRecordComplete bay idx s) := by
  unfold execCopyRecordComplete
  dsimp only
  split
  · exact .refused _
  · split
    · exact .refused _
    · split
      · exact .next
          ((h.copyRowsFrom.onBay.arrival.ite h.copyRowsFrom.onBay).enginePeg.ite
            (h.copyRowsFrom.onBay.arrival.ite h.copyRowsFrom.onBay))
      · exact .next h.copyRowsFrom.onBay.takeEngineFault
      · exact .next (h.copyRowsFrom.onBay.foldl fun _ _ h' => h'.takeEntry)

theorem Ctx.pegOf_keeps {memo acc} : Keeps (c.pegOf memo acc) := by
  unfold Ctx.pegOf
  refine .bind .get fun _ h => ?_
  refine .bind (.set h.pegAt) fun _ _ => ?_
  split
  · exact .pure trivial
  · exact Ctx.fail_keeps
  · exact Ctx.fail_keeps

theorem execPadv_inv (h : s.Inv) : NextInv (execPadv o s) :=
  issue_next_inv h fun _ _ =>
    .bind Ctx.check_keeps fun _ _ =>
    .bind Ctx.ready_keeps fun _ h1 =>
    .bind (Ctx.faults_keeps h1) fun _ _ =>
    .bind
      (.foldlM fun _ _ =>
        .bind Ctx.pegOf_keeps fun _ _ =>
        .bind (.modify fun _ h2 => h2.addPeg) fun _ _ => .bind Ctx.putStream_keeps fun _ _ => .pure trivial) fun _ _ =>
    Ctx.finish_keeps

theorem execPwait_inv (h : s.Inv) : NextInv (execPwait o s) :=
  issue_next_inv h fun _ _ =>
    .bind Ctx.check_keeps fun _ _ =>
    .bind Ctx.ready_keeps fun _ h' =>
    .bind (Ctx.faults_keeps h') fun _ _ =>
    .bind (.forM fun _ => .bind Ctx.putStream_keeps fun _ _ => .pure trivial) fun _ _ =>
    .ite Ctx.putOff_keeps
      (.ite Ctx.finish_keeps
        (.bind Ctx.pegOf_keeps fun _ _ =>
          .bind .get fun _ _ =>
          .ite (.bind .get fun _ _ => .bind Ctx.join_keeps fun _ _ => Ctx.finish_keeps)
            (.bind Ctx.watch_keeps fun _ _ => Ctx.park_keeps)))

theorem execPwaitComplete_inv {r} (h : s.Inv) : NextInv (execPwaitComplete r s) := by
  unfold execPwaitComplete
  dsimp only
  split
  · split
    · split
      · exact .ite (.next h.translate.joined.completeFibre) (.refused _)
      · exact .next h.translate.takeFault
      · exact .next h.translate.takeFault
    · exact .refused _
  · exact .refused _

/-! The matrix engine. -/

theorem State.Inv.submitCommand {bay a c} (h : s.Inv) : (s.submitCommand bay a c).Inv := h.forked.onBay

theorem commandOp_inv {m} (h : s.Inv) : NextInv (commandOp m o s) :=
  issue_next_inv h fun _ h1 =>
    .ite (.ends (Ctx.stall_keeps h1))
      (.bind Ctx.check_keeps fun _ _ =>
        .bind Ctx.aligned_keeps fun _ _ =>
        .bind Ctx.ready_keeps fun _ h2 =>
        .bind (Ctx.faults_keeps h2) fun _ _ =>
        .bind
          (.forM fun _ =>
            .bind (.modify fun _ h3 => h3.submitCommand) fun _ _ =>
            .bind Ctx.putStream_keeps fun _ _ => .pure trivial) fun _ _ =>
        Ctx.finish_keeps)

theorem execMma_inv (h : s.Inv) : NextInv (execMma o s) := commandOp_inv h
theorem execMmas_inv (h : s.Inv) : NextInv (execMmas o s) := commandOp_inv h
theorem execMconv_inv (h : s.Inv) : NextInv (execMconv o s) := commandOp_inv h
theorem execMzero_inv (h : s.Inv) : NextInv (execMzero o s) := commandOp_inv h
theorem execMldc_inv (h : s.Inv) : NextInv (execMldc o s) := commandOp_inv h
theorem execMstc_inv (h : s.Inv) : NextInv (execMstc o s) := commandOp_inv h

theorem execGuard_inv (h : s.Inv) : NextInv (execGuard o s) :=
  issue_next_inv h fun _ h1 =>
    .ite (.ends (Ctx.stall_keeps h1))
      (.bind Ctx.check_keeps fun _ _ =>
        .ite Ctx.finish_keeps (.bind (.modify fun _ h2 => h2.onBay) fun _ _ => Ctx.finish_keeps))

theorem State.Inv.setGuard {bay bent n v a} (h : s.Inv) : (s.setGuard bay bent n v a).Inv :=
  (h.edge.ite h).onBay.ite h.onBent

theorem execGset_inv (h : s.Inv) : NextInv (execGset o s) :=
  issue_next_inv h fun _ _ =>
    .bind Ctx.check_keeps fun _ _ =>
    .bind Ctx.gather_keeps fun _ _ =>
    .bind
      (.forM fun _ =>
        .bind (.modify fun _ h' => h'.setGuard) fun _ _ => .bind Ctx.putStream_keeps fun _ _ => .pure trivial) fun _ _ =>
    Ctx.finish_keeps

theorem State.Inv.commandEdges {bay c} (h : s.Inv) : (s.commandEdges bay c).Inv := h.edge

/-! A running command of the matrix unit: whatever it has come to, its state meets the invariant. -/

/-- From every state that meets the invariant, a running command comes to one. -/
def EngKeeps {α : Type} (x : Eng α) : Prop := ∀ st : State × Memo, st.1.Inv → (x st).2.1.Inv

section

variable {α β : Type} {x : Eng α} {f : α → Eng β} {c : MCmd} {bay : Nat} {st : State × Memo}

theorem EngKeeps.pure {a : α} : EngKeeps (Pure.pure a) := fun _ h => h
theorem EngKeeps.throw {e : EngStop} : EngKeeps (throw e : Eng α) := fun _ h => h
theorem EngKeeps.set {t : State × Memo} (h : t.1.Inv) : EngKeeps (set t : Eng PUnit) := fun _ _ => h

theorem EngKeeps.modify {g : State × Memo → State × Memo} (h : ∀ st, st.1.Inv → (g st).1.Inv) :
    EngKeeps (modify g : Eng PUnit) := h

theorem EngKeeps.bind (h : EngKeeps x) (k : ∀ a, EngKeeps (f a)) : EngKeeps (x >>= f) := by
  intro st hst
  have hx := h st hst
  show (ExceptT.bindCont (m := StateM (State × Memo)) f (x st).1 (x st).2).2.1.Inv
  cases (x st).1 with
  | ok a => exact k a _ hx
  | error e => exact hx

theorem EngKeeps.bind_get {f : State × Memo → Eng β} (k : ∀ st, st.1.Inv → EngKeeps (f st)) :
    EngKeeps (get >>= f) := fun st h => k st h st h

theorem EngKeeps.mapM {γ : Type} {l : List γ} {g : γ → Eng α} (h : ∀ a, EngKeeps (g a)) : EngKeeps (l.mapM g) := by
  induction l with
  | nil => exact .pure
  | cons a r ih =>
    rw [List.mapM_cons]
    exact .bind (h a) fun _ => .bind ih fun _ => .pure

theorem EngKeeps.ite {p : Prop} [Decidable p] {y : Eng α} (h : EngKeeps x) (k : EngKeeps y) :
    EngKeeps (if p then x else y) := by
  split
  · exact h
  · exact k

/-- Two ways to a value that is then used alike. -/
theorem EngKeeps.either {p : Prop} [Decidable p] {y : Eng α} (h : EngKeeps x) (k : EngKeeps y)
    (hf : ∀ a, EngKeeps (f a)) : EngKeeps (if p then x >>= f else y >>= f) := .ite (.bind h hf) (.bind k hf)

theorem MCmd.place_keeps {space va n acc} : EngKeeps (c.place space va n acc) := by
  refine .bind_get fun st h => .bind (.set h.enginePlace) fun _ => ?_
  split
  · exact .pure
  · exact .throw
  · exact .throw

theorem MCmd.load_keeps {space p n chunk} : EngKeeps (c.load space p n chunk) :=
  .bind_get fun _ h => .bind (.set h.loadWeak) fun _ => .pure

theorem MCmd.read_keeps {space va n} : EngKeeps (c.read space va n) := .bind MCmd.place_keeps fun _ => MCmd.load_keeps

theorem MCmd.memElem_keeps {space base stride fmt i k} : EngKeeps (c.memElem space base stride fmt i k) :=
  .bind MCmd.read_keeps fun _ => .ite (.bind MCmd.read_keeps fun _ => .pure) .pure

theorem MCmd.tileElem_keeps {i k} : EngKeeps (c.tileElem bay i k) :=
  .ite .pure (.bind MCmd.load_keeps fun _ => .bind_get fun _ _ => .pure)

theorem MCmd.convElem_keeps {i k} : EngKeeps (c.convElem i k) := by
  refine .ite .pure (.ite .pure (.ite (.bind_get fun _ _ => ?_) (.bind MCmd.read_keeps fun _ => .pure)))
  dsimp only
  split
  · exact .bind MCmd.read_keeps fun _ => .pure
  · exact .ite (.bind MCmd.read_keeps fun _ => .pure) (.bind .throw fun _ => .bind MCmd.read_keeps fun _ => .pure)

theorem MCmd.row_keeps {k0 cnt n} : EngKeeps (c.row bay k0 cnt n) :=
  .ite
    (.ite (.bind (.mapM fun _ => MCmd.convElem_keeps) fun _ => .pure)
      (.ite (.bind (.mapM fun _ => MCmd.tileElem_keeps) fun _ => .pure)
        (.bind (.mapM fun _ => .ite .pure MCmd.memElem_keeps) fun _ => .pure)))
    (.bind (.mapM fun _ => .ite .pure MCmd.memElem_keeps) fun _ => .pure)

theorem MCmd.tileWords_keeps {tile off n} : EngKeeps (c.tileWords tile off n) := .bind MCmd.load_keeps fun _ => .pure

theorem MCmd.begin_keeps : EngKeeps (c.begin bay) := by
  refine .ite .pure (.bind (.modify fun _ h => State.Inv.commandEdges h) fun _ => ?_)
  refine .either MCmd.read_keeps .pure fun _ => .either MCmd.read_keeps .pure fun _ => ?_
  exact .ite (.bind .throw fun _ => .either MCmd.tileWords_keeps .pure fun _ => .pure)
    (.either MCmd.tileWords_keeps .pure fun _ => .pure)

theorem MCmd.write_keeps {l} : EngKeeps (c.write bay l) :=
  .bind_get fun _ h => .set (h.foldl fun _ _ k => k.storeAt)

theorem MCmd.tileStep_keeps : EngKeeps (c.tileStep bay) := by
  refine .ite (.bind MCmd.read_keeps fun _ => .pure) (.bind MCmd.tileWords_keeps fun _ => ?_)
  refine .bind MCmd.place_keeps fun _ => ?_
  exact .ite (.bind .pure fun _ => .bind MCmd.write_keeps fun _ => .pure)
    (.bind MCmd.place_keeps fun _ => .bind .pure fun _ => .bind MCmd.write_keeps fun _ => .pure)

theorem MCmd.fetchRows_inv {k0 cnt fuel} (h : st.1.Inv) : (c.fetchRows bay k0 cnt fuel st).2.1.Inv := by
  induction fuel generalizing c st with
  | zero => exact h
  | succ fuel ih =>
    have read := MCmd.row_keeps (c := c) (bay := bay) (k0 := k0) (cnt := cnt) (n := c.rows.length) st h
    rw [MCmd.fetchRows]
    split
    · exact h
    · split <;> rename_i e <;> rw [e] at read
      · exact ih read
      · exact read

theorem MCmd.oneStep_inv (h : st.1.Inv) : (c.oneStep bay st).2.1.Inv := by
  rw [MCmd.oneStep]
  split
  · have fetched := MCmd.fetchRows_inv (c := c) (bay := bay) (k0 := c.step * stepElems c.fa)
      (cnt := min (stepElems c.fa) (c.k - c.step * stepElems c.fa)) (fuel := 128) h
    dsimp only
    split <;> rename_i e <;> rw [e] at fetched <;> exact fetched
  · have stepped := MCmd.tileStep_keeps (c := c) (bay := bay) st h
    split <;> rename_i e <;> rw [e] at stepped <;> exact stepped

theorem MCmd.steps_inv {n} (h : st.1.Inv) : (c.steps bay n st).2.1.Inv := by
  induction n generalizing c st with
  | zero => exact h
  | succ n ih =>
    have stepped := MCmd.oneStep_inv (c := c) (bay := bay) h
    rw [MCmd.steps]
    split
    · exact h
    · split
      · rename_i e
        rw [e] at stepped
        exact ih stepped
      · exact stepped

theorem MCmd.run_inv {s : State} {n} (h : s.Inv) : (c.run bay n s).2.Inv := by
  have begun := MCmd.begin_keeps (c := c) (bay := bay) (s, []) h
  rw [MCmd.run]
  split <;> rename_i e <;> rw [e] at begun
  · exact begun
  · exact MCmd.steps_inv begun

end

theorem State.Inv.setHead {bay c} (h : s.Inv) : (s.setHead bay c).Inv := h.onBay

theorem State.Inv.leaveQueue {bay c} (h : s.Inv) : (s.leaveQueue bay c).Inv := by
  unfold State.leaveQueue
  split
  · exact h.edge.onBay.enginePeg
  · exact h.edge.onBay

theorem State.Inv.stopCommand {bay c e} (h : s.Inv) : (s.stopCommand bay c e).Inv := by
  unfold State.stopCommand
  split
  · exact h.setHead.foldl fun _ _ h' => h'.takeEntry
  · exact h.takeEngineFault
  · exact h.leaveQueue.takeEngineFault

theorem State.Inv.countSteps {before after} (h : s.Inv) : (s.countSteps before after).Inv :=
  h.countDie.countDie.ite h

theorem execMatrixCommandHead_inv {bay steps} (h : s.Inv) : NextInv (execMatrixCommandHead bay steps s) := by
  unfold execMatrixCommandHead
  dsimp only
  split
  · exact .refused _
  · split
    · exact .refused _
    · split
      · exact .next h.leaveQueue
      · exact .refused _
      · exact .refused _
      · split
        · rename_i e
          exact .next ((MCmd.run_inv h).snd e).setHead.countSteps
        · rename_i e
          exact .next ((MCmd.run_inv h).snd e).stopCommand.countSteps

theorem State.Inv.retireWrites {bay c} (h : s.Inv) : (s.retireWrites bay c).Inv := by
  unfold State.retireWrites
  split
  · exact .onBay (h.of_mem rfl)
  · exact .onBay (h.of_mem rfl)
  · exact h.onBay.onGroup
  · exact .onBay (h.of_mem rfl)

theorem execMatrixCommandRetire_inv {bay} (h : s.Inv) : NextInv (execMatrixCommandRetire bay s) := by
  unfold execMatrixCommandRetire
  split
  · exact .refused _
  · exact .ite (.next h.retireWrites.leaveQueue) (.refused _)

/-! DIST, top-k lists and the answers of the lapidary. -/

theorem Ctx.distPlaces_inv {space size g} (hg : g.st.Inv) : (c.distPlaces space size g).1.st.Inv := by
  unfold Ctx.distPlaces
  dsimp only
  refine foldl_fst_st_inv hg fun _ _ h => ?_
  split <;> exact Ctx.place_inv (Ctx.place_inv h)

theorem execDist_inv (h : s.Inv) : NextInv (execDist o s) :=
  issue_next_inv h fun _ _ =>
    .bind Ctx.check_keeps fun _ _ =>
    .bind Ctx.readyWith_keeps fun _ h1 =>
    .bind (Ctx.logRoomFor_keeps h1) fun _ h2 =>
    .bind (Ctx.faults_keeps (Ctx.distPlaces_inv h2)) fun _ _ =>
    .bind
      (.mapM fun _ =>
        .bind Ctx.loadWeak_keeps fun _ _ =>
        .bind Ctx.loadWeak_keeps fun _ _ =>
        .bind Ctx.makeX_keeps fun _ _ =>
        .bind Ctx.putStream_keeps fun _ _ => .bind Ctx.sticky_keeps fun _ _ => .pure trivial) fun _ _ =>
    Ctx.finish_keeps

theorem State.Inv.listPut {owner off bs a} (h : s.Inv) : (s.listPut owner off bs a).Inv := h.storeAt

theorem Ctx.topk_keeps {slots bad before kOf} (hc : c.s0.Inv) (hbefore : ∀ g, Keeps (before g)) :
    Keeps (c.topk slots bad before kOf) fun g => g.st.Inv :=
  .ite (.ends (Ctx.stall_keeps hc))
    (.bind Ctx.check_keeps fun _ _ =>
      .bind Ctx.ready_keeps fun _ h' =>
      .bind (hbefore _) fun _ _ => .bind (Ctx.faults_keeps h') fun _ _ => .gathered h')

theorem State.Inv.clearList {gid owner off k isMin a} (h : s.Inv) : (s.clearList gid owner off k isMin a).Inv :=
  (h.foldl fun _ _ h' => h'.onGroup).listPut

theorem execTopkClr_inv (h : s.Inv) : NextInv (execTopkClr o s) := by
  unfold execTopkClr
  refine issue_next_inv h fun _ h1 => ?_
  refine .bind (Ctx.topk_keeps h1 fun _ => .pure trivial) fun _ _ => ?_
  refine .andThen ?_ fun _ => Ctx.finish_keeps
  refine .forM fun _ => ?_
  split
  · exact .bind (.modify fun _ h2 => h2.clearList) fun _ _ => .bind Ctx.putStream_keeps fun _ _ => .pure trivial
  · exact .bind Ctx.putStream_keeps fun _ _ => .pure trivial

theorem execTopkRd_inv (h : s.Inv) : NextInv (execTopkRd o s) :=
  issue_next_inv h fun _ h1 =>
    .bind (Ctx.topk_keeps h1 fun _ => .pure trivial) fun _ _ =>
    .bind
      (.mapM fun _ =>
        .bind Ctx.result_keeps fun _ _ =>
        .bind (.forM fun _ => .modify fun _ h2 => h2.setX) fun _ _ => .pure trivial) fun _ _ =>
    Ctx.finish_keeps

theorem State.Inv.placePair {gid w t k p} (h : s.Inv) : (s.placePair gid w t k p).Inv :=
  (h.onGroup.ite h).listPut.listPut.listPut.onGroup

theorem State.Inv.releaseClaim {bay owner off} (h : s.Inv) : (s.releaseClaim bay owner off).Inv := h.onBay

theorem State.Inv.insertAll {bay gid w l start ans} (h : s.Inv) : (s.insertAll bay gid w l start ans).1.Inv := by
  induction l generalizing s start ans with
  | nil => exact h
  | cons t rest ih =>
    unfold State.insertAll
    dsimp only
    split
    · exact h
    · dsimp only
      refine ih ?_
      split
      · exact (h.placePair.ite h.placePair.releaseClaim).onLane
      · exact h.placePair.ite h.placePair.releaseClaim
    · dsimp only
      refine ih ?_
      split
      · exact (h.ite h.releaseClaim).onLane
      · exact h.ite h.releaseClaim

theorem State.Inv.askNext {bay i key} (h : s.Inv) : (s.askNext bay i key).Inv := by
  unfold State.askNext
  split
  · exact h
  · exact h.onBay.sendRequests

theorem execTopkIns_inv (h : s.Inv) : NextInv (execTopkIns o s) := by
  unfold execTopkIns
  refine issue_next_inv h fun _ h1 => ?_
  refine .bind (Ctx.topk_keeps h1 fun _ => ?_) fun _ _ => ?_
  · split
    · exact Ctx.trap_keeps
    · exact .pure trivial
  · refine .bind (.modify fun _ h2 => h2.onBay) fun _ _ => .bind .get fun _ h3 => ?_
    refine .bind (.set h3.insertAll) fun _ _ => ?_
    split
    · exact Ctx.finish_keeps
    · exact .bind Ctx.watch_keeps fun _ _ =>
        .ite (.bind Ctx.refine_keeps fun _ _ => .modify fun _ h4 => h4.askNext)
          (.bind (.modify fun _ h5 => h5.reweave) fun _ _ =>
            .bind Ctx.wait_keeps fun _ _ =>
            .bind (.modify fun _ h6 => h6.settleHalts) fun _ _ => .modify fun _ h7 => h7.askNext)

theorem State.Inv.leave {x} (h : s.Inv) : (s.leave x).Inv :=
  h.settleHalts.ite (h.reweave.settleHalts.foldl fun _ _ h' => h'.takeTrap)

theorem State.Inv.goOn {bay r i o} (h : s.Inv) : (s.goOn bay r i o).Inv := by
  unfold State.goOn
  dsimp only
  split
  · exact h.onBay.insertAll.leave
  · exact h.onBay.insertAll.gaugeEvents.keepHalts.leave.askNext

theorem State.Inv.giveUp {bay r i cls cause info} (h : s.Inv) : (s.giveUp bay r i cls cause info).Inv :=
  (h.foldl fun _ _ h' => h'.releaseClaim).onBay.leave

theorem State.Inv.verdicts {t : State} {bay l r} (h : s.Inv) (e : s.verdicts bay l = some (t, r)) : t.Inv := by
  induction l generalizing s r with
  | nil =>
    cases e
    exact h
  | cons i rest ih =>
    rw [State.verdicts] at e
    split at e
    · cases e
    · dsimp only at e
      split at e
      · cases e
      · obtain ⟨p, hp, ep⟩ := Option.map_eq_some_iff.1 e
        cases ep
        exact ih h.runRequest hp

theorem State.Inv.tellAnswer {a} (h : s.Inv) : (s.tellAnswer a).Inv := h.countStages.answerEvent.keepHalts

theorem State.Inv.answerLanes {r l} (h : s.Inv) : (s.answerLanes r l).Inv := by
  unfold State.answerLanes
  refine .leave ?_
  refine h.foldl fun _ _ h' => ?_
  split
  · exact h'.onLane
  · exact h'

theorem State.Inv.answerInsert {bay a} (h : s.Inv) : (s.answerInsert bay a).Inv := by
  unfold State.answerInsert
  dsimp only
  split
  · exact h.goOn
  · exact h.giveUp
  · exact h

theorem State.Inv.answerAll {bay l} (h : s.Inv) : (s.answerAll bay l).Inv :=
  ((((h.foldl fun _ _ h' => h'.answered.dropRequest).foldl fun _ _ h' => h'.tellAnswer).foldl fun _ _ h' =>
    h'.answerLanes).foldl fun _ _ h' =>
    h'.answerInsert).onBay.enterRequests

/-! Instruction fetch. -/

theorem State.Inv.codeLine {core line launch} (h : s.Inv) : (s.codeLine core line launch).1.Inv := by
  unfold State.codeLine
  refine .setCore ?_
  split
  · rename_i e
    dsimp only
    split
    · exact h.physLoad.fst e
    · exact (h.physLoad.fst e).choose
  · rename_i e
    dsimp only
    split
    · exact h.physLoad.fst e
    · exact (h.physLoad.fst e).choose

theorem State.Inv.fetchFault {r f es} (h : s.Inv) : (s.fetchFault r f es).Inv := by
  unfold State.fetchFault
  split
  · exact h.payEvents.takeFault
  · exact h.payEvents.onFibre.takeLate

/-- A fetch ends in the state that reading its words has come to. -/
theorem fetched_inv {α : Type} {p : State × α × List (DWord × AccErr) × List Word} {r f} (h : p.1.Inv) :
    (if p.2.2.1.isEmpty then Fetched.words p.1 p.2.2.2 else .stop (p.1.fetchFault r f p.2.2.1)).Inv := by
  split
  · exact .words h
  · exact .stop h.fetchFault

theorem State.Inv.fetchWords {r f} (h : s.Inv) : (s.fetchWords r f).Inv := by
  unfold State.fetchWords
  dsimp only
  split
  · exact .stop h.pageAt.fetchFault
  · refine fetched_inv (foldl_fst_inv h.pageAt.codeLine fun _ _ h' => ?_)
    have paged : ∀ {t : State} {p : Prop} [Decidable p] {u memo a space va}, t.Inv →
        (if p then (t, u) else t.pageAt memo a space va .fetch).1.Inv := by
      intro t p _ u memo a space va ht
      split
      · exact ht
      · exact ht.pageAt
    split
    · exact paged h'
    · split
      · exact paged h'
      · exact (paged h').codeLine

theorem State.Inv.countIssue {r act} (h : s.Inv) : (s.countIssue r act).Inv := h.onWeave.countCore.countCore

theorem fetch_inv {r} (h : s.Inv) : (fetch r s).Inv := by
  unfold fetch
  split
  · exact .nothing
  · split
    · rename_i e
      exact .stop (.of_mem (Fetched.Inv.of_stop h.fetchWords e) rfl)
    · rename_i e
      split
      · split
        · exact .run (Fetched.Inv.of_words h.fetchWords e).countIssue
        · exact .stop (.of_mem (Fetched.Inv.of_words h.fetchWords e) rfl)
      · exact .stop (.takeTrap (.pcEvents (.of_mem (Fetched.Inv.of_words h.fetchWords e).countIssue rfl)))

/-! Branches, calls, lane life, barriers, loops, votes and shuffles. -/

theorem Ctx.targets_keeps {ts} : Keeps (c.targets ts) := Ctx.aligned_keeps

theorem branch_inv {m own target window enter} (h : s.Inv) : NextInv (branch m o s own target window enter) :=
  issue_next_inv h fun _ _ =>
    .bind Ctx.check_keeps fun _ _ =>
    .bind Ctx.targets_keeps fun _ _ =>
    .bind Ctx.watch_keeps fun _ _ => .bind (.forM fun _ => Ctx.onLane_keeps) fun _ _ => Ctx.regroup_keeps

theorem braOp_inv (h : s.Inv) : NextInv (braOp o s) := branch_inv h
theorem callOp_inv (h : s.Inv) : NextInv (callOp o s) := branch_inv h
theorem retOp_inv (h : s.Inv) : NextInv (retOp o s) := branch_inv h
theorem execBrx_inv (h : s.Inv) : NextInv (execBrx o s) := branch_inv h
theorem execCalli_inv (h : s.Inv) : NextInv (execCalli o s) := branch_inv h

theorem execFork_inv (h : s.Inv) : NextInv (execFork o s) :=
  issue_next_inv h fun _ _ =>
    .bind Ctx.check_keeps fun _ _ =>
    .bind Ctx.targets_keeps fun _ _ =>
    .bind (.forM fun _ => Ctx.onLane_keeps) fun _ _ =>
    .ite Ctx.finish_keeps (.bind (.modify fun _ h' => h'.reweave) fun _ _ => Ctx.finish_keeps)

theorem Ctx.leave_keeps {change} : Keeps (c.leave change) :=
  .bind Ctx.watch_keeps fun _ _ =>
  .bind (.forM fun _ => Ctx.onLane_keeps) fun _ _ =>
  .ite (.bind Ctx.regroup_keeps fun _ _ => .modify fun _ h1 => h1.checkBarriers)
    (.bind (.modify fun _ h2 => h2.onGroup) fun _ _ =>
      .bind Ctx.regroup_keeps fun _ _ => .modify fun _ h3 => h3.checkBarriers)

theorem quitOp_inv (h : s.Inv) : NextInv (quitOp o s) :=
  issue_next_inv h fun _ _ => .bind Ctx.check_keeps fun _ _ => Ctx.leave_keeps

theorem exitOp_inv (h : s.Inv) : NextInv (exitOp o s) :=
  issue_next_inv h fun _ _ =>
    .bind Ctx.check_keeps fun _ _ =>
    .bind (.modify fun _ h1 => h1.reportStatus) fun _ _ =>
    .bind (.modify fun _ h2 => h2.onGroup) fun _ _ => Ctx.leave_keeps

theorem arriveOp_inv {m ofBent} (h : s.Inv) : NextInv (arriveOp m ofBent o s) :=
  issue_next_inv h fun _ _ =>
    .bind Ctx.check_keeps fun _ _ =>
    .bind Ctx.watch_keeps fun _ _ => .modify fun _ h' => h'.arrive.settleHalts

theorem execBar_inv (h : s.Inv) : NextInv (execBar o s) := arriveOp_inv h
theorem execBarExt_inv (h : s.Inv) : NextInv (execBarExt o s) := arriveOp_inv h
theorem execBarb_inv (h : s.Inv) : NextInv (execBarb o s) := arriveOp_inv h

theorem execSpan_inv (h : s.Inv) : NextInv (execSpan o s) :=
  issue_next_inv h fun _ _ =>
    .bind Ctx.check_keeps fun _ _ => .bind (.modify fun _ h' => h'.onWeave) fun _ _ => Ctx.finish_keeps

theorem execLoop_inv (h : s.Inv) : NextInv (execLoop o s) :=
  issue_next_inv h fun _ _ =>
    .bind Ctx.check_keeps fun _ _ =>
    .bind Ctx.targets_keeps fun _ _ =>
    .bind (.forM fun _ => Ctx.put_keeps) fun _ _ => .bind Ctx.watch_keeps fun _ _ => Ctx.regroup_keeps

theorem nopOp_inv (h : s.Inv) : NextInv (nopOp o s) := issue_next_inv h fun _ _ => Ctx.finish_keeps

theorem yieldOp_inv (h : s.Inv) : NextInv (yieldOp o s) :=
  issue_next_inv h fun _ _ => .bind (.modify fun _ h' => h'.onWeave) fun _ _ => Ctx.finish_keeps

theorem execVote_inv (h : s.Inv) : NextInv (execVote o s) := compute_inv h

theorem execShfl_inv (h : s.Inv) : NextInv (execShfl o s) := by
  unfold execShfl
  dsimp only
  refine issue_next_inv h fun _ _ => ?_
  refine .bind Ctx.check_keeps fun _ _ => ?_
  refine .bind Ctx.gather_keeps fun _ _ => ?_
  refine .andThen ?_ fun _ => Ctx.finish_keeps
  refine .mapM fun _ => ?_
  split
  · refine .andThen ?_ fun _ =>
      .bind Ctx.put_keeps fun _ _ =>
      .bind Ctx.put_keeps fun _ _ => .bind Ctx.putStream_keeps fun _ _ => .pure trivial
    split
    · exact .value
    · exact .ite (.modifyGet fun _ h' => h'.free) (.pure trivial)
  · exact .bind Ctx.putStream_keeps fun _ _ => .pure trivial

/-! Launches, range tasks and storage reads. -/

theorem State.Inv.areaMissing {r} (h : s.Inv) : (s.areaMissing r).1.Inv := by
  unfold State.areaMissing
  split
  · exact h.choose
  · exact h

theorem State.Inv.readable {a space va n} (h : s.Inv) : (s.readable a space va n).1.Inv := by
  unfold State.readable
  split
  · exact h
  · exact h.globalAt

theorem State.Inv.readVa {a space va n after} (h : s.Inv) : (s.readVa a space va n after).1.Inv := by
  unfold State.readVa
  dsimp only
  split
  · exact h
  · split
    · exact h.globalAt.forked.loadWeak
    · exact h.globalAt

theorem State.Inv.recReads {g space r} (h : s.Inv) : (s.recReads g space r).1.Inv := by
  unfold State.recReads
  dsimp only
  split
  · exact h.readable
  · exact h.readable.readable

theorem State.Inv.addLaunch {gid va r a} (h : s.Inv) : (s.addLaunch gid va r a).Inv := .of_mem h.free.edge rfl

theorem State.Inv.launchOne {gid va r a} (h : s.Inv) : (s.launchOne gid va r a).1.Inv := by
  unfold State.launchOne
  dsimp only
  split
  · exact h
  · split
    · exact h.areaMissing
    · split
      · exact h.areaMissing
      · exact h.areaMissing.addLaunch

theorem State.Inv.addTask {gid r a} (h : s.Inv) : (s.addTask gid r a).Inv := by
  unfold State.addTask
  split
  · exact .of_mem h.free.edge rfl
  · exact h

theorem State.Inv.taskOne {gid r a} (h : s.Inv) : (s.taskOne gid r a).1.Inv := by
  unfold State.taskOne
  dsimp only
  split
  · exact h
  · split
    · exact h
    · split
      · exact h
      · split
        · exact h
        · exact h.addTask

theorem submitOp_inv {m size own one} (h : s.Inv) (hone : ∀ s g va r a, s.Inv → (one s g va r a).1.Inv) :
    NextInv (submitOp m size own one o s) :=
  issue_next_inv h fun _ _ =>
    .bind Ctx.check_keeps fun _ _ =>
    .bind Ctx.gather_keeps fun _ _ =>
    .bind
      (.mapM fun _ =>
        .bind Ctx.loadWeak_keeps fun _ _ =>
        .bind .get fun _ h' => .bind (.set (hone _ _ _ _ _ h')) fun _ _ => Ctx.result_keeps) fun _ _ =>
    Ctx.finish_keeps

theorem execLaunch_inv (h : s.Inv) : NextInv (execLaunch o s) := submitOp_inv h fun _ _ _ _ _ h' => h'.launchOne
theorem execTask_inv (h : s.Inv) : NextInv (execTask o s) := submitOp_inv h fun _ _ _ _ _ h' => h'.taskOne

theorem execTnext_inv (h : s.Inv) : NextInv (execTnext o s) := by
  unfold execTnext
  dsimp only
  refine issue_next_inv h fun _ _ => ?_
  refine .bind Ctx.check_keeps fun _ _ => ?_
  refine .bind Ctx.targets_keeps fun _ _ => ?_
  split
  · exact .bind (.modify fun _ h1 => h1.onBent) fun _ _ =>
      .bind (.modify fun _ h2 => h2.onGroup) fun _ _ => Ctx.finish_keeps
  · exact .bind Ctx.watch_keeps fun _ _ => Ctx.regroup_keeps

theorem Ctx.stLane_inv {memo i} (h : s.Inv) : (c.stLane s memo i).Inv := by
  unfold Ctx.stLane
  dsimp only
  split
  · exact .bad h.loadWeak
  · split
    · exact .bad h.loadWeak.globalAt
    · exact .late h.loadWeak.globalAt
    · split
      · exact .full
      · split
        · exact .full
        · exact .done (.of_mem h.loadWeak.globalAt.forked.edge rfl)
    · exact .full

theorem Ctx.stLanes_keeps {l memo late} : Keeps (c.stLanes l memo late) := by
  induction l generalizing memo late with
  | nil => exact .value
  | cons i rest ih =>
    unfold Ctx.stLanes
    intro s h
    dsimp only
    split
    · rename_i e
      exact .run ih (StLane.Inv.of_done (Ctx.stLane_inv h) e)
    · rename_i e
      exact .run ih (StLane.Inv.of_late (Ctx.stLane_inv h) e)
    · exact .ok trivial h
    · rename_i e
      exact .error (StLane.Inv.of_bad (Ctx.stLane_inv h) e).payEvents.takeFault

theorem execStload_inv (h : s.Inv) : NextInv (execStload o s) :=
  issue_next_inv h fun _ _ =>
    .bind Ctx.check_keeps fun _ _ =>
    .bind Ctx.ready_keeps fun _ h' =>
    .bind (Ctx.faults_keeps h') fun _ _ =>
    .bind Ctx.stLanes_keeps fun _ _ =>
    .ite Ctx.finish_keeps (.bind Ctx.watch_keeps fun _ _ => Ctx.waitFor_keeps)

theorem State.Inv.launchPeg {a l n acc} (h : s.Inv) : (s.launchPeg a l n acc).1.Inv := by
  unfold State.launchPeg
  split
  · exact h
  · exact h.translate

theorem State.Inv.storagePeg {c n} (h : s.Inv) : (s.storagePeg c n).Inv := by
  unfold State.storagePeg
  split
  · exact h
  · split
    · rename_i e
      exact (h.launchPeg.fst e).addPeg
    · rename_i e
      exact (h.launchPeg.fst e).deliver.endBent

theorem execStloadCompletion_inv {idx status data} (h : s.Inv) : NextInv (execStloadCompletion idx status data s) := by
  unfold execStloadCompletion
  split
  · exact .refused _
  · refine .next ?_
    split
    · exact .storagePeg (.ite (.edge (.storeAt (h.of_mem rfl))) (.deliver (.edge (.storeAt (h.of_mem rfl)))))
    · exact .ite (.edge (.storeAt (h.of_mem rfl))) (.deliver (.edge (.storeAt (h.of_mem rfl))))

/-! The life of a bent, from its placement to its retirement. -/

theorem State.Inv.takeClaim {b bay} (h : s.Inv) : (s.takeClaim b bay).Inv := h.of_mem rfl

theorem State.Inv.holdRegion {bay core base len dcb} (h : s.Inv) : (s.holdRegion bay core base len dcb).Inv :=
  h.setBay

theorem State.Inv.startGroup {b l bay m p} (h : s.Inv) : (s.startGroup b l bay m p).1.Inv :=
  .of_mem (s := if m.isStream then _ else _) (.ite h.setDie h.setDie.holdRegion) rfl

theorem State.Inv.startGroups {b l bay ms ps} (h : s.Inv) : (s.startGroups b l bay ms ps).1.Inv := by
  induction ms generalizing s ps with
  | nil => exact h
  | cons m rest ih =>
    unfold State.startGroups
    exact ih h.startGroup

theorem State.Inv.unchoose {b} (h : s.Inv) : (s.unchoose b).Inv := h.setDie

theorem State.Inv.placeBent {b bay places} (h : s.Inv) : (s.placeBent b bay places).Inv := by
  unfold State.placeBent
  split
  · exact h
  · exact ((h.takeClaim.ite h).onBent.startGroups.onBent.unchoose.foldl fun _ _ h' => h'.syncTable).countDie

theorem execBentPlacement_inv {uid bay places} (h : s.Inv) : NextInv (execBentPlacement uid bay places s) := by
  unfold execBentPlacement
  split
  · exact .ite (.next h.placeBent) (.refused _)
  · exact .refused _

theorem execEffectiveClassReaches7_inv {uid bay} (h : s.Inv) : NextInv (execEffectiveClassReaches7 uid bay s) := by
  unfold execEffectiveClassReaches7
  split
  · exact .ite (.next h.setDie.onBent) (.refused _)
  · exact .refused _

theorem State.Inv.switchBanks {b shadow} (h : s.Inv) : (s.switchBanks b shadow).Inv :=
  h.foldl fun _ _ h' => h'.setCore

theorem State.Inv.areaFault {b kind} (h : s.Inv) : (s.areaFault b kind).Inv := h.reportEnd.endBent

theorem State.Inv.saveBent {b} (h : s.Inv) : (s.saveBent b).Inv :=
  h.choose.free.onBent.areaFault.ite
    (h.choose.free.onBent.switchBanks.foldl fun _ _ h' => h'.clearTable).setBay.onBent.countDie

theorem execPreemption_inv {uid} (h : s.Inv) : NextInv (execPreemption uid s) := by
  unfold execPreemption
  split
  · exact .refused _
  · exact .ite (.next h.saveBent) (.ite (.next (h.onBent.ite h.saveBent)) (.refused _))

theorem State.Inv.moveGroup {b gid bay p} (h : s.Inv) : (s.moveGroup b gid bay p).Inv := by
  unfold State.moveGroup
  split
  · exact h
  · exact (h.ite h.holdRegion).setGroup

theorem State.Inv.landAnswer {q v} (h : s.Inv) : (s.landAnswer q v).Inv := by
  unfold State.landAnswer
  split
  · exact h
  · exact h.foldl fun _ _ h' => h'.onGroup.onFibre.edge.settleHalts

theorem State.Inv.landAnswers {b} (h : s.Inv) : (s.landAnswers b).Inv := h.setDie.foldl fun _ _ h' => h'.landAnswer

theorem State.Inv.moveGroups {b bay gs ps} (h : s.Inv) : (s.moveGroups b bay gs ps).Inv := by
  induction gs generalizing s ps with
  | nil => exact h
  | cons gid rest ih =>
    unfold State.moveGroups
    exact (ih h).ite ((ih h.moveGroup).ite (ih h.moveGroup))

theorem State.Inv.restoreBent {b bay places} (h : s.Inv) : (s.restoreBent b bay places).Inv :=
  h.moveGroups.onBay.onBent.enterRequests.landAnswers.unchoose.switchBanks.foldl fun _ _ h' => h'.syncTable

theorem execRestore_inv {uid bay places} (h : s.Inv) : NextInv (execRestore uid bay places s) := by
  unfold execRestore
  split
  · exact .ite (.next (h.choose.areaFault.ite (h.choose.areaFault.ite h.choose.restoreBent))) (.refused _)
  · exact .refused _

theorem State.Inv.reportDormant {g} (h : s.Inv) : (s.reportDormant g).Inv :=
  h.foldl fun _ _ h1 => h1.foldl fun _ _ h2 => h2.reportStatus

theorem State.Inv.commitVersion {p a} (h : s.Inv) : (s.commitVersion p a).Inv :=
  h.ite (.note (.of_mem (h.foldl fun _ _ h' => h'.physStore) rfl))

theorem State.Inv.creditPiece {gid b} (h : s.Inv) : (s.creditPiece gid b).Inv := by
  unfold State.creditPiece
  dsimp only
  split
  · exact h
  · split
    · exact h.forked.commitVersion
    · exact h.forked.commitVersion.ite h.forked.commitVersion.enginePeg

theorem State.Inv.withdraw {gid} (h : s.Inv) : (s.withdraw gid).Inv := h.onEngines.setDie
theorem State.Inv.noteRetired {g} (h : s.Inv) : (s.noteRetired g).Inv := h.ite h.setDie

theorem execGroupRetire_inv {gid} (h : s.Inv) : NextInv (execGroupRetire gid s) := by
  unfold execGroupRetire
  split
  · exact .refused _
  · split
    · exact .refused _
    · refine .next ?_
      refine .onGroup ?_
      refine .clearTable ?_
      refine .noteRetired ?_
      split
      · exact h.onGroup.reportDormant.withdraw.creditPiece
      · exact h.onGroup.reportDormant.withdraw

theorem State.Inv.reportBent {b} (h : s.Inv) : (s.reportBent b).Inv := h.ite h.deliver

theorem execBentRetire_inv {uid} (h : s.Inv) : NextInv (execBentRetire uid s) := by
  unfold execBentRetire
  split
  · exact .refused _
  · exact .ite (.refused _)
      (.next (.finishBent (.onBent (.dropEntries (.of_mem (h.reportBent.onBay.ite h.reportBent) rfl)))))

/-! The instructions of the SYS group. -/

theorem execTrap_inv (h : s.Inv) : NextInv (execTrap o s) :=
  issue_next_inv h fun _ _ =>
    .bind Ctx.check_keeps fun _ _ => .ite Ctx.finish_keeps fun _ h' => .error h'.pcEvents.takeTrap

theorem State.Inv.postRequest {socket q} (h : s.Inv) : (s.postRequest socket q).Inv :=
  (h.putMem.putNat.ite h.putMem.putNat.addPeg).setDie

theorem State.Inv.postRequests {socket n} (h : s.Inv) : (s.postRequests socket n).Inv := by
  induction n generalizing s with
  | zero => exact h
  | succ k ih =>
    unfold State.postRequests
    dsimp only
    split
    · exact h
    · exact (ih h.setDie.postRequest).ite h

theorem State.Inv.request {socket q} (h : s.Inv) : (s.request socket q).Inv := h.setDie.postRequests.syncHeld

theorem execSysc_inv (h : s.Inv) : NextInv (execSysc o s) :=
  issue_next_inv h fun _ _ =>
    .bind Ctx.check_keeps fun _ _ =>
    .ite (.bind Ctx.put_keeps fun _ _ => Ctx.finish_keeps)
      (.bind .get fun _ h1 =>
        .bind (.set (h1.of_mem rfl)) fun _ _ =>
        .bind Ctx.watch_keeps fun _ _ => .bind Ctx.park_keeps fun _ _ => .modify fun _ h2 => h2.request)

theorem Ctx.inTurn_keeps {acc act l x} (hact : ∀ memo s l v, s.Inv → (act memo s l v).Inv) :
    Keeps (c.inTurn acc act l x) := by
  induction l generalizing x with
  | nil => exact .value
  | cons i rest ih =>
    unfold Ctx.inTurn
    dsimp only
    intro s h
    dsimp only
    split
    · rename_i e
      exact .runFrom (.either Ctx.result_keeps Ctx.putStream_keeps fun _ => .when Ctx.put_keeps fun _ => ih)
        (Done.Inv.of_ok (hact _ _ _ _ h) e)
    · exact .run ih h
    · rename_i e
      exact .run ih (Done.Inv.of_late (hact _ _ _ _ h) e)
    · exact .run ih h

theorem Ctx.turned_keeps {misaligned early x} (hc : c.s0.Inv) : Keeps (c.turned misaligned early x) := by
  intro s h
  have start : ({ c.s0 with cur := none } : State).Inv := hc.of_mem rfl
  unfold Ctx.turned
  dsimp only
  split
  · exact .ok trivial h
  · rename_i e
    refine .error (Ends.of_error (Q := fun _ => True) (.run ?_ start) e)
    exact .bind Ctx.refuse_keeps fun _ _ => .bind Ctx.aligned_keeps fun _ _ => Ctx.faults_keeps start

theorem siteOp_inv {m acc isPriv own bad align act} (h : s.Inv) (hact : ∀ s t o l v, s.Inv → (act s t o l v).Inv) :
    NextInv (siteOp m acc isPriv own bad align act o s) :=
  issue_next_inv h fun _ h1 =>
    .when Ctx.privileged_keeps fun _ =>
    .bind Ctx.check_keeps fun _ _ =>
    .bind .get fun _ h2 =>
    .bind (.set (Ctx.readied_inv h2)) fun _ _ =>
    .bind (Ctx.inTurn_keeps fun _ _ _ _ h3 => hact _ _ _ _ _ h3) fun _ _ =>
    .bind (Ctx.turned_keeps h1) fun _ _ => Ctx.finish_keeps

theorem State.Inv.preempt {socket v} (h : s.Inv) : (s.preempt socket v).Inv := by
  unfold State.preempt
  split
  · exact h.onBent.ite h
  · exact h

theorem State.Inv.kill {socket v} (h : s.Inv) : (s.kill socket v).Inv := by
  unfold State.kill
  split
  · exact h
  · exact h.ite (h.foldl fun _ _ h' => h'.ite h'.deliver).endBent

theorem State.Inv.writeReg {socket i v} (h : s.Inv) : (s.writeReg socket i v).Inv := by
  unfold State.writeReg
  split
  · exact h.putReg.postHeld.syncHeld
  · exact h.putReg.postRequests.syncHeld
  · exact h.putReg.foldl fun _ _ h' => h'.syncTable.ite h'
  · exact h.preempt
  · exact h.kill
  · exact h.putReg

theorem mfsrAct_inv {t l v} (h : s.Inv) : (mfsrAct s t o l v).Inv := .ok h
theorem execMfsr_inv (h : s.Inv) : NextInv (execMfsr o s) := siteOp_inv h fun _ _ _ _ _ h' => mfsrAct_inv h'
theorem mtsrAct_inv {t l v} (h : s.Inv) : (mtsrAct s t o l v).Inv := .ok h.writeReg
theorem execMtsr_inv (h : s.Inv) : NextInv (execMtsr o s) := siteOp_inv h fun _ _ _ _ _ h' => mtsrAct_inv h'

theorem State.Inv.dropTlb {op asid va socket} (h : s.Inv) : (s.dropTlb op asid va socket).Inv :=
  ((h.sinkLose.ite h).sinkLose.ite (h.sinkLose.ite h)).setDie

theorem tlbiAct_inv {t l v} (h : s.Inv) : (tlbiAct s t o l v).Inv := .ok (h.foldl fun _ _ h' => h'.dropTlb)
theorem execTlbi_inv (h : s.Inv) : NextInv (execTlbi o s) := siteOp_inv h fun _ _ _ _ _ h' => tlbiAct_inv h'

theorem State.Inv.rangeOf {t o v} (h : s.Inv) : (s.rangeOf t o v).1.Inv := by
  unfold State.rangeOf
  dsimp only
  split
  · exact h
  · exact h.globalAt

theorem cflushAct_inv {t l v} (h : s.Inv) : (cflushAct s t o l v).Inv := by
  unfold cflushAct
  split
  · rename_i e
    exact .late (h.rangeOf.fst e)
  · exact .bad
  · rename_i e
    exact .ok ((h.rangeOf.fst e).ite ((h.rangeOf.fst e).foldl fun _ _ h' => h'.flushLines))
  · rename_i e3
    exact .ok (h.rangeOf.fst e3)

theorem execCflush_inv (h : s.Inv) : NextInv (execCflush o s) := siteOp_inv h fun _ _ _ _ _ h' => cflushAct_inv h'

theorem cinvAct_inv {t l v} (h : s.Inv) : (cinvAct s t o l v).Inv := by
  unfold cinvAct
  split
  · rename_i e
    exact .late (h.rangeOf.fst e)
  · exact .bad
  · rename_i e
    exact .ok (.of_mem (h.rangeOf.fst e).note rfl)
  · rename_i e3
    exact .ok (h.rangeOf.fst e3)

theorem execCinv_inv (h : s.Inv) : NextInv (execCinv o s) := siteOp_inv h fun _ _ _ _ _ h' => cinvAct_inv h'

theorem execWaiti_inv (h : s.Inv) : NextInv (execWaiti o s) :=
  issue_next_inv h fun _ _ =>
    .bind Ctx.check_keeps fun _ _ =>
    .bind Ctx.gather_keeps fun _ _ =>
    .bind (.forM fun _ => .bind Ctx.putStream_keeps fun _ _ => .pure trivial) fun _ _ =>
    .ite Ctx.finish_keeps (.bind Ctx.watch_keeps fun _ _ => Ctx.park_keeps)

theorem execWaitiExpire_inv {r} (h : s.Inv) : NextInv (execWaitiExpire r s) := by
  unfold execWaitiExpire
  split
  · split
    · exact .ite (.next h.completeFibre) (.refused _)
    · exact .refused _
  · exact .refused _

theorem execAcct_inv (h : s.Inv) : NextInv (execAcct o s) :=
  issue_next_inv h fun _ _ =>
    .bind Ctx.check_keeps fun _ _ => .bind (.modify fun _ h' => h'.onGroup) fun _ _ => Ctx.finish_keeps

/-! The instructions of the DBG group. -/

theorem reasonOr_inv {x} (h : s.Inv) : (reasonOr s x).Inv := by
  unfold reasonOr
  split <;> exact .ok h

theorem hreadAct_inv {d l v} (h : s.Inv) : (hreadAct s d o l v).Inv := by
  unfold hreadAct
  dsimp only
  split
  · exact reasonOr_inv h
  · exact reasonOr_inv h
  · split
    · exact reasonOr_inv h
    · split
      · exact reasonOr_inv h
      · exact .ok h

theorem execHread_inv (h : s.Inv) : NextInv (execHread o s) := siteOp_inv h fun _ _ _ _ _ h' => hreadAct_inv h'

theorem State.itemWrite_inv {g t cls i w a} (h : s.Inv) : SomeInv (s.itemWrite g t cls i w a) := by
  unfold State.itemWrite
  split
  · exact .intro h.setX
  · split
    · exact .map fun _ => h.setGroup
    · exact .map fun _ => h.onLane
  · exact .bind fun _ => .map fun _ => h.onLane
  · exact .bind fun _ => .map fun _ => h.onLane
  · exact .bind fun _ => .map fun _ => h.onFibre
  · exact .intro h.setGroup
  · split
    · split
      · exact .intro (.onGroup (h.of_mem rfl))
      · exact .intro (.onEngines (h.of_mem rfl))
      · exact .intro (.onEngines (h.of_mem rfl))
      · exact .nothing
    · exact .nothing
  · exact .map fun _ => h.onLane

theorem hwriteAct_inv {d l v} (h : s.Inv) : (hwriteAct s d o l v).Inv := by
  unfold hwriteAct
  dsimp only
  split
  · exact reasonOr_inv h
  · exact reasonOr_inv h
  · split
    · exact reasonOr_inv h
    · split
      · exact reasonOr_inv h
      · split
        · exact reasonOr_inv h
        · rename_i e
          split
          · exact reasonOr_inv h
          · exact .ok (SomeInv.of_some (State.itemWrite_inv h) e)

theorem execHwrite_inv (h : s.Inv) : NextInv (execHwrite o s) := siteOp_inv h fun _ _ _ _ _ h' => hwriteAct_inv h'

theorem hstepAct_inv {d l v} (h : s.Inv) : (hstepAct s d o l v).Inv := by
  unfold hstepAct
  dsimp only
  split
  · exact reasonOr_inv h
  · exact .ok (h.edge.onFibre.ite h.edge.reweave).syncTable

theorem execHstep_inv (h : s.Inv) : NextInv (execHstep o s) := siteOp_inv h fun _ _ _ _ _ h' => hstepAct_inv h'

theorem eretAct_inv {d l v} (h : s.Inv) : (eretAct s d o l v).Inv := by
  unfold eretAct
  dsimp only
  split
  · split <;> exact reasonOr_inv h
  · exact reasonOr_inv h
  · split
    · exact .ok h.eretFibre.syncTable
    · exact reasonOr_inv h

theorem execEret_inv (h : s.Inv) : NextInv (execEret o s) := siteOp_inv h fun _ _ _ _ _ h' => eretAct_inv h'

theorem hrunAct_inv {d l v} (h : s.Inv) : (hrunAct s d o l v).Inv := by
  unfold hrunAct
  dsimp only
  split
  · exact reasonOr_inv h
  · split
    · exact reasonOr_inv h
    · split
      · exact reasonOr_inv h
      · split
        · exact reasonOr_inv h
        · exact .ok ((h.foldl fun _ _ h' => h'.edge.onFibre).foldl fun _ _ h' => h'.syncTable)

theorem execHrun_inv (h : s.Inv) : NextInv (execHrun o s) := siteOp_inv h fun _ _ _ _ _ h' => hrunAct_inv h'
theorem hstatAct_inv {d l v} (h : s.Inv) : (hstatAct s d o l v).Inv := .ok (h.ite h.edge)
theorem execHstat_inv (h : s.Inv) : NextInv (execHstat o s) := siteOp_inv h fun _ _ _ _ _ h' => hstatAct_inv h'

theorem State.Inv.setGauges {cores i f} (h : s.Inv) : (s.setGauges cores i f).Inv :=
  h.foldl fun _ _ h' => h'.setCore

theorem State.Inv.siteRead {d l va n} (h : s.Inv) : (s.siteRead d l va n).1.Inv := by
  unfold State.siteRead
  dsimp only
  split
  · exact h.globalAt.loadWeak
  · exact h.globalAt.loadAt
  · exact h.globalAt

theorem gaugeAct_inv {d l v} (h : s.Inv) : (gaugeAct s d o l v).Inv := by
  unfold gaugeAct
  split
  · split
    · rename_i e
      exact .late (h.siteRead.fst e)
    · exact .bad
    · rename_i e
      split
      · exact .ok (h.siteRead.fst e).setGauges
      · exact .ok (h.siteRead.fst e)
  · exact .ok h.setGauges
  · exact .ok h

theorem execGauge_inv (h : s.Inv) : NextInv (execGauge o s) := siteOp_inv h fun _ _ _ _ _ h' => gaugeAct_inv h'

theorem State.Inv.stopSink {socket isTrace} (h : s.Inv) : (s.stopSink socket isTrace).Inv := by
  unfold State.stopSink
  split
  · exact h
  · exact h.sinkStatus.setDie

theorem State.Inv.pinPages {d base n} (h : s.Inv) : (s.pinPages d base n).1.Inv := by
  induction n generalizing s with
  | zero => exact h
  | succ k ih =>
    unfold State.pinPages
    exact (ih h).globalAt

theorem sampleAct_inv {d l v} (h : s.Inv) : (sampleAct s d o l v).Inv := by
  unfold sampleAct
  dsimp only
  split
  · exact .ok h.stopSink
  · split
    · exact .late h.globalAt
    · exact .bad
    · split
      · exact .illegal
      · split
        · rename_i e
          exact .late (h.globalAt.pinPages.fst e)
        · exact .bad
        · rename_i e
          exact .ok (h.globalAt.pinPages.fst e).stopSink.putNat.sinkStatus.setDie
    · exact .ok h.globalAt

theorem execSample_inv (h : s.Inv) : NextInv (execSample o s) := siteOp_inv h fun _ _ _ _ _ h' => sampleAct_inv h'
theorem traceAct_inv {d l v} (h : s.Inv) : (traceAct s d o l v).Inv := .ok h.sinkPut
theorem execTrace_inv (h : s.Inv) : NextInv (execTrace o s) := siteOp_inv h fun _ _ _ _ _ h' => traceAct_inv h'

theorem cntrAct_inv {d l v} (h : s.Inv) : (cntrAct s d o l v).Inv := by
  unfold cntrAct
  dsimp only
  split
  · split
    · split
      · split
        · exact .ok h
        · exact .ok h.free
      · split
        · exact .ok h
        · exact .ok h.free
    · split
      · exact .ok h
      · exact .ok h.free
  · exact .ok (h.setDie.ite h.setCore)
  · exact .ok (h.setDie.ite h.setCore)

theorem execCntr_inv (h : s.Inv) : NextInv (execCntr o s) := siteOp_inv h fun _ _ _ _ _ h' => cntrAct_inv h'

/-! Host queues, launches and range tasks, as the device takes them up. -/

theorem State.Inv.setQueue {q x} (h : s.Inv) : (s.setQueue q x).Inv := h.of_mem rfl

theorem State.Inv.qcbPlace {q} (h : s.Inv) : (s.qcbPlace q).1.Inv := by
  unfold State.qcbPlace
  split
  · exact h
  · exact h.choose.setQueue

theorem State.Inv.qcbState {q n} (h : s.Inv) : (s.qcbState q n).Inv := by
  unfold State.qcbState
  split
  · exact h.putNat
  · exact h

theorem State.Inv.settleQueue {q} (h : s.Inv) : (s.settleQueue q).Inv := h.setQueue.qcbState.ite h

theorem State.Inv.notifyStore {queue value port pubs} (h : s.Inv) : (s.notifyStore queue value port pubs).Inv :=
  h.ite (h.qcbPlace.setQueue.ite h.qcbPlace.edge.setQueue)

theorem execNotifyStore_inv {queue value host} (h : s.Inv) : NextInv (execNotifyStore queue value host s) :=
  .ite (.refused _) (.next h.registerStore.notifyStore)

theorem State.freeSlotFor_inv {cls} (h : s.Inv) : SomeInv (s.freeSlotFor cls) := by
  unfold State.freeSlotFor
  dsimp only
  split
  · exact .intro h
  · split
    · split
      · exact .intro h.setQueue.qcbState
      · exact .nothing
    · exact .nothing

theorem execQueueAdmission_inv {queue} (h : s.Inv) : NextInv (execQueueAdmission queue s) := by
  unfold execQueueAdmission
  dsimp only
  split
  · exact .refused _
  · split
    · exact .refused _
    · rename_i e
      exact .ite (.next (SomeInv.of_some (State.freeSlotFor_inv h) e).setQueue.qcbState.settleQueue)
        (.next (SomeInv.of_some (State.freeSlotFor_inv h) e).setQueue.qcbState)

theorem State.Inv.storeVa {space va bs a} (h : s.Inv) : (s.storeVa space va bs a).Inv := by
  unfold State.storeVa
  dsimp only
  split
  · exact h.globalAt.storeAt
  · exact h.globalAt

theorem State.Inv.advanceVa {space va v a} (h : s.Inv) : (s.advanceVa space va v a).Inv := by
  unfold State.advanceVa
  dsimp only
  split
  · exact h.translate.addPeg
  · exact h.translate

theorem State.Inv.entryDone {q i status reason a} (h : s.Inv) : (s.entryDone q i status reason a).Inv := by
  unfold State.entryDone
  refine .settleQueue ?_
  split
  · split
    · exact h.storeVa.putMem
    · exact h.storeVa
  · refine .advanceVa ?_
    split
    · exact h.storeVa.putMem
    · exact h.storeVa

theorem State.Inv.deviceOp {after} (h : s.Inv) : (s.deviceOp after).2.Inv := h.forked

theorem State.Inv.nextEntry {q} (h : s.Inv) : (s.nextEntry q).1.Inv := by
  unfold State.nextEntry
  dsimp only
  split
  · exact h
  · split
    · rename_i e
      exact h.readVa.fst e
    · rename_i e
      split <;> exact h.readVa.fst e

theorem State.Inv.nextEntry_error {t u : State} {q} (h : s.Inv) (e : s.nextEntry q = (u, .error t)) : t.Inv := by
  unfold State.nextEntry at e
  dsimp only at e
  split at e
  · cases e
  · split at e
    · rename_i r
      cases e
      exact (h.readVa.fst r).setQueue.qcbState
    · split at e <;> cases e

theorem startEntry_inv {name kinds q f} (h : s.Inv) (hf : ∀ s i b a, s.Inv → (f s i b a).Inv) :
    NextInv (startEntry name kinds q s f) := by
  unfold startEntry
  split
  · rename_i e
    exact .next (h.nextEntry_error e)
  · exact .refused _
  · rename_i e
    exact .ite (.next (hf _ _ _ _ (h.nextEntry.fst e).deviceOp.setQueue)) (.refused _)

theorem execRingEntryNop_inv {queue} (h : s.Inv) : NextInv (execRingEntryNop queue s) :=
  startEntry_inv h fun _ _ _ _ h' => h'.entryDone.ite h'.entryDone

theorem execRingEntryWait_inv {queue} (h : s.Inv) : NextInv (execRingEntryWait queue s) :=
  startEntry_inv h fun _ _ _ _ h' => h'.setQueue

theorem execRingEntryAdvance_inv {queue} (h : s.Inv) : NextInv (execRingEntryAdvance queue s) := by
  unfold execRingEntryAdvance
  dsimp only
  refine startEntry_inv h fun _ _ _ _ h' => ?_
  split
  · exact h'.translate.addPeg.entryDone.ite h'.translate.entryDone
  · exact h'.translate.entryDone

theorem execQueueWaitDone_inv {queue idx} (h : s.Inv) : NextInv (execQueueWaitDone queue idx s) := by
  unfold execQueueWaitDone
  dsimp only
  split
  · split
    · exact .ite (.next h.translate.edge.deviceOp.setQueue.entryDone) (.refused _)
    · exact .refused _
  · exact .refused _

theorem State.Inv.reportReject {dcb addr reason} (h : s.Inv) : (s.reportReject dcb addr reason).Inv :=
  h.free.deliver.ite h

theorem State.Inv.takeRecord {space va} (h : s.Inv) : (s.takeRecord space va).1.Inv := by
  unfold State.takeRecord
  dsimp only
  split
  · exact h
  · split
    · rename_i e
      exact h.readVa.fst e
    · rename_i e
      split
      · exact (h.readVa.fst e).areaMissing
      · split <;> exact (h.readVa.fst e).areaMissing.recReads

theorem execRingEntryLaunch_inv {queue} (h : s.Inv) : NextInv (execRingEntryLaunch queue s) := by
  unfold execRingEntryLaunch
  dsimp only
  refine startEntry_inv h fun _ _ _ _ h' => ?_
  split
  · rename_i e
    exact ((h'.takeRecord.fst e).ite (h'.takeRecord.fst e).reportReject).entryDone
  · rename_i e
    exact .of_mem (h'.takeRecord.fst e).setQueue.edge rfl

theorem State.Inv.pairsHold {a l ps} (h : s.Inv) : (s.pairsHold a l ps).1.Inv := by
  induction ps generalizing s with
  | nil => exact h
  | cons p rest ih =>
    unfold State.pairsHold
    dsimp only
    split
    · rename_i e
      exact h.launchPeg.fst e
    · rename_i e
      exact ih (h.launchPeg.fst e)

theorem State.Inv.closeEntry {l status reason a} (h : s.Inv) : (s.closeEntry l status reason a).Inv := by
  unfold State.closeEntry
  split
  · exact h
  · exact h.setQueue.entryDone

theorem State.Inv.rejectStart {l reason} (h : s.Inv) : (s.rejectStart l reason).Inv :=
  .closeEntry (.reportReject (.of_mem h.deviceOp rfl))

theorem State.Inv.cutBents {l cs} (h : s.Inv) : (s.cutBents l cs).1.Inv := by
  induction cs generalizing s with
  | nil => exact h
  | cons x rest ih =>
    unfold State.cutBents
    exact ih (foldl_fst_inv h fun _ _ h' => h'.of_mem rfl)

theorem State.Inv.startLaunch {l args} (h : s.Inv) : (s.startLaunch l args).Inv := by
  unfold State.startLaunch
  dsimp only
  split
  · exact .of_mem (h.cutBents.foldl fun _ _ h' => h'.countDie) rfl
  · exact .of_mem (h.readVa.cutBents.foldl fun _ _ h' => h'.countDie) rfl

theorem execLaunchStart_inv {launch} (h : s.Inv) : NextInv (execLaunchStart launch s) := by
  unfold execLaunchStart
  dsimp only
  split
  · exact .refused _
  · split
    · exact .refused _
    · split
      · rename_i e
        exact .next (h.pairsHold.fst e).rejectStart
      · exact .refused _
      · rename_i e
        split
        · exact .next (h.pairsHold.fst e).edge.recReads.readVa.rejectStart
        · split
          · refine .next ?_
            split
            · exact (h.pairsHold.fst e).edge.recReads.readVa.startLaunch.settleQueue
            · exact (h.pairsHold.fst e).edge.recReads.readVa.startLaunch
          · exact .next (h.pairsHold.fst e).edge.recReads.readVa.rejectStart

theorem State.Inv.writeAccount {l a} (h : s.Inv) : (s.writeAccount l a).Inv := by
  unfold State.writeAccount
  dsimp only
  split
  · exact h
  · split
    · rename_i e
      exact h.readVa.fst e
    · rename_i e
      split
      · exact (h.readVa.fst e).globalAt.storeAt
      · exact (h.readVa.fst e).globalAt

theorem State.Inv.donePeg {l a} (h : s.Inv) : (s.donePeg l a).Inv := by
  unfold State.donePeg
  split
  · exact h
  · split
    · rename_i e
      exact (h.launchPeg.fst e).addPeg
    · rename_i e
      exact (h.launchPeg.fst e).deliver

theorem execLaunchComplete_inv {launch} (h : s.Inv) : NextInv (execLaunchComplete launch s) := by
  unfold execLaunchComplete
  split
  · exact .refused _
  · exact .ite (.refused _) (.next (.closeEntry (.of_mem h.deviceOp.writeAccount.donePeg rfl)))

theorem execTaskReady_inv {task} (h : s.Inv) : NextInv (execTaskReady task s) := by
  unfold execTaskReady
  split
  · exact .refused _
  · split
    · split
      · rename_i e
        exact .next (.takeEngineFault (.of_mem (h.pairsHold.fst e) rfl))
      · exact .refused _
      · rename_i e
        exact .ite (.next (.of_mem (h.pairsHold.fst e).edge rfl))
          (.next (.newPiece (.of_mem (h.pairsHold.fst e).edge rfl)))
    · exact .refused _

theorem execTaskSplit_inv {core place} (h : s.Inv) : NextInv (execTaskSplit core place s) := by
  unfold execTaskSplit
  dsimp only
  split
  · exact .refused _
  · split
    · exact .refused _
    · split
      · exact .refused _
      · split
        · exact .refused _
        · exact .ite (.next h.onBent.newPiece.placeBent.countDie) (.refused _)

/-! The issue choice, the passing of cycles, and what the hardware reports. -/

theorem State.Inv.loseSinks (h : s.Inv) : s.loseSinks.Inv := h.foldl fun _ _ h' => h'.loseMoved.loseMoved
theorem State.Inv.pass {n} (h : s.Inv) : (s.pass n).Inv := h.ite (.of_mem h.loseSinks rfl)
theorem State.Inv.issued {r} (h : s.Inv) : (s.issued r).Inv := h.of_mem rfl

theorem State.Inv.pickFibre {r} (h : s.Inv) : (s.pickFibre r).Inv := by
  unfold State.pickFibre
  split
  · exact h
  · exact h.issued.ite
      (((h.pcEvents.ite h).foldl fun _ _ h' => h'.applyHalt).syncTable.ite
        ((h.pcEvents.ite h).foldl fun _ _ h' => h'.applyHalt).syncTable.onFibre.issued)

theorem execIssueChoice_inv {core port dt} (h : s.Inv) : NextInv (execIssueChoice core port dt s) := by
  unfold execIssueChoice
  dsimp only
  split
  · exact .refused _
  · split
    · exact .refused _
    · exact .next (h.pass.foldl fun _ _ h' => h'.onGroup).countCore.countCore.onWeave.pickFibre

theorem execBartime_inv {ofBent owner barrier} (h : s.Inv) : NextInv (execBartime ofBent owner barrier s) := by
  unfold execBartime
  dsimp only
  split
  · exact .refused _
  · exact .ite (.next h.timeoutBarrier) (.refused _)

theorem execHaltReport_inv {r} (h : s.Inv) : NextInv (execHaltReport r s) := by
  unfold execHaltReport
  split
  · exact .refused _
  · exact .ite (.refused _) (.next (h.onFibre.ite h.onFibre.addPeg).syncTable)

theorem execStepComplete_inv {r} (h : s.Inv) : NextInv (execStepComplete r s) := by
  unfold execStepComplete
  split
  · exact .refused _
  · exact .ite (.refused _) (.next h.onFibre.syncTable)

theorem State.Inv.sampleCode {g w f isReady} (h : s.Inv) : (s.sampleCode g w f isReady).1.Inv := by
  unfold State.sampleCode
  split
  · exact h
  · split
    · exact h
    · exact h
    · exact h
    · split
      · split
        · rename_i e
          exact h.choose.snd e
        · rename_i e
          exact h.choose.snd e
        · rename_i e
          exact h.choose.snd e
        · rename_i e
          exact h.choose.snd e
        · rename_i e1
          exact h.choose.snd e1
      · exact h

theorem State.Inv.changePeriod {socket n} (h : s.Inv) : (s.changePeriod socket n).Inv := by
  unfold State.changePeriod
  split
  · exact h
  · exact h.setDie.sinkPut

theorem State.Inv.putSample {socket body} (h : s.Inv) : (s.putSample socket body).Inv := by
  unfold State.putSample
  dsimp only
  split
  · exact h.sinkPut
  · exact h.sinkPut.changePeriod.ite h.sinkPut

theorem State.Inv.sampleGroup {socket bay g} (h : s.Inv) : (s.sampleGroup socket bay g).Inv := by
  unfold State.sampleGroup
  refine .putSample ?_
  split
  · exact h
  · exact h.sampleCode

theorem State.Inv.sampleCore {socket bay core} (h : s.Inv) : (s.sampleCore socket bay core).Inv :=
  (h.foldl fun _ _ h' => h'.sampleGroup).foldl fun _ _ h' => h'.putSample

theorem execSampleTick_inv {socket} (h : s.Inv) : NextInv (execSampleTick socket s) := by
  unfold execSampleTick
  split
  · exact .refused _
  · split
    · exact .refused _
    · refine .next ?_
      split
      · exact (h.changePeriod.ite h).foldl fun _ _ h' => h'.sampleCore
      · exact ((h.changePeriod.ite h).foldl fun _ _ h' => h'.sampleCore).setDie

theorem execLapidaryAnswer_inv {bay idxs} (h : s.Inv) : NextInv (execLapidaryAnswer bay idxs s) := by
  unfold execLapidaryAnswer
  have passed : (if (s.bayAt bay).answered == some s.cycle then s.pass 1 else s).Inv := .ite h.pass h
  dsimp only
  split
  · rename_i e
    split at e
    · exact .next (passed.verdicts e).answerAll
    · cases e
  · split
    · split
      · split
        · rename_i e
          exact .ite (.refused _) (.next (passed.runRequest.fst e).requestFault)
        · exact .refused _
      · exact .refused _
    · exact .refused _

/-! What system cores, hosts and peers do. -/

theorem State.Inv.countIgnored {cb} (h : s.Inv) : (s.countIgnored cb).Inv := h.ite h.putNat
theorem State.Inv.postDie {socket} (h : s.Inv) : (s.postDie socket).Inv := h.ite h.postHeld.postRequests.syncHeld
theorem State.Inv.postAll (h : s.Inv) : s.postAll.Inv := h.foldl fun _ _ h' => h'.postDie

theorem whileRunning_inv {t : State} {event} (ht : t.Inv) : NextInv (whileRunning event s t) :=
  .ite (.next ht) (.refused _)

theorem execFaultQueueConsumerUpdate_inv {socket value} (h : s.Inv) :
    NextInv (execFaultQueueConsumerUpdate socket value s) :=
  .ite (.refused _) (.next h.putMem.postDie)

theorem execServiceQueueConsumerUpdate_inv {socket value} (h : s.Inv) :
    NextInv (execServiceQueueConsumerUpdate socket value s) :=
  .ite (.refused _) (.next h.putMem.postDie)

theorem State.Inv.closeFault {socket seq e} (h : s.Inv) : (s.closeFault socket seq e).Inv :=
  h.setDie.onWaits.syncTable

theorem State.Inv.retryEntry {socket seq pubs} (h : s.Inv) : (s.retryEntry socket seq pubs).Inv := by
  unfold State.retryEntry
  split
  · exact h.countIgnored
  · exact h.edge.closeFault

theorem State.Inv.abortEntry {socket seq} (h : s.Inv) : (s.abortEntry socket seq).Inv := by
  unfold State.abortEntry
  dsimp only
  split
  · exact h.countIgnored
  · split
    · refine .takeEngineFault ?_
      split
      · exact h.closeFault.onEngines
      · exact h.closeFault
    · refine .takeFault ?_
      split
      · exact h.closeFault.onEngines
      · exact h.closeFault

theorem execResolveRetry_inv {socket seq} (h : s.Inv) : NextInv (execResolveRetry socket seq s) :=
  whileRunning_inv h.registerStore.retryEntry

theorem execResolveAbort_inv {socket seq} (h : s.Inv) : NextInv (execResolveAbort socket seq s) :=
  whileRunning_inv h.abortEntry

theorem State.Inv.resolve {socket v pubs} (h : s.Inv) : (s.resolve socket v pubs).Inv := by
  unfold State.resolve
  split
  · exact h.retryEntry
  · exact h.abortEntry
  · exact h.countIgnored

theorem State.Inv.answerRequest {socket seq value pubs} (h : s.Inv) : (s.answerRequest socket seq value pubs).Inv := by
  unfold State.answerRequest
  dsimp only
  split
  · exact h.countIgnored
  · exact h.setDie.ite h.setDie.landAnswer

theorem State.Inv.unlessOffline {t : State} {socket} (h : s.Inv) (ht : t.Inv) : (s.unlessOffline socket t).Inv :=
  h.ite ht

theorem execSyscAnswer_inv {socket seq value} (h : s.Inv) : NextInv (execSyscAnswer socket seq value s) :=
  whileRunning_inv (h.countIgnored.ite h.registerStore.answerRequest)

theorem execPreemptRegister_inv {socket gid} (h : s.Inv) : NextInv (execPreemptRegister socket gid s) :=
  whileRunning_inv (h.unlessOffline h.preempt)

theorem execKillRegister_inv {socket gid} (h : s.Inv) : NextInv (execKillRegister socket gid s) :=
  whileRunning_inv (h.unlessOffline h.kill)

theorem State.Inv.coreWritesReg {socket index v} (h : s.Inv) : (s.coreWritesReg socket index v).Inv :=
  h.writeReg.ite h

theorem execSysregWrite_inv {socket index value} (h : s.Inv) : NextInv (execSysregWrite socket index value s) :=
  whileRunning_inv (h.unlessOffline h.coreWritesReg)

theorem State.Inv.setWindow {socket c w} (h : s.Inv) : (s.setWindow socket c w).Inv := h.setDie

theorem windowEndOf_inv {m o causes align act} (hact : act.Inv) : (windowEndOf m o causes align act).Inv := by
  unfold windowEndOf
  split
  · exact .stop
  · exact .stop
  · cases act with
    | ok s d p memo => exact hact
    | illegal n => exact .stop
    | late s pages memo => exact .stop
    | bad k a b d => exact .stop

theorem State.Inv.windowRun {t m o v} (h : s.Inv) : (s.windowRun t m o v).Inv := by
  unfold State.windowRun
  split
  · exact .stop
  · split
    · exact windowEndOf_inv (hreadAct_inv h)
    · exact windowEndOf_inv (hwriteAct_inv h)
    · exact windowEndOf_inv (hstepAct_inv h)
    · exact windowEndOf_inv (hrunAct_inv h)
    · exact windowEndOf_inv (hstatAct_inv h)
    · exact windowEndOf_inv (gaugeAct_inv h)
    · exact windowEndOf_inv (sampleAct_inv h)
    · exact windowEndOf_inv (traceAct_inv h)
    · exact windowEndOf_inv (cntrAct_inv h)
    · exact windowEndOf_inv (mfsrAct_inv h)
    · exact windowEndOf_inv (mtsrAct_inv h)
    · exact windowEndOf_inv (tlbiAct_inv h)
    · exact .stop

theorem State.Inv.windowEnd {socket c v} (h : s.Inv) (hv : v.Inv) : (s.windowEnd socket c v).Inv := by
  cases v with
  | stop n cause => exact h.setWindow
  | done t d p => exact State.Inv.setWindow hv

theorem State.Inv.windowGo {socket c} (h : s.Inv) : (s.windowGo socket c).Inv := by
  unfold State.windowGo
  refine h.windowEnd ?_
  split
  · exact .stop
  · split
    · exact .stop
    · split
      · exact h.windowRun
      · exact .stop

theorem execDebugWindowGo_inv {socket window} (h : s.Inv) : NextInv (execDebugWindowGo socket window s) :=
  .ite (.refused _) (.next (h.unlessOffline h.windowGo))

theorem State.Inv.windowStore {socket c off v} (h : s.Inv) : (s.windowStore socket c off v).Inv :=
  h.windowGo.ite h.setWindow

theorem State.Inv.regStore {pa n v pubs} (h : s.Inv) : (s.regStore pa n v pubs).Inv :=
  h.ite
    ((h.countIgnored.ite (h.countIgnored.ite h)).ite
      (((h.countIgnored.ite h).countIgnored.ite (h.countIgnored.ite h)).ite
        (h.resolve.ite (h.answerRequest.ite (h.coreWritesReg.ite (h.windowStore.ite h))))))

theorem State.Inv.laneAccess {pa n v pubs} (h : s.Inv) : (s.laneAccess pa n v pubs).Inv := by
  unfold State.laneAccess
  split
  · exact h.notifyStore.ite h
  · exact h.regStore

theorem State.Inv.outsideAccess {reach by_ a} (h : s.Inv) : (s.outsideAccess reach by_ a).Inv := by
  unfold State.outsideAccess
  split
  · exact h.fence
  · exact h
  · exact h.ite h.loadWeak
  · exact h.ite (.ite (.regStore (h.of_mem rfl)) (h.setMem.ite (h.ite h.putMem.postAll)))

theorem execSystemCoreAccess_inv {a} (h : s.Inv) : NextInv (execSystemCoreAccess a s) := by
  unfold execSystemCoreAccess
  split
  · exact .next h.laneAccess
  · exact .ite (.refused _) (.next h.outsideAccess)

theorem execHostAccess_inv {a} (h : s.Inv) : NextInv (execHostAccess a s) :=
  .ite (.refused _) (.next h.outsideAccess)

theorem execPeerAccess_inv {a} (h : s.Inv) : NextInv (execPeerAccess a s) :=
  .ite (.refused _) (.next h.outsideAccess)

/-! Boot, firmware, attestation, links and resets. -/

theorem State.Inv.bootSteps {b l} (h : s.Inv) : (s.bootSteps b l).1.Inv := by
  induction l generalizing s with
  | nil => exact h
  | cons x rest ih =>
    unfold State.bootSteps
    dsimp only
    split
    · exact ih (h.of_mem rfl)
    · split <;> exact .of_mem h.free rfl

/-- A boot starts from the memory of the reset state. -/
theorem bootSteps_inv_of_reset {t u : State} {b l r} (e : u.bootSteps b l = (t, r)) (hu : u.mem = State.reset.mem) :
    t.Inv := (State.Inv.reset.of_mem hu).bootSteps.fst e

theorem execPowerOn_inv {b} : NextInv (execPowerOn b s) := by
  unfold execPowerOn
  dsimp only
  split
  · rename_i e
    exact .next (bootSteps_inv_of_reset e rfl)
  · rename_i e
    exact .next (.of_mem (bootSteps_inv_of_reset e rfl) rfl)
  · rename_i e
    have booted := bootSteps_inv_of_reset e rfl
    exact .ite (.next booted) (.next (booted.of_mem rfl))

theorem execFirmwareUpdate_inv {slotB image} (h : s.Inv) : NextInv (execFirmwareUpdate slotB image s) :=
  .ite (.refused _) (.ite (.next (h.of_mem rfl)) (.next h))

theorem execClearTopologyRecord_inv (h : s.Inv) : NextInv (execClearTopologyRecord s) :=
  .ite (.refused _) (.next (h.of_mem rfl))

theorem spdmStep_inv {name needs stage answer} (h : s.Inv) : NextInv (spdmStep name needs stage answer s) :=
  .ite (.refused _) (.ite (.next (h.of_mem rfl)) (.next (h.of_mem rfl)))

theorem execGetVersion_inv (h : s.Inv) : NextInv (execGetVersion s) := spdmStep_inv (h.of_mem rfl)
theorem execGetCapabilities_inv (h : s.Inv) : NextInv (execGetCapabilities s) := spdmStep_inv h

theorem execNegotiateAlgorithms_inv {asym hash} (h : s.Inv) : NextInv (execNegotiateAlgorithms asym hash s) :=
  .ite (spdmStep_inv h) (spdmStep_inv h)

theorem execGetDigests_inv (h : s.Inv) : NextInv (execGetDigests s) := spdmStep_inv h

theorem execGetCertificate_inv {offset length} (h : s.Inv) : NextInv (execGetCertificate offset length s) :=
  spdmStep_inv h

theorem execChallenge_inv {nonce} (h : s.Inv) : NextInv (execChallenge nonce s) := spdmStep_inv h

theorem execGetMeasurements_inv {index} (h : s.Inv) : NextInv (execGetMeasurements index s) := by
  unfold execGetMeasurements
  exact spdmStep_inv h

theorem State.Inv.onLink {k f} (h : s.Inv) : (s.onLink k f).Inv := h.of_mem rfl
theorem execLinkCrcRetry_inv {link} (h : s.Inv) : NextInv (execLinkCrcRetry link s) := .next h.onLink.countDie
theorem execLinkRetrain_inv {link} (h : s.Inv) : NextInv (execLinkRetrain link s) := .next h.onLink

theorem execRhautPortFailure_inv {port} (h : s.Inv) : NextInv (execRhautPortFailure port s) :=
  .ite (.refused _) (.next h.onLink)

theorem State.Inv.endOffline {b} (h : s.Inv) : (s.endOffline b).Inv := by
  unfold State.endOffline
  split
  · exact h
  · exact h.ite h.free.reportEnd.closeBent

theorem execWarmReset_inv {socket} (h : s.Inv) : NextInv (execWarmReset socket s) := by
  unfold execWarmReset
  dsimp only
  split
  · exact .refused _
  · split
    · exact .next (.onLink (h.of_mem rfl))
    · split
      · exact .refused _
      · refine .next (.syncHeld (.setDie (.foldl (.foldl (.foldl (h.of_mem rfl) ?_) ?_) ?_)))
        · exact fun _ _ h' => h'.endOffline
        · exact fun _ _ h' => h'.endDomain
        · intro t e ht
          split
          · exact ht.closeFault
          · exact ht

/-! The lane float instructions. -/

theorem faddOp_inv (h : s.Inv) : NextInv (faddOp o s) := compute_inv h
theorem fsubOp_inv (h : s.Inv) : NextInv (fsubOp o s) := compute_inv h
theorem fmulOp_inv (h : s.Inv) : NextInv (fmulOp o s) := compute_inv h
theorem execFfma_inv (h : s.Inv) : NextInv (execFfma o s) := compute_inv h
theorem fminOp_inv (h : s.Inv) : NextInv (fminOp o s) := compute_inv h
theorem fmaxOp_inv (h : s.Inv) : NextInv (fmaxOp o s) := compute_inv h
theorem fdivOp_inv (h : s.Inv) : NextInv (fdivOp o s) := compute_inv h
theorem fsqrtOp_inv (h : s.Inv) : NextInv (fsqrtOp o s) := compute_inv h
theorem frcpOp_inv (h : s.Inv) : NextInv (frcpOp o s) := compute_inv h
theorem frsqOp_inv (h : s.Inv) : NextInv (frsqOp o s) := compute_inv h
theorem fexp2Op_inv (h : s.Inv) : NextInv (fexp2Op o s) := compute_inv h
theorem flog2Op_inv (h : s.Inv) : NextInv (flog2Op o s) := compute_inv h
theorem fsinOp_inv (h : s.Inv) : NextInv (fsinOp o s) := compute_inv h
theorem fcosOp_inv (h : s.Inv) : NextInv (fcosOp o s) := compute_inv h
theorem execFset_inv (h : s.Inv) : NextInv (execFset o s) := compute_inv h
theorem execFclass_inv (h : s.Inv) : NextInv (execFclass o s) := compute_inv h
theorem execDadd_inv (h : s.Inv) : NextInv (execDadd o s) := compute_inv h
theorem execDmul_inv (h : s.Inv) : NextInv (execDmul o s) := compute_inv h
theorem execDfma_inv (h : s.Inv) : NextInv (execDfma o s) := compute_inv h
theorem execDdiv_inv (h : s.Inv) : NextInv (execDdiv o s) := compute_inv h
theorem execDset_inv (h : s.Inv) : NextInv (execDset o s) := compute_inv h
theorem execHadd2_inv (h : s.Inv) : NextInv (execHadd2 o s) := compute_inv h
theorem execHmul2_inv (h : s.Inv) : NextInv (execHmul2 o s) := compute_inv h
theorem execHfma2_inv (h : s.Inv) : NextInv (execHfma2 o s) := compute_inv h

/-! The integer, logic and move instructions. -/

theorem iaddOp_inv (h : s.Inv) : NextInv (iaddOp o s) := compute_inv h
theorem isubOp_inv (h : s.Inv) : NextInv (isubOp o s) := compute_inv h
theorem imulOp_inv (h : s.Inv) : NextInv (imulOp o s) := compute_inv h
theorem execImad_inv (h : s.Inv) : NextInv (execImad o s) := compute_inv h
theorem imulhOp_inv (h : s.Inv) : NextInv (imulhOp o s) := compute_inv h
theorem idivOp_inv (h : s.Inv) : NextInv (idivOp o s) := compute_inv h
theorem iremOp_inv (h : s.Inv) : NextInv (iremOp o s) := compute_inv h
theorem iminOp_inv (h : s.Inv) : NextInv (iminOp o s) := compute_inv h
theorem imaxOp_inv (h : s.Inv) : NextInv (imaxOp o s) := compute_inv h
theorem iabsOp_inv (h : s.Inv) : NextInv (iabsOp o s) := compute_inv h
theorem andOp_inv (h : s.Inv) : NextInv (andOp o s) := compute_inv h
theorem orOp_inv (h : s.Inv) : NextInv (orOp o s) := compute_inv h
theorem xorOp_inv (h : s.Inv) : NextInv (xorOp o s) := compute_inv h
theorem andnOp_inv (h : s.Inv) : NextInv (andnOp o s) := compute_inv h
theorem shlOp_inv (h : s.Inv) : NextInv (shlOp o s) := compute_inv h
theorem shrOp_inv (h : s.Inv) : NextInv (shrOp o s) := compute_inv h
theorem sarOp_inv (h : s.Inv) : NextInv (sarOp o s) := compute_inv h
theorem rolOp_inv (h : s.Inv) : NextInv (rolOp o s) := compute_inv h
theorem popcOp_inv (h : s.Inv) : NextInv (popcOp o s) := compute_inv h
theorem clzOp_inv (h : s.Inv) : NextInv (clzOp o s) := compute_inv h
theorem brevOp_inv (h : s.Inv) : NextInv (brevOp o s) := compute_inv h
theorem bfxOp_inv (h : s.Inv) : NextInv (bfxOp o s) := compute_inv h
theorem execBfi_inv (h : s.Inv) : NextInv (execBfi o s) := compute_inv h
theorem isetOp_inv (h : s.Inv) : NextInv (isetOp o s) := compute_inv h
theorem execSel_inv (h : s.Inv) : NextInv (execSel o s) := compute_inv h
theorem movOp_inv (h : s.Inv) : NextInv (movOp o s) := compute_inv h
theorem moviOp_inv (h : s.Inv) : NextInv (moviOp o s) := compute_inv h
theorem execLea_inv (h : s.Inv) : NextInv (execLea o s) := compute_inv h
theorem plopOp_inv (h : s.Inv) : NextInv (plopOp o s) := compute_inv h
theorem mfsOp_inv (h : s.Inv) : NextInv (mfsOp o s) := compute_inv h
theorem iaddwOp_inv (h : s.Inv) : NextInv (iaddwOp o s) := compute_inv h
theorem execImadw_inv (h : s.Inv) : NextInv (execImadw o s) := compute_inv h

/-! The step. -/

/-- Every instruction, exception and event keeps the canonical form of memory. -/
theorem exec_inv {i} (h : s.Inv) : NextInv (exec i s) := by
  cases i with
  | nop _ | nopExt _ => exact nopOp_inv h
  | bra _ | braExt _ => exact braOp_inv h
  | call _ | callExt _ => exact callOp_inv h
  | ret _ | retExt _ => exact retOp_inv h
  | quit _ | quitExt _ => exact quitOp_inv h
  | exit _ | exitExt _ => exact exitOp_inv h
  | bar _ => exact execBar_inv h
  | barExt _ => exact execBarExt_inv h
  | yield _ | yieldExt _ => exact yieldOp_inv h
  | iadd _ | iaddExt _ => exact iaddOp_inv h
  | isub _ | isubExt _ => exact isubOp_inv h
  | imul _ | imulExt _ => exact imulOp_inv h
  | imulh _ | imulhExt _ => exact imulhOp_inv h
  | idiv _ | idivExt _ => exact idivOp_inv h
  | irem _ | iremExt _ => exact iremOp_inv h
  | imin _ | iminExt _ => exact iminOp_inv h
  | imax _ | imaxExt _ => exact imaxOp_inv h
  | iabs _ | iabsExt _ => exact iabsOp_inv h
  | and _ | andExt _ => exact andOp_inv h
  | or _ | orExt _ => exact orOp_inv h
  | xor _ | xorExt _ => exact xorOp_inv h
  | andn _ | andnExt _ => exact andnOp_inv h
  | shl _ | shlExt _ => exact shlOp_inv h
  | shr _ | shrExt _ => exact shrOp_inv h
  | sar _ | sarExt _ => exact sarOp_inv h
  | rol _ | rolExt _ => exact rolOp_inv h
  | popc _ | popcExt _ => exact popcOp_inv h
  | clz _ | clzExt _ => exact clzOp_inv h
  | brev _ | brevExt _ => exact brevOp_inv h
  | bfx _ | bfxExt _ => exact bfxOp_inv h
  | iset _ | isetExt _ => exact isetOp_inv h
  | mov _ | movExt _ => exact movOp_inv h
  | movi _ | moviExt _ => exact moviOp_inv h
  | plop _ | plopExt _ => exact plopOp_inv h
  | mfs _ | mfsExt _ => exact mfsOp_inv h
  | iaddw _ | iaddwExt _ => exact iaddwOp_inv h
  | fadd _ | faddExt _ => exact faddOp_inv h
  | fsub _ | fsubExt _ => exact fsubOp_inv h
  | fmul _ | fmulExt _ => exact fmulOp_inv h
  | fmin _ | fminExt _ => exact fminOp_inv h
  | fmax _ | fmaxExt _ => exact fmaxOp_inv h
  | fdiv _ | fdivExt _ => exact fdivOp_inv h
  | fsqrt _ | fsqrtExt _ => exact fsqrtOp_inv h
  | frcp _ | frcpExt _ => exact frcpOp_inv h
  | frsq _ | frsqExt _ => exact frsqOp_inv h
  | fexp2 _ | fexp2Ext _ => exact fexp2Op_inv h
  | flog2 _ | flog2Ext _ => exact flog2Op_inv h
  | fsin _ | fsinExt _ => exact fsinOp_inv h
  | fcos _ | fcosExt _ => exact fcosOp_inv h
  | xmov _ | xmovExt _ => exact xmovOp_inv h
  | xadd _ => exact execXadd_inv h
  | xaddExt _ => exact execXaddExt_inv h
  | xsub _ => exact execXsub_inv h
  | xsubExt _ => exact execXsubExt_inv h
  | xmul _ => exact execXmul_inv h
  | xmulExt _ => exact execXmulExt_inv h
  | ld _ | ldExt _ => exact ldOp_inv h
  | st _ | stExt _ => exact stOp_inv h
  | brx _ => exact execBrx_inv h
  | calli _ => exact execCalli_inv h
  | fork _ => exact execFork_inv h
  | barb _ => exact execBarb_inv h
  | span _ => exact execSpan_inv h
  | loop _ => exact execLoop_inv h
  | vote _ => exact execVote_inv h
  | shfl _ => exact execShfl_inv h
  | imad _ => exact execImad_inv h
  | bfi _ => exact execBfi_inv h
  | sel _ => exact execSel_inv h
  | lea _ => exact execLea_inv h
  | imadw _ => exact execImadw_inv h
  | ffma _ => exact execFfma_inv h
  | fset _ => exact execFset_inv h
  | fclass _ => exact execFclass_inv h
  | dadd _ => exact execDadd_inv h
  | dmul _ => exact execDmul_inv h
  | dfma _ => exact execDfma_inv h
  | ddiv _ => exact execDdiv_inv h
  | dset _ => exact execDset_inv h
  | hadd2 _ => exact execHadd2_inv h
  | hmul2 _ => exact execHmul2_inv h
  | hfma2 _ => exact execHfma2_inv h
  | xdiv _ => exact execXdiv_inv h
  | xsqrt _ => exact execXsqrt_inv h
  | xmin _ => exact execXmin_inv h
  | xmax _ => exact execXmax_inv h
  | xsgn _ => exact execXsgn_inv h
  | xcmp _ => exact execXcmp_inv h
  | xbnd _ => exact execXbnd_inv h
  | sever _ => exact execSever_inv h
  | snap _ => exact execSnap_inv h
  | xref _ => exact execXref_inv h
  | cvt _ => exact execCvt_inv h
  | cvtf _ => exact execCvtf_inv h
  | ldx _ => exact execLdx_inv h
  | ldv _ => exact execLdv_inv h
  | stv _ => exact execStv_inv h
  | ldb _ => exact execLdb_inv h
  | stb _ => exact execStb_inv h
  | atom _ => exact execAtom_inv h
  | cas _ => exact execCas_inv h
  | fence _ => exact execFence_inv h
  | mon _ => exact execMon_inv h
  | mwait _ => exact execMwait_inv h
  | sbind _ => exact execSbind_inv h
  | sxp _ => exact execSxp_inv h
  | sxu _ => exact execSxu_inv h
  | aset _ => exact execAset_inv h
  | await _ => exact execAwait_inv h
  | kick _ => exact execKick_inv h
  | padv _ => exact execPadv_inv h
  | pwait _ => exact execPwait_inv h
  | mma _ => exact execMma_inv h
  | mmas _ => exact execMmas_inv h
  | mconv _ => exact execMconv_inv h
  | mzero _ => exact execMzero_inv h
  | mldc _ => exact execMldc_inv h
  | mstc _ => exact execMstc_inv h
  | guard _ => exact execGuard_inv h
  | gset _ => exact execGset_inv h
  | dist _ => exact execDist_inv h
  | topkClr _ => exact execTopkClr_inv h
  | topkIns _ => exact execTopkIns_inv h
  | topkRd _ => exact execTopkRd_inv h
  | stload _ => exact execStload_inv h
  | task _ => exact execTask_inv h
  | tnext _ => exact execTnext_inv h
  | launch _ => exact execLaunch_inv h
  | tryOpen _ => exact execTryOpen_inv h
  | fail _ => exact execFail_inv h
  | mark _ => exact execMark_inv h
  | cut _ => exact execCut_inv h
  | steal _ => exact execSteal_inv h
  | trail _ => exact execTrail_inv h
  | trap _ => exact execTrap_inv h
  | sysc _ => exact execSysc_inv h
  | eret _ => exact execEret_inv h
  | mfsr _ => exact execMfsr_inv h
  | mtsr _ => exact execMtsr_inv h
  | tlbi _ => exact execTlbi_inv h
  | cflush _ => exact execCflush_inv h
  | cinv _ => exact execCinv_inv h
  | waiti _ => exact execWaiti_inv h
  | acct _ => exact execAcct_inv h
  | gauge _ => exact execGauge_inv h
  | hread _ => exact execHread_inv h
  | hwrite _ => exact execHwrite_inv h
  | hstep _ => exact execHstep_inv h
  | hrun _ => exact execHrun_inv h
  | hstat _ => exact execHstat_inv h
  | sample _ => exact execSample_inv h
  | trace _ => exact execTrace_inv h
  | cntr _ => exact execCntr_inv h
  | issueChoice _ _ _ => exact execIssueChoice_inv h
  | bartime _ _ _ => exact execBartime_inv h
  | lapidaryRequestEnter _ _ => exact execLapidaryRequestEnter_inv h
  | lapidaryAnswer _ _ => exact execLapidaryAnswer_inv h
  | xrefAnswer _ _ => exact execXrefAnswer_inv h
  | lapidaryTranslationFault _ _ => exact execLapidaryTranslationFault_inv h
  | logReclaim _ => exact execLogReclaim_inv h
  | copyRecordStart _ _ => exact execCopyRecordStart_inv h
  | copyRecordComplete _ _ => exact execCopyRecordComplete_inv h
  | matrixCommandHead _ _ => exact execMatrixCommandHead_inv h
  | matrixCommandRetire _ => exact execMatrixCommandRetire_inv h
  | stloadCompletion _ _ _ => exact execStloadCompletion_inv h
  | pwaitComplete _ => exact execPwaitComplete_inv h
  | awaitComplete _ => exact execAwaitComplete_inv h
  | mwaitWake _ => exact execMwaitWake_inv h
  | waitiExpire _ => exact execWaitiExpire_inv h
  | groupRetire _ => exact execGroupRetire_inv h
  | bentRetire _ => exact execBentRetire_inv h
  | bentPlacement _ _ _ => exact execBentPlacement_inv h
  | preemption _ => exact execPreemption_inv h
  | restore _ _ _ => exact execRestore_inv h
  | queueAdmission _ => exact execQueueAdmission_inv h
  | ringEntryNop _ => exact execRingEntryNop_inv h
  | ringEntryLaunch _ => exact execRingEntryLaunch_inv h
  | ringEntryWait _ => exact execRingEntryWait_inv h
  | ringEntryAdvance _ => exact execRingEntryAdvance_inv h
  | queueWaitDone _ _ => exact execQueueWaitDone_inv h
  | launchStart _ => exact execLaunchStart_inv h
  | launchComplete _ => exact execLaunchComplete_inv h
  | taskReady _ => exact execTaskReady_inv h
  | taskSplit _ _ => exact execTaskSplit_inv h
  | haltReport _ => exact execHaltReport_inv h
  | stepComplete _ => exact execStepComplete_inv h
  | sampleTick _ => exact execSampleTick_inv h
  | powerOn _ => exact execPowerOn_inv
  | systemCoreAccess _ => exact execSystemCoreAccess_inv h
  | effectiveClassReaches7 _ _ => exact execEffectiveClassReaches7_inv h
  | faultQueueConsumerUpdate _ _ => exact execFaultQueueConsumerUpdate_inv h
  | serviceQueueConsumerUpdate _ _ => exact execServiceQueueConsumerUpdate_inv h
  | resolveRetry _ _ => exact execResolveRetry_inv h
  | resolveAbort _ _ => exact execResolveAbort_inv h
  | syscAnswer _ _ _ => exact execSyscAnswer_inv h
  | preemptRegister _ _ => exact execPreemptRegister_inv h
  | killRegister _ _ => exact execKillRegister_inv h
  | sysregWrite _ _ _ => exact execSysregWrite_inv h
  | debugWindowGo _ _ => exact execDebugWindowGo_inv h
  | notifyStore _ _ _ => exact execNotifyStore_inv h
  | firmwareUpdate _ _ => exact execFirmwareUpdate_inv h
  | clearTopologyRecord => exact execClearTopologyRecord_inv h
  | getVersion => exact execGetVersion_inv h
  | getCapabilities => exact execGetCapabilities_inv h
  | negotiateAlgorithms _ _ => exact execNegotiateAlgorithms_inv h
  | getDigests => exact execGetDigests_inv h
  | getCertificate _ _ => exact execGetCertificate_inv h
  | challenge _ => exact execChallenge_inv h
  | getMeasurements _ => exact execGetMeasurements_inv h
  | linkCrcRetry _ => exact execLinkCrcRetry_inv h
  | linkRetrain _ => exact execLinkRetrain_inv h
  | rhautPortFailure _ => exact execRhautPortFailure_inv h
  | warmReset _ => exact execWarmReset_inv h
  | hostAccess _ => exact execHostAccess_inv h
  | peerAccess _ => exact execPeerAccess_inv h

theorem State.Inv.happen {i} (h : s.Inv) : (s.happen i).Inv := by
  unfold State.happen
  split
  · rename_i e
    exact NextInv.of_next (exec_inv h) e
  · exact h.pass

theorem autoStep_inv (h : s.Inv) : (autoStep s).Inv := by
  unfold autoStep
  dsimp only
  split
  · split
    · exact h.postAll.happen
    · exact h.postAll.pass
  · split
    · exact h.postAll.pass
    · exact h.postAll.happen
    · exact h.postAll.choose.happen

theorem step_inv (h : s.Inv) : NextInv (step s) := by
  unfold step
  split
  · split
    · rename_i e
      exact exec_inv (Issued.Inv.of_run (fetch_inv h) e)
    · rename_i e
      exact .next (Issued.Inv.of_stop (fetch_inv h) e)
    · exact .fault _
  · split
    · exact exec_inv (h.of_mem rfl)
    · exact .next (autoStep_inv h)

end

/-- Settles O5: every instruction, exception and event keeps the canonical form, by a lemma for each operation it is made
of; a step only picks and fetches what is then executed. -/
theorem stepKeepsInvariant : Obligations.StepKeepsInvariant := fun _ t h e => step_inv h t e

end Sys2Proof.Machine

/-! One step: what a picked fibre issues, and which event happens when none is picked (R26, R102, R103, R120). -/
namespace Sys2Proof.Machine
open Sys2Proof

section
variable {s t : State} {r : FibreRef} {f : Fibre} {ws : List Word} {i : Instr} {n : Nat}

theorem step_of_run (hc : s.cur = some r) (h : fetch r s = .run t i) : step s = exec i t := by
  simp only [step, hc, h]

theorem step_of_stop (hc : s.cur = some r) (h : fetch r s = .stop t) : step s = .next t := by
  simp only [step, hc, h]

theorem step_of_agenda {rest : List Instr} (hc : s.cur = none) (ha : s.agenda = i :: rest) :
    step s = exec i { s with agenda := rest } := by
  simp only [step, hc, ha]

theorem fetch_fault (hf : s.fibre r = some f) (hw : s.fetchWords r f = .stop t) : fetch r s = .stop { t with cur := none } := by
  simp only [fetch, hf, hw]

theorem fetch_runs (hf : s.fibre r = some f) (hw : s.fetchWords r f = .words t ws)
    (hd : decodeWords (t.isJoiner r.gid) ws = .ok i) (h0 : t.stallAs r i = 0) :
    fetch r s = .run (t.countIssue r f.running) i := by
  simp only [fetch, hf, hw, hd, h0, if_true]

theorem fetch_stalls (hf : s.fibre r = some f) (hw : s.fetchWords r f = .words t ws)
    (hd : decodeWords (t.isJoiner r.gid) ws = .ok i) (h0 : t.stallAs r i ≠ 0) :
    fetch r s = .stop { t with cur := none } := by
  simp only [fetch, hf, hw, hd, if_neg h0]

theorem fetch_illegal (hf : s.fibre r = some f) (hw : s.fetchWords r f = .words t ws)
    (hd : decodeWords (t.isJoiner r.gid) ws = .error n) :
    fetch r s = .stop (({ t.countIssue r f.running with cur := none }.pcEvents r f.pc (f.running ||| f.pcDue)).takeTrap r
      f.running 1 n (wordsInfo ws) []) := by
  simp only [fetch, hf, hw, hd]

end

/-- Settles O6: a picked fibre fetches, and what the fetch and the decoder give decides between the instruction, a wait
at issue and ILLEGAL; without one the head of the agenda happens. -/
theorem stepRunsDecoded : Obligations.StepRunsDecoded :=
  ⟨fun _ _ _ _ _ _ hc hf hw hd => ⟨fun h => step_of_run hc (fetch_runs hf hw hd h),
      fun h => step_of_stop hc (fetch_stalls hf hw hd h)⟩,
    fun _ _ _ _ hc hf hw => step_of_stop hc (fetch_fault hf hw),
    fun _ _ _ _ _ _ hc hf hw hd => step_of_stop hc (fetch_illegal hf hw hd),
    fun _ _ _ hc ha => step_of_agenda hc ha⟩

end Sys2Proof.Machine

/-! Statements that some state refutes. A statement speaks of every state, also of one that no run gives: a table with its keys
out of order or twice, a replay mask with lanes that the fibre does not hold. Each refutation writes such a state out and runs
the instruction or event on it. -/
namespace Sys2Proof.Machine
open Sys2Proof

/-- Where an instruction or event completes, it is in the state after it. -/
theorem eq_after {i : Instr} {s t : State} (h : exec i s = .next t) : t = after i s := by
  simp only [after, h]

/-- The group's table lists weave 1 before the issuing weave 0, each of one live lane; two lanes have arrived at barrier 15,
which expects two. -/
def disordered : State :=
  lab.onGroup 0 fun g => { g with
    size := 128, bars := [(15, { count := 2, gen := 0, age := some 0 })]
    weaves := [(1, { size := 64, fibres := [{ id := 0, pc := 0x1000100, lanes := 1 }] }), (0, { g.weave 0 with size := 64 })] }

/-- Refutes O19: with the group's weaves out of order, parking the fibre lists its weave a second time, so that the barrier
expects three lanes, and the third arrival, which is none that the barrier expected, begins a new generation. -/
theorem not_barriers : ¬ Obligations.Barriers := by
  unfold Obligations.Barriers Arrives
  rintro ⟨h, -⟩
  let o : Op := { form := .base, imm22 := 15 }
  obtain ⟨t, ht, waits, -⟩ := h o disordered (seen .bar o disordered) (issues_of (by decide +kernel)) (by decide +kernel)
    (by decide +kernel) ⟨(lab.bent 0).get (by decide +kernel), by decide +kernel, by decide +kernel, by decide +kernel⟩
  rw [eq_after ht] at waits
  exact absurd (waits (by decide +kernel)).1 (by decide +kernel)

/-- Lane 0, whose X2 spans 0, is in the replay mask of a fibre that holds lane 1 alone. -/
def strayReplay : State := spread.onFibre ⟨0, 0, 0⟩ fun f => { f with lanes := 2, replay := 1 }

/-- Refutes O25: an undecided lane that only the replay mask names is in no refining fibre, which holds lanes of the issuing
fibre. -/
theorem not_decisions : ¬ Obligations.Decisions := by
  unfold Obligations.Decisions Decides
  rintro ⟨h, -⟩
  let o : Op := { d := .p 1, a := .x 2, b := .p 2 }
  obtain ⟨t, ht, -, -, -, -, -, refines⟩ := h o strayReplay (seen .xsgn o strayReplay) (plain_of (by decide +kernel))
    (.inl (by decide +kernel)) (by decide +kernel) (by decide +kernel)
  have issuing : (seen .xsgn o strayReplay).r = ⟨0, 0, 0⟩ := by decide +kernel
  rw [eq_after ht, issuing] at refines
  obtain ⟨g, hg, ⟨f, hf, hst, hlanes, -⟩, -⟩ := refines (by decide +kernel)
  have nowhere : ∀ g ∈ (after (.xsgn o) strayReplay).group 0, ∀ f ∈ (g.weave 0).fibres, f.st = .refining → f.lanes ≠ 1 := by
    decide +kernel
  exact nowhere g hg f hf hst (hlanes.trans (by decide +kernel))

/-- Lane 63 is dormant; the weave's 64 fibres hold every identifier, the issuing one's, 0, listed last. -/
def crowded : State := sleepers.onWeave 0 0 fun v => { v with
  lanes := [(63, { st := .dormant })]
  fibres := (List.range 64).reverse.map fun i => { id := i, pc := 0x1000000, lanes := laneBit (min i 62) } }

/-- Refutes O18: with no identifier free the new fibre takes that of the issuing one and comes first in the list, so that it is
the new fibre that then moves to the next instruction with the issuing fibre's lanes, and no fibre is at the target. -/
theorem not_laneLife : ¬ Obligations.LaneLife := by
  unfold Obligations.LaneLife
  rintro ⟨h, -⟩
  let o : Op := { a := .k 10, imm22 := 12 }
  obtain ⟨t, ht, -, -, fibres⟩ := h o crowded (seen .fork o crowded) (issues_of (by decide +kernel)) (by decide +kernel) rfl
    (by decide +kernel) (by decide +kernel) (by decide +kernel)
  have issuing : (seen .fork o crowded).r = ⟨0, 0, 0⟩ := by decide +kernel
  rw [eq_after ht, issuing] at fibres
  have nowhere : ∀ g ∈ (after (.fork o) crowded).group 0, ∀ f ∈ (g.weave 0).fibres, f.pc ≠ 0x1000030 := by decide +kernel
  obtain ⟨g, hg⟩ := Option.isSome_iff_exists.1 (show ((after (.fork o) crowded).group 0).isSome = true by decide +kernel)
  obtain ⟨f, hf, -, hpc, -⟩ := (fibres g hg).1 (by decide +kernel)
  exact nowhere g hg f hf (hpc.trans (by decide +kernel))

/-- Bent 0 runs on socket 1; behind it the table lists, under the same key, one of socket 0 that has ended. -/
def listedTwice : State :=
  let b : Bent := { uid := 0, number := 0, launch := 0, dcb := 0, socket := 1, st := .resident }
  { State.reset with
    mgmt := { phase := .running }, health := 1, bents := [(0, b), (0, { b with socket := 0, st := .ended })] }

/-- Refutes O60: at a warm reset of socket 0, the ended bent is one of socket 0 that is not saved, and what its key finds is
the bent of socket 1, which goes on. -/
theorem not_packageAndLinks : ¬ Obligations.PackageAndLinks := by
  unfold Obligations.PackageAndLinks
  rintro ⟨-, -, -, -, h⟩
  obtain ⟨t, ht, -, -, -, ends⟩ := (h listedTwice 0 rfl (by decide)).1 rfl (by decide +kernel) (by decide +kernel)
  rw [eq_after ht] at ends
  have found : ((after (.warmReset 0) listedTwice).bent 0).map Bent.alive = some true := by decide +kernel
  obtain ⟨b, hb, halive⟩ := Option.map_eq_some_iff.1 found
  exact absurd (ends (0, _) (List.mem_of_getElem? (i := 1) rfl) rfl (by decide) b hb) (by simp [halive])

end Sys2Proof.Machine

/-! What a store leaves alone. Stores, also those that deliver records and keep control blocks and the group table, change
memory and the record of its order, what is on its way to registers, and marks: of lanes with a monitor armed (R196) and of sinks
whose page-table entries change (R336). -/
namespace Sys2Proof.Machine
open Sys2Proof

/-- A lane but for the mark of a store to its monitored line. -/
def Lane.unmarked (x : Lane) : Lane := { x with monHit := false }

/-- A sink but for the mark of a store to its page-table entries. -/
def Sink.unmarked (k : Sink) : Sink := { k with moved := false }

/-- A die but for the marks of its sinks. -/
def Die.unmarked (d : Die) : Die := { d with sample := d.sample.map Sink.unmarked, trace := d.trace.map Sink.unmarked }

/-- The groups but for the marks of their lanes. -/
def State.unmarkedGroups (s : State) : Table Group := s.groups.map fun p => (p.1, p.2.mapLanes Lane.unmarked)

/-- The dies but for the marks of their sinks. -/
def State.unmarkedDies (s : State) : Table Die := s.dies.map fun p => (p.1, p.2.unmarked)

/-- `t` is `s` but for what stores change. -/
structure Stored (s t : State) : Prop where
  rest   : { t with mem := s.mem, groups := s.groups, dies := s.dies, agenda := s.agenda, past := s.past } = s
  groups : t.unmarkedGroups = s.unmarkedGroups
  dies   : t.unmarkedDies = s.unmarkedDies

section
variable {α β : Type}

theorem tfind_map (t : Table α) (f : α → β) (k : Nat) : tfind (t.map fun p => (p.1, f p.2)) k = (tfind t k).map f := by
  induction t with
  | nil => rfl
  | cons p r ih =>
    simp only [List.map_cons, tfind, ih]
    split <;> rfl

theorem tget_map (d : α) (t : Table α) (f : α → β) (k : Nat) :
    tget (f d) (t.map fun p => (p.1, f p.2)) k = f (tget d t k) := by
  rw [tget, tfind_map, Option.getD_map, tget]

end

/-! What two groups that differ in marks share. -/
section
variable {g h : Group}

theorem Group.mapLanes_weave (g : Group) (f : Lane → Lane) (w : Nat) :
    (g.mapLanes f).weave w = { g.weave w with lanes := (g.weave w).lanes.map fun p : Nat × Lane => (p.1, f p.2) } := by
  have := tget_map { size := 0 } g.weaves (fun v : Weave => { v with lanes := v.lanes.map fun p : Nat × Lane => (p.1, f p.2) }) w
  exact this

theorem Weave.lane_unmarked (v : Weave) (l : Nat) :
    tget {} (v.lanes.map fun p => (p.1, p.2.unmarked)) l = (v.lane l).unmarked :=
  tget_map ({} : Lane) v.lanes Lane.unmarked l

theorem Group.bare_of_unmarked (e : h.mapLanes Lane.unmarked = g.mapLanes Lane.unmarked) :
    { h with weaves := [] } = { g with weaves := [] } := congrArg (fun x : Group => { x with weaves := [] }) e

theorem Group.weave_of_unmarked (e : h.mapLanes Lane.unmarked = g.mapLanes Lane.unmarked) (w : Nat) :
    { h.weave w with lanes := [] } = { g.weave w with lanes := [] } := by
  have := congrArg (fun x : Group => { x.weave w with lanes := [] }) e
  simpa only [Group.mapLanes_weave] using this

theorem Group.lane_of_unmarked (e : h.mapLanes Lane.unmarked = g.mapLanes Lane.unmarked) (w l : Nat) :
    ((h.weave w).lane l).unmarked = ((g.weave w).lane l).unmarked := by
  have := congrArg (fun x : Group => (x.weave w).lane l) e
  simpa only [Group.mapLanes_weave, Weave.lane, Weave.lane_unmarked] using this

theorem Group.fibres_of_unmarked (e : h.mapLanes Lane.unmarked = g.mapLanes Lane.unmarked) (w : Nat) :
    (h.weave w).fibres = (g.weave w).fibres := by
  have := congrArg Weave.fibres (Group.weave_of_unmarked e w)
  exact this

theorem Group.mapLanes_mapLanes (g : Group) (f k : Lane → Lane) : (g.mapLanes f).mapLanes k = g.mapLanes (k ∘ f) := by
  simp only [Group.mapLanes, List.map_map, Function.comp_def]

end

theorem State.group_unmarked (s : State) (k : Nat) :
    tfind s.unmarkedGroups k = (s.group k).map (Group.mapLanes · Lane.unmarked) :=
  tfind_map s.groups (Group.mapLanes · Lane.unmarked) k

theorem State.die_unmarked (s : State) (k : Nat) : tget {} s.unmarkedDies k = (s.die k).unmarked :=
  tget_map ({} : Die) s.dies Die.unmarked k

section
variable {s t u : State}

/-- A group of a state finds its like in one that differs in marks. -/
theorem group_of_unmarked (e : t.unmarkedGroups = s.unmarkedGroups) {k : Nat} {g : Group} (hg : s.group k = some g) :
    ∃ h, t.group k = some h ∧ h.mapLanes Lane.unmarked = g.mapLanes Lane.unmarked := by
  have := congrArg (tfind · k) e
  simp only [State.group_unmarked, hg, Option.map_some, Option.map_eq_some_iff] at this
  exact this

theorem group_none_of_unmarked (e : t.unmarkedGroups = s.unmarkedGroups) {k : Nat} (hg : s.group k = none) :
    t.group k = none := by
  have := congrArg (tfind · k) e
  simpa only [State.group_unmarked, hg, Option.map_none, Option.map_eq_none_iff] using this

theorem fibre_of_unmarked (e : t.unmarkedGroups = s.unmarkedGroups) (r : FibreRef) : t.fibre r = s.fibre r := by
  unfold State.fibre
  cases hg : s.group r.gid with
  | none => rw [group_none_of_unmarked e hg]
  | some g =>
    obtain ⟨h, hh, eh⟩ := group_of_unmarked e hg
    rw [hh, Option.bind_some, Option.bind_some, Weave.fibre, Weave.fibre, Group.fibres_of_unmarked eh]

/-- Groups that differ in marks are kept, registers, fibres, choice stacks and all. -/
theorem keptGroup_of_unmarked (e : t.unmarkedGroups = s.unmarkedGroups) (k : Nat) : KeptGroup id id s t k := by
  intro g hg
  obtain ⟨h, hh, eh⟩ := group_of_unmarked e hg
  refine ⟨h, hh, Group.bare_of_unmarked eh, Group.weave_of_unmarked eh, fun w l => ?_⟩
  have := Group.lane_of_unmarked eh w l
  exact congrArg (fun x : Lane => { x with monHit := ((g.weave w).lane l).monHit }) this

namespace Stored

theorem refl (s : State) : Stored s s := ⟨rfl, rfl, rfl⟩

theorem trans (a : Stored s t) (b : Stored t u) : Stored s u where
  rest := by
    have h := b.rest
    rw [← a.rest]
    cases t; cases u
    simp only [State.mk.injEq] at h ⊢
    simp_all
  groups := b.groups.trans a.groups
  dies := b.dies.trans a.dies

variable (a : Stored s t)
include a

theorem bays : t.bays = s.bays := by
  have := congrArg State.bays a.rest
  exact this
theorem bents : t.bents = s.bents := by
  have := congrArg State.bents a.rest
  exact this
theorem cycle : t.cycle = s.cycle := by
  have := congrArg State.cycle a.rest
  exact this
theorem cur : t.cur = s.cur := by
  have := congrArg State.cur a.rest
  exact this

theorem fibre (r : FibreRef) : t.fibre r = s.fibre r := fibre_of_unmarked a.groups r

theorem die (k : Nat) : (t.die k).unmarked = (s.die k).unmarked := by
  rw [← State.die_unmarked, ← State.die_unmarked, a.dies]

end Stored

theorem wokenBy_unmarked (gs : Table Group) (pa n : Nat) :
    (wokenBy gs pa n).map (fun p => (p.1, p.2.mapLanes Lane.unmarked)) = gs.map fun p => (p.1, p.2.mapLanes Lane.unmarked) := by
  simp only [wokenBy, List.map_map, Function.comp_def, Group.mapLanes_mapLanes]
  refine List.map_congr_left fun p _ => ?_
  congr 2
  funext x
  split <;> rfl

theorem Sink.mark_unmarked (k : Sink) (old new : List Host.Cell) (pa n : Nat) : (k.mark old new pa n).unmarked = k.unmarked := by
  unfold Sink.mark
  split <;> rfl

theorem markedBy_unmarked (ds : Table Die) (old new : List Host.Cell) (pa n : Nat) :
    (markedBy ds old new pa n).map (fun p => (p.1, p.2.unmarked)) = ds.map fun p => (p.1, p.2.unmarked) := by
  unfold markedBy
  dsimp only
  split
  · simp only [List.map_map, Function.comp_def, Die.unmarked, Option.map_map, Sink.mark_unmarked]
  · rfl

theorem setMem_stored (s : State) (pa : Nat) (bs : List Byte) (a : Actor) (k : Nat) (r : Bool) :
    Stored s (s.setMem pa bs a k r) := ⟨rfl, wokenBy_unmarked .., markedBy_unmarked ..⟩

theorem putMem_stored (s : State) (pa : Nat) (bs : List Byte) (a : Actor) (k : Nat) (r : Bool) :
    Stored s (s.putMem pa bs a k r) := by
  unfold State.putMem
  split
  · exact .refl s
  · exact setMem_stored ..

theorem putNat_stored (s : State) (pa n v : Nat) : Stored s (s.putNat pa n v) := putMem_stored ..

theorem putPhys_stored (s : State) (pa : Nat) (bs : List Byte) (a : Actor) (k : Nat) (r : Bool) :
    Stored s (s.putPhys pa bs a k r) := by
  unfold State.putPhys
  split
  · exact ⟨rfl, rfl, rfl⟩
  · exact putMem_stored ..

theorem addPeg_stored (s : State) (pa : Nat) (v : DWord) (a : Actor) : Stored s (s.addPeg pa v a) := putPhys_stored ..

theorem Stored.ite {c : Prop} [Decidable c] (a : Stored s t) (b : Stored s u) : Stored s (if c then t else u) := by
  split
  · exact a
  · exact b

theorem Stored.foldl {ι : Type} {f : State → ι → State} (h : ∀ s i, Stored s (f s i)) (l : List ι) (s : State) :
    Stored s (l.foldl f s) := by
  induction l generalizing s with
  | nil => exact .refl s
  | cons i r ih => exact (h s i).trans (ih _)

theorem putRecord_stored (s : State) (h : Nat) (rec : List Byte) : Stored s (s.putRecord h rec) := by
  have stores := (putMem_stored s (memNat s h 8 + 64 * (memNat s (h + 12) 4 % 2 ^ memNat s (h + 8) 4)) rec hardware 7 false).trans
    (putNat_stored _ (h + 12) 4 (memNat s (h + 12) 4 + 1))
  unfold State.putRecord
  exact .ite stores (stores.trans (addPeg_stored ..))

theorem deliver_stored (s : State) (d : DomainView) (recs : List (List Byte)) : Stored s (s.deliver d recs) := by
  unfold State.deliver
  exact .ite (.ite (.foldl (fun s r => putRecord_stored s _ r) recs s) (putNat_stored ..)) (.ite (putNat_stored ..) (.refl s))

theorem syncHeld_stored (s : State) (socket : Nat) : Stored s (s.syncHeld socket) := by
  have first : Stored s (if (s.die socket).fqcb = 0 then s else
      s.putNat ((s.die socket).fqcb.toNat + 20) 4 (s.die socket).held.length) := .ite (.refl s) (putNat_stored ..)
  unfold State.syncHeld
  exact .ite first (first.trans (putNat_stored ..))

theorem syncTable_stored (s : State) (gid : Nat) : Stored s (s.syncTable gid) := by
  unfold State.syncTable
  split
  · exact .refl s
  · exact putMem_stored ..

theorem clearTable_stored (s : State) (gid : Nat) : Stored s (s.clearTable gid) := by
  unfold State.clearTable
  split
  · exact .refl s
  · exact putMem_stored ..

end

end Sys2Proof.Machine

/-! How an instruction that waits ends (R20): its gauge events are seen, and its fibre parks where it stands. -/
namespace Sys2Proof.Machine
open Sys2Proof

section
variable {c : Ctx} {s u : State}

/-- Where no halt waits in a weave, none takes effect. -/
theorem settleHalts_calm {g : Group} {k w : Nat} (hg : u.group k = some g)
    (hc : ∀ f ∈ (g.weave w).fibres, f.halts = []) : u.settleHalts k w = u := by
  unfold State.settleHalts
  rw [hg]
  dsimp only
  split
  · rfl
  · next h =>
    refine absurd ?_ h
    rw [List.isEmpty_iff, List.flatMap_eq_nil_iff]
    intro f hf
    rw [hc f hf, List.filter_nil]

theorem State.onFibre_group_same (r : FibreRef) (f : Fibre → Fibre) :
    (s.onFibre r f).group r.gid = (s.group r.gid).map fun g => g.setWeave r.weave ((g.weave r.weave).onFibre r.fid f) :=
  s.onWeave_group_same ..

theorem State.onFibre_fibre_same (r : FibreRef) (f : Fibre → Fibre) :
    (s.onFibre r f).fibre r = (s.fibre r).map fun x => { f x with id := r.fid } := by
  simp only [State.fibre, State.onFibre_group_same]
  cases s.group r.gid with
  | none => rfl
  | some g => simp only [Option.map_some, Option.bind_some, Group.setWeave_weave_same, Weave.onFibre_fibre_same]

/-- A fibre changed in a way that keeps halts empty leaves its weave calm. -/
theorem onFibre_calm {g : Group} {r : FibreRef} {f : Fibre → Fibre} (hg : u.group r.gid = some g)
    (hc : ∀ x ∈ (g.weave r.weave).fibres, x.halts = []) (hf : ∀ x : Fibre, x.halts = [] → (f x).halts = []) :
    ∃ h, (u.onFibre r f).group r.gid = some h ∧ ∀ x ∈ (h.weave r.weave).fibres, x.halts = [] := by
  refine ⟨_, by rw [State.onFibre_group_same, hg, Option.map_some], fun x hx => ?_⟩
  rw [Group.setWeave_weave_same] at hx
  have all : ∀ l : List Fibre, (∀ x ∈ l, x.halts = []) → ∀ x ∈ changeFibre r.fid f l, x.halts = [] := by
    intro l
    induction l with
    | nil => intro _ x hx; cases hx
    | cons y l ih =>
      intro hl x hx
      rw [List.forall_mem_cons] at hl
      unfold changeFibre at hx
      split at hx
      · rcases List.mem_cons.1 hx with rfl | h
        · exact hf y hl.1
        · exact hl.2 x h
      · rcases List.mem_cons.1 hx with rfl | h
        · exact hl.1
        · exact ih hl.2 x h
  exact all _ hc x hx

/-- The issuing weave is as calm as it was at issue. -/
theorem Kept.calm {m : Major} {o : Op} (hi : Issues m o s c) (hk : Kept c u) :
    ∃ g, u.group c.r.gid = some g ∧ ∀ f ∈ (g.weave c.r.weave).fibres, f.halts = [] := by
  obtain ⟨⟨g, hg, hf⟩, -⟩ := hk
  exact ⟨g, hg, by rw [hf]; exact hi.calm⟩

theorem Kept.fibre {m : Major} {o : Op} (hi : Issues m o s c) (hk : Kept c u) : u.fibre c.r = some c.f := by
  obtain ⟨⟨g, hg, hf⟩, -⟩ := hk
  obtain ⟨-, -, -, hfib, -⟩ := ctxOf_facts hi.picked
  rw [State.fibre, hg, Option.bind_some, Weave.fibre, hf]
  exact hfib

/-- At issue nothing has changed yet. -/
theorem Kept.start {m : Major} {o : Op} (hi : Issues m o s c) : Kept c { s with cur := none } := by
  obtain ⟨-, hg, hv, -⟩ := ctxOf_facts hi.picked
  exact ⟨⟨c.g, hg, by rw [hv]⟩, hi.gauges⟩

/-- The fibres of the issuing weave and the gauges are kept by what leaves groups, bents and cores alone. -/
theorem Kept.same (hk : Kept c u) {t : State} (hg : t.groups = u.groups) (hb : t.bents = u.bents) (hc : t.cores = u.cores) :
    Kept c t := by
  obtain ⟨⟨g, hgr, hf⟩, hga⟩ := hk
  have hgrp : t.group = u.group := by funext k; simp only [State.group, hg]
  refine ⟨⟨g, by rw [hgrp]; exact hgr, hf⟩, ?_⟩
  simpa only [State.coreAt, State.coreOf, State.bayOf, State.bentOf, State.bent, hgrp, hb, hc] using hga

/-- A gauge that watches nothing takes no event. -/
theorem watch_ok (hk : Kept c u) (m : DWord) (evs : List LaneEvent) : c.watch m evs u = .ok ((), u) := by
  unfold Ctx.watch
  rw [ex_modify]
  simp [State.gaugeEvents, hk.gauges]

/-- The issuing fibre parked at its instruction. -/
def Ctx.parkedWith (c : Ctx) (w : Wait) (f : Fibre) : Fibre :=
  { f with
    st := .parked, wait := w, len := c.len, waitCount := 0, aged := false, replay := 0, pcDue := 0
    waiters := f.waiters ||| c.wr }

theorem park_ok {m : Major} {o : Op} (hi : Issues m o s c) (hk : Kept c u) (w : Wait) :
    c.park w u = .ok ((), u.onFibre c.r (c.parkedWith w)) := by
  obtain ⟨g, hg, hc⟩ := hk.calm hi
  obtain ⟨h, hh, hcalm⟩ := onFibre_calm (f := c.parkedWith w) hg hc fun _ e => e
  unfold Ctx.park
  rw [ex_modify]
  exact congrArg (fun t => Except.ok ((), t)) (settleHalts_calm hh hcalm)

theorem parked_fibre {m : Major} {o : Op} (hi : Issues m o s c) (hk : Kept c u) (w : Wait) :
    (u.onFibre c.r (c.parkedWith w)).fibre c.r = some { c.parkedWith w c.f with id := c.r.fid } := by
  rw [State.onFibre_fibre_same, hk.fibre hi, Option.map_some]

/-- A lane without a stream puts nothing out. -/
theorem putStream_plain (hu : c.uses = []) (i : LaneIn) (hq : i.qd = none) (v : DWord) : c.putStream i v u = .ok ([], u) := by
  simp only [Ctx.putStream, hu, hq, List.isEmpty_nil, if_true]
  rfl

theorem ex_forM_same {α : Type} (l : List α) (f : α → Ex Unit) (h : ∀ a ∈ l, f a u = .ok ((), u)) :
    l.forM f u = .ok ((), u) := by
  induction l with
  | nil => rfl
  | cons a r ih =>
    show (f a >>= fun _ => r.forM f) u = _
    rw [ex_bind (h a (by simp))]
    exact ih fun b hb => h b (by simp [hb])

end

end Sys2Proof.Machine

/-! WAITI, ACCT, SYSC and TRAP of no lane (R364, R365, R371, R372). -/
namespace Sys2Proof.Machine
open Sys2Proof

/-- A die has the service request `q`, posted or held, whatever its sequence number (R365). -/
def Die.serves (d : Die) (q : SvcReq) : Prop := ∃ x ∈ d.svc ++ d.svcHeld, { x with seq := q.seq } = q

section
variable {s t : State}

/-- Stores leave a die's service requests alone. -/
theorem Stored.svc (a : Stored s t) (k : Nat) : (t.die k).svc = (s.die k).svc := by
  have := congrArg Die.svc (a.die k)
  exact this

theorem Stored.svcHeld (a : Stored s t) (k : Nat) : (t.die k).svcHeld = (s.die k).svcHeld := by
  have := congrArg Die.svcHeld (a.die k)
  exact this

theorem postRequest_keeps (s : State) (k : Nat) (q : SvcReq) :
    (s.postRequest k q).unmarkedGroups = s.unmarkedGroups ∧
      ∃ n, ((s.postRequest k q).die k).svc = (s.die k).svc ++ [{ q with seq := n }] ∧
        ((s.postRequest k q).die k).svcHeld = (s.die k).svcHeld := by
  have stored : ∀ u, Stored s u → ∀ n,
      let t := u.setDie k { u.die k with svc := (u.die k).svc ++ [{ q with seq := some n }] }
      t.unmarkedGroups = s.unmarkedGroups ∧ ∃ n, (t.die k).svc = (s.die k).svc ++ [{ q with seq := n }] ∧
        (t.die k).svcHeld = (s.die k).svcHeld := by
    intro u a n
    refine ⟨a.groups, some n, ?_, ?_⟩
    · rw [State.setDie_die_same]
      dsimp only
      rw [a.svc]
    · rw [State.setDie_die_same]
      exact a.svcHeld k
  have entry := (putMem_stored s (memNat s (s.die k).svcb.toNat 8 +
      32 * (memNat s ((s.die k).svcb.toNat + 12) 4 % 2 ^ (memNat s ((s.die k).svcb.toNat + 8) 4 % 32)))
      (q.bytes (memNat s ((s.die k).svcb.toNat + 12) 4)) hardware 7 false).trans
    (putNat_stored _ ((s.die k).svcb.toNat + 12) 4 (memNat s ((s.die k).svcb.toNat + 12) 4 + 1))
  exact stored _ (.ite entry (entry.trans (addPeg_stored ..))) _

theorem postRequests_keeps (n : Nat) : ∀ (s : State) (k : Nat) (q : SvcReq), (s.die k).serves q →
    (s.postRequests k n).unmarkedGroups = s.unmarkedGroups ∧ ((s.postRequests k n).die k).serves q := by
  induction n with
  | zero => exact fun s k q h => ⟨rfl, h⟩
  | succ n ih =>
    intro s k q h
    unfold State.postRequests
    dsimp only
    split
    · exact ⟨rfl, h⟩
    · next p r hheld =>
      split
      · obtain ⟨groups, i, hsvc, hrest⟩ := postRequest_keeps (s.setDie k { s.die k with svcHeld := r }) k p
        have serves : (((s.setDie k { s.die k with svcHeld := r }).postRequest k p).die k).serves q := by
          obtain ⟨x, hx, hq⟩ := h
          rw [hheld] at hx
          unfold Die.serves
          rw [hsvc, hrest, State.setDie_die_same]
          rcases List.mem_append.1 hx with hx | hx
          · exact ⟨x, by simp [hx], hq⟩
          · rcases List.mem_cons.1 hx with rfl | hx
            · exact ⟨{ x with seq := i }, by simp, hq⟩
            · exact ⟨x, by simp [hx], hq⟩
        obtain ⟨groups', serves'⟩ := ih _ k q serves
        exact ⟨groups'.trans groups, serves'⟩
      · exact ⟨rfl, h⟩

/-- A service request is posted or held, and groups keep all but marks of stores (R365). -/
theorem request_keeps (s : State) (k : Nat) (q : SvcReq) :
    (s.request k q).unmarkedGroups = s.unmarkedGroups ∧ ((s.request k q).die k).serves q := by
  obtain ⟨groups, x, hx, hq⟩ := postRequests_keeps ((s.die k).svcHeld.length + 1)
    (s.setDie k { s.die k with svcHeld := (s.die k).svcHeld ++ [q] }) k q
    ⟨q, by rw [State.setDie_die_same]; simp, rfl⟩
  have held := syncHeld_stored ((s.setDie k { s.die k with svcHeld := (s.die k).svcHeld ++ [q] }).postRequests k
    ((s.die k).svcHeld.length + 1)) k
  exact ⟨held.groups.trans groups, x, by rw [State.request, held.svc, held.svcHeld]; exact hx, hq⟩

end

section
variable {o : Op} {s : State} {c : Ctx}

/-- The greatest cycle count that the lanes of a WAITI name. -/
def Ctx.waitCycles (c : Ctx) : Nat := c.doers.foldl (fun n l => max n (lowWord (c.regVals l).a).toNat) 0

theorem plainLanes_cycles (c : Ctx) :
    c.plainLanes.foldl (fun n i => max n (lowWord i.vals.a).toNat) 0 = c.waitCycles := by
  rw [Ctx.plainLanes, List.foldl_map]
  rfl

theorem plainLanes_evs (c : Ctx) : c.plainLanes.flatMap (·.evs) = [] := by
  rw [List.flatMap_eq_nil_iff]
  intro i hi
  obtain ⟨l, -, rfl⟩ := List.mem_map.1 hi
  rfl

theorem plainLanes_put (h : c.uses = []) (u : State) :
    (c.plainLanes.forM fun i => do let _ ← c.putStream i 0) u = .ok ((), u) := by
  refine ex_forM_same _ _ fun i hi => ?_
  obtain ⟨l, -, rfl⟩ := List.mem_map.1 hi
  rw [ex_bind (putStream_plain h _ rfl 0)]
  rfl

theorem waiti_goes (h : Plain .waiti o s c) (hn : c.waitCycles = 0) :
    exec (.waiti o) s = .next (c.movedOn { s with cur := none }) := by
  refine issue_done h.toIssues ?_
  rw [ex_bind (check_ok h.slots rfl _), ex_bind (ready_plain h.streams ..)]
  dsimp only
  rw [ex_bind (plainLanes_put h.streams _), plainLanes_cycles, hn, plainLanes_evs]
  exact finish_ok h.toIssues (.start h.toIssues) []

theorem waiti_parks (h : Plain .waiti o s c) (hn : c.waitCycles ≠ 0) :
    exec (.waiti o) s =
      .next (({ s with cur := none } : State).onFibre c.r (c.parkedWith (.clock (s.cycle + c.waitCycles)))) := by
  refine issue_done h.toIssues ?_
  rw [ex_bind (check_ok h.slots rfl _), ex_bind (ready_plain h.streams ..)]
  dsimp only
  rw [ex_bind (plainLanes_put h.streams _), plainLanes_cycles, plainLanes_evs]
  simp only [List.isEmpty_nil, Bool.not_true, Bool.false_or, decide_eq_true_eq, hn, if_false]
  rw [ex_bind (watch_ok (.start h.toIssues) _ _)]
  exact park_ok h.toIssues (.start h.toIssues) _

theorem acct_sets (h : Plain .acct o s c) : exec (.acct o) s =
    .next (c.movedOn (({ s with cur := none } : State).onGroup c.r.gid fun g => { g with extWait := !o.mod.getLsbD 0 })) := by
  refine issue_done h.toIssues ?_
  rw [ex_bind (check_ok h.slots rfl _), ex_bind (ex_modify _ _)]
  have track := (Track.start h.picked).onGroup (fun g => { g with extWait := !o.mod.getLsbD 0 }) (fun _ => rfl) fun _ _ => rfl
  exact finish_ok h.toIssues (track.kept h.toIssues rfl rfl) []

/-- With no service queue Kd takes all ones and the fibre goes on (R365). -/
theorem sysc_answers (h : Plain .sysc o s c) {d : BitVec 7} (hd : o.d = .k d) (hs : s.isSealed c.r.gid = false)
    (hq : (s.die c.socket).svcb = 0) : ∃ u, exec (.sysc o) s = .next (c.movedOn u) ∧ u.mem = s.mem ∧
      ∃ h, u.group c.r.gid = some h ∧ ∀ i, h.kAt i = if i = d.toNat then 0xFFFFFFFF else c.g.kAt i := by
  obtain ⟨u, hput, track⟩ := (Track.start h.picked).put 0 (receivers_nodup 0) false o.d 0xFFFFFFFF
  rw [hd] at track
  refine ⟨u, issue_done h.toIssues ?_, by rw [track.rest], ?_⟩
  · rw [ex_bind (check_ok h.slots (by simp [hs]) _), if_pos hq, ex_bind hput]
    exact finish_ok h.toIssues (track.kept h.toIssues (Group.given_core ..) (Group.given_bent ..)) []
  · obtain ⟨g, hg, hk, -⟩ := track.group
    refine ⟨g, hg, fun i => ?_⟩
    have := congrArg (fun g : Group => g.kAt i) hk
    exact this.trans (Group.setK_kAt ..)

/-- The request of a SYSC (R365). -/
def syscReq (o : Op) (s : State) (c : Ctx) : SvcReq :=
  { code := (lowWord o.own).toNat % 2 ^ 22, gid := c.r.gid, arg := (c.regVals 0).a, pc := c.f.pc, weave := c.r.weave
    fid := c.r.fid, tag := s.fresh }

theorem sysc_parks (h : Plain .sysc o s c) {d : BitVec 7} (hd : o.d = .k d) (hs : s.isSealed c.r.gid = false)
    (hq : (s.die c.socket).svcb ≠ 0) :
    ∃ t f q, exec (.sysc o) s = .next t ∧ t.fibre c.r = some f ∧ f.st = .parked ∧
      f.wait = .sysc s.fresh d.toNat ∧ f.pc = c.f.pc ∧ f.lanes = c.f.lanes ∧
      q ∈ (t.die c.socket).svc ++ (t.die c.socket).svcHeld ∧ q.tag = s.fresh ∧ q.gid = c.r.gid ∧
      q.code = (lowWord o.own).toNat % 2 ^ 22 ∧ q.arg = (c.regVals 0).a := by
  have kept : Kept c { s with cur := none, fresh := s.fresh + 1 } := (Kept.start h.toIssues).same rfl rfl rfl
  let parked := ({ s with cur := none, fresh := s.fresh + 1 } : State).onFibre c.r (c.parkedWith (.sysc s.fresh d.toNat))
  obtain ⟨groups, q, hmem, heq⟩ := request_keeps parked c.socket (syscReq o s c)
  have hf : (parked.request c.socket (syscReq o s c)).fibre c.r =
      some { c.parkedWith (.sysc s.fresh d.toNat) c.f with id := c.r.fid } := by
    rw [fibre_of_unmarked groups]
    exact parked_fibre h.toIssues kept _
  refine ⟨_, _, q, issue_done h.toIssues ?_, hf, rfl, rfl, rfl, rfl, hmem, ?_⟩
  · rw [ex_bind (check_ok h.slots (by simp [hs]) _), if_neg hq, ex_bind (ex_get _)]
    dsimp only
    rw [ex_bind (ex_set _ _), ex_bind (watch_ok kept _ _), hd, ex_bind (park_ok h.toIssues kept _), ex_modify]
    rfl
  · exact ⟨congrArg (fun q : SvcReq => q.tag) heq, congrArg (fun q : SvcReq => q.gid) heq,
      congrArg (fun q : SvcReq => q.code) heq, congrArg (fun q : SvcReq => q.arg) heq⟩

theorem trap_goes (h : Plain .trap o s c) (hw : c.wr = 0) :
    exec (.trap o) s = .next (c.movedOn { s with cur := none }) := by
  refine issue_done h.toIssues ?_
  rw [ex_bind (check_ok h.slots rfl _), if_pos hw]
  exact finish_ok h.toIssues (.start h.toIssues) []

end

/-- Settles O45: each instruction passes its checks and then goes on (`finish_ok`) or parks (`park_ok`); the service request is
followed through the posting of requests (`request_keeps`). -/
theorem waitsAndService : Obligations.WaitsAndService := by
  refine ⟨fun o s c h => ⟨waiti_goes h, fun hn => ?_⟩, fun o s c => acct_sets,
    fun o s c d h hd hs => ⟨sysc_answers h hd hs, sysc_parks h hd hs⟩, fun o s c => trap_goes⟩
  refine ⟨_, _, waiti_parks h hn, ?_, parked_fibre h.toIssues (.start h.toIssues) _, rfl, rfl, rfl, rfl⟩
  simp [State.onFibre]

end Sys2Proof.Machine

/-! NOP, YIELD and SPAN (R45, R139, R141), FENCE, and what a load that follows a fence misses (R187, R188, R192). -/
namespace Sys2Proof.Machine
open Sys2Proof

/-! Which stores precede a load that is to come (R187, R188). -/
section
variable {k : Nat} {all m : List Seen} {e y : Seen}

theorem markPass_cons (k : Nat) (e : Seen) (all m : List Seen) : markPass k (e :: all) m =
    if (markPass k all m).any (fun y => y.at_ == e.at_) || !(markPass k all m).any (e.before k) then markPass k all m
    else e :: markPass k all m := rfl

theorem suffix_markPass (k : Nat) (all m : List Seen) : m <:+ markPass k all m := by
  induction all with
  | nil => exact List.suffix_rfl
  | cons e all ih =>
    rw [markPass_cons]
    split
    · exact ih
    · exact ih.trans (List.suffix_cons ..)

theorem markPass_drop_mono (h : y ∈ markPass k (all.drop n) m) {i : Nat} (hi : i ≤ n) : y ∈ markPass k (all.drop i) m := by
  induction n with
  | zero => rwa [Nat.le_zero.1 hi]
  | succ n ih =>
    rcases Nat.lt_or_eq_of_le hi with hlt | rfl
    · refine ih ?_ (Nat.lt_succ_iff.1 hlt)
      by_cases hn : n < all.length
      · rw [List.drop_eq_getElem_cons hn, markPass_cons]
        split
        · exact h
        · exact List.mem_cons_of_mem _ h
      · rw [List.drop_eq_nil_of_le (by omega)] at h ⊢
        exact h
    · exact h

theorem mem_markPass_from (h : y ∈ markPass k all m) : y ∈ all ∨ y ∈ m := by
  induction all with
  | nil => exact .inr h
  | cons e all ih =>
    rw [markPass_cons] at h
    split at h
    · exact (ih h).imp_left (List.mem_cons_of_mem _)
    · rcases List.mem_cons.1 h with rfl | h
      · exact .inl (List.mem_cons_self ..)
      · exact (ih h).imp_left (List.mem_cons_of_mem _)

theorem mem_markAll (n : Nat) (h : y ∈ m) : y ∈ markAll k all n m := by
  induction n generalizing m with
  | zero => exact h
  | succ n ih =>
    unfold markAll
    dsimp only
    split
    · exact h
    · exact ih ((suffix_markPass k all m).mem h)

/-- What one pass marks stays marked. -/
theorem mem_markAll_of_markPass (n : Nat) (h : y ∈ markPass k all m) : y ∈ markAll k all (n + 1) m := by
  unfold markAll
  dsimp only
  split
  · next he =>
    rw [(suffix_markPass k all m).eq_of_length (by simpa using (beq_iff_eq.1 he).symm)]
    exact h
  · exact mem_markAll n h

end

/-! The record as a loading agent sees it. -/
section
variable {past : List Ev} {a : Actor} {fibre : DWord} {x : Ev} {i j : Nat}

/-- The event at a place of the record, as it is seen. -/
def seenAt (a : Actor) (fibre : DWord) (i : Nat) (x : Ev) : Seen := ⟨i, x.level a fibre, x⟩

theorem seenFrom_length (past : List Ev) (a : Actor) (fibre : DWord) : (seenFrom past a fibre).length = past.length := by
  simp [seenFrom]

theorem seenFrom_get (h : past[i]? = some x) : (seenFrom past a fibre)[i]? = some (seenAt a fibre i x) := by
  simp [seenFrom, List.getElem?_map, List.getElem?_zipIdx, h, seenAt]

theorem mem_drop_seenFrom {y : Seen} (h : y ∈ (seenFrom past a fibre).drop j) : j ≤ y.at_ := by
  obtain ⟨n, hn⟩ := List.mem_iff_getElem?.1 h
  simp only [seenFrom, List.getElem?_drop, List.getElem?_map, List.getElem?_zipIdx, Option.map_eq_some_iff] at hn
  obtain ⟨p, ⟨e, -, rfl⟩, rfl⟩ := hn
  show j ≤ 0 + (j + n)
  omega

theorem mem_seenFrom_at {z : Seen} (h : z ∈ seenFrom past a fibre) (hi : z.at_ = i) (hx : past[i]? = some x) :
    z = seenAt a fibre i x := by
  obtain ⟨n, hn⟩ := List.mem_iff_getElem?.1 h
  simp only [seenFrom, List.getElem?_map, List.getElem?_zipIdx, Option.map_eq_some_iff] at hn
  obtain ⟨p, ⟨e, he, rfl⟩, rfl⟩ := hn
  have hin : n = i := by rw [← hi]; show n = 0 + n; omega
  subst hin
  rw [hx] at he
  cases he
  show Seen.mk (0 + n) _ _ = _
  rw [Nat.zero_add]
  rfl

/-- An event that precedes a marked later one is marked with it. -/
theorem mark_precedes {k : Nat} {load y : Seen} (hx : past[i]? = some x) (hl : i < load.at_)
    (hy : y ∈ markPass k ((seenFrom past a fibre).drop (i + 1)) [load]) (hb : (seenAt a fibre i x).before k y = true) :
    seenAt a fibre i x ∈ markPass k ((seenFrom past a fibre).drop i) [load] := by
  have hd : (seenFrom past a fibre).drop i = seenAt a fibre i x :: (seenFrom past a fibre).drop (i + 1) := by
    obtain ⟨h, e⟩ := List.getElem?_eq_some_iff.1 (seenFrom_get (a := a) (fibre := fibre) hx)
    rw [List.drop_eq_getElem_cons h, e]
  have fresh : (markPass k ((seenFrom past a fibre).drop (i + 1)) [load]).any
      (fun y => y.at_ == (seenAt a fibre i x).at_) = false := by
    rw [List.any_eq_false]
    intro z hz
    rw [beq_iff_eq]
    rcases mem_markPass_from hz with h | h
    · exact (Nat.lt_of_succ_le (mem_drop_seenFrom h)).ne'
    · rw [List.mem_singleton.1 h]; exact hl.ne'
  rw [hd, markPass_cons, fresh, List.any_eq_true.2 ⟨y, hy, hb⟩]
  exact List.mem_cons_self ..

theorem Actor.same_iff {a b : Actor} :
    a.same b = true ↔ a.level = b.level ∧ a.id = b.id ∧ a.weave = b.weave ∧ a.gid = b.gid := by
  simp [Actor.same, and_assoc]

theorem Actor.same.symm {a b : Actor} (h : a.same b = true) : b.same a = true := by
  obtain ⟨h1, h2, h3, h4⟩ := Actor.same_iff.1 h
  exact Actor.same_iff.2 ⟨h1.symm, h2.symm, h3.symm, h4.symm⟩

theorem Actor.same.trans {a b c : Actor} (h : a.same b = true) (h' : b.same c = true) : a.same c = true := by
  obtain ⟨h1, h2, h3, h4⟩ := Actor.same_iff.1 h
  obtain ⟨g1, g2, g3, g4⟩ := Actor.same_iff.1 h'
  exact Actor.same_iff.2 ⟨h1.trans g1, h2.trans g2, h3.trans g3, h4.trans g4⟩

/-- An agent's own position is the narrowest scope with itself. -/
theorem Actor.near_same {b : Actor} (h : b.same a = true) (fibre : DWord) : a.near fibre b = a.level := by
  obtain ⟨hl, -⟩ := Actor.same_iff.1 h
  simp [Actor.near, Actor.same.symm h, hl]

theorem Act.access_of_writes {x : Act} (h : x.writes = true) : ∃ r w c m, x = .access r w c m := by
  cases x with
  | access r w c m => exact ⟨r, w, c, m, rfl⟩
  | fence => cases h
  | edge _ _ _ => cases h
  | cinv _ _ => cases h

theorem Act.access_of_reads {x : Act} (h : x.reads = true) : ∃ r w c m, x = .access r w c m := by
  cases x with
  | access r w c m => exact ⟨r, w, c, m, rfl⟩
  | fence => cases h
  | edge _ _ _ => cases h
  | cinv _ _ => cases h

theorem Ev.level_access {r w c m} (h : x.act = .access r w c m) : x.level a fibre = a.near fibre x.actor := by
  simp only [Ev.level, h]

theorem Ev.level_fence (h : x.act = .fence) : x.level a fibre = a.near fibre x.actor := by
  simp only [Ev.level, h]

/-- An access precedes a later fence of its agent, at the scopes that the fence names (R192). -/
theorem access_before_fence {f : Ev} {k : Nat} {r w c m} (hx : x.act = .access r w c m) (hf : f.act = .fence) (hij : i < j)
    (hs : x.actor.same f.actor = true) (hfa : f.actor.same a = true) (hk : k ≤ f.scope) (ha : a.level ≤ f.scope) :
    (seenAt a fibre i x).before k (seenAt a fibre j f) = true := by
  simp only [Seen.before, seenAt, Ev.level_access hx, Ev.level_fence hf, Actor.near_same hfa,
    Actor.near_same (Actor.same.trans hs hfa), Ev.direct, hx, hf, hs, Bool.and_true, Bool.and_eq_true, decide_eq_true_eq]
  omega

/-- A fence precedes the later accesses of its agent, at the scopes that it names (R192). -/
theorem fence_before_load {k scope batch : Nat} {cells : List (ByteAt × Byte)} {missed : List Nat} (hf : x.act = .fence)
    (hi : i < past.length) (hfa : x.actor.same a = true) (hk : k ≤ x.scope) (ha : a.level ≤ x.scope) :
    (seenAt a fibre i x).before k (loadSeen past a scope batch cells missed) = true := by
  simp only [Seen.before, seenAt, loadSeen, Ev.level_fence hf, Actor.near_same hfa, Ev.direct, hf, hfa, Bool.and_true,
    Bool.and_eq_true, decide_eq_true_eq]
  omega

/-- A store precedes an access that reads it (R187). -/
theorem store_before_reader {y : Ev} {k : Nat} {r w c m r' w' c' m'} (hx : x.act = .access r w c m)
    (hy : y.act = .access r' w' c' m') (hij : i < j) (hw : x.act.writes = true) (ho : x.act.overlaps y.act = true)
    (hm : y.act.missed.contains i = false) : (seenAt a fibre i x).before k (seenAt a fibre j y) = true := by
  have : byteBefore i j x.act y.act = true := by
    rw [byteBefore, ho, hw, hm, decide_eq_true hij, Bool.not_false, Bool.or_true]
    rfl
  rw [hx, hy] at this
  simp only [Seen.before, seenAt, Ev.direct, hx, hy, this, Bool.or_true]

/-- A load that follows a fence of its agent misses no store that the agent made or had seen before it. -/
theorem fence_shows {scope batch m : Nat} {cells : List (ByteAt × Byte)} {y f : Ev} (hx : past[i]? = some x)
    (hy : past[m]? = some y) (hf : past[j]? = some f) (hw : x.act.writes = true) (him : i ≤ m) (hmj : m < j)
    (hs : (m = i ∧ x.actor.same a = true) ∨ (i < m ∧ y.actor.same a = true ∧ y.act.reads = true ∧
      x.act.overlaps y.act = true ∧ y.act.missed.contains i = false))
    (hfence : f.act = .fence) (hfa : f.actor.same a = true) (hk : a.near fibre x.actor ≤ f.scope) (ha : a.level ≤ f.scope)
    {z : Seen} (hz : z ∈ candidates past a fibre scope batch cells) : z.at_ ≠ i := by
  intro hi
  unfold candidates at hz
  obtain ⟨hhit, hfree⟩ := List.mem_filter.1 hz
  obtain rfl := mem_seenFrom_at (List.mem_filter.1 hhit).1 hi hx
  set load := loadSeen past a scope batch cells _ with hload
  obtain ⟨r, w, c, d, hacc⟩ := Act.access_of_writes hw
  have hlevel : (seenAt a fibre i x).level ≤ f.scope := by rw [seenAt, Ev.level_access hacc]; exact hk
  set k := (seenAt a fibre i x).level with hkdef
  have hjlen : j < past.length := (List.getElem?_eq_some_iff.1 hf).1
  have hlast : load.at_ = past.length := rfl
  have fenceMarked : seenAt a fibre j f ∈ markPass k ((seenFrom past a fibre).drop j) [load] :=
    mark_precedes hf (by omega) ((suffix_markPass ..).mem (List.mem_singleton.2 rfl))
      (fence_before_load hfence hjlen hfa hlevel ha)
  have storeMarked : seenAt a fibre i x ∈ markPass k ((seenFrom past a fibre).drop i) [load] := by
    rcases hs with ⟨rfl, hxa⟩ | ⟨hlt, hya, hread, hover, hseen⟩
    · exact mark_precedes hx (by omega) (markPass_drop_mono fenceMarked (by omega))
        (access_before_fence hacc hfence hmj (Actor.same.trans hxa (Actor.same.symm hfa)) hfa hlevel ha)
    · obtain ⟨r', w', c', d', hacc'⟩ := Act.access_of_reads hread
      have readerMarked : seenAt a fibre m y ∈ markPass k ((seenFrom past a fibre).drop m) [load] :=
        mark_precedes hy (by omega) (markPass_drop_mono fenceMarked (by omega))
          (access_before_fence hacc' hfence hmj (Actor.same.trans hya (Actor.same.symm hfa)) hfa hlevel ha)
      exact mark_precedes hx (by omega) (markPass_drop_mono readerMarked (by omega))
        (store_before_reader hacc hacc' hlt hw hover hseen)
  have isBlocked : blocked (seenFrom past a fibre) load (seenAt a fibre i x) = true := by
    obtain ⟨n, hn⟩ : ∃ n, (seenFrom past a fibre).length = n + 1 := ⟨past.length - 1, by rw [seenFrom_length]; omega⟩
    rw [blocked, hn]
    exact List.any_eq_true.2 ⟨_, mem_markAll_of_markPass n (markPass_drop_mono storeMarked (Nat.zero_le i)), beq_self_eq_true _⟩
  rw [isBlocked] at hfree
  simp at hfree

end

/-! Instructions that only move on, and the record of fences. -/
section
variable {c : Ctx} {s u : State} {o : Op}

/-- A weave changed but for its fibres keeps what an instruction that goes on needs. -/
theorem Kept.onWeave (hk : Kept c u) {f : Weave → Weave} (hf : ∀ v, (f v).fibres = v.fibres) :
    Kept c (u.onWeave c.r.gid c.r.weave f) := by
  obtain ⟨⟨g, hg, hv⟩, hga⟩ := hk
  refine ⟨⟨_, by rw [State.onWeave_group_same, hg, Option.map_some], ?_⟩, ?_⟩
  · rw [Group.setWeave_weave_same, hf, hv]
  · have hcores : (u.onWeave c.r.gid c.r.weave f).cores = u.cores := by simp
    have hbents : (u.onWeave c.r.gid c.r.weave f).bents = u.bents := by simp
    simpa only [State.coreAt, State.coreOf, State.bayOf, State.bentOf, State.bent, hcores, hbents, State.onWeave_group_same, hg,
      Option.map_some, Option.bind_some, Group.setWeave] using hga

theorem nop_goes (h : Issues .nop o s c) : nopOp o s = .next (c.movedOn { s with cur := none }) :=
  issue_done h (finish_ok h (.start h) [])

theorem yield_goes (h : Issues .yield o s c) : yieldOp o s = .next (c.movedOn (({ s with cur := none } : State).onWeave
    c.r.gid c.r.weave fun v => { v with yielded := true })) := by
  refine issue_done h ?_
  rw [ex_bind (ex_modify _ _)]
  exact finish_ok h ((Kept.start h).onWeave (f := fun v => { v with yielded := true }) fun _ => rfl) []

theorem span_goes (h : Issues .span o s c) (hs : c.each.flatMap (slotRefusals c) = [])
    (h1 : 1 ≤ (lanesOf o.ownBits).length) (h2 : (lanesOf o.ownBits).length ≤ 32)
    (hb : ∀ i ∈ lanesOf o.ownBits, c.f.wb + i < c.g.gBudget) :
    exec (.span o) s = .next (c.movedOn (({ s with cur := none } : State).onWeave c.r.gid c.r.weave fun v =>
      { v with staged := (lanesOf o.ownBits).map (c.f.wb + ·) })) := by
  refine issue_done h ?_
  have hall : ((lanesOf o.ownBits).all fun i => c.f.wb + i < c.g.gBudget) = true := by
    simpa only [List.all_eq_true, decide_eq_true_eq] using hb
  rw [ex_bind (check_ok hs (by simp [hall, h1, h2]) _), ex_bind (ex_modify _ _)]
  exact finish_ok h ((Kept.start h).onWeave (f := fun v => { v with staged := (lanesOf o.ownBits).map (c.f.wb + ·) })
    fun _ => rfl) []

theorem note_past_length (hs : s.oracle ≠ []) (e : Ev) : (s.note e).past.length = s.past.length + 1 := by
  rw [State.note, if_neg (by simpa using hs)]
  simp

/-- A fence changes only the record of the memory order. -/
theorem fence_rest (s : State) (a : Actor) (k : Nat) : s.fence a k = { s with past := (s.fence a k).past } := by
  unfold State.fence State.note
  split <;> rfl

/-- Fences of some agents, in turn. -/
def State.fences (s : State) (l : List Actor) (k : Nat) : State := l.foldl (fun s a => s.fence a k) s

theorem fences_rest (l : List Actor) (k : Nat) (s : State) : s.fences l k = { s with past := (s.fences l k).past } := by
  induction l generalizing s with
  | nil => rfl
  | cons a l ih =>
    have := ih (s.fence a k)
    rw [fence_rest s a k] at this
    rw [State.fences, List.foldl_cons, ← State.fences, fence_rest s a k]
    exact this

theorem fences_none (l : List Actor) (k : Nat) (hs : s.oracle = []) : s.fences l k = s := by
  induction l with
  | nil => rfl
  | cons a l ih => rw [State.fences, List.foldl_cons, State.fence_none s a k hs]; exact ih

theorem fences_past_length (l : List Actor) (k : Nat) (s : State) (hs : s.oracle ≠ []) :
    (s.fences l k).past.length = s.past.length + l.length := by
  induction l generalizing s with
  | nil => rfl
  | cons a l ih =>
    have := ih (s.fence a k) (by simpa using hs)
    rw [State.fences, List.foldl_cons, ← State.fences, this, State.fence, note_past_length hs, List.length_cons]
    omega

/-- The agents of the writing lanes (R185). -/
def Ctx.writerActors (c : Ctx) (s : State) : List Actor := c.writers.map (s.laneActor c.r.gid c.r.weave)

theorem writers_fences (c : Ctx) (s u : State) (k : Nat) :
    c.writers.foldl (fun u l => u.fence (s.laneActor c.r.gid c.r.weave l) k) u = u.fences (c.writerActors s) k := by
  rw [State.fences, Ctx.writerActors, List.foldl_map]

theorem fence_goes (h : Issues .fence o s c) (hs : c.each.flatMap (slotRefusals c) = []) :
    exec (.fence o) s = .next (c.movedOn (({ s with cur := none } : State).fences (c.writerActors s) o.scope.toNat)) := by
  obtain ⟨-, -, -, -, -, -, hs0, -⟩ := ctxOf_facts h.picked
  have hrest := fences_rest (c.writerActors s) o.scope.toNat { s with cur := none }
  refine issue_done h ?_
  rw [ex_bind (check_ok hs rfl _), ex_bind (ex_forM_modify _ _ _)]
  simp only [Ctx.actor, hs0]
  rw [writers_fences]
  exact finish_ok h ((Kept.start h).same (by rw [hrest]) (by rw [hrest]) (by rw [hrest])) []

end

/-- Settles O20: each instruction passes its checks and goes on by `finish_ok`; the fence clause marks, newest first, the fence,
the access that saw the store and the store as events that precede the load (`fence_shows`). -/
theorem hintsAndStaging : Obligations.HintsAndStaging := by
  refine ⟨fun o s c h => ⟨nop_goes h, nop_goes h⟩, fun o s c h => ⟨yield_goes h, yield_goes h⟩,
    fun o s c h hs h1 h2 hb => span_goes h hs h1 h2 hb, fun o s c h hs => ?_,
    fun past a fibre scope batch cells i m j x y f hx hy hf hw him hmj hsee hfence hfa hk ha z hz =>
      fence_shows hx hy hf hw him hmj hsee hfence hfa hk ha hz⟩
  dsimp only
  rw [writers_fences]
  refine ⟨fence_goes h hs, fences_rest .., fun hn => ?_, fun hn => ?_⟩
  · rw [fences_none (s := { s with cur := none }) _ _ hn]
  · rw [fences_past_length _ _ { s with cur := none } hn, Ctx.writerActors, List.length_map]

end Sys2Proof.Machine

/-! What a translation leaves of the groups: all but marks of stores, as it sets A and D bits (R309). -/
namespace Sys2Proof.Machine
open Sys2Proof

section
variable (s : State)

theorem touch_stored (l : Leaf) (acc : Access) : Stored s (s.touch l acc) := .ite (.refl s) (putPhys_stored ..)

theorem choose_groups (n : Nat) : (s.choose n).2.groups = s.groups := by
  unfold State.choose
  split <;> rfl

theorem addTlb_groups (k : Nat) (es : List TlbEntry) (ps : List PtrEntry) : (s.addTlb k es ps).groups = s.groups := by
  unfold State.addTlb
  dsimp only
  split <;> rfl

theorem useGranule_groups (va : DWord) (acc : Access) (l : Leaf) : (s.useGranule va acc l).groups = s.groups := by
  unfold State.useGranule
  generalize freeBytes 4096 s.fresh = bs
  dsimp only
  split
  · rfl
  · split
    · rfl
    · split
      · rfl
      · split <;> rfl

theorem groupLeaf_groups (va : DWord) (l : Leaf) : (s.groupLeaf va l).1.groups = s.groups := by
  unfold State.groupLeaf
  dsimp only
  split
  · rfl
  · split
    · rfl
    · split <;> (try split) <;> exact choose_groups ..

theorem rememberRoot_groups (k : Nat) (r : Nat × Nat × Nat) : (s.rememberRoot k r).groups = s.groups := by
  unfold State.rememberRoot
  dsimp only
  split <;> rfl

theorem pickSource_groups (l : List Source) : (s.pickSource l).2.groups = s.groups := by
  unfold State.pickSource
  split
  · rfl
  · exact choose_groups ..

theorem endWalk_groups (asid : Nat) (va : DWord) (w : Walk) (root : Option (Nat × Nat × Nat)) :
    (s.endWalk asid va w root).1.groups = s.groups := by
  unfold State.endWalk
  split
  · rfl
  · exact groupLeaf_groups ..

theorem choosePage_groups (a : Agent) (space : Nat) (va : DWord) : (s.choosePage a space va).1.groups = s.groups := by
  unfold State.choosePage
  split
  · rfl
  · dsimp only
    have h := pickSource_groups s (s.stale a space va (s.walkSpace space va))
    split <;> rename_i hp <;> rw [hp] at h
    · exact (endWalk_groups ..).trans h
    · exact (endWalk_groups ..).trans h
    · exact (addTlb_groups ..).trans h

theorem keepWalk_groups (a : Agent) (va : DWord) (acc : Access) (c : Chosen) :
    (s.keepWalk a va acc c).unmarkedGroups = s.unmarkedGroups := by
  have kept : ((((s.touch c.leaf acc).remember a c.asid va c.path c.leaf).useGranule va acc c.leaf).groups) =
      (s.touch c.leaf acc).groups := (useGranule_groups ..).trans (addTlb_groups ..)
  have same : ∀ t : State, t.groups = (s.touch c.leaf acc).groups → t.unmarkedGroups = s.unmarkedGroups := fun t h => by
    rw [State.unmarkedGroups, h]
    exact (touch_stored s c.leaf acc).groups
  unfold State.keepWalk
  dsimp only
  split
  · exact same _ ((rememberRoot_groups ..).trans kept)
  · exact same _ kept

theorem useChosen_groups (a : Agent) (va : DWord) (acc : Access) (c : Chosen) :
    (s.useChosen a va acc c).1.unmarkedGroups = s.unmarkedGroups := by
  unfold State.useChosen
  split
  · rfl
  · rfl
  · dsimp only
    split
    · exact keepWalk_groups ..
    · rfl

theorem translate_groups (a : Agent) (space : Nat) (va : DWord) (acc : Access) :
    (s.translate a space va acc).1.unmarkedGroups = s.unmarkedGroups := by
  have h := choosePage_groups s a space va
  unfold State.translate
  split <;> rename_i hp <;> rw [hp] at h
  · rw [State.unmarkedGroups, h]; rfl
  · refine (useChosen_groups ..).trans ?_
    rw [State.unmarkedGroups, h]
    rfl

end

end Sys2Proof.Machine

/-! Waits that end, halts that show, barriers that run out, and the count of issues (R26, R33, R178, R179, R329, R331, R371). -/
namespace Sys2Proof.Machine
open Sys2Proof

section
variable {s t : State} {r : FibreRef} {f : Fibre}

theorem State.fibre_id (h : s.fibre r = some f) : f.id = r.fid := by
  rw [State.fibre, Option.bind_eq_some_iff] at h
  obtain ⟨g, -, hf⟩ := h
  simpa using List.find?_some hf

theorem State.fibre_group (h : s.fibre r = some f) : ∃ g, s.group r.gid = some g := by
  rw [State.fibre, Option.bind_eq_some_iff] at h
  obtain ⟨g, hg, -⟩ := h
  exact ⟨g, hg⟩

/-- A fibre that waits, in a weave in which no halt waits, goes on to its next instruction. -/
theorem completeFibre_goes (hg : t.unmarkedGroups = s.unmarkedGroups) (hf : s.fibre r = some f) (hp : f.st = .parked)
    (calm : ∀ g, s.group r.gid = some g → ∀ x ∈ (g.weave r.weave).fibres, x.halts = []) :
    (t.completeFibre r).mem = t.mem ∧ ∃ x, (t.completeFibre r).fibre r = some x ∧ x.st = .ready ∧
      x.pc = f.pc + BitVec.ofNat 64 f.len ∧ x.lanes = f.lanes := by
  obtain ⟨g, hgr⟩ := State.fibre_group hf
  obtain ⟨h, hh, eh⟩ := group_of_unmarked hg hgr
  have calm' : ∀ x ∈ (h.weave r.weave).fibres, x.halts = [] := by
    rw [Group.fibres_of_unmarked eh]
    exact calm g hgr
  obtain ⟨k, hk, hcalm⟩ := onFibre_calm (f := Fibre.complete) hh calm' fun x hx => by
    unfold Fibre.complete
    dsimp only
    split <;> exact hx
  have same : t.completeFibre r = t.onFibre r Fibre.complete := settleHalts_calm hk hcalm
  have done : f.complete = { f.settled with
      pc := f.pc + BitVec.ofNat 64 f.len, st := .ready, waitCount := 0, aged := false, step := if f.step = 0 then 0 else 2 } := by
    simp [Fibre.complete, hp]
  rw [same, State.onFibre_fibre_same, fibre_of_unmarked hg, hf, Option.map_some, done]
  exact ⟨by simp [State.onFibre], _, rfl, rfl, rfl, rfl⟩

theorem joined_groups (s : State) (r : FibreRef) (pubs : List Nat) :
    (s.joined r pubs).unmarkedGroups = s.unmarkedGroups := by simp [State.joined, State.unmarkedGroups]

theorem joined_mem (s : State) (r : FibreRef) (pubs : List Nat) : (s.joined r pubs).mem = s.mem := by simp [State.joined]

theorem goesOn_joined {i : Instr} {u : State} {pubs : List Nat} (hg : u.unmarkedGroups = s.unmarkedGroups)
    (hf : s.fibre r = some f) (h : exec i s = .next ((u.joined r pubs).completeFibre r)) : GoesOn i s u r f := by
  refine ⟨_, h, fun hp calm => ?_⟩
  obtain ⟨hm, rest⟩ := completeFibre_goes ((joined_groups u r pubs).trans hg) hf hp calm
  exact ⟨hm.trans (joined_mem u r pubs), rest⟩

theorem pegMet_of_lt {v t : DWord} (h : (v - t).toNat < 2 ^ 63) : pegMet v t = true := by
  rw [pegMet, ← BitVec.msb_eq_getLsbD_last, BitVec.msb_eq_false_iff_two_mul_lt.2 (by omega)]
  rfl

theorem pwait_goes (hf : s.fibre r = some f) (hr : s.isResident r.gid = true) (hp : f.isParked = true) {va : DWord}
    {ts : List DWord} {u : State} {pa : Nat} (hw : f.wait = .peg va ts)
    (htr : s.translate (s.agentOf r.gid) (s.spaceOf r.gid) va .load = (u, .ok pa))
    (hmet : ∀ t ∈ ts, (u.dword pa - t).toNat < 2 ^ 63) : GoesOn (.pwaitComplete r) s u r f := by
  have hg := translate_groups s (s.agentOf r.gid) (s.spaceOf r.gid) va .load
  rw [htr] at hg
  refine goesOn_joined (pubs := u.advancesOf pa) hg hf ?_
  have hall : (ts.all fun k => pegMet (u.dword pa) k) = true :=
    List.all_eq_true.2 fun t ht => pegMet_of_lt (hmet t ht)
  show execPwaitComplete r s = _
  simp only [execPwaitComplete, hf, hp, hr, hw, htr, Bool.and_self, Except.mapError, hall, if_true]

theorem await_goes (hf : s.fibre r = some f) (hr : s.isResident r.gid = true) (hp : f.isParked = true)
    {words : List (Nat × Word)} {g : Group} (hw : f.wait = .await words) (hg : s.group r.gid = some g)
    (harr : ∀ p ∈ words, s.arrived g.bent p.1 p.2 = true) : GoesOn (.awaitComplete r) s s r f := by
  refine goesOn_joined (pubs := words.flatMap fun p => s.arrivalsOf g.bent p.1 p.2) rfl hf ?_
  have hall : (words.all fun p => s.arrived g.bent p.1 p.2) = true := List.all_eq_true.2 harr
  show execAwaitComplete r s = _
  simp only [execAwaitComplete, hf, hp, hr, hw, hg, Bool.and_self, Option.map_some, Option.getD_some, hall, if_true]

theorem waitiExpire_goes (hf : s.fibre r = some f) (hr : s.isResident r.gid = true) (hp : f.isParked = true) {due : Nat}
    (hw : f.wait = .clock due) (hd : due ≤ s.cycle) : GoesOn (.waitiExpire r) s s r f := by
  refine ⟨s.completeFibre r, ?_, fun hst calm => completeFibre_goes rfl hf hst calm⟩
  show execWaitiExpire r s = _
  simp only [execWaitiExpire, hf, hp, hr, hw, Bool.and_self, hd, if_true]

theorem waitiExpire_waits (hf : s.fibre r = some f) (hr : s.isResident r.gid = true) (hp : f.isParked = true) {due : Nat}
    (hw : f.wait = .clock due) (hd : s.cycle < due) :
    exec (.waitiExpire r) s = .refused (.notEnabled "WAITI_EXPIRE") := by
  show execWaitiExpire r s = _
  simp only [execWaitiExpire, hf, hp, hr, hw, Bool.and_self, Nat.not_le.2 hd, if_false]

/-! Halts that show (R329), steps that end (R331). -/

theorem tableAt_none {k : Nat} (h : (s.die (socketOf k)).gtab = 0) : s.tableAt k = none := by
  unfold State.tableAt
  rw [h]
  split <;> rfl

theorem syncTable_none {k : Nat} (h : (s.die (socketOf k)).gtab = 0) : s.syncTable k = s := by
  simp only [State.syncTable, tableAt_none h]

theorem onFibre_die (r : FibreRef) (g : Fibre → Fibre) (k : Nat) : (s.onFibre r g).die k = s.die k := by
  simp [State.die, State.onFibre]

theorem Stored.gtab (a : Stored s t) (k : Nat) : (t.die k).gtab = (s.die k).gtab := by
  have := congrArg Die.gtab (a.die k)
  exact this

theorem onFibre_rest (s : State) (r : FibreRef) (g : Fibre → Fibre) :
    s.onFibre r g = { s with groups := (s.onFibre r g).groups } := by
  unfold State.onFibre State.onWeave State.onGroup
  split <;> rfl

theorem putPhys_mem_groups (s : State) (gs : Table Group) (pa : Nat) (bs : List Byte) (a : Actor) (k : Nat) (r : Bool) :
    (({ s with groups := gs } : State).putPhys pa bs a k r).mem = (s.putPhys pa bs a k r).mem := by
  have stored : (({ s with groups := gs } : State).putMem pa bs a k r).mem = (s.putMem pa bs a k r).mem := by
    unfold State.putMem
    show State.mem (if (s.physBad pa).isSome then _ else _) = _
    split <;> rfl
  show State.mem (if pa / 2 ^ 48 == 15 || (s.notifyPort pa).isSome then _ else _) = _
  unfold State.putPhys
  split
  · rfl
  · exact stored

/-- Memory after a peg's advance depends on no group: a register, whose value might, is written later. -/
theorem addPeg_mem_onFibre (s : State) (r : FibreRef) (g : Fibre → Fibre) (pa : Nat) (v : DWord) :
    ((s.onFibre r g).addPeg pa v).mem = (s.addPeg pa v).mem := by
  rw [onFibre_rest s r g]
  by_cases h : pa / 2 ^ 48 = 15
  · simp only [State.addPeg, State.putPhys, h, beq_self_eq_true, Bool.true_or, if_true]
  · have same : ({ s with groups := (s.onFibre r g).groups } : State).dword pa = s.dword pa := by
      simp only [State.dword, beq_iff_eq, h, if_false]
    unfold State.addPeg
    rw [same]
    exact putPhys_mem_groups ..

theorem haltReport_shows (hf : s.fibre r = some f) (ht : (s.die (socketOf r.gid)).gtab = 0) (hh : f.st = .halted)
    (hn : f.reported = false) : ∃ t, exec (.haltReport r) s = .next t ∧ t.fibre r = some { f with reported := true } ∧
      ((s.die (socketOf r.gid)).haltpg.toNat = 0 → t.mem = s.mem) ∧
      ((s.die (socketOf r.gid)).haltpg.toNat ≠ 0 → t.mem = (s.addPeg (s.die (socketOf r.gid)).haltpg.toNat 1).mem) := by
  let u := s.onFibre r fun f => { f with reported := true }
  have hu : u.fibre r = some { f with reported := true } := by
    rw [State.onFibre_fibre_same, hf, Option.map_some, ← State.fibre_id hf]
  have hgtab : (u.die (socketOf r.gid)).gtab = 0 := by rw [onFibre_die]; exact ht
  by_cases hz : (s.die (socketOf r.gid)).haltpg.toNat = 0
  · refine ⟨u, ?_, hu, fun _ => by simp [u, State.onFibre], fun h => absurd hz h⟩
    show execHaltReport r s = _
    simp only [execHaltReport, hf, hh, hn, onFibre_die, hz, if_true]
    exact congrArg Host.Outcome.next (syncTable_none hgtab)
  · have stored := addPeg_stored u (s.die (socketOf r.gid)).haltpg.toNat 1 hardware
    refine ⟨u.addPeg (s.die (socketOf r.gid)).haltpg.toNat 1, ?_, (stored.fibre r).trans hu, fun h => absurd h hz,
      fun _ => addPeg_mem_onFibre ..⟩
    show execHaltReport r s = _
    simp only [execHaltReport, hf, hh, hn, onFibre_die, hz, if_false]
    exact congrArg Host.Outcome.next (syncTable_none ((stored.gtab _).trans hgtab))

theorem stepComplete_halts (hf : s.fibre r = some f) (ht : (s.die (socketOf r.gid)).gtab = 0) (hs : f.step = 2)
    (hh : f.st ≠ .halted) : ∃ t x, exec (.stepComplete r) s = .next t ∧ t.mem = s.mem ∧ t.fibre r = some x ∧
      x.st = .halted ∧ x.cause = 3 ∧ x.resume = f.st ∧ x.pc = f.pc ∧ x.lanes = f.lanes := by
  have hhalt : f.halt 3 0 = { f with
      resume := f.st, st := .halted, cause := 3, detail := 0, reported := false, step := 0, waitCount := 0
      aged := false, pcStop := none } := by
    simp [Fibre.halt, hh]
  refine ⟨s.onFibre r fun f => f.halt 3 0, { f.halt 3 0 with id := r.fid }, ?_, by simp [State.onFibre],
    by rw [State.onFibre_fibre_same, hf, Option.map_some], ?_⟩
  · show execStepComplete r s = _
    simp only [execStepComplete, hf, hs]
    exact congrArg Host.Outcome.next (syncTable_none (by rw [onFibre_die]; exact ht))
  · rw [hhalt]
    exact ⟨rfl, rfl, rfl, rfl, rfl⟩

/-! A barrier's time-out (R33). -/

theorem State.barrier_group {gid : Nat} {g : Group} (hg : s.group gid = some g) (n : Nat) :
    s.barrier gid false n = tget {} g.bars n := by
  simp [State.barrier, hg]

theorem onGroup_congr {k : Nat} {g : Group} {a b : Group → Group} (hg : s.group k = some g) (h : a g = b g) :
    s.onGroup k a = s.onGroup k b := by
  simp only [State.onGroup, hg, h]

theorem bartime_traps {gid n a w : Nat} {g : Group} {v : Weave} {l : Launch} (hg : s.group gid = some g)
    (hr : s.isResident gid = true) (hl : s.launchOf gid = some l) (ha : (tget {} g.bars n).age = some a)
    (hw : g.weaves = [(w, v)]) (hv : v.parkedAt false n = [f]) (ht : recTimeout l.record ≤ a) :
    ∃ info conts, exec (.bartime false gid n) s = .next ((s.onGroup gid fun g =>
      { g with bars := tput {} g.bars n { count := 0, gen := (tget {} g.bars n).gen + 1, age := none } }).takeTrap
        ⟨gid, w, f.id⟩ f.lanes 8 0 info conts) := by
  refine ⟨leBytes 4 n ++ leBytes 4 (tget {} g.bars n).count ++ leBytes 4 (s.expected gid false), s.absentees gid false n, ?_⟩
  show execBartime false gid n s = _
  simp only [execBartime, State.barrier_group hg, ha, hr, hl, ht, State.timeoutBarrier, State.barGroups, State.setBarrier, hg,
    hw, hv, Bool.true_and, Option.map_some, Option.getD_some, List.flatMap_cons, List.flatMap_nil, List.map_cons,
    List.map_nil, List.append_nil, List.foldl_cons, List.foldl_nil, decide_true, if_true, Bool.false_eq_true, if_false]
  exact congrArg (fun u : State => Host.Outcome.next (u.takeTrap ⟨gid, w, f.id⟩ f.lanes 8 0 _ _)) (onGroup_congr hg rfl)

theorem bartime_waits {gid n a : Nat} {g : Group} {l : Launch} (hg : s.group gid = some g)
    (hl : s.launchOf gid = some l) (ha : (tget {} g.bars n).age = some a) (ht : a < recTimeout l.record) :
    exec (.bartime false gid n) s = .refused (.notEnabled "BARTIME") := by
  show execBartime false gid n s = _
  simp only [execBartime, State.barrier_group hg, ha, hl, Option.map_some, Option.getD_some, Nat.not_le.2 ht, decide_false,
    Bool.and_false, Bool.false_eq_true, if_false]

/-! The count of issues (R26). -/

/-- A fibre of a weave of `n` live fibres when the fibre `i` issues for the `k`-th time. -/
def Fibre.counted (f : Fibre) (i n k : Nat) : Fibre :=
  if f.id == i then { f with waitCount := 0, aged := false, lastIssue := k }
  else if f.st == .ready then
    { f with waitCount := min 127 (f.waitCount + 1), aged := f.aged || 64 - n ≤ min 127 (f.waitCount + 1) }
  else f

theorem Weave.count_fibres (v : Weave) (i : Nat) :
    (v.count i).fibres = v.fibres.map fun f => f.counted i v.fibres.length (v.issues + 1) := rfl

theorem Fibre.counted_rest (f : Fibre) (i n k : Nat) :
    { f.counted i n k with waitCount := f.waitCount, aged := f.aged, lastIssue := f.lastIssue } = f := by
  unfold Fibre.counted
  split
  · rfl
  · split <;> rfl

theorem Fibre.counted_issuing {i : Nat} (h : f.id = i) (n k : Nat) :
    (f.counted i n k).waitCount = 0 ∧ (f.counted i n k).aged = false := by
  simp [Fibre.counted, h]

theorem Fibre.counted_idle {i : Nat} (h : f.id ≠ i) (hs : f.st ≠ .ready) (n k : Nat) : f.counted i n k = f := by
  simp [Fibre.counted, h, hs]

theorem Fibre.counted_ready {i : Nat} (h : f.id ≠ i) (hs : f.st = .ready) (hc : f.waitCount < 127) (n k : Nat) :
    (f.counted i n k).waitCount = f.waitCount + 1 ∧
      ((f.counted i n k).aged = true ↔ f.aged = true ∨ 64 ≤ (f.counted i n k).waitCount + n) := by
  have hm : min 127 (f.waitCount + 1) = f.waitCount + 1 := by omega
  simp only [Fibre.counted, beq_iff_eq, h, hs, if_false, if_true, hm, Bool.or_eq_true, decide_eq_true_eq, true_and]
  rw [Nat.sub_le_iff_le_add]

theorem countIssue_group (s : State) (r : FibreRef) (lanes : DWord) {g : Group} (hg : s.group r.gid = some g) :
    (s.countIssue r lanes).group r.gid = some (g.setWeave r.weave
      { (g.weave r.weave).count r.fid with ready := s.cycle, yielded := false }) := by
  have : ∀ t : State, t.groups = (s.onWeave r.gid r.weave fun v =>
      { v.count r.fid with ready := s.cycle, yielded := false }).groups → t.group r.gid =
      (s.onWeave r.gid r.weave fun v => { v.count r.fid with ready := s.cycle, yielded := false }).group r.gid :=
    fun t h => by rw [State.group, h]; rfl
  rw [State.countIssue, this _ (by simp), State.onWeave_group_same, hg, Option.map_some]

theorem countIssue_counts (s : State) (r : FibreRef) (lanes : DWord) {g : Group} (hg : s.group r.gid = some g) :
    let v := g.weave r.weave
    ∃ h, (s.countIssue r lanes).group r.gid = some h ∧ let w := h.weave r.weave
      w.ready = s.cycle ∧ w.yielded = false ∧ w.fibres.length = v.fibres.length ∧
      ∀ (n : Nat) (x : Fibre), v.fibres[n]? = some x → ∃ y, w.fibres[n]? = some y ∧
        { y with waitCount := x.waitCount, aged := x.aged, lastIssue := x.lastIssue } = x ∧
        (x.id = r.fid → y.waitCount = 0 ∧ y.aged = false) ∧ (x.id ≠ r.fid → x.st ≠ .ready → y = x) ∧
        (x.id ≠ r.fid → x.st = .ready → x.waitCount < 127 → y.waitCount = x.waitCount + 1 ∧
          (y.aged = true ↔ x.aged = true ∨ 64 ≤ y.waitCount + v.fibres.length)) := by
  refine ⟨_, countIssue_group s r lanes hg, ?_⟩
  dsimp only
  rw [Group.setWeave_weave_same]
  dsimp only
  rw [Weave.count_fibres]
  refine ⟨rfl, rfl, List.length_map .., fun n x hx => ⟨_, by rw [List.getElem?_map, hx, Option.map_some], ?_⟩⟩
  exact ⟨x.counted_rest .., fun h => Fibre.counted_issuing h .., fun h hs => Fibre.counted_idle h hs ..,
    fun h hs hc => Fibre.counted_ready h hs hc ..⟩

end

end Sys2Proof.Machine

/-! When the next samples of a die are due (R334, R335): what a tick writes does not move it. -/
namespace Sys2Proof.Machine
open Sys2Proof

/-- The time of a die's next sample tick, where it samples. -/
def State.nextSample (s : State) (k : Nat) : Option Nat := (s.die k).sample.map (·.due)

section
variable {s t : State} {k : Nat}

theorem Stored.nextSample (a : Stored s t) (k : Nat) : t.nextSample k = s.nextSample k := by
  have := congrArg (fun d : Die => d.sample.map (·.due)) (a.die k)
  simp only [Die.unmarked, Option.map_map] at this
  exact this

theorem nextSample_of_sample {x : Sink} (h : (s.die k).sample = some x) : s.nextSample k = some x.due := by
  rw [State.nextSample, h, Option.map_some]

theorem setDie_nextSample (s : State) (k : Nat) (d : Die) : (s.setDie k d).nextSample k = d.sample.map (·.due) := by
  rw [State.nextSample, State.setDie_die_same]

theorem countDie_nextSample (s : State) (k e n : Nat) : (s.countDie k e n).nextSample k = s.nextSample k := by
  unfold State.countDie
  dsimp only
  split
  · rfl
  · exact setDie_nextSample ..

theorem sinkDrop_nextSample (s : State) (k : Nat) (x : Sink) : (s.sinkDrop k false x).nextSample k = some x.due :=
  setDie_nextSample ..

theorem sinkStore_stored (s : State) (x : Sink) (body : List Byte) : Stored s (s.sinkStore x body) :=
  (putMem_stored ..).trans (putNat_stored ..)

theorem sinkLose_nextSample (s : State) (k : Nat) : (s.sinkLose k false).nextSample k = s.nextSample k := by
  unfold State.sinkLose
  split
  · rfl
  · next x hx =>
    split
    · rfl
    · rw [nextSample_of_sample hx, State.sinkStatus, (putNat_stored ..).nextSample, setDie_nextSample]
      rfl

theorem loseMoved_nextSample (s : State) (k : Nat) : (s.loseMoved k false).nextSample k = s.nextSample k := by
  unfold State.loseMoved
  split
  · exact sinkLose_nextSample s k
  · rfl

/-- A sink that drops nothing any more takes a record, or drops it. -/
theorem sinkLast_nextSample (s : State) (k : Nat) (x : Sink) (body : List Byte) (c : Prop) [Decidable c] :
    let u := s.setDie k ((s.die k).setSink false x)
    (if c then u.sinkDrop k false x else u.sinkStore x body).nextSample k = some x.due := by
  dsimp only
  split
  · exact sinkDrop_nextSample ..
  · rw [(sinkStore_stored ..).nextSample, setDie_nextSample]
    rfl

theorem sinkPut_nextSample (s : State) (k : Nat) (body : List Byte) : (s.sinkPut k false body).nextSample k = s.nextSample k := by
  refine Eq.trans ?_ (loseMoved_nextSample s k)
  unfold State.sinkPut
  generalize s.loseMoved k false = u
  dsimp only
  split
  · exact countDie_nextSample ..
  · next x hx =>
    rw [nextSample_of_sample (x := x) hx]
    split
    · rw [sinkDrop_nextSample]
    · exact sinkLast_nextSample ..

theorem changePeriod_nextSample (s : State) (k n : Nat) : (s.changePeriod k n).nextSample k = s.nextSample k := by
  unfold State.changePeriod
  split
  · rfl
  · next x hx =>
    rw [nextSample_of_sample hx, sinkPut_nextSample, setDie_nextSample]
    rfl

theorem putSample_nextSample (s : State) (k : Nat) (body : List Byte) : (s.putSample k body).nextSample k = s.nextSample k := by
  refine Eq.trans ?_ (sinkPut_nextSample s k body)
  unfold State.putSample
  dsimp only
  split
  · rfl
  · split
    · exact changePeriod_nextSample ..
    · rfl

theorem choose_dies (s : State) (n : Nat) : (s.choose n).2.dies = s.dies := by
  unfold State.choose
  split <;> rfl

theorem sampleCode_dies (s : State) (g : Group) (w : Nat) (f : Fibre) (b : Bool) : (s.sampleCode g w f b).1.dies = s.dies := by
  have hc := choose_dies s 5
  unfold State.sampleCode
  split
  · rfl
  · split
    · rfl
    · rfl
    · rfl
    · split
      · split <;> rename_i he <;> rw [he] at hc <;> exact hc
      · rfl

theorem nextSample_of_dies (h : t.dies = s.dies) (k : Nat) : t.nextSample k = s.nextSample k := by
  rw [State.nextSample, State.die, h]
  rfl

theorem sampleGroup_nextSample (s : State) (k bay : Nat) (g : Group) :
    (s.sampleGroup k bay g).nextSample k = s.nextSample k := by
  unfold State.sampleGroup
  dsimp only
  refine (putSample_nextSample ..).trans (nextSample_of_dies ?_ k)
  split
  · rfl
  · exact sampleCode_dies ..

theorem foldl_nextSample {ι : Type} {f : State → ι → State} (h : ∀ s i, (f s i).nextSample k = s.nextSample k) (l : List ι)
    (s : State) : (l.foldl f s).nextSample k = s.nextSample k := by
  induction l generalizing s with
  | nil => rfl
  | cons i r ih => exact (ih _).trans (h s i)

theorem sampleCore_nextSample (s : State) (k bay core : Nat) : (s.sampleCore k bay core).nextSample k = s.nextSample k :=
  (foldl_nextSample (fun _ _ => putSample_nextSample ..) _ _).trans
    (foldl_nextSample (fun _ _ => sampleGroup_nextSample ..) _ _)

/-- A tick sets the next one a period later. -/
theorem sampleTick_sets {x : Sink} (hx : (s.die k).sample = some x) (hd : x.due ≤ s.cycle) :
    ∃ t y, exec (.sampleTick k) s = .next t ∧ (t.die k).sample = some y ∧ y.due = x.due + 2 ^ y.period ∧
      (t.die k).retirees = [] := by
  have halved := changePeriod_nextSample s k (x.period - 1)
  obtain ⟨u, hu⟩ : ∃ u, u = List.foldl (fun s c => State.sampleCore s k c.1 c.2)
      (if !x.lost && 4 * s.sinkUsed x < s.sinkCount x && 10 < x.period then s.changePeriod k (x.period - 1) else s)
      ((List.range Config.baysPerDie).flatMap fun b => (List.range 5).map fun c => (bayKey k b, c)) := ⟨_, rfl⟩
  have hdue : u.nextSample k = some x.due := by
    rw [hu, foldl_nextSample (fun _ _ => sampleCore_nextSample ..)]
    split
    · exact halved.trans (nextSample_of_sample hx)
    · exact nextSample_of_sample hx
  obtain ⟨y, hy, hyd⟩ := Option.map_eq_some_iff.1 hdue
  refine ⟨u.setDie k { u.die k with retirees := [], sample := some { y with due := y.due + 2 ^ y.period } },
    { y with due := y.due + 2 ^ y.period }, ?_, by rw [State.setDie_die_same], by rw [← hyd], by rw [State.setDie_die_same]⟩
  show execSampleTick k s = _
  simp only [execSampleTick, hx, Nat.not_lt.2 hd, if_false]
  rw [← hu, hy]

end

end Sys2Proof.Machine

/-! The issue choice (R26, R27, R254, R336): what passes before it, and the weave and the fibre that it takes. -/
namespace Sys2Proof.Machine
open Sys2Proof

/-- An order whose incomparable elements count as equal: asymmetric, and what comes between holds on one side. -/
structure WeakOrder {α : Type} (before : α → α → Bool) : Prop where
  asymm   : ∀ a b, before a b = true → before b a = false
  between : ∀ a b c, before a c = true → before a b = true ∨ before b c = true

section
variable {α : Type} {before : α → α → Bool}

theorem bestOf_mem {l : List α} {b : α} (h : bestOf before l = some b) : b ∈ l := by
  induction l generalizing b with
  | nil => cases h
  | cons x r ih =>
    unfold bestOf at h
    split at h
    · cases h; exact List.mem_cons_self ..
    · next y hy =>
      split at h <;> cases h
      · exact List.mem_cons_of_mem _ (ih hy)
      · exact List.mem_cons_self ..

theorem bestOf_none {l : List α} (h : bestOf before l = none) : l = [] := by
  cases l with
  | nil => rfl
  | cons x r =>
    unfold bestOf at h
    split at h
    · cases h
    · split at h <;> cases h

/-- Nothing in a list comes before the best of it. -/
theorem bestOf_least (w : WeakOrder before) {l : List α} {b : α} (h : bestOf before l = some b) :
    ∀ x ∈ l, before x b = false := by
  have irrefl : ∀ a, before a a = false := fun a => by
    by_contra ha
    have ha := Bool.of_not_eq_false ha
    exact absurd (w.asymm a a ha) (by simp [ha])
  induction l generalizing b with
  | nil => cases h
  | cons x r ih =>
    unfold bestOf at h
    split at h
    · next hn =>
      cases h
      rw [bestOf_none hn]
      simp [irrefl]
    · next y hy =>
      split at h <;> cases h
      · next hyx =>
        rw [List.forall_mem_cons]
        exact ⟨w.asymm _ _ hyx, ih hy⟩
      · next hyx =>
        rw [List.forall_mem_cons]
        refine ⟨irrefl x, fun z hz => ?_⟩
        by_contra hzx
        rcases w.between z y x (Bool.of_not_eq_false hzx) with h | h
        · rw [ih hy z hz] at h; cases h
        · exact hyx h

end

theorem takenBefore_weak (s : State) : WeakOrder s.takenBefore := by
  constructor
  · intro a b h
    simp only [State.takenBefore, Bool.or_eq_true, Bool.and_eq_true, decide_eq_true_eq, beq_iff_eq, Bool.or_eq_false_iff,
      Bool.and_eq_false_imp, decide_eq_false_iff_not] at h ⊢
    omega
  · intro a b c h
    simp only [State.takenBefore, Bool.or_eq_true, Bool.and_eq_true, decide_eq_true_eq, beq_iff_eq] at h ⊢
    omega

/-- What it is for one fibre to be chosen before another (R27). -/
theorem chosenBefore_iff (a b : Fibre) : a.chosenBefore b = true ↔ (a.aged = true ∧ b.aged = false) ∨
    (a.aged = true ∧ b.aged = true ∧ (b.waitCount < a.waitCount ∨ a.waitCount = b.waitCount ∧ a.id < b.id)) ∨
    (a.aged = false ∧ b.aged = false ∧ (a.pc.toNat < b.pc.toNat ∨ a.pc.toNat = b.pc.toNat ∧ a.id < b.id)) := by
  unfold Fibre.chosenBefore
  cases ha : a.aged <;> cases hb : b.aged <;> simp [BitVec.lt_def, BitVec.toNat_inj]

theorem chosenBefore_weak : WeakOrder Fibre.chosenBefore := by
  constructor
  · intro a b h
    rw [← Bool.not_eq_true, chosenBefore_iff]
    rw [chosenBefore_iff] at h
    rcases h with ⟨ha, hb⟩ | ⟨ha, hb, h⟩ | ⟨ha, hb, h⟩ <;> simp only [ha, hb, Bool.false_eq_true, reduceCtorEq, true_and,
      false_and, and_false, false_or, or_false, not_false_eq_true] <;> omega
  · intro a b c h
    rw [chosenBefore_iff] at h
    rw [chosenBefore_iff, chosenBefore_iff]
    rcases h with ⟨ha, hc⟩ | ⟨ha, hc, h⟩ | ⟨ha, hc, h⟩ <;> cases hb : b.aged <;> simp only [ha, hc, Bool.false_eq_true,
      reduceCtorEq, true_and, false_and, and_false, false_or, or_false, true_or, or_true, and_self] <;> omega

/-! Cycles that pass. -/
section
variable {s t u : State}

theorem tfind_mem {β : Type} {t : Table β} {k : Nat} {x : β} (h : tfind t k = some x) : (k, x) ∈ t := by
  induction t with
  | nil => cases h
  | cons p r ih =>
    obtain ⟨j, v⟩ := p
    simp only [tfind] at h
    split at h
    · next e => cases h; rw [e]; exact List.mem_cons_self ..
    · exact List.mem_cons_of_mem _ (ih h)

/-- A sink that no changed page-table entry has marked goes on. -/
theorem loseMoved_still (h : ∀ p ∈ s.dies, ∀ k, p.2.sample = some k ∨ p.2.trace = some k → k.moved = false) (j : Nat)
    (b : Bool) : s.loseMoved j b = s := by
  have still : ∀ k, (s.die j).sink b = some k → k.moved = false := by
    intro k hk
    cases hd : tfind s.dies j with
    | none =>
      rw [State.die, tget, hd] at hk
      cases b <;> cases hk
    | some d =>
      rw [State.die, tget, hd] at hk
      refine h (j, d) (tfind_mem hd) k ?_
      cases b
      · exact .inl hk
      · exact .inr hk
  unfold State.loseMoved
  cases hk : (s.die j).sink b with
  | none => rfl
  | some k => simp [still k hk]

theorem loseSinks_still (h : ∀ p ∈ s.dies, ∀ k, p.2.sample = some k ∨ p.2.trace = some k → k.moved = false) :
    s.loseSinks = s := by
  have fold : ∀ l : Table Die, l.foldl (fun s p => (s.loseMoved p.1 false).loseMoved p.1 true) s = s := by
    intro l
    induction l with
    | nil => rfl
    | cons p r ih => rw [List.foldl_cons, loseMoved_still h, loseMoved_still h]; exact ih
  exact fold s.dies

theorem loseMoved_rest (s : State) (j : Nat) (b : Bool) :
    (s.loseMoved j b).cur = s.cur ∧ (s.loseMoved j b).cycle = s.cycle := by
  unfold State.loseMoved
  split
  · unfold State.sinkLose
    split
    · exact ⟨rfl, rfl⟩
    · split
      · exact ⟨rfl, rfl⟩
      · exact ⟨(putNat_stored ..).cur, (putNat_stored ..).cycle⟩
  · exact ⟨rfl, rfl⟩

theorem loseSinks_rest (s : State) : s.loseSinks.cur = s.cur ∧ s.loseSinks.cycle = s.cycle := by
  have fold : ∀ (l : Table Die) (t : State), (l.foldl (fun s p => (s.loseMoved p.1 false).loseMoved p.1 true) t).cur = t.cur ∧
      (l.foldl (fun s p => (s.loseMoved p.1 false).loseMoved p.1 true) t).cycle = t.cycle := by
    intro l
    induction l with
    | nil => exact fun _ => ⟨rfl, rfl⟩
    | cons p r ih =>
      intro t
      obtain ⟨h1, h2⟩ := ih ((t.loseMoved p.1 false).loseMoved p.1 true)
      obtain ⟨a1, a2⟩ := loseMoved_rest t p.1 false
      obtain ⟨b1, b2⟩ := loseMoved_rest (t.loseMoved p.1 false) p.1 true
      exact ⟨h1.trans (b1.trans a1), h2.trans (b2.trans a2)⟩
  exact fold s.dies s

theorem pass_cur (s : State) (n : Nat) : (s.pass n).cur = s.cur := by
  unfold State.pass
  split
  · rfl
  · exact (loseSinks_rest s).1

theorem pass_cycle (s : State) (n : Nat) : (s.pass n).cycle = s.cycle + n := by
  unfold State.pass
  split
  · next h => rw [h]; rfl
  · exact congrArg (· + n) (loseSinks_rest s).2

theorem pass_mem (h : ∀ p ∈ s.dies, ∀ k, p.2.sample = some k ∨ p.2.trace = some k → k.moved = false) (n : Nat) :
    (s.pass n).mem = s.mem := by
  unfold State.pass
  split
  · rfl
  · show s.loseSinks.mem = s.mem
    rw [loseSinks_still h]

/-! The contender that a port takes. -/

variable {core port : Nat} {c x : Contender}

theorem contender_some {k w : Nat} {v : Weave} (h : u.contender k w v = some c) :
    c.gid = k ∧ u.canIssue k = true ∧ c.v.chosen = some c.f := by
  unfold State.contender at h
  split at h
  · cases h
  · next hc =>
    dsimp only at h
    split at h
    · cases h
    · next f hf =>
      split at h <;> cases h
      exact ⟨rfl, by simpa using hc, hf⟩

theorem mem_contenders (h : c ∈ u.contenders core port) : (∃ g, u.group c.gid = some g) ∧ c.v.chosen = some c.f := by
  unfold State.contenders at h
  obtain ⟨g, -, hc⟩ := List.mem_flatMap.1 h
  obtain ⟨p, -, hp⟩ := List.mem_filterMap.1 hc
  obtain ⟨hgid, hissue, hchosen⟩ := contender_some hp
  refine ⟨?_, hchosen⟩
  rw [hgid]
  cases hg : u.group g.gid with
  | some g => exact ⟨g, rfl⟩
  | none => simp [State.canIssue, State.bentOf, hg] at hissue

theorem taken_mem (h : u.taken core port = some c) : c ∈ u.contenders core port := by
  have := bestOf_mem h
  split at this
  · exact this
  · exact (List.mem_filter.1 this).1

/-- The port takes one of the highest class, and of these one that has been ready longest (R254). -/
theorem taken_least (h : u.taken core port = some c) (hx : x ∈ u.contenders core port)
    (hy : x.v.yielded = false ∨ c.v.yielded = true) :
    u.weaveClass x ≤ u.weaveClass c ∧ (u.weaveClass x = u.weaveClass c → c.v.ready ≤ x.v.ready) := by
  have last : u.takenBefore x c = false := by
    have hmem := bestOf_mem h
    have hleast := bestOf_least (takenBefore_weak u) h
    split at hleast
    · exact hleast x hx
    · next hother =>
      rw [if_neg hother] at hmem
      have hc : c.v.yielded = false := by simpa using (List.mem_filter.1 hmem).2
      refine hleast x (List.mem_filter.2 ⟨hx, ?_⟩)
      rcases hy with hy | hy
      · simp [hy]
      · rw [hc] at hy; cases hy
  simp only [State.takenBefore, Bool.or_eq_false_iff, Bool.and_eq_false_imp, decide_eq_false_iff_not, beq_iff_eq] at last
  obtain ⟨hclass, hready⟩ := last
  exact ⟨by omega, fun e => by have := (hready e).1; omega⟩

/-- The weave takes an aged fibre that has waited longest where there is one, else one of the lowest PC (R27). -/
theorem chosen_least {v : Weave} {b f : Fibre} (h : v.chosen = some b) (hf : f ∈ v.fibres) (hs : f.st = .ready)
    (hn : f.step ≠ 2) :
    (b.aged = false → f.aged = false ∧ b.pc ≤ f.pc) ∧ (b.aged = true → f.aged = true → f.waitCount ≤ b.waitCount) := by
  have last := bestOf_least chosenBefore_weak h f (List.mem_filter.2 ⟨hf, by simp [hs, hn]⟩)
  rw [← Bool.not_eq_true, chosenBefore_iff] at last
  refine ⟨fun hb => ?_, fun hb hfa => ?_⟩
  · cases hfa : f.aged with
    | true => exact absurd (.inl ⟨hfa, hb⟩) last
    | false =>
      refine ⟨rfl, BitVec.le_def.2 (Nat.not_lt.1 fun hlt => last (.inr (.inr ⟨hfa, hb, .inl hlt⟩)))⟩
  · exact Nat.not_lt.1 fun hlt => last (.inr (.inl ⟨hfa, hb, .inl hlt⟩))

/-! The state in which it issues. -/

/-- `t` is `s` but for weaves of its groups. -/
structure WeavesOnly (s t : State) : Prop where
  rest   : t = { s with groups := t.groups }
  groups : ∀ k g, s.group k = some g → ∃ h, t.group k = some h ∧ { h with weaves := g.weaves } = g

theorem WeavesOnly.refl (s : State) : WeavesOnly s s := ⟨rfl, fun _ g h => ⟨g, h, rfl⟩⟩

theorem WeavesOnly.trans (a : WeavesOnly s t) (b : WeavesOnly t u) : WeavesOnly s u where
  rest := by rw [b.rest, a.rest]
  groups k g hg := by
    obtain ⟨h, hh, e⟩ := a.groups k g hg
    obtain ⟨i, hi, e'⟩ := b.groups k h hh
    exact ⟨i, hi, by rw [← e, ← e']⟩

theorem WeavesOnly.onGroup (s : State) (k : Nat) {f : Group → Group} (hf : ∀ g, { f g with weaves := g.weaves } = g) :
    WeavesOnly s (s.onGroup k f) where
  rest := by unfold State.onGroup; split <;> rfl
  groups j g hg := by
    by_cases h : j = k
    · subst h
      exact ⟨f g, by rw [State.onGroup_group_same, hg, Option.map_some], hf g⟩
    · exact ⟨g, by rw [State.onGroup_group_other _ _ h, hg], rfl⟩

theorem WeavesOnly.foldl {ι : Type} {f : State → ι → State} (h : ∀ s i, WeavesOnly s (f s i)) (l : List ι) (s : State) :
    WeavesOnly s (l.foldl f s) := by
  induction l generalizing s with
  | nil => exact .refl s
  | cons i r ih => exact (h s i).trans (ih _)

theorem WeavesOnly.coreOf (a : WeavesOnly s t) {k : Nat} {g : Group} (hg : s.group k = some g) : t.coreOf k = s.coreOf k := by
  obtain ⟨h, hh, e⟩ := a.groups k g hg
  have hcore : h.core = g.core := by rw [← e]
  have hbent : h.bent = g.bent := by rw [← e]
  have hbents : t.bents = s.bents := by rw [a.rest]
  simp only [State.coreOf, State.bayOf, State.bentOf, State.bent, hh, hg, hcore, hbent, hbents, Option.bind_some]

theorem countCore_gauges (s : State) (k e n j : Nat) : ((s.countCore k e n).coreAt j).gauges = (s.coreAt j).gauges := by
  unfold State.countCore
  dsimp only
  split
  · rfl
  · by_cases h : j = k
    · subst h; rw [State.setCore_coreAt_same]
    · rw [State.setCore_coreAt_other _ _ h]

theorem countCore_coreOf (s : State) (k e n j : Nat) : (s.countCore k e n).coreOf j = s.coreOf j := by
  simp [State.coreOf, State.bayOf, State.bentOf, State.bent, State.group]

theorem countCore_group (s : State) (k e n j : Nat) : (s.countCore k e n).group j = s.group j := by simp [State.group]

/-- A fibre brought into the table is where it was (R25). -/
theorem exchange_fibre {v : Weave} {f : Fibre} (h : v.fibre f.id = some f) : ∃ x, (v.exchange f).fibre f.id = some x ∧
    x.pc = f.pc ∧ x.lanes = f.lanes ∧ x.waitCount = f.waitCount := by
  unfold Weave.exchange
  split
  · exact ⟨f, h, rfl, rfl, rfl⟩
  · split
    · next y _ =>
      rw [Weave.onFibre_fibre_same]
      by_cases e : f.id = y.id
      · rw [e, Weave.onFibre_fibre_same, ← e, h]
        exact ⟨_, rfl, rfl, rfl, rfl⟩
      · rw [Weave.onFibre_fibre_other _ _ e, h]
        exact ⟨_, rfl, rfl, rfl, rfl⟩
    · rw [Weave.onFibre_fibre_same, h]
      exact ⟨_, rfl, rfl, rfl, rfl⟩

theorem fibre_of_nodup {v : Weave} {f : Fibre} (hn : (v.fibres.map (·.id)).Nodup) (hf : f ∈ v.fibres) :
    v.fibre f.id = some f := by
  unfold Weave.fibre
  generalize v.fibres = l at hn hf
  induction l with
  | nil => cases hf
  | cons x r ih =>
    rw [List.map_cons, List.nodup_cons] at hn
    rcases List.mem_cons.1 hf with rfl | hf
    · exact List.find?_cons_of_pos (beq_self_eq_true _)
    · rw [List.find?_cons_of_neg, ih hn.2 hf]
      rw [beq_iff_eq]
      intro e
      exact hn.1 (e ▸ List.mem_map_of_mem hf)

/-- Where no gauge watches, the picked fibre issues. -/
theorem pickFibre_calm {r : FibreRef} {f : Fibre} (hf : s.fibre r = some f) (hg : (s.coreAt (s.coreOf r.gid)).gauges = []) :
    s.pickFibre r = s.issued r := by
  have none : ∀ pc lanes, s.pcHalts r pc lanes = [] := fun pc lanes => by
    simp only [State.pcHalts, hg, List.filterMap_nil]
    exact List.flatMap_eq_nil_iff.2 fun _ _ => rfl
  simp only [State.pickFibre, hf, none, ite_self, List.isEmpty_nil, if_true]

/-- A group whose weaves on a port have no yield mark (R141). -/
def Group.unyielded (g : Group) (port : Nat) : Group :=
  { g with weaves := g.weaves.map fun (w, v) => (w, if v.slot % 2 == port then { v with yielded := false } else v) }

theorem WeavesOnly.unyielded (port : Nat) (l : List Nat) (s : State) :
    WeavesOnly s (l.foldl (fun s k => s.onGroup k (Group.unyielded · port)) s) :=
  .foldl (f := fun s k => s.onGroup k (Group.unyielded · port)) (fun s k => .onGroup s k fun _ => rfl) l s

/-- The state in which a port has chosen a contender, before its fibre is picked. -/
def State.chose (s : State) (core port : Nat) (c : Contender) : State :=
  let t := ((s.coreGroups (core / 5) (core % 5) []).map (·.gid)).foldl (fun s k => s.onGroup k (Group.unyielded · port)) s
  ((t.countCore core 5 ((((t.group c.gid).map fun g => (g.weave c.weave).fibres.length).getD 0) - c.v.fibres.length)).countCore
    core 6 (if c.f.slot.isNone then 1 else 0)).onWeave c.gid c.weave fun _ => c.v.exchange c.f

theorem issueChoice_eq {dt : Nat} (hcur : s.cur = none) (ht : (s.pass dt).taken core port = some c) :
    exec (.issueChoice core port dt) s =
      .next (((s.pass dt).chose core port c).pickFibre ⟨c.gid, c.weave, c.f.id⟩) := by
  have hc : (s.pass dt).cur.isSome = false := by rw [pass_cur, hcur]; rfl
  show execIssueChoice core port dt s = _
  simp only [execIssueChoice, hc, ht, Bool.false_eq_true, if_false]
  rfl

theorem chose_rest (s : State) (core port : Nat) (c : Contender) :
    (s.chose core port c).mem = s.mem ∧ (s.chose core port c).cycle = s.cycle := by
  have calm := WeavesOnly.unyielded port ((s.coreGroups (core / 5) (core % 5) []).map (·.gid)) s
  unfold State.chose
  dsimp only
  generalize List.foldl _ s _ = t at calm
  have hmem : t.mem = s.mem := by rw [calm.rest]
  have hcycle : t.cycle = s.cycle := by rw [calm.rest]
  exact ⟨by simp [hmem], by simp [hcycle]⟩

/-- The chosen weave holds the chosen fibre, and the gauges of its core are as they were. -/
theorem chose_fibre {g : Group} (hg : s.group c.gid = some g) (hf : c.v.fibre c.f.id = some c.f) :
    (∃ x, (s.chose core port c).fibre ⟨c.gid, c.weave, c.f.id⟩ = some x ∧ x.pc = c.f.pc ∧ x.lanes = c.f.lanes ∧
      x.waitCount = c.f.waitCount) ∧
    ((s.chose core port c).coreAt ((s.chose core port c).coreOf c.gid)).gauges = (s.coreAt (s.coreOf c.gid)).gauges := by
  have calm := WeavesOnly.unyielded port ((s.coreGroups (core / 5) (core % 5) []).map (·.gid)) s
  obtain ⟨h, hh, -⟩ := calm.groups _ g hg
  unfold State.chose
  dsimp only
  generalize List.foldl _ s _ = t at calm hh
  generalize ht : (t.countCore core 5 _).countCore core 6 _ = t'
  have group' : t'.group c.gid = some h := by rw [← ht, countCore_group, countCore_group, hh]
  have weave : WeavesOnly t' (t'.onWeave c.gid c.weave fun _ => c.v.exchange c.f) := .onGroup _ _ fun _ => rfl
  constructor
  · obtain ⟨x, hx, rest⟩ := exchange_fibre hf
    refine ⟨x, ?_, rest⟩
    rw [State.fibre, State.onWeave_group_same, group', Option.map_some, Option.bind_some, Group.setWeave_weave_same]
    exact hx
  · have cores : (t'.onWeave c.gid c.weave fun _ => c.v.exchange c.f).cores = t'.cores := by rw [weave.rest]
    have cores' : t.cores = s.cores := by rw [calm.rest]
    rw [weave.coreOf group', State.coreAt, cores, ← State.coreAt, ← ht, countCore_gauges, countCore_gauges, countCore_coreOf,
      countCore_coreOf, calm.coreOf hg, State.coreAt, cores', ← State.coreAt]

/-- The issue choice, where no gauge watches, picks the fibre of the contender that the port takes. -/
theorem issueChoice_picks {dt : Nat} (hcur : s.cur = none) (ht : (s.pass dt).taken core port = some c)
    (hg : ((s.pass dt).coreAt ((s.pass dt).coreOf c.gid)).gauges = []) (hn : (c.v.fibres.map (·.id)).Nodup) :
    ∃ t f, exec (.issueChoice core port dt) s = .next t ∧ t.mem = (s.pass dt).mem ∧ t.cycle = s.cycle + dt ∧
      t.cur = some ⟨c.gid, c.weave, c.f.id⟩ ∧ t.fibre ⟨c.gid, c.weave, c.f.id⟩ = some f ∧ f.pc = c.f.pc ∧
      f.lanes = c.f.lanes ∧ f.waitCount = c.f.waitCount := by
  obtain ⟨⟨g, hgr⟩, hchosen⟩ := mem_contenders (taken_mem ht)
  have hf := fibre_of_nodup hn (List.mem_filter.1 (bestOf_mem hchosen)).1
  obtain ⟨⟨x, hx, rest⟩, gauges⟩ := chose_fibre (core := core) (port := port) hgr hf
  obtain ⟨hmem, hcycle⟩ := chose_rest (s.pass dt) core port c
  refine ⟨((s.pass dt).chose core port c).issued ⟨c.gid, c.weave, c.f.id⟩, x, ?_, hmem, hcycle.trans (pass_cycle s dt), rfl,
    hx, rest⟩
  rw [issueChoice_eq hcur ht, pickFibre_calm hx (gauges.trans hg)]

end

/-- Settles O56: waits end by `completeFibre_goes`, a translation leaving all of the groups but marks; halts, barriers and counts
by their equations; the issue choice by `bestOf_least` over the two orders; the tick by the sink's due time that no record moves. -/
theorem waitsEndAndIssue : Obligations.WaitsEndAndIssue := by
  refine ⟨fun s r f hf hr hp => ⟨fun va ts u pa hw htr hmet => pwait_goes hf hr hp hw htr hmet,
      fun words g hw hg harr => await_goes hf hr hp hw hg harr,
      fun due hw => ⟨waitiExpire_goes hf hr hp hw, waitiExpire_waits hf hr hp hw⟩⟩,
    fun s r f hf ht => ⟨haltReport_shows hf ht, stepComplete_halts hf ht⟩,
    fun s gid n a w g v f l hg hr hl ha hw hv => ⟨bartime_traps hg hr hl ha hw hv, bartime_waits hg hl ha⟩,
    fun s core port dt c hcur ht hg hn => ⟨fun h => pass_mem h dt, issueChoice_picks hcur ht hg hn,
      fun x hx hy => taken_least ht hx hy, fun f hf hs hstep => chosen_least (mem_contenders (taken_mem ht)).2 hf hs hstep⟩,
    fun s r g lanes hg hgid => countIssue_counts s r lanes hg, fun s k x hx hd => sampleTick_sets hx hd⟩

end Sys2Proof.Machine

/-! Range tasks that become ready, and bents of class 7 (R244, R252). -/
namespace Sys2Proof.Machine
open Sys2Proof

section
variable {s t : State}

/-- An edge changes only the record of the memory order. -/
theorem edge_rest (s : State) (k : Nat) (pubs : List Nat) (src dst : List Party) :
    s.edge k pubs src dst = { s with past := (s.edge k pubs src dst).past } := by
  unfold State.edge State.note
  split <;> rfl

theorem classReaches7_chooses {uid bay : Nat} {b : Bent} (hb : s.bent uid = some b) (ha : b.awaits = true) (hs : b.seven = false)
    (hc : (s.view b.dcb).classAt (s.cycle - b.since) = 7) (hy : s.chooseBay b = some bay) :
    ∃ t, exec (.effectiveClassReaches7 uid bay) s = .next t ∧ t.mem = s.mem ∧ t.bent uid = some { b with seven := true } ∧
      (t.die b.socket).chosen = (s.die b.socket).chosen ++ [(uid, bay)] := by
  have hclass : s.classOf b = 7 := by rw [State.classOf, ha, if_pos rfl, hc]
  refine ⟨(s.setDie b.socket { s.die b.socket with chosen := (s.die b.socket).chosen ++ [(uid, bay)] }).onBent uid
    fun b => { b with seven := true }, ?_, rfl, ?_, ?_⟩
  · show execEffectiveClassReaches7 uid bay s = _
    simp only [execEffectiveClassReaches7, hb, ha, hs, hclass, hy, Bool.not_false, beq_self_eq_true, Bool.and_self, if_true]
  · rw [State.onBent_bent_same]
    exact congrArg (Option.map _) hb
  · show Die.chosen ((s.setDie _ _).die b.socket) = _
    rw [State.setDie_die_same]

/-- A task's first piece joins the edge of what met its pairs. -/
def State.taskEdge (s : State) (k : Nat) : State := s.edge 10 [] [] [.unit 3 k]

theorem taskReady_pairless {k : Nat} {x : Task} {l : Launch} (hx : tfind s.tasks k = some x) (hr : x.ready = false)
    (hl : tfind s.launches x.launch = some l) (hp : taskPairs x.record = []) :
    exec (.taskReady k) s = .next (if fieldOf x.record 16 8 ≤ fieldOf x.record 8 8 then
      { s.taskEdge k with tasks := tdel s.tasks k }
    else ({ s.taskEdge k with tasks := tins s.tasks k { x with ready := true } } : State).newPiece k (fieldOf x.record 8 8)
      (fieldOf x.record 16 8)) := by
  show execTaskReady k s = _
  have hedge : (s.edge 10 [] [] [.unit 3 k]).tasks = s.tasks := State.edge_tasks ..
  simp only [execTaskReady, hx, hr, hl, hp, State.pairsHold, State.pairAdvances, List.flatMap_nil, State.taskEdge, hedge]
  split <;> rfl

theorem taskReady_empty {k : Nat} {x : Task} {l : Launch} (hx : tfind s.tasks k = some x) (hr : x.ready = false)
    (hl : tfind s.launches x.launch = some l) (hp : taskPairs x.record = []) (he : fieldOf x.record 16 8 ≤ fieldOf x.record 8 8) :
    GoesTo (exec (.taskReady k) s) s fun u => { u with tasks := tdel u.tasks k } := by
  refine ⟨(s.taskEdge k).past, ?_, fun hn => ?_⟩
  · rw [taskReady_pairless hx hr hl hp, if_pos he]
    have := edge_rest s 10 [] [] [.unit 3 k]
    exact congrArg (fun u : State => Host.Outcome.next { u with tasks := tdel s.tasks k }) this
  · rw [State.taskEdge, State.edge_none s 10 [] [] _ hn]

/-- A new piece of a task waits for placement (R244). -/
theorem newPiece_bent {k first stop : Nat} {x : Task} (hx : tfind s.tasks k = some x) :
    (s.newPiece k first stop).mem = s.mem ∧ ∃ n, (s.newPiece k first stop).bent s.uids = some n ∧
      n.uid = s.uids ∧ n.st = .waiting ∧
      n.launch = x.launch ∧ n.socket = x.socket ∧ n.dcb = x.dcb ∧
      n.piece = some { task := k, first := first, next := first, stop := stop } := by
  simp only [State.newPiece, hx, State.edge_mem, true_and]
  exact ⟨_, tfind_tins_same .., rfl, rfl, rfl, rfl, rfl, rfl⟩

theorem newPiece_bent_other {k first stop j : Nat} (hj : j ≠ s.uids) : (s.newPiece k first stop).bent j = s.bent j := by
  unfold State.newPiece
  split
  · rfl
  · exact tfind_tins_other _ _ hj

theorem taskReady_starts {k : Nat} {x : Task} {l : Launch} (hx : tfind s.tasks k = some x) (hr : x.ready = false)
    (hl : tfind s.launches x.launch = some l) (hp : taskPairs x.record = []) (he : fieldOf x.record 8 8 < fieldOf x.record 16 8) :
    ∃ t n, exec (.taskReady k) s = .next t ∧ t.mem = s.mem ∧ t.bent s.uids = some n ∧ n.st = .waiting ∧
      n.launch = x.launch ∧ n.socket = x.socket ∧ n.dcb = x.dcb ∧
      n.piece = some { task := k, first := fieldOf x.record 8 8, next := fieldOf x.record 8 8, stop := fieldOf x.record 16 8 } := by
  obtain ⟨hmem, n, hn, -, hst, hla, hso, hdcb, hpiece⟩ := newPiece_bent (first := fieldOf x.record 8 8)
    (stop := fieldOf x.record 16 8)
    (s := { s.taskEdge k with tasks := tins s.tasks k { x with ready := true } }) (tfind_tins_same ..)
  have huids : (s.taskEdge k).uids = s.uids := State.edge_uids ..
  refine ⟨_, n, by rw [taskReady_pairless hx hr hl hp, if_neg (by omega)], hmem.trans (State.edge_mem ..), ?_, hst, hla, hso,
    hdcb, hpiece⟩
  rw [← huids]
  exact hn

end

end Sys2Proof.Machine

/-! A bent placed: its groups start, each at an identifier that no group holds (R36, R39, R44, R47). -/
namespace Sys2Proof.Machine
open Sys2Proof

/-! The fields of a domain are those of memory (R39). -/
section
variable {s t : State}

theorem ancestry_of_mem (h : t.mem = s.mem) (pa n : Nat) : t.ancestry pa n = s.ancestry pa n := by
  induction n generalizing pa with
  | zero => rfl
  | succ n ih =>
    simp only [State.ancestry, State.dcb, h, ih]
    rfl

theorem effective_of_mem (h : t.mem = s.mem) (pa i off n : Nat) : t.effective pa i off n = s.effective pa i off n := by
  simp only [State.effective, State.path, ancestry_of_mem h, State.dcb, h]

theorem view_of_mem (h : t.mem = s.mem) (pa : Nat) : t.view pa = s.view pa := by
  simp only [State.view, State.domainId, State.handler, State.priority, State.faultDomain, State.ageing, State.lapShare,
    effective_of_mem h, State.path, ancestry_of_mem h, State.dcb, h]

end

/-! An identifier that no group holds (R44). -/
section
variable {α : Type}

theorem tins_length_le (t : Table α) (k : Nat) (v : α) : (tins t k v).length ≤ t.length + 1 := by
  induction t with
  | nil => simp [tins]
  | cons p r ih =>
    obtain ⟨j, w⟩ := p
    simp only [tins]
    split
    · simp
    · split
      · simp
      · simpa using ih

theorem mem_keys_of_tfind {t : Table α} {k : Nat} (h : (tfind t k).isSome) : k ∈ t.map (·.1) := by
  induction t with
  | nil => cases h
  | cons p r ih =>
    obtain ⟨j, w⟩ := p
    simp only [tfind] at h
    split at h
    · next e => simp [e]
    · exact List.mem_cons_of_mem _ (ih h)

/-- Among more distinct keys than a table has entries one is free. -/
theorem exists_key_free {t : Table α} {key : Nat → Nat} {n : Nat} (hn : t.length < n)
    (inj : ∀ i < n, ∀ j < n, key i = key j → i = j) : ∃ i < n, tfind t (key i) = none := by
  by_contra hall
  push Not at hall
  have sub : (List.range n).map key ⊆ t.map (·.1) := by
    intro k hk
    obtain ⟨i, hi, rfl⟩ := List.mem_map.1 hk
    exact mem_keys_of_tfind (Option.isSome_iff_ne_none.2 (hall i (List.mem_range.1 hi)))
  have nodup : ((List.range n).map key).Nodup :=
    List.Nodup.map_on (fun i hi j hj => inj i (List.mem_range.1 hi) j (List.mem_range.1 hj)) List.nodup_range
  have := (List.subperm_of_subset nodup sub).length_le
  simp at this
  omega

end

section
variable {s t : State}

theorem nextGid_free (k : Nat) (h : s.groups.length + 1 ≤ 2 ^ 28) : s.group (s.nextGid k).1 = none := by
  have inj : ∀ i < s.groups.length + 1, ∀ j < s.groups.length + 1,
      k * 2 ^ 28 + ((s.die k).gidCount + i) % 2 ^ 28 = k * 2 ^ 28 + ((s.die k).gidCount + j) % 2 ^ 28 → i = j := by
    intro i hi j hj e
    omega
  obtain ⟨i, hi, hfree⟩ := exists_key_free (t := s.groups) (Nat.lt_succ_self _) inj
  unfold State.nextGid
  dsimp only
  cases hf : (List.range (s.groups.length + 1)).find? fun i =>
      (s.group (k * 2 ^ 28 + ((s.die k).gidCount + i) % 2 ^ 28)).isNone with
  | some j => simpa using List.find?_some hf
  | none =>
    have := List.find?_eq_none.1 hf i (List.mem_range.2 hi)
    rw [State.group, hfree] at this
    exact absurd rfl this

/-! A group that starts (R44, R47). -/

/-- A group as a bent's member starts: the launch's arguments in K, the record's address in A1, its fibres ready at the entry. -/
structure Started (b : Bent) (l : Launch) (m : Member) (g : Group) : Prop where
  bent   : g.bent = b.uid
  record : g.aAt 1 = l.addr
  args   : ∀ i < l.args.length / 4, g.kAt i = BitVec.ofNat 32 (fieldOf l.args (4 * i) 4)
  role   : g.role = m.role
  number : g.number = m.number
  fibres : ∀ p ∈ g.weaves, ∀ f ∈ p.2.fibres, f.pc = m.pc ∧ f.st = .ready

/-- A table written at each place below a bound reads there what was written. -/
theorem tget_writes [DecidableEq α] (d : α) (f : Nat → α) (n : Nat) {i : Nat} (hi : i < n) :
    tget d ((List.range n).foldl (fun t i => tput d t i (f i)) []) i = f i := by
  induction n with
  | zero => omega
  | succ n ih =>
    rw [List.range_succ, List.foldl_append, List.foldl_cons, List.foldl_nil, tget_tput]
    split
    · next e => rw [e]
    · exact ih (by omega)

theorem freshWeaves_ready (size : Nat) (pc : DWord) (slots : List Nat) (now : Nat) :
    ∀ p ∈ freshWeaves size pc slots now, ∀ f ∈ p.2.fibres, f.pc = pc ∧ f.st = .ready := by
  intro p hp f hf
  obtain ⟨w, -, rfl⟩ := List.mem_map.1 hp
  rw [List.mem_singleton.1 hf]
  exact ⟨rfl, rfl⟩

/-- `t` has the groups of `s`, and at most `n` more. -/
structure Grown (s t : State) (n : Nat) : Prop where
  count  : t.groups.length ≤ s.groups.length + n
  groups : ∀ k g, s.group k = some g → t.group k = some g

theorem Grown.refl (s : State) : Grown s s 0 := ⟨Nat.le_refl _, fun _ _ h => h⟩

theorem Grown.trans {u : State} {n m : Nat} (a : Grown s t n) (b : Grown t u m) : Grown s u (n + m) where
  count := by have := a.count; have := b.count; omega
  groups k g h := b.groups k g (a.groups k g h)

theorem startGroup_bents (s : State) (b : Bent) (l : Launch) (bay : Nat) (m : Member) (p : Place) :
    (s.startGroup b l bay m p).1.bents = s.bents := by
  unfold State.startGroup
  dsimp only
  split <;> rfl

theorem startGroup_starts (s : State) (b : Bent) (l : Launch) (bay : Nat) (m : Member) (p : Place)
    (h : s.groups.length + 1 ≤ 2 ^ 28) : Grown s (s.startGroup b l bay m p).1 1 ∧
      ∃ g, (s.startGroup b l bay m p).1.group (s.startGroup b l bay m p).2 = some g ∧ Started b l m g := by
  have hfree := nextGid_free b.socket h
  unfold State.startGroup
  dsimp only
  refine ⟨⟨?_, fun k g hg => ?_⟩, _, tfind_tins_same .., ?_⟩
  · split <;> exact tins_length_le ..
  · have hne : k ≠ (s.nextGid b.socket).1 := by
      rintro rfl
      rw [hfree] at hg
      cases hg
    split <;> exact (tfind_tins_other _ _ hne).trans hg
  · refine ⟨rfl, ?_, fun i hi => ?_, rfl, rfl, freshWeaves_ready _ _ _ _⟩
    · show tget 0 (tput 0 (tput 0 _ 1 _) 2 _) 1 = _
      rw [tget_tput_other _ _ _ (by decide), tget_tput_same]
    · exact tget_writes 0 (fun i => BitVec.ofNat 32 (fieldOf l.args (4 * i) 4)) _ (by omega)

theorem startGroups_bents (b : Bent) (l : Launch) (bay : Nat) (ms : List Member) (s : State) (ps : List Place) :
    (s.startGroups b l bay ms ps).1.bents = s.bents := by
  induction ms generalizing s ps with
  | nil => rfl
  | cons m rest ih =>
    unfold State.startGroups
    dsimp only
    split <;> exact (ih ..).trans (startGroup_bents ..)

theorem startGroups_start (b : Bent) (l : Launch) (bay : Nat) (ms : List Member) :
    ∀ (s : State) (ps : List Place), s.groups.length + ms.length < 2 ^ 28 →
      Grown s (s.startGroups b l bay ms ps).1 ms.length ∧ (s.startGroups b l bay ms ps).2.length = ms.length ∧
        ∀ q ∈ (s.startGroups b l bay ms ps).2, ∃ g, (s.startGroups b l bay ms ps).1.group q.1 = some g ∧
          ∃ m ∈ ms, Started b l m g := by
  induction ms with
  | nil => exact fun s ps _ => ⟨.refl s, rfl, by simp [State.startGroups]⟩
  | cons m rest ih =>
    intro s ps hlen
    rw [List.length_cons] at hlen
    have step : ∀ (p : Place) (ps : List Place), let u := s.startGroup b l bay m p
        let v := u.1.startGroups b l bay rest ps
        Grown s v.1 (rest.length + 1) ∧ ((u.2, m.isStream) :: v.2).length = rest.length + 1 ∧
          ∀ q ∈ (u.2, m.isStream) :: v.2, ∃ g, v.1.group q.1 = some g ∧ ∃ n ∈ m :: rest, Started b l n g := by
      intro p ps u v
      obtain ⟨grown, g, hg, started⟩ := startGroup_starts s b l bay m p (by omega)
      obtain ⟨grown', count, all⟩ := ih u.1 ps (by have : u.1.groups.length ≤ s.groups.length + 1 := grown.count; omega)
      refine ⟨Nat.add_comm 1 _ ▸ grown.trans grown', by rw [List.length_cons, count], fun q hq => ?_⟩
      rcases List.mem_cons.1 hq with rfl | hq
      · exact ⟨g, grown'.groups _ g hg, m, List.mem_cons_self .., started⟩
      · obtain ⟨g', hg', n, hn, hs⟩ := all q hq
        exact ⟨g', hg', n, List.mem_cons_of_mem _ hn, hs⟩
    unfold State.startGroups
    dsimp only
    split
    · exact step ⟨4, 0⟩ ps
    · exact step (ps.headD ⟨0, 0⟩) (ps.drop 1)

/-! A bent that is placed (R36, R39). -/

/-- The state in which a bent has its claim and is resident, before its groups start. -/
def State.settledIn (s : State) (b : Bent) (bay : Nat) : State :=
  let u := if s.needsClaim b then s.takeClaim b bay else s
  u.onBent b.uid fun x =>
    { x with
      st := .resident, holds := true, bay := bay, placed := u.cycle, claim := s.needsClaim b, seven := false
      dom := some (u.view x.dcb) }

/-- A bent with the groups that it has started, the joiner among them. -/
def Bent.withGroups (b : Bent) (gids : List (Nat × Bool)) : Bent :=
  { b with groups := gids.map (·.1), joiner := (gids.find? (·.2)).map (·.1) }

/-- The state in which a bent's groups have started, once it and the group tables know them. -/
def placedWith (v : State × List (Nat × Bool)) (b : Bent) : State :=
  (v.2.foldl (fun s p => s.syncTable p.1) ((v.1.onBent b.uid (·.withGroups v.2)).unchoose b)).countDie b.socket 10 1

theorem placeBent_eq {b : Bent} {l : Launch} (hl : tfind s.launches b.launch = some l) (bay : Nat) (ps : List Place) :
    s.placeBent b bay ps =
      placedWith ((s.settledIn b bay).startGroups b l bay ((s.settledIn b bay).members b l) ps) b := by
  simp only [State.placeBent, hl]
  rfl

theorem placedWith_bents (v : State × List (Nat × Bool)) (b : Bent) :
    (placedWith v b).bents = (v.1.onBent b.uid (·.withGroups v.2)).bents :=
  (State.countDie_bents ..).trans
    (Stored.foldl (f := fun s (p : Nat × Bool) => s.syncTable p.1) (fun s p => syncTable_stored s p.1) v.2 _).bents

theorem placedWith_groups (v : State × List (Nat × Bool)) (b : Bent) : (placedWith v b).unmarkedGroups = v.1.unmarkedGroups := by
  rw [State.unmarkedGroups, placedWith, State.countDie_groups]
  exact (Stored.foldl (f := fun s (p : Nat × Bool) => s.syncTable p.1) (fun s p => syncTable_stored s p.1) v.2
    ((v.1.onBent b.uid (·.withGroups v.2)).unchoose b)).groups

theorem settledIn_bent {b : Bent} (hb : s.bent b.uid = some b) (bay : Nat) :
    ∃ n, (s.settledIn b bay).bent b.uid = some n ∧ n.st = .resident ∧ n.holds = true ∧ n.bay = bay ∧
      n.dom = some (s.view b.dcb) := by
  have bents : (if s.needsClaim b then s.takeClaim b bay else s).bent b.uid = some b := by split <;> exact hb
  have mem : (if s.needsClaim b then s.takeClaim b bay else s).mem = s.mem := by split <;> rfl
  refine ⟨_, by rw [State.settledIn, State.onBent_bent_same, bents, Option.map_some], rfl, rfl, rfl, ?_⟩
  rw [view_of_mem mem]

end

end Sys2Proof.Machine

namespace Sys2Proof.Machine
open Sys2Proof

section
variable {s t : State}

theorem members_of_tasks (h : t.tasks = s.tasks) (b : Bent) (l : Launch) : t.members b l = s.members b l := by
  simp only [State.members, State.taskOf, h]

/-- A group of a state finds its like, started as it was, in one that differs in marks. -/
theorem Started.of_unmarked {b : Bent} {l : Launch} {m : Member} {g h : Group} (a : Started b l m g)
    (e : h.mapLanes Lane.unmarked = g.mapLanes Lane.unmarked) : Started b l m h := by
  have bare := Group.bare_of_unmarked e
  have hfib : ∀ p ∈ h.weaves, ∃ q ∈ g.weaves, p.2.fibres = q.2.fibres := by
    intro p hp
    have hm := List.mem_map_of_mem (f := fun p : Nat × Weave =>
      (p.1, { p.2 with lanes := p.2.lanes.map fun q : Nat × Lane => (q.1, q.2.unmarked) })) hp
    have := congrArg Group.weaves e
    change _ ∈ (h.mapLanes Lane.unmarked).weaves at hm
    rw [this] at hm
    obtain ⟨q, hq, eq⟩ := List.mem_map.1 hm
    exact ⟨q, hq, (congrArg (fun x : Nat × Weave => x.2.fibres) eq).symm⟩
  obtain ⟨h1, h2, h3, h4, h5, h6⟩ := a
  refine ⟨?_, ?_, fun i hi => ?_, ?_, ?_, fun p hp f hf => ?_⟩
  · exact (congrArg Group.bent bare).trans h1
  · exact (congrArg (fun x : Group => x.aAt 1) bare).trans h2
  · exact (congrArg (fun x : Group => x.kAt i) bare).trans (h3 i hi)
  · exact (congrArg Group.role bare).trans h4
  · exact (congrArg Group.number bare).trans h5
  · obtain ⟨q, hq, eq⟩ := hfib p hp
    exact h6 q hq f (eq ▸ hf)

/-- A waiting bent whose turn it is and that fits is placed. -/
theorem bentPlacement_places {uid bay : Nat} {b : Bent} {l : Launch} {places : List Place} (hb : s.bent uid = some b)
    (hu : b.uid = uid) (hw : b.st = .waiting) (hp : s.mayPlace b bay places = true) (hl : tfind s.launches b.launch = some l)
    (hlen : s.groups.length + (s.members b l).length < 2 ^ 28) :
    ∃ t n, exec (.bentPlacement uid bay places) s = .next t ∧ t.bent uid = some n ∧ n.st = .resident ∧ n.holds = true ∧
      n.bay = bay ∧ n.dom = some (s.view b.dcb) ∧ n.groups.length = (s.members b l).length ∧
      ∀ gid ∈ n.groups, ∃ g, t.group gid = some g ∧ ∃ m ∈ s.members b l, Started b l m g := by
  subst hu
  obtain ⟨n, hn, hst, hholds, hbay, hdom⟩ := settledIn_bent hb bay
  have hmembers : (s.settledIn b bay).members b l = s.members b l := members_of_tasks (by
    unfold State.settledIn
    dsimp only
    split <;> rfl) b l
  have hgroups : (s.settledIn b bay).groups = s.groups := by
    unfold State.settledIn
    dsimp only
    split <;> rfl
  obtain ⟨-, count, all⟩ := startGroups_start b l bay (s.members b l) (s.settledIn b bay) places (by rw [hgroups]; exact hlen)
  have bents := startGroups_bents b l bay (s.members b l) (s.settledIn b bay) places
  have heq := placeBent_eq hl bay places
  rw [hmembers] at heq
  generalize (s.settledIn b bay).startGroups b l bay (s.members b l) places = v at heq count all bents
  refine ⟨placedWith v b, n.withGroups v.2, ?_, ?_, hst, hholds, hbay, hdom, (List.length_map _).trans count,
    fun gid hgid => ?_⟩
  · show execBentPlacement b.uid bay places s = _
    simp only [execBentPlacement, hb, hw, hp, beq_self_eq_true, Bool.and_self, if_true, heq]
  · have hv : v.1.bent b.uid = some n := by rw [State.bent, bents]; exact hn
    rw [State.bent, placedWith_bents, ← State.bent, State.onBent_bent_same, hv, Option.map_some]
  · obtain ⟨q, hq, rfl⟩ := List.mem_map.1 hgid
    obtain ⟨g, hg, m, hm, started⟩ := all q hq
    obtain ⟨h, hh, eh⟩ := group_of_unmarked (placedWith_groups v b) (k := q.1) hg
    exact ⟨h, hh, m, hm, started.of_unmarked eh⟩

/-! A piece that is cut (R246). -/

theorem onBent_piece (j : Nat) (f : Bent → Bent) (hf : ∀ b, (f b).piece = b.piece) (k : Nat) :
    ((s.onBent j f).bent k).bind (·.piece) = (s.bent k).bind (·.piece) := by
  by_cases h : k = j
  · subst h
    rw [State.onBent_bent_same]
    cases s.bent k with
    | none => rfl
    | some b => exact hf b
  · rw [State.onBent_bent_other _ _ h]

theorem placeBent_piece (s : State) (b : Bent) (bay : Nat) (ps : List Place) (k : Nat) :
    ((s.placeBent b bay ps).bent k).bind (·.piece) = (s.bent k).bind (·.piece) := by
  cases hl : tfind s.launches b.launch with
  | none => simp only [State.placeBent, hl]
  | some l =>
    have settled : ((s.settledIn b bay).bent k).bind (·.piece) = (s.bent k).bind (·.piece) := by
      rw [State.settledIn, onBent_piece]
      · split <;> rfl
      · exact fun _ => rfl
    have bents := startGroups_bents b l bay ((s.settledIn b bay).members b l) (s.settledIn b bay) ps
    have heq := placeBent_eq hl bay ps
    generalize (s.settledIn b bay).startGroups b l bay ((s.settledIn b bay).members b l) ps = v at heq bents
    rw [heq, State.bent, placedWith_bents, ← State.bent, onBent_piece]
    · rw [State.bent, bents, ← State.bent, settled]
    · exact fun _ => rfl

/-- Where a range of two grains or more is cut lies strictly within it. -/
theorem cut_within {first stop grain : Nat} (h : 2 ≤ (stop - first + grain - 1) / grain) :
    let c := (stop - first + grain - 1) / grain
    first < first + grain * (c - c / 2) ∧ first + grain * (c - c / 2) < stop := by
  intro c
  have hg : 0 < grain := by
    rcases Nat.eq_zero_or_pos grain with rfl | hg
    · simp at h
    · exact hg
  have half : 1 ≤ c - c / 2 ∧ c - c / 2 ≤ c - 1 := by omega
  have low : grain * 1 ≤ grain * (c - c / 2) := Nat.mul_le_mul_left _ half.1
  have high : grain * (c - c / 2) ≤ grain * (c - 1) := Nat.mul_le_mul_left _ half.2
  have all : grain * c ≤ stop - first + grain - 1 := Nat.mul_div_le ..
  have split : grain * (c - 1) + grain = grain * c := by
    rw [← Nat.mul_succ, Nat.succ_eq_add_one, Nat.sub_add_cancel (by omega)]
  have two : grain * 2 ≤ grain * c := Nat.mul_le_mul_left _ h
  omega

/-- The state in which a piece is cut, and what is cut off is a piece of its own. -/
def State.cutPiece (s : State) (b : Bent) (p : Piece) (cut : Nat) : State :=
  (s.onBent b.uid fun b => { b with piece := some { p with stop := cut } }).newPiece p.task cut p.stop

theorem cutPiece_pieces {b : Bent} {p : Piece} {x : Task} (hb : s.bent b.uid = some b) (hu : b.uid ≠ s.uids)
    (hx : tfind s.tasks p.task = some x) (cut : Nat) :
    ((s.cutPiece b p cut).bent b.uid).bind (·.piece) = some { p with stop := cut } ∧
      ((s.cutPiece b p cut).bent s.uids).bind (·.piece) =
        some { task := p.task, first := cut, next := cut, stop := p.stop } := by
  unfold State.cutPiece
  generalize hv : (s.onBent b.uid fun b => { b with piece := some { p with stop := cut } }) = v
  have huids : v.uids = s.uids := by rw [← hv]; rfl
  have htask : tfind v.tasks p.task = some x := by rw [← hv]; exact hx
  obtain ⟨-, m, hm, -, -, -, -, -, hpiece⟩ := newPiece_bent (first := cut) (stop := p.stop) htask
  constructor
  · rw [newPiece_bent_other (by rw [huids]; exact hu), ← hv, State.onBent_bent_same, hb]
    rfl
  · rw [← huids, hm]
    exact hpiece

/-- The largest piece of a die is cut, the new piece running on the asking core what is cut off. -/
theorem taskSplit_cuts {core : Nat} {place : Place} {b n : Bent} {p : Piece} {x : Task}
    (hp : s.largestPiece (core / 5 / 12) = some (b, p)) (hb : s.bent b.uid = some b) (hu : b.uid ≠ s.uids)
    (hx : tfind s.tasks p.task = some x) (hlt : p.next < p.stop)
    (hc : 2 ≤ (p.stop - p.next + taskGrain x.record - 1) / taskGrain x.record) (hplace : place.core = core % 5)
    (hbay : (s.baysOf (core / 5 / 12)).contains (core / 5) = true)
    (hwait : ∀ q ∈ s.bents, ¬(q.2.awaits = true ∧ q.2.socket = core / 5 / 12 ∧ (s.viewOf b).priority ≤ s.classOf q.2 ∧
      s.fitsDie q.2 true = true)) {cut : Nat}
    (hcut : splitPoint p.next (taskGrain x.record) ((p.stop - p.next + taskGrain x.record - 1) / taskGrain x.record) = cut)
    (hn : (s.cutPiece b p cut).bent s.uids = some n) (hadm : s.admits n (core / 5) [] true = true)
    (hfit : placesFit ((s.cutPiece b p cut).demands n) [place] ((s.cutPiece b p cut).loads (core / 5) []) = true) :
    ∃ t, exec (.taskSplit core place) s = .next t ∧ (t.bent b.uid).bind (·.piece) = some { p with stop := cut } ∧
      (t.bent s.uids).bind (·.piece) = some { task := p.task, first := cut, next := cut, stop := p.stop } := by
  have grains : grainsOf p.next p.stop (taskGrain x.record) = (p.stop - p.next + taskGrain x.record - 1) / taskGrain x.record := by
    rw [grainsOf, if_neg (Nat.not_le.2 hlt)]
  rw [← grains] at hc hcut
  have many : decide (grainsOf p.next p.stop (taskGrain x.record) < 2) = false := decide_eq_false (Nat.not_lt.2 hc)
  have none : (s.bents.any fun q => q.2.awaits && q.2.socket == core / 5 / 12 && decide ((s.viewOf b).priority ≤ s.classOf q.2) &&
      s.fitsDie q.2 true) = false := by
    rw [List.any_eq_false]
    intro q hq h
    simp only [Bool.and_eq_true, beq_iff_eq, decide_eq_true_eq] at h
    exact hwait q hq ⟨h.1.1.1, h.1.1.2, h.1.2, h.2⟩
  obtain ⟨old, new⟩ := cutPiece_pieces hb hu hx cut
  have counted : ∀ v : State, ∀ k, ((v.countDie (core / 5 / 12) 12 1).bent k) = v.bent k := fun v k => by simp [State.bent]
  refine ⟨((s.cutPiece b p cut).placeBent n (core / 5) [place]).countDie (core / 5 / 12) 12 1, ?_, ?_, ?_⟩
  · have hn' := hn
    show execTaskSplit core place s = _
    unfold State.cutPiece at hn' hfit ⊢
    simp only [execTaskSplit, hp, hx, many, none, hplace, hbay, hcut, bne_self_eq_false, Bool.not_true, Bool.or_self,
      Bool.false_eq_true, if_false, hn', hadm, hfit, Bool.and_self, if_true]
  · rw [counted, placeBent_piece, old]
  · rw [counted, placeBent_piece, new]

end

end Sys2Proof.Machine

/-! A bent saved (R318, R319), and one that retires (R36). -/
namespace Sys2Proof.Machine
open Sys2Proof

/-- Bents, bays and, but for marks of stores, groups of `t` are those of `s`. -/
structure Carried (s t : State) : Prop where
  bents  : t.bents = s.bents
  bays   : t.bays = s.bays
  groups : t.unmarkedGroups = s.unmarkedGroups

section
variable {s t u : State}

theorem Carried.refl (s : State) : Carried s s := ⟨rfl, rfl, rfl⟩

theorem Carried.trans (a : Carried s t) (b : Carried t u) : Carried s u :=
  ⟨b.bents.trans a.bents, b.bays.trans a.bays, b.groups.trans a.groups⟩

theorem Carried.foldl {ι : Type} {f : State → ι → State} (h : ∀ s i, Carried s (f s i)) (l : List ι) (s : State) :
    Carried s (l.foldl f s) := by
  induction l generalizing s with
  | nil => exact .refl s
  | cons i r ih => exact (h s i).trans (ih _)

theorem Stored.carried (a : Stored s t) : Carried s t := ⟨a.bents, a.bays, a.groups⟩

theorem Carried.bent (a : Carried s t) (k : Nat) : t.bent k = s.bent k := congrArg (tfind · k) a.bents

theorem Carried.bayAt (a : Carried s t) (k : Nat) : t.bayAt k = s.bayAt k := by
  rw [State.bayAt, a.bays]
  rfl

/-- Banks are of cores. -/
theorem switchBanks_carried (s : State) (b : Bent) (x : Option Nat) : Carried s (s.switchBanks b x) :=
  .foldl (f := fun s k => s.setCore k { s.coreAt k with bank := !(s.coreAt k).bank, shadow := x })
    (fun _ _ => ⟨rfl, rfl, rfl⟩) _ s

theorem choose_carried (s : State) (n : Nat) : Carried s (s.choose n).2 := by
  unfold State.choose
  split
  · exact .refl s
  · exact ⟨rfl, rfl, rfl⟩

/-! A bent saved (R318, R319). -/

/-- The address of a save area: a free value (log entry 37). -/
def State.saveArea (s : State) : DWord := (s.choose 2).2.free.1 &&& 0x01FFFFFFFFFFFFC0

/-- The state in which a bent's save area is named, its banks have switched and its groups' table entries are clear. -/
def State.leaving (s : State) (b : Bent) : State :=
  let u := (s.choose 2).2.free.2.onBent b.uid fun x => { x with area := s.saveArea }
  b.groups.foldl (fun s g => s.clearTable g) (u.switchBanks b (some b.uid))

theorem saveBent_eq {b : Bent} (h : (s.choose 2).1 ≠ 1) : s.saveBent b =
    (((s.leaving b).setBay b.bay (((s.leaving b).bayAt b.bay).save b).2).onBent b.uid fun x =>
      { x with
        st := .saved, holds := false, saved := (((s.leaving b).bayAt b.bay).save b).1
        since := (s.leaving b).cycle }).countDie b.socket 11 1 := by
  simp only [State.saveBent, h, if_false]
  rfl

theorem leaving_carried (s : State) (b : Bent) :
    Carried (s.onBent b.uid fun x => { x with area := s.saveArea }) (s.leaving b) := by
  have chosen := choose_carried s 2
  have free : Carried (s.onBent b.uid fun x => { x with area := s.saveArea })
      ((s.choose 2).2.free.2.onBent b.uid fun x => { x with area := s.saveArea }) :=
    ⟨congrArg (fun t : Table Bent => tmod t b.uid fun x : Bent => { x with area := s.saveArea }) chosen.bents,
      chosen.bays, chosen.groups⟩
  exact (free.trans (switchBanks_carried _ b (some b.uid))).trans
    (.foldl (f := State.clearTable) (fun s g => (clearTable_stored s g).carried) b.groups _)

/-- A stopping bent without started copies is saved. -/
theorem preemption_saves {uid : Nat} {b : Bent} (hb : s.bent uid = some b) (hu : b.uid = uid) (hs : b.st = .stopping)
    (hc : ∀ c ∈ (s.bayAt b.bay).started, c.bent ≠ uid) (hn : (s.choose 2).1 ≠ 1) :
    ∃ t, exec (.preemption uid) s = .next t ∧
      (t.bent uid).map (fun n => (n.st, n.holds, n.groups)) = some (.saved, false, b.groups) ∧
      (t.bayAt b.bay).mq = (s.bayAt b.bay).mq.filter (fun c => c.bent != uid) ∧
      (b.claim = true → (t.bayAt b.bay).holder = none) ∧ ∀ k, KeptGroup id id s t k := by
  subst hu
  have left := leaving_carried s b
  have idle : ((s.bayAt b.bay).started.any fun c => c.bent == b.uid) = false := by
    rw [List.any_eq_false]
    intro c hm
    simpa using hc c hm
  have bay : (s.leaving b).bayAt b.bay = s.bayAt b.bay := left.bayAt b.bay
  have bent : (s.leaving b).bent b.uid = some { b with area := s.saveArea } := by
    rw [left.bent, State.onBent_bent_same, hb, Option.map_some]
  refine ⟨s.saveBent b, ?_, ?_, ?_, fun hclaim => ?_, fun k => ?_⟩
  · show execPreemption b.uid s = _
    simp only [execPreemption, hb, hs, idle, beq_self_eq_true, Bool.not_false, Bool.and_self, if_true]
  · rw [saveBent_eq hn, State.bent, State.countDie_bents, ← State.bent, State.onBent_bent_same]
    exact congrArg (fun x : Option Bent => (x.map _).map _) bent
  · rw [saveBent_eq hn, State.bayAt, State.countDie_bays]
    refine (congrArg Bay.mq (State.setBay_bayAt_same (s := s.leaving b) b.bay _)).trans ?_
    rw [bay]
    rfl
  · rw [saveBent_eq hn, State.bayAt, State.countDie_bays]
    refine (congrArg Bay.holder (State.setBay_bayAt_same (s := s.leaving b) b.bay _)).trans ?_
    simp only [Bay.save, hclaim, if_true]
  · refine keptGroup_of_unmarked ?_ k
    rw [saveBent_eq hn, State.unmarkedGroups, State.countDie_groups]
    exact left.groups

/-! A bent that retires (R36). -/

theorem tfind_dels_none {α : Type} (l : List Nat) {t : Table α} {k : Nat} (h : tfind t k = none) :
    tfind (l.foldl (fun t k => tdel t k) t) k = none := by
  induction l generalizing t with
  | nil => exact h
  | cons j r ih =>
    refine ih ?_
    by_cases e : k = j
    · subst e; exact tfind_tdel_same ..
    · rw [tfind_tdel_other _ e, h]

theorem tfind_dels {α : Type} {l : List Nat} {k : Nat} (h : k ∈ l) (t : Table α) :
    tfind (l.foldl (fun t k => tdel t k) t) k = none := by
  induction l generalizing t with
  | nil => cases h
  | cons j r ih =>
    rcases List.mem_cons.1 h with rfl | h
    · exact tfind_dels_none r (tfind_tdel_same ..)
    · exact ih h _

theorem reportBent_stored (s : State) (b : Bent) : Stored s (s.reportBent b) := by
  unfold State.reportBent
  dsimp only
  exact .ite (.refl s) (deliver_stored ..)

/-- The state in which a bent's status is reported and its bay's claim is free. -/
def State.unclaimed (s : State) (b : Bent) : State :=
  if b.holds && b.claim then (s.reportBent b).onBay b.bay fun y => { y with holder := none } else s.reportBent b

theorem bentRetire_eq {uid : Nat} {b : Bent} (hb : s.bent uid = some b) (hs : b.st = .resident)
    (hg : ∀ k ∈ b.groups, ∀ g, s.group k = some g → g.retired = true) (hq : ∀ c ∈ (s.bayAt b.bay).mq, c.bent ≠ uid) :
    exec (.bentRetire uid) s = .next
      (((({ s.unclaimed b with groups := b.groups.foldl (fun t k => tdel t k) (s.unclaimed b).groups } : State).dropEntries
        b.groups true).onBent uid fun b => { b with holds := false }).finishBent uid) := by
  have live : (b.groups.any fun k => ((s.group k).map fun g => !g.retired).getD false) = false := by
    rw [List.any_eq_false]
    intro k hk
    cases hgr : s.group k with
    | none => simp
    | some g => simp [hg k hk g hgr]
  have queued : ((s.bayAt b.bay).mq.any fun c => c.bent == uid) = false := by
    rw [List.any_eq_false]
    intro c hm
    simpa using hq c hm
  show execBentRetire uid s = _
  simp only [execBentRetire, hb, hs, live, queued]
  rfl

theorem bentRetire_ends {uid : Nat} {b : Bent} (hb : s.bent uid = some b) (hs : b.st = .resident) (hp : b.piece = none)
    (hg : ∀ k ∈ b.groups, ∀ g, s.group k = some g → g.retired = true) (hq : ∀ c ∈ (s.bayAt b.bay).mq, c.bent ≠ uid) :
    ∃ t, exec (.bentRetire uid) s = .next t ∧ (t.bent uid).map (fun n => (n.st, n.holds)) = some (.ended, false) ∧
      (∀ k ∈ b.groups, t.group k = none) ∧ (b.holds = true → b.claim = true → (t.bayAt b.bay).holder = none) := by
  refine ⟨_, bentRetire_eq hb hs hg hq, ?_⟩
  have bents : (s.unclaimed b).bents = s.bents := by
    unfold State.unclaimed
    split <;> exact (reportBent_stored s b).bents
  generalize hv : (({ s.unclaimed b with groups := b.groups.foldl (fun t k => tdel t k) (s.unclaimed b).groups } : State).dropEntries
    b.groups true).onBent uid (fun b => { b with holds := false }) = v
  have bent : v.bent uid = some { b with holds := false } := by
    rw [← hv, State.onBent_bent_same]
    exact congrArg (Option.map _) ((congrArg (tfind · uid) bents).trans hb)
  have finish : v.finishBent uid = v.onBent uid fun b =>
      { b with st := .ended, groups := [], joiner := none, bars := [], saved := {} } := by
    simp only [State.finishBent, bent, hp]
  rw [finish]
  refine ⟨?_, fun k hk => ?_, fun hh hc => ?_⟩
  · rw [State.onBent_bent_same, bent]
    rfl
  · show v.group k = none
    rw [← hv]
    exact tfind_dels hk _
  · show (v.bayAt b.bay).holder = none
    rw [← hv]
    show ((s.unclaimed b).bayAt b.bay).holder = none
    rw [State.unclaimed, hh, hc, Bool.and_self, if_pos rfl, State.onBay, State.setBay_bayAt_same]

end

end Sys2Proof.Machine

/-! A group that retires (R29): whatever its bent's version, credit and pegs bring about, no group leaves before it does. -/
namespace Sys2Proof.Machine
open Sys2Proof

/-! What ends bents leaves groups as they are, but for marks. -/
section
variable (s : State)

theorem foldl_groups {ι : Type} {f : State → ι → State} (h : ∀ s i, (f s i).unmarkedGroups = s.unmarkedGroups) (l : List ι) :
    (l.foldl f s).unmarkedGroups = s.unmarkedGroups := by
  induction l generalizing s with
  | nil => rfl
  | cons i r ih => exact (ih _).trans (h s i)

theorem settlePage_groups (memo : Memo) (a : Agent) (space : Nat) (va : DWord) :
    (s.settlePage memo a space va).1.groups = s.groups := by
  unfold State.settlePage
  dsimp only
  split
  · rfl
  · exact choosePage_groups ..

theorem pageAt_groups (memo : Memo) (a : Agent) (space : Nat) (va : DWord) (acc : Access) :
    (s.pageAt memo a space va acc).1.unmarkedGroups = s.unmarkedGroups := by
  have settled : (s.settlePage memo a space va).1.unmarkedGroups = s.unmarkedGroups := by
    rw [State.unmarkedGroups, settlePage_groups, ← State.unmarkedGroups]
  unfold State.pageAt
  dsimp only
  split
  · exact settled
  · exact (useChosen_groups ..).trans settled

theorem pegAt_groups (memo : Memo) (a : Agent) (k n : Nat) (acc : Access) :
    (s.pegAt memo a k n acc).1.unmarkedGroups = s.unmarkedGroups := by
  unfold State.pegAt
  dsimp only
  split
  · rfl
  · exact pageAt_groups ..

theorem advanceDropped_groups (c : MCmd) : (s.advanceDropped c).unmarkedGroups = s.unmarkedGroups := by
  unfold State.advanceDropped
  split
  · rfl
  · next n _ =>
    have h := pegAt_groups s [] (s.engineOf c.gid) c.gid n .atomic
    split <;> rename_i hp <;> rw [hp] at h
    · exact (addPeg_stored ..).groups.trans h
    · exact (deliver_stored ..).groups.trans h

theorem stopBent_groups (uid : Nat) : (s.stopBent uid).unmarkedGroups = s.unmarkedGroups := by
  unfold State.stopBent
  split
  · rfl
  · dsimp only
    refine (syncHeld_stored ..).groups.trans ?_
    split <;> exact foldl_groups s (fun s c => advanceDropped_groups s c) _

theorem finishBent_groups (uid : Nat) : (s.finishBent uid).unmarkedGroups = s.unmarkedGroups := by
  unfold State.finishBent
  split
  · rfl
  · split <;> rfl

theorem closeBent_groups (b : Bent) : (s.closeBent b).unmarkedGroups = s.unmarkedGroups := by
  unfold State.closeBent
  split
  · exact finishBent_groups ..
  · exact stopBent_groups ..

theorem endDomain_groups (uid k : Nat) (d : DomainView) : (s.endDomain uid k d).unmarkedGroups = s.unmarkedGroups := by
  unfold State.endDomain
  dsimp only
  split
  · rfl
  · exact foldl_groups s (fun s p => (closeBent_groups ..).trans (deliver_stored s ..).groups) _

theorem endBent_groups (uid k : Nat) : (s.endBent uid k).unmarkedGroups = s.unmarkedGroups := by
  unfold State.endBent
  split
  · rfl
  · split
    · rfl
    · exact (endDomain_groups ..).trans (stopBent_groups ..)

theorem takeEngineFault_groups (k w : Nat) (pc mask : DWord) (kind : Nat) (w1 w2 w3 : DWord) :
    (s.takeEngineFault k w pc mask kind w1 w2 w3).unmarkedGroups = s.unmarkedGroups :=
  (endBent_groups ..).trans (deliver_stored s ..).groups

theorem enginePeg_groups (k w : Nat) (pc mask : DWord) (n : Nat) (v : DWord) (a : Actor) :
    (s.enginePeg k w pc mask n v a).unmarkedGroups = s.unmarkedGroups := by
  have h := pegAt_groups s [] (s.engineOf k) k n .atomic
  unfold State.enginePeg
  split <;> rename_i hp <;> rw [hp] at h
  · exact (addPeg_stored ..).groups.trans h
  · exact (takeEngineFault_groups ..).trans h
  · exact h

theorem physStore_groups (pa : Nat) (bs : List Byte) (a : Actor) (k : Nat) (r : Bool) :
    (s.physStore pa bs a k r).1.unmarkedGroups = s.unmarkedGroups := by
  unfold State.physStore
  split
  · rfl
  · exact (putPhys_stored ..).groups

theorem commitVersion_groups (p : Piece) (a : Actor) : (s.commitVersion p a).unmarkedGroups = s.unmarkedGroups := by
  unfold State.commitVersion
  dsimp only
  split
  · rfl
  · rw [State.unmarkedGroups, State.note_groups]
    exact foldl_groups s (f := fun s (r : Nat × List Byte) => (s.physStore r.1 r.2).1)
      (fun s r => physStore_groups s r.1 r.2 _ _ _) _

theorem creditPiece_groups (k : Nat) (b : Bent) : (s.creditPiece k b).unmarkedGroups = s.unmarkedGroups := by
  unfold State.creditPiece
  split
  · rfl
  · dsimp only [State.forked]
    have committed : ∀ p a, ((s.edge 10 [] [.bent b.uid] [.actor (deviceActor s.past.length)]).commitVersion p a).unmarkedGroups =
        s.unmarkedGroups := fun p a => (commitVersion_groups ..).trans (by rw [State.unmarkedGroups, State.edge_groups]; rfl)
    split
    · exact committed ..
    · split
      · exact committed ..
      · exact (enginePeg_groups ..).trans (committed ..)

theorem noteRetired_groups (g : Group) : (s.noteRetired g).groups = s.groups := by
  unfold State.noteRetired
  dsimp only
  split <;> rfl

theorem onEngines_groups (k : Nat) (f : Bay → Bay) : (s.onEngines k f).groups = s.groups := by
  unfold State.onEngines
  split
  · rfl
  · split <;> rfl

theorem withdraw_groups (k : Nat) : (s.withdraw k).groups = s.groups := onEngines_groups ..

end

/-! The group is there until the end. -/
section
variable {s t : State} {k : Nat}

theorem group_stays (h : t.unmarkedGroups = s.unmarkedGroups) (hs : (s.group k).isSome) : (t.group k).isSome := by
  obtain ⟨g, hg⟩ := Option.isSome_iff_exists.1 hs
  obtain ⟨h', hh, -⟩ := group_of_unmarked h hg
  rw [hh]
  rfl

theorem onGroup_stays (j : Nat) (f : Group → Group) (hs : (s.group k).isSome) : ((s.onGroup j f).group k).isSome := by
  by_cases e : k = j
  · subst e
    rw [State.onGroup_group_same, Option.isSome_map]
    exact hs
  · rw [State.onGroup_group_other _ _ e]
    exact hs

theorem foldl_stays {ι : Type} {f : State → ι → State} (h : ∀ s i, (State.group s k).isSome → ((f s i).group k).isSome)
    (l : List ι) (hs : (s.group k).isSome) : ((l.foldl f s).group k).isSome := by
  induction l generalizing s with
  | nil => exact hs
  | cons i r ih => exact ih (h s i hs)

theorem reportStatus_stays (r : FibreRef) (pc lanes : DWord) (hs : (s.group k).isSome) :
    ((s.reportStatus r pc lanes).group k).isSome := by
  unfold State.reportStatus
  split
  · exact hs
  · dsimp only
    split
    · exact hs
    · exact foldl_stays (fun s l h => onGroup_stays _ _ h) _ (group_stays (deliver_stored ..).groups hs)

theorem reportDormant_stays (g : Group) (hs : (s.group k).isSome) : ((s.reportDormant g).group k).isSome := by
  unfold State.reportDormant
  refine foldl_stays (fun s p h => ?_) _ hs
  exact foldl_stays (fun s pc h => reportStatus_stays _ _ _ h) _ h

/-- The state in which a group that retires has reported its dormant lanes and withdrawn its requests. -/
def State.reported (s : State) (g : Group) (gid : Nat) : State :=
  ((s.onGroup gid fun g => { g with weaves := g.weaves.map fun (w, v) => (w, { v with fibres := [] }) }).reportDormant g).withdraw gid

/-- A piece's version and credit given, where the group's bent is one. -/
def State.credited (s : State) (g : Group) (gid : Nat) : State :=
  match s.bent g.bent with
  | some b => s.creditPiece gid b
  | none => s

theorem groupRetire_eq {gid : Nat} {g : Group} (hg : s.group gid = some g) (hc : s.canRetire g = true) :
    exec (.groupRetire gid) s = .next
      (((((s.reported g gid).credited g gid).noteRetired g).clearTable gid).onGroup gid Group.husk) := by
  show execGroupRetire gid s = _
  simp only [execGroupRetire, hg, hc]
  rfl

theorem credited_groups (s : State) (g : Group) (gid : Nat) : (s.credited g gid).unmarkedGroups = s.unmarkedGroups := by
  unfold State.credited
  split
  · exact creditPiece_groups ..
  · rfl

theorem reported_stays (g : Group) (gid : Nat) (hs : (s.group k).isSome) : ((s.reported g gid).group k).isSome := by
  have same : ∀ t : State, (t.group k).isSome → ((t.withdraw gid).group k).isSome := fun t h => by
    rw [State.group, withdraw_groups]
    exact h
  exact same _ (reportDormant_stays g (onGroup_stays gid _ hs))

/-- A group whose lanes and copies are gone retires. -/
theorem groupRetire_retires {gid : Nat} {g : Group} {b : Bent} (hg : s.group gid = some g) (hid : g.gid = gid)
    (hb : s.bent g.bent = some b) (hr : g.retired = false) (hs : b.st = .resident) (hf : ∀ w ∈ g.weaves, w.2.fibres = [])
    (hc : s.copiesOf gid = false) :
    ∃ t h, exec (.groupRetire gid) s = .next t ∧ t.group gid = some h ∧ h.retired = true ∧ h.weaves = [] := by
  have can : s.canRetire g = true := by
    have empty : (g.weaves.all fun w => w.2.fibres.isEmpty) = true :=
      List.all_eq_true.2 fun w hw => by rw [hf w hw]; rfl
    simp [State.canRetire, hb, hr, hid, hc, hs, empty]
  have noted : (((s.reported g gid).credited g gid).noteRetired g).unmarkedGroups = (s.reported g gid).unmarkedGroups := by
    rw [State.unmarkedGroups, noteRetired_groups]
    exact credited_groups ..
  have there := group_stays ((clearTable_stored _ gid).groups.trans noted)
    (reported_stays (k := gid) g gid (by rw [hg]; rfl))
  obtain ⟨h, hh⟩ := Option.isSome_iff_exists.1 there
  exact ⟨_, h.husk, groupRetire_eq hg can, by rw [State.onGroup_group_same, hh, Option.map_some], rfl, rfl⟩

end

end Sys2Proof.Machine

/-! A bent restored (R321), and the settling of what bents live through. -/
namespace Sys2Proof.Machine
open Sys2Proof

/-- A group but for its place. -/
def Group.unplaced (g : Group) : Group := { g with core := 0, phys := 0, slot := 0 }

/-- A weave but for its slot and the time from which it is ready. -/
def Weave.unplaced (v : Weave) : Weave := { v with slot := 0, ready := 0 }

/-- What a bay's matrix engine and its claim hold. -/
def Bay.held (y : Bay) : List MCmd × Option Nat × Store × Store := (y.mq, y.holder, y.w, y.c)

/-- Bents, dies and what bays hold are the same in `t` as in `s`. -/
structure SameHold (s t : State) : Prop where
  bents : t.bents = s.bents
  dies  : t.dies = s.dies
  bays  : ∀ k, (t.bayAt k).held = (s.bayAt k).held

section
variable {s t u : State} {k : Nat}

theorem SameHold.refl (s : State) : SameHold s s := ⟨rfl, rfl, fun _ => rfl⟩

theorem SameHold.trans (a : SameHold s t) (b : SameHold t u) : SameHold s u :=
  ⟨b.bents.trans a.bents, b.dies.trans a.dies, fun k => (b.bays k).trans (a.bays k)⟩

theorem SameHold.onBay (s : State) (j : Nat) {f : Bay → Bay} (hf : ∀ y, (f y).held = y.held) : SameHold s (s.onBay j f) where
  bents := rfl
  dies := rfl
  bays k := by
    by_cases h : k = j
    · subst h; rw [State.onBay, State.setBay_bayAt_same, hf]
    · rw [State.onBay, State.setBay_bayAt_other _ _ h]

/-! Groups kept. -/

theorem KeptGroup.mono {keep : Group → Group} {same : Weave → Weave} (a : KeptGroup id id s t k) : KeptGroup keep same s t k := by
  intro g hg
  obtain ⟨h, hh, bare, weaves, lanes⟩ := a g hg
  exact ⟨h, hh, congrArg keep bare, fun w => congrArg same (weaves w), lanes⟩

theorem KeptGroup.trans {keep : Group → Group} {same : Weave → Weave} (a : KeptGroup keep same s t k)
    (b : KeptGroup keep same t u k) : KeptGroup keep same s u k := by
  intro g hg
  obtain ⟨h, hh, bare, weaves, lanes⟩ := a g hg
  obtain ⟨i, hi, bare', weaves', lanes'⟩ := b h hh
  refine ⟨i, hi, bare'.trans bare, fun w => (weaves' w).trans (weaves w), fun w l => ?_⟩
  dsimp only
  have := congrArg (fun x : Lane => { x with monHit := ((g.weave w).lane l).monHit }) (lanes' w l)
  exact this.trans (lanes w l)

theorem keptGroup_of_groups {keep : Group → Group} {same : Weave → Weave} (h : t.groups = s.groups) : KeptGroup keep same s t k :=
  (keptGroup_of_unmarked (by rw [State.unmarkedGroups, h, ← State.unmarkedGroups]) k).mono

theorem tfind_mapKey {α β : Type} (t : Table α) (f : Nat → α → β) (k : Nat) :
    tfind (t.map fun p => (p.1, f p.1 p.2)) k = (tfind t k).map (f k) := by
  induction t with
  | nil => rfl
  | cons p r ih =>
    simp only [List.map_cons, tfind, ih]
    split
    · next e => rw [e]; rfl
    · rfl

/-- A weave of a group whose weaves have changed place is the same but for its place. -/
theorem weave_replaced (g : Group) (slot : Nat → Nat) (now w : Nat) :
    ∃ i n, ({ g with weaves := g.weaves.map fun (w, v) => (w, { v with slot := slot w, ready := now }) } : Group).weave w =
      { g.weave w with slot := i, ready := n } := by
  have h := tfind_mapKey g.weaves (fun w v => { v with slot := slot w, ready := now }) w
  unfold Group.weave tget
  cases hw : tfind g.weaves w with
  | none =>
    rw [hw] at h
    refine ⟨0, 0, ?_⟩
    exact congrArg (Option.getD · ({ size := 0 } : Weave)) h
  | some v =>
    rw [hw] at h
    refine ⟨slot w, now, ?_⟩
    exact congrArg (Option.getD · ({ size := 0 } : Weave)) h

/-! Groups moved to their new places (R321). -/

/-- Each group stands under its own identifier. -/
def State.Named (s : State) : Prop := ∀ k g, s.group k = some g → g.gid = k

theorem moveGroup_same (s : State) (b : Bent) (gid bay : Nat) (p : Place) : SameHold s (s.moveGroup b gid bay p) := by
  unfold State.moveGroup
  split
  · exact .refl s
  · next g _ =>
    dsimp only
    split
    · exact ⟨rfl, rfl, fun _ => rfl⟩
    · exact .trans (.onBay s bay (f := fun y => { y with
        aDomain := (List.range ((g.regions + 4095) / 4096)).foldl (fun t i => tins t (128 * p.core + p.base / 4096 + i) b.dcb)
          y.aDomain }) fun _ => rfl) ⟨rfl, rfl, fun _ => rfl⟩

theorem moveGroup_group (b : Bent) {gid : Nat} (bay : Nat) (p : Place) {g : Group} (hg : s.group gid = some g) (hn : g.gid = gid) :
    ∃ slot : Nat → Nat, ∃ i, (s.moveGroup b gid bay p).group = ({ s with groups := tins s.groups gid { g with
      core := p.core, phys := p.base, slot := i
      weaves := g.weaves.map fun (w, v) => (w, { v with slot := slot w, ready := s.cycle }) } } : State).group := by
  subst hn
  refine ⟨fun w => (freeNumbers Config.weavesPerCore
    ((s.coreGroups bay p.core []).flatMap fun x => x.weaves.map fun w => w.2.slot)).getD w 0,
    (freeNumbers Config.groupSlots ((s.coreGroups bay p.core []).map (·.slot))).headD 0, ?_⟩
  funext k
  simp only [State.moveGroup, hg]
  split <;> rfl

theorem moveGroup_keeps (hn : s.Named) (b : Bent) (gid bay : Nat) (p : Place) :
    (s.moveGroup b gid bay p).Named ∧ ∀ k, KeptGroup Group.unplaced Weave.unplaced s (s.moveGroup b gid bay p) k := by
  cases hg : s.group gid with
  | none =>
    have : s.moveGroup b gid bay p = s := by simp only [State.moveGroup, hg]
    rw [this]
    exact ⟨hn, fun k => keptGroup_of_groups rfl⟩
  | some g =>
    obtain ⟨slot, i, e⟩ := moveGroup_group b bay p hg (hn gid g hg)
    refine ⟨fun k h hk => ?_, fun k h hk => ?_⟩
    · rw [e] at hk
      by_cases hkg : k = gid
      · subst hkg
        rw [State.group, tfind_tins_same] at hk
        cases hk
        exact hn k g hg
      · rw [State.group, tfind_tins_other _ _ hkg] at hk
        exact hn k h hk
    · rw [e]
      by_cases hkg : k = gid
      · subst hkg
        rw [hg] at hk
        cases hk
        refine ⟨_, tfind_tins_same .., rfl, fun w => ?_, fun w l => ?_⟩
        · obtain ⟨j, n, hw⟩ := weave_replaced g slot s.cycle w
          have := congrArg (fun v : Weave => Weave.unplaced { v with lanes := [] }) hw
          exact this
        · obtain ⟨j, n, hw⟩ := weave_replaced g slot s.cycle w
          have := congrArg (fun v : Weave => { v.lane l with monHit := ((g.weave w).lane l).monHit }) hw
          exact this
      · exact ⟨h, (tfind_tins_other _ _ hkg).trans hk, rfl, fun _ => rfl, fun _ _ => rfl⟩

theorem moveGroups_keeps (b : Bent) (bay : Nat) (gs : List Nat) : ∀ (s : State) (ps : List Place), s.Named →
    SameHold s (s.moveGroups b bay gs ps) ∧ ∀ k, KeptGroup Group.unplaced Weave.unplaced s (s.moveGroups b bay gs ps) k := by
  induction gs with
  | nil => exact fun s ps _ => ⟨.refl s, fun k => keptGroup_of_groups rfl⟩
  | cons gid rest ih =>
    intro s ps hn
    have step : ∀ p ps, SameHold s ((s.moveGroup b gid bay p).moveGroups b bay rest ps) ∧
        ∀ k, KeptGroup Group.unplaced Weave.unplaced s ((s.moveGroup b gid bay p).moveGroups b bay rest ps) k := by
      intro p ps
      obtain ⟨named, kept⟩ := moveGroup_keeps hn b gid bay p
      obtain ⟨same', kept'⟩ := ih (s.moveGroup b gid bay p) ps named
      exact ⟨(moveGroup_same ..).trans same', fun k => (kept k).trans (kept' k)⟩
    unfold State.moveGroups
    dsimp only
    split
    · exact ih s ps hn
    · split
      · exact step ..
      · exact step ..

theorem enterRequest_same (s : State) (bay i : Nat) : SameHold s (s.enterRequest bay i) :=
  .onBay s bay (f := fun y => { y with lap := y.lap ++ (y.lapWait[i]?).toList, lapWait := y.lapWait.eraseIdx i }) fun _ => rfl

theorem enterRequests_keeps (bay n : Nat) (s : State) :
    SameHold s (s.enterRequests bay n) ∧ (s.enterRequests bay n).groups = s.groups := by
  induction n generalizing s with
  | zero => exact ⟨.refl s, rfl⟩
  | succ n ih =>
    unfold State.enterRequests
    split
    · next i _ =>
      obtain ⟨same, groups⟩ := ih (s.enterRequest bay i)
      exact ⟨(enterRequest_same s bay i).trans same, groups⟩
    · exact ⟨.refl s, rfl⟩

/-- Where no answer came while a bent was saved, none lands. -/
theorem landAnswers_none {b : Bent} (h : ∀ q ∈ (s.die b.socket).svc, q.answer = none) :
    ∃ d, s.landAnswers b = s.setDie b.socket d := by
  have mine : ((s.die b.socket).svc.filter fun q => b.groups.contains q.gid && q.answer.isSome) = [] := by
    rw [List.filter_eq_nil_iff]
    intro q hq
    simp [h q hq]
  exact ⟨_, by simp only [State.landAnswers, mine, List.foldl_nil]; rfl⟩

/-! The bent restored (R321). -/

/-- The state in which a bent's groups are in their new places, and its bay and itself hold what its save area held. -/
def State.returned (s : State) (b : Bent) (bay : Nat) (places : List Place) : State :=
  let u := s.moveGroups b bay b.groups places
  let v := u.onBay bay fun y => y.restore b fun k => ((u.group k).map (·.core)).getD 0
  v.onBent b.uid fun x =>
    { x with
      st := .resident, holds := true, bay := bay, placed := v.cycle, saved := {}, seven := false
      dom := some (v.view x.dcb) }

theorem restoreBent_eq (s : State) (b : Bent) (bay : Nat) (places : List Place) : s.restoreBent b bay places =
    let v := ((s.returned b bay places).enterRequests bay (b.saved.lap.length + b.saved.lapWait.length)).landAnswers b
    b.groups.foldl (fun s g => s.syncTable g) ((v.unchoose b).switchBanks { b with bay := bay } none) := rfl

theorem returned_keeps {b : Bent} {bay : Nat} {places : List Place} (hn : s.Named) (hb : s.bent b.uid = some b) :
    (s.returned b bay places).dies = s.dies ∧
      ((s.returned b bay places).bent b.uid).map (fun n => (n.st, n.holds, n.bay)) = some (.resident, true, bay) ∧
      ((s.returned b bay places).bayAt bay).held = ((s.bayAt bay).mq ++ b.saved.mq,
        if b.claim then some b.uid else (s.bayAt bay).holder, if b.claim then b.saved.w else (s.bayAt bay).w,
        if b.claim then b.saved.c else (s.bayAt bay).c) ∧
      ∀ k, KeptGroup Group.unplaced Weave.unplaced s (s.returned b bay places) k := by
  obtain ⟨same, kept⟩ := moveGroups_keeps b bay b.groups s places hn
  have bay' := same.bays bay
  unfold State.returned
  dsimp only
  generalize s.moveGroups b bay b.groups places = u at same kept bay'
  refine ⟨same.dies, ?_, ?_, kept⟩
  · rw [State.onBent_bent_same]
    have : u.bent b.uid = some b := (congrArg (tfind · b.uid) same.bents).trans hb
    exact congrArg (fun x : Option Bent => (x.map _).map _) this
  · refine (congrArg Bay.held (State.setBay_bayAt_same (s := u) bay _)).trans ?_
    simp only [Bay.held, Prod.mk.injEq] at bay'
    obtain ⟨hmq, hholder, hw, hc⟩ := bay'
    simp only [Bay.held, Bay.restore, hmq, hholder, hw, hc]

theorem restoreBent_carried {b : Bent} {bay : Nat} {places : List Place}
    (hq : ∀ q ∈ ((s.returned b bay places).die b.socket).svc, q.answer = none) :
    ∃ v, SameHold (s.returned b bay places) v ∧ v.groups = (s.returned b bay places).groups ∧
      Carried v (s.restoreBent b bay places) := by
  obtain ⟨same, groups⟩ := enterRequests_keeps bay (b.saved.lap.length + b.saved.lapWait.length) (s.returned b bay places)
  refine ⟨_, same, groups, ?_⟩
  rw [restoreBent_eq]
  generalize hv : (s.returned b bay places).enterRequests bay (b.saved.lap.length + b.saved.lapWait.length) = v at same groups
  obtain ⟨d, hd⟩ := landAnswers_none (s := v) (b := b) (by rw [State.die, same.dies]; exact hq)
  dsimp only
  rw [hd]
  have first : Carried v (((v.setDie b.socket d).unchoose b).switchBanks { b with bay := bay } none) :=
    .trans (t := (v.setDie b.socket d).unchoose b) ⟨rfl, rfl, rfl⟩ (switchBanks_carried ..)
  exact first.trans (.foldl (f := State.syncTable) (fun s g => (syncTable_stored s g).carried) b.groups _)

/-- A saved bent is restored with its groups, its commands and its claim's stores. -/
theorem restore_restores {uid bay : Nat} {b : Bent} {places : List Place} (hb : s.bent uid = some b) (hu : b.uid = uid)
    (hs : b.st = .saved) (hp : s.mayPlace b bay places = true) (hq : ∀ q ∈ (s.die b.socket).svc, q.answer = none)
    (hg : ∀ p ∈ s.groups, p.2.gid = p.1) (hc : (s.choose 3).1 = 0) :
    ∃ t, exec (.restore uid bay places) s = .next t ∧
      (t.bent uid).map (fun n => (n.st, n.holds, n.bay)) = some (.resident, true, bay) ∧
      (t.bayAt bay).mq = (s.bayAt bay).mq ++ b.saved.mq ∧
      (b.claim = true → (t.bayAt bay).holder = some uid ∧ (t.bayAt bay).w = b.saved.w ∧ (t.bayAt bay).c = b.saved.c) ∧
      ∀ k, KeptGroup Group.unplaced Weave.unplaced s t k := by
  subst hu
  have chosen := choose_carried s 3
  have groups0 : (s.choose 3).2.groups = s.groups := choose_groups s 3
  have named : (s.choose 3).2.Named := by
    intro k g hk
    rw [State.group, groups0] at hk
    exact hg _ (tfind_mem hk)
  obtain ⟨dies, bent, held, kept⟩ := returned_keeps (bay := bay) (places := places) named ((chosen.bent b.uid).trans hb)
  obtain ⟨v, same, groups, carried⟩ := restoreBent_carried (s := (s.choose 3).2) (b := b) (bay := bay) (places := places) (by
    rw [State.die, dies, choose_dies]
    exact hq)
  have heldT : (((s.choose 3).2.restoreBent b bay places).bayAt bay).held = ((s.bayAt bay).mq ++ b.saved.mq,
      if b.claim then some b.uid else (s.bayAt bay).holder, if b.claim then b.saved.w else (s.bayAt bay).w,
      if b.claim then b.saved.c else (s.bayAt bay).c) := by
    rw [carried.bayAt, same.bays, held, chosen.bayAt]
  simp only [Bay.held, Prod.mk.injEq] at heldT
  obtain ⟨hmq, hholder, hw, hcs⟩ := heldT
  refine ⟨(s.choose 3).2.restoreBent b bay places, ?_, ?_, hmq, fun hclaim => ?_, fun k => ?_⟩
  · show execRestore b.uid bay places s = _
    simp only [execRestore, hb, hs, hp, hc, beq_self_eq_true, Bool.and_self, if_true]
    rfl
  · rw [carried.bent, State.bent, same.bents]
    exact bent
  · rw [hholder, hw, hcs, hclaim]
    exact ⟨rfl, rfl, rfl⟩
  · exact ((keptGroup_of_groups groups0).trans (kept k)).trans ((keptGroup_of_groups groups).trans
      (keptGroup_of_unmarked carried.groups k).mono)

end

/-- Settles O58: each event of a bent is followed through the state that its model builds: placement and restoring by the lemmas
on groups that start (`startGroups_start`) and move (`moveGroups_keeps`), saving and retiring by what carries bents, bays and
groups through, pieces by `newPiece_bent` and `cut_within`. -/
theorem bentLives : Obligations.BentLives := by
  refine ⟨fun s uid bay b l places hb hu hw hp hl hlen => ?_,
    fun s uid bay b hb ha hs hc hy => classReaches7_chooses hb ha hs hc hy,
    fun s uid b hb hu hs hc hn => preemption_saves hb hu hs hc hn,
    fun s uid bay b places hb hu hs hp hq hg hc => restore_restores hb hu hs hp hq hg hc,
    fun s gid g b hg hid hb hr hs hf hc => groupRetire_retires hg hid hb hr hs hf hc,
    fun s uid b hb hs hp hg hq => bentRetire_ends hb hs hp hg hq,
    fun s k x l hx hr hl hp => ⟨taskReady_empty hx hr hl hp, taskReady_starts hx hr hl hp⟩, ?_⟩
  · obtain ⟨t, n, hexec, hn, hst, hholds, hbay, hdom, hlen', all⟩ := bentPlacement_places hb hu hw hp hl hlen
    refine ⟨t, n, hexec, hn, hst, hholds, hbay, hdom, hlen', fun gid hgid => ?_⟩
    obtain ⟨g, hg, m, hm, started⟩ := all gid hgid
    exact ⟨g, hg, started.bent.trans hu, started.record, started.args, m, hm, started.role, started.number, started.fibres⟩
  · intro s core place b n p x socket hp hb hu hx grain c cut hlt hc hplace hbay hwait u hn hadm hfit
    obtain ⟨low, high⟩ := cut_within hc
    exact ⟨low, high, taskSplit_cuts hp hb hu hx hlt hc hplace hbay hwait rfl hn hadm hfit⟩

end Sys2Proof.Machine

/-! Instructions that make X registers, in a state that files a group under another GID than its own: a node is appended to the
group of its own GID, so that a group is there afterwards that was not there before (R53, R54). -/
namespace Sys2Proof.Machine
open Sys2Proof

/-- The group found at GID 0 calls itself group 1. -/
def State.misfiled (s : State) : State := s.onGroup 0 fun g => { g with gid := 1 }

/-- An instruction that makes an X register in another group changes no group 1. -/
theorem not_made_of_new_group {c : Ctx} {s t : State} {i : Nat} {val : Nat → XMake} (hc : c.r.gid = 0) (hs : s.group 1 = none)
    (ht : (t.group 1).isSome = true) : ¬ Made c s t i val := fun h => by
  rw [h.others 1 (by simp [hc]), hs] at ht
  exact absurd ht (by decide)

theorem not_makes_of_new_group {mk : Op → Instr} {m : Major} {val : Op → Ctx → Nat → Vals → XMake} {o : Op} {s : State}
    {i : BitVec 5} (plain : plainTest m o s = true) (hd : o.d = .x i)
    (room : let c := seen m o s
      c.g.nodes.length + ((c.doers.map fun l => val o c l (c.regVals l)).map XMake.need).sum < c.g.logStore)
    (hc : (seen m o s).r.gid = 0) (hs : s.group 1 = none) (ht : ((after (mk o) s).group 1).isSome = true) :
    ¬ Makes mk m (fun _ => True) val := fun h => by
  obtain ⟨t, ran, made⟩ := h o s _ i (plain_of plain) trivial hd room
  rw [eq_after ran] at made
  exact not_made_of_new_group hc hs ht made

/-- Refutes O22: the node of XADD's result goes to a group 1 that was not there. -/
theorem not_intervalOperations : ¬ Obligations.IntervalOperations := by
  unfold Obligations.IntervalOperations
  rintro ⟨h, -⟩
  exact not_makes_of_new_group (o := { form := .base, d := .x 3, a := .x 1, b := .x 2 }) (s := spread.misfiled)
    (by decide +kernel) rfl (by decide +kernel) (by decide +kernel) (by decide +kernel) (by decide +kernel) h

/-- Refutes O23: the OPAQUE leaf of SEVER goes to a group 1 that was not there. -/
theorem not_severSnapBounds : ¬ Obligations.SeverSnapBounds := by
  unfold Obligations.SeverSnapBounds
  rintro ⟨h, -⟩
  exact not_makes_of_new_group (o := { d := .x 3, a := .x 1 }) (s := spread.misfiled)
    (by decide +kernel) rfl (by decide +kernel) (by decide +kernel) (by decide +kernel) (by decide +kernel) h

/-- What `Distances` says of a state that passes the test of its premises. -/
theorem Made.of_distances (h : Obligations.Distances) {o : Op} {s : State} {i : BitVec 5} (hd : o.d = .x i)
    (test : distTest o s = true) :
    ∃ t val, exec (.dist o) s = .next t ∧ Made (seen .dist o s) (distPlaced o s).1.st t i.toNat val := by
  simp only [distTest, Bool.and_eq_true, decide_eq_true_eq, List.all_eq_true, beq_iff_eq, Option.isNone_iff_eq_none,
    List.isEmpty_iff] at test
  obtain ⟨⟨⟨⟨⟨⟨⟨⟨⟨⟨plain, least, most, paired⟩, aligned⟩, room⟩, pairs⟩, unfaulted⟩, arrived⟩, same⟩, settled⟩, -⟩, quiet⟩ := test
  obtain ⟨t, ran, made⟩ := h.1 o s _ i (distReady o s) _ _ (plain_of plain) hd least most paired
    (ready_none (plain_of plain).streams false _) aligned room pairs rfl unfaulted arrived same settled
    fun p hp => ⟨quiet_of (quiet p hp).1, quiet_of (quiet p hp).2⟩
  exact ⟨t, _, ran, made⟩

/-- Refutes O40: the node of DIST's result goes to a group 1 that was not there. -/
theorem not_distances : ¬ Obligations.Distances := by
  intro h
  obtain ⟨t, val, ran, made⟩ := Made.of_distances h (o := { mod := 0x0102, d := .x 4, a := .g 2, b := .g 20, c := .k 20 })
    (s := rows.misfiled) rfl (by decide +kernel)
  rw [eq_after ran] at made
  exact not_made_of_new_group (by decide +kernel) (by decide +kernel) (by decide +kernel) made

end Sys2Proof.Machine

/-! What requests to the lapidary change of a state: counts of log nodes, the bay, event counters and the record of the memory
order (R60, R70, R193). -/
namespace Sys2Proof.Machine
open Sys2Proof

/-- A group but for its log. -/
def Group.logless (g : Group) : Group := { g with nodes := [] }

/-- What `t` shares with `s` where a request of group `k` is sent, answered or counted: memory, bents, gauges, and the groups but
for the log of `k`. -/
structure LogOnly (k : Nat) (s t : State) : Prop where
  mem    : t.mem = s.mem
  bents  : t.bents = s.bents
  gauges : ∀ j, (t.coreAt j).gauges = (s.coreAt j).gauges
  others : ∀ j, j ≠ k → t.group j = s.group j
  own    : (t.group k).map Group.logless = (s.group k).map Group.logless

namespace LogOnly

variable {k : Nat} {s t u : State}

theorem refl (s : State) : LogOnly k s s := ⟨rfl, rfl, fun _ => rfl, fun _ _ => rfl, rfl⟩

theorem trans (a : LogOnly k s t) (b : LogOnly k t u) : LogOnly k s u :=
  ⟨b.mem.trans a.mem, b.bents.trans a.bents, fun j => (b.gauges j).trans (a.gauges j),
    fun j h => (b.others j h).trans (a.others j h), b.own.trans a.own⟩

theorem foldl {ι : Type} {f : State → ι → State} {l : List ι} (h : ∀ i ∈ l, ∀ s, LogOnly k s (f s i)) (s : State) :
    LogOnly k s (l.foldl f s) := by
  induction l generalizing s with
  | nil => exact .refl s
  | cons i r ih => exact (h i List.mem_cons_self s).trans (ih (fun j hj => h j (List.mem_cons_of_mem _ hj)) _)

theorem of_groups (mem : t.mem = s.mem) (bents : t.bents = s.bents) (groups : t.groups = s.groups)
    (gauges : ∀ j, (t.coreAt j).gauges = (s.coreAt j).gauges) : LogOnly k s t :=
  have group : t.group = s.group := funext fun j => congrArg (tfind · j) groups
  ⟨mem, bents, gauges, fun j _ => congrFun group j, by rw [group]⟩

theorem onGroup (s : State) {f : Group → Group} (h : ∀ g, (f g).logless = g.logless) : LogOnly k s (s.onGroup k f) where
  mem := State.onGroup_mem ..
  bents := State.onGroup_bents ..
  gauges j := by rw [State.coreAt, State.onGroup_cores, State.coreAt]
  others _ hj := State.onGroup_group_other _ _ hj
  own := by
    rw [State.onGroup_group_same, Option.map_map]
    exact congrArg (Option.map · (s.group k)) (funext h)

theorem onBay (s : State) (bay : Nat) (f : Bay → Bay) : LogOnly k s (s.onBay bay f) := of_groups rfl rfl rfl fun _ => rfl

theorem note (s : State) (e : Ev) : LogOnly k s (s.note e) := by
  unfold State.note
  split
  · exact .refl s
  · exact of_groups rfl rfl rfl fun _ => rfl

theorem countCore (s : State) (core source n : Nat) : LogOnly k s (s.countCore core source n) :=
  of_groups (State.countCore_mem ..) (State.countCore_bents ..) (State.countCore_groups ..) fun _ => countCore_gauges ..

theorem countDie (s : State) (socket source n : Nat) : LogOnly k s (s.countDie socket source n) :=
  of_groups (State.countDie_mem ..) (State.countDie_bents ..) (State.countDie_groups ..) fun _ => by
    rw [State.coreAt, State.countDie_cores, State.coreAt]

/-- Every group is as it was but for its log. -/
theorem logless (a : LogOnly k s t) (j : Nat) : (t.group j).map Group.logless = (s.group j).map Group.logless := by
  by_cases h : j = k
  · exact h ▸ a.own
  · rw [a.others j h]

/-- What does not read the log of a group reads the same in both. -/
theorem read {α : Type} (a : LogOnly k s t) (f : Group → α) (hf : ∀ g, f g.logless = f g) (j : Nat) :
    (t.group j).map f = (s.group j).map f := by
  have through : ∀ o : Option Group, o.map f = (o.map Group.logless).map f := fun o => by
    rw [Option.map_map]
    exact congrArg (Option.map · o) (funext fun g => (hf g).symm)
  rw [through (t.group j), through (s.group j), a.logless]

theorem group (a : LogOnly k s t) {j : Nat} {g : Group} (hg : s.group j = some g) :
    ∃ h, t.group j = some h ∧ h.logless = g.logless := by
  have := a.logless j
  rwa [hg, Option.map_some, Option.map_eq_some_iff] at this

theorem weave_of_logless {g h : Group} (e : h.logless = g.logless) (w : Nat) : h.weave w = g.weave w := by
  have := congrArg (fun x : Group => x.weave w) e
  exact this

theorem lane (a : LogOnly k s t) (j w l : Nat) : t.lane j w l = s.lane j w l := by
  have through : ∀ u : State, u.lane j w l = ((u.group j).map fun g => (g.weave w).lane l).getD {} := fun u => by
    unfold State.lane
    cases u.group j <;> rfl
  rw [through, through, a.read (fun g => (g.weave w).lane l) fun _ => rfl]

theorem bayOf (a : LogOnly k s t) (j : Nat) : t.bayOf j = s.bayOf j := by
  have through : ∀ u : State, u.bentOf j = ((u.group j).map Group.bent).bind u.bent := fun u => by
    unfold State.bentOf
    cases u.group j <;> rfl
  have bent : t.bent = s.bent := funext fun i => congrArg (tfind · i) a.bents
  rw [State.bayOf, State.bayOf, through, through, bent, a.read Group.bent fun _ => rfl]

theorem coreOf (a : LogOnly k s t) (j : Nat) : t.coreOf j = s.coreOf j := by
  have through : ∀ u : State, u.coreOf j = ((u.group j).map fun g => coreKey (u.bayOf j) g.core).getD 0 := fun u => by
    unfold State.coreOf
    cases u.group j <;> rfl
  rw [through, through, a.bayOf, a.read (fun g => coreKey (s.bayOf j) g.core) fun _ => rfl]

end LogOnly

/-- Counts of several nodes changed leave all but the log as it was. -/
theorem Group.foldl_logless {f : Group → Nat → Group} (hf : ∀ g h, (f g h).logless = g.logless) (l : List Nat) (g : Group) :
    (l.foldl f g).logless = g.logless := by
  induction l generalizing g with
  | nil => rfl
  | cons h r ih => exact (ih _).trans (hf g h)

section
variable {s : State} {k : Nat}

theorem enterRequest_logOnly (s : State) (bay i : Nat) : LogOnly k s (s.enterRequest bay i) := .onBay ..

theorem enterRequests_logOnly (bay n : Nat) (s : State) : LogOnly k s (s.enterRequests bay n) := by
  induction n generalizing s with
  | zero => exact .refl s
  | succ n ih =>
    unfold State.enterRequests
    split
    · exact (enterRequest_logOnly s bay _).trans (ih _)
    · exact .refl s

/-- The requests of a bay, in its queue or before it. -/
def Bay.requests (y : Bay) : List Request := y.lap ++ y.lapWait

theorem enterRequest_requests (s : State) (bay i : Nat) {q : Request} (h : q ∈ (s.bayAt bay).requests) :
    q ∈ ((s.enterRequest bay i).bayAt bay).requests := by
  unfold Bay.requests at h ⊢
  rw [State.enterRequest, State.onBay, State.setBay_bayAt_same]
  generalize (s.bayAt bay).lapWait = l at h ⊢
  by_cases hi : i < l.length
  · rw [List.mem_append] at h
    have moved := List.getElem_cons_eraseIdx_perm hi
    simp only [List.getElem?_eq_getElem hi, Option.toList_some, List.append_assoc, List.mem_append, ← moved.mem_iff,
      List.mem_cons, List.not_mem_nil, or_false] at h ⊢
    exact h
  · rw [List.getElem?_eq_none (Nat.le_of_not_lt hi), List.eraseIdx_of_length_le (Nat.le_of_not_lt hi), Option.toList_none,
      List.append_nil]
    exact h

theorem enterRequests_requests (bay n : Nat) {s : State} {q : Request} (h : q ∈ (s.bayAt bay).requests) :
    q ∈ ((s.enterRequests bay n).bayAt bay).requests := by
  induction n generalizing s with
  | zero => exact h
  | succ n ih =>
    unfold State.enterRequests
    split
    · exact ih (enterRequest_requests s bay _ h)
    · exact h

/-- One request more that has become an agent of its own (R193). -/
def forkRequest (acc : State × List Request) (q : Request) : State × List Request :=
  let f := acc.1.forked 10 [] [.actor (acc.1.laneActor q.gid q.weave q.lane)] (acc.1.requestActor q.gid)
  (f.2, acc.2 ++ [{ q with op := f.1 }])

/-- Requests that have each become an agent of its own. -/
def State.forkRequests (s : State) (qs : List Request) : State × List Request := qs.foldl forkRequest (s, [])

theorem foldl_forkRequest (qs : List Request) (acc : State × List Request) : LogOnly k acc.1 (qs.foldl forkRequest acc).1 ∧
    (qs.foldl forkRequest acc).2.map (fun q => { q with op := 0 }) =
      acc.2.map (fun q => { q with op := 0 }) ++ qs.map fun q => { q with op := 0 } := by
  induction qs generalizing acc with
  | nil => exact ⟨.refl _, by simp⟩
  | cons q r ih =>
    obtain ⟨only, ops⟩ := ih (forkRequest acc q)
    exact ⟨(LogOnly.note ..).trans only, ops.trans (by simp [forkRequest])⟩

theorem forkRequests_logOnly (s : State) (qs : List Request) : LogOnly k s (s.forkRequests qs).1 :=
  (foldl_forkRequest qs (s, [])).1

/-- The requests are the same but for their operation numbers. -/
theorem forkRequests_ops (s : State) (qs : List Request) :
    (s.forkRequests qs).2.map (fun q => { q with op := 0 }) = qs.map fun q => { q with op := 0 } :=
  (foldl_forkRequest (k := 0) qs (s, [])).2

theorem exists_op_of_forkRequests {qs : List Request} {q : Request} (h : q ∈ qs) : ∃ op, { q with op := op } ∈ (s.forkRequests qs).2 := by
  have : { q with op := 0 } ∈ (s.forkRequests qs).2.map fun q => { q with op := 0 } := by
    rw [forkRequests_ops]
    exact List.mem_map_of_mem h
  obtain ⟨p, hp, e⟩ := List.mem_map.1 this
  refine ⟨p.op, ?_⟩
  have : p = { q with op := p.op } := by
    cases p; cases q
    simp_all
  exact this ▸ hp

theorem gid_of_forkRequests {qs : List Request} (h : ∀ q ∈ qs, q.gid = k) : ∀ q ∈ (s.forkRequests qs).2, q.gid = k := by
  intro p hp
  have : { p with op := 0 } ∈ qs.map fun q => { q with op := 0 } := by
    rw [← forkRequests_ops]
    exact List.mem_map_of_mem hp
  obtain ⟨q, hq, e⟩ := List.mem_map.1 this
  exact (congrArg Request.gid e).symm.trans (h q hq)

/-- The roots of some requests held by their counts (R60). -/
def State.holdRoots (s : State) (qs : List Request) : State :=
  qs.foldl (fun s q => s.onGroup q.gid fun g => q.roots.foldl (fun g h => g.incRef h) g) s

theorem holdRoots_logOnly (s : State) {qs : List Request} (h : ∀ q ∈ qs, q.gid = k) : LogOnly k s (s.holdRoots qs) :=
  .foldl (fun q hq s => by
    rw [h q hq]
    exact .onGroup s fun g => g.foldl_logless (fun _ _ => rfl) q.roots) s

theorem sendRequests_cons (s : State) (q : Request) (qs : List Request) : s.sendRequests (q :: qs) =
    (((((s.forkRequests (q :: qs)).1.holdRoots (s.forkRequests (q :: qs)).2).onBay (s.bayOf q.gid) fun y =>
      { y with lapWait := y.lapWait ++ (s.forkRequests (q :: qs)).2 }).countCore
      ((((s.forkRequests (q :: qs)).1.holdRoots (s.forkRequests (q :: qs)).2).onBay (s.bayOf q.gid) fun y =>
      { y with lapWait := y.lapWait ++ (s.forkRequests (q :: qs)).2 }).coreOf q.gid) 10 (s.forkRequests (q :: qs)).2.length)).enterRequests
      (s.bayOf q.gid) (s.forkRequests (q :: qs)).2.length := rfl

/-- Requests of a group sent: only its log is touched, and each is with the lapidary of its bay. -/
theorem sendRequests_spec (s : State) {qs : List Request} (h : ∀ q ∈ qs, q.gid = k) : LogOnly k s (s.sendRequests qs) ∧
    ∀ q ∈ qs, ∃ op, { q with op := op } ∈ ((s.sendRequests qs).bayAt (s.bayOf k)).requests := by
  cases qs with
  | nil => exact ⟨.refl s, fun q hq => absurd hq List.not_mem_nil⟩
  | cons p r =>
    rw [sendRequests_cons, h p List.mem_cons_self]
    refine ⟨(forkRequests_logOnly s (p :: r)).trans <| (holdRoots_logOnly _ (gid_of_forkRequests h)).trans <| (LogOnly.onBay ..).trans <|
      (LogOnly.countCore ..).trans (enterRequests_logOnly ..), fun q hq => ?_⟩
    obtain ⟨op, hop⟩ := exists_op_of_forkRequests (s := s) hq
    refine ⟨op, enterRequests_requests _ _ ?_⟩
    rw [State.bayAt, State.countCore_bays, ← State.bayAt, State.onBay, State.setBay_bayAt_same]
    exact List.mem_append_right _ (List.mem_append_right _ hop)

end

end Sys2Proof.Machine

/-! XREF (R75, R157): copies made at once, and requests for the rest. -/
namespace Sys2Proof.Machine
open Sys2Proof

section
variable {c : Ctx} {s u : State} {m : Major} {o : Op}

theorem ex_forM_pure {α : Type} (l : List α) (body : α → Ex Unit) (f : α → State → State)
    (h : ∀ a ∈ l, ∀ s, body a s = .ok ((), f a s)) (s : State) : (l.forM body) s = .ok ((), l.foldl (fun s a => f a s) s) := by
  induction l generalizing s with
  | nil => rfl
  | cons a r ih =>
    show (body a >>= fun _ => r.forM body) s = _
    rw [ex_bind (h a List.mem_cons_self s), ih fun b hb => h b (List.mem_cons_of_mem _ hb)]
    rfl

/-- The issuing fibre in a state in which it has moved on. -/
theorem movedOn_fibre (hp : ctxOf m o s = some c) (hk : Kept c u) : (c.movedOn u).fibre c.r = some c.resumed := by
  obtain ⟨h, hg, hf⟩ := hk.group
  obtain ⟨-, -, -, hfib, -⟩ := ctxOf_facts hp
  have id : c.f.id = c.r.fid := by simpa using List.find?_some hfib
  have there : (h.weave c.r.weave).fibre c.r.fid = some c.f := by rw [Weave.fibre, hf, ← Weave.fibre, hfib]
  have moved : ((h.weave c.r.weave).onFibre c.r.fid fun _ => c.moveOn c.f).fibre c.r.fid = some (c.moveOn c.f) := by
    rw [Weave.onFibre_fibre_same, there, Option.map_some, ← id]
    rfl
  have length : ((h.weave c.r.weave).onFibre c.r.fid fun _ => c.moveOn c.f).fibres.length = c.v.fibres.length := by
    rw [Weave.onFibre, changeFibre_length, hf]
  rw [State.fibre, Ctx.movedOn, State.onWeave_group_same, hg, Option.map_some, Option.bind_some, Group.setWeave_weave_same,
    Weave.fibre, Weave.reage, List.find?_map, length]
  have same : ((fun x : Fibre => x.id == c.r.fid) ∘ fun f : Fibre =>
      if f.st == .ready && 64 - c.v.fibres.length ≤ f.waitCount then { f with aged := true } else f) = fun x => x.id == c.r.fid := by
    funext x
    dsimp only [Function.comp_apply]
    split <;> rfl
  rw [same, ← Weave.fibre, moved, Option.map_some, Ctx.resumed]
  by_cases h64 : 64 ≤ c.v.fibres.length
  · simp [Ctx.moveOn, h64, Nat.sub_eq_zero_of_le h64]
  · have : ¬64 - c.v.fibres.length = 0 := by omega
    simp [Ctx.moveOn, h64, this]

theorem movedOn_lane (u : State) (l : Nat) : (c.movedOn u).lane c.r.gid c.r.weave l = u.lane c.r.gid c.r.weave l := by
  unfold State.lane Ctx.movedOn
  rw [State.onWeave_group_same]
  cases u.group c.r.gid with
  | none => rfl
  | some g =>
    rw [Option.map_some]
    dsimp only
    rw [Group.setWeave_weave_same]
    rfl

/-- Where only the log of the issuing group changes, the issuing weave is kept. -/
theorem Kept.of_logOnly {t : State} (hk : Kept c u) (a : LogOnly c.r.gid u t) : Kept c t := by
  obtain ⟨⟨h, hg, hf⟩, gauges⟩ := hk
  obtain ⟨h', hg', e⟩ := a.group hg
  refine ⟨⟨h', hg', ?_⟩, ?_⟩
  · rw [LogOnly.weave_of_logless e, hf]
  · rw [a.gauges, a.coreOf, gauges]

/-- The lanes of a state are those that are kept track of. -/
theorem Track.lane_eq {L : Nat → Lane} {K : Group} (t : Track c s u L K) (l : Nat) : u.lane c.r.gid c.r.weave l = L l := by
  obtain ⟨h, hg, -, -, -, hl⟩ := t.group
  rw [State.lane, hg]
  exact hl l

theorem Track.kept_of_logless {L : Nat → Lane} {K : Group} (hi : Issues m o s c) (t : Track c s u L K)
    (hK : K.logless = c.g.logless) : Kept c u := by
  have core := congrArg Group.core hK
  have bent := congrArg Group.bent hK
  exact t.kept hi core bent

theorem Track.bayOf {L : Nat → Lane} {K : Group} (hp : ctxOf m o s = some c) (t : Track c s u L K)
    (hK : K.logless = c.g.logless) : u.bayOf c.r.gid = s.bayOf c.r.gid := by
  obtain ⟨h, hg, hh, -⟩ := t.group
  obtain ⟨-, hs, -⟩ := ctxOf_facts hp
  have bent : h.bent = c.g.bent := by
    have hK' := congrArg Group.bent hK
    have hh' := congrArg Group.bent hh
    exact Eq.trans hh' hK'
  have bents : u.bents = s.bents := by rw [t.rest]
  simp only [State.bayOf, State.bentOf, State.bent, hg, hs, bent, bents, Option.bind_some]

/-- An X register of a lane written: the lane changes, and of the group only the log. -/
theorem Track.setX {L : Nat → Lane} {K : Group} (t : Track c s u L K) (l i : Nat) (x : XReg) :
    ∃ K', Track c s (u.setX c.r.gid c.r.weave l i x) (fun j => if j = l then (L l).setX i x else L j) K' ∧
      K'.logless = K.logless := by
  refine ⟨_, (t.onGroup (fun g => (g.incRef x.handle.toNat).decRef ((u.lane c.r.gid c.r.weave l).xAt i).handle.toNat)
    (fun _ => rfl) fun _ _ => rfl).onLane l fun y => y.setX i x, rfl⟩

/-- X registers written in some distinct lanes. -/
theorem Track.setXs {L : Nat → Lane} {K : Group} (t : Track c s u L K) (i : Nat) (skip : Nat → Bool) (x : Nat → XReg)
    (ls : List Nat) (hd : ls.Nodup) :
    ∃ K', Track c s (ls.foldl (fun u l => if skip l then u else u.setX c.r.gid c.r.weave l i (x l)) u)
      (fun l => if l ∈ ls ∧ skip l = false then (L l).setX i (x l) else L l) K' ∧ K'.logless = K.logless := by
  induction ls generalizing u L K with
  | nil => exact ⟨K, by simpa using t, rfl⟩
  | cons l r ih =>
    rw [List.nodup_cons] at hd
    obtain ⟨K1, t1, e1⟩ : ∃ K', Track c s (if skip l then u else u.setX c.r.gid c.r.weave l i (x l))
        (fun j => if j = l ∧ skip l = false then (L l).setX i (x l) else L j) K' ∧ K'.logless = K.logless := by
      cases hs : skip l with
      | true => exact ⟨K, by simpa using t, rfl⟩
      | false => simpa using t.setX l i (x l)
    obtain ⟨K2, t2, e2⟩ := ih t1 hd.2
    refine ⟨K2, ?_, e2.trans e1⟩
    rw [List.foldl_cons]
    convert t2 using 1
    funext j
    by_cases e : j = l
    · subst e; simp [hd.1]
    · simp [e]

end

theorem doers_nodup (c : Ctx) : c.doers.Nodup := by
  unfold Ctx.doers
  split
  · exact (lanesOf_nodup c.wr).sublist (List.take_sublist ..)
  · exact lanesOf_nodup c.wr

/-- Whether XREF asks the lapidary in a lane (R75). -/
def Ctx.asks (c : Ctx) (l : Nat) : Bool :=
  c.o.ownBits.toNat != 0 && (c.xSrc l c.o.a).handle != 0 && !(c.xSrc l c.o.a).invalid

theorem asks_iff {c : Ctx} {l : Nat} :
    c.asks l = true ↔ ¬(c.o.ownBits = 0 ∨ (c.xSrc l c.o.a).handle = 0 ∨ (c.xSrc l c.o.a).invalid = true) := by
  have zero : c.o.ownBits.toNat = 0 ↔ c.o.ownBits = 0 := by rw [BitVec.toNat_eq]; rfl
  simp only [Ctx.asks, Bool.and_eq_true, bne_iff_ne, ne_eq, zero, Bool.not_eq_true', not_or, Bool.not_eq_true, and_assoc]

/-- What XREF copies in a lane in which it does not ask. -/
def Ctx.copied (c : Ctx) (l : Nat) : XReg :=
  if c.o.ownBits.toNat != 0 && (c.xSrc l c.o.a).invalid then xInvalid else c.xSrc l c.o.a

theorem copied_eq (c : Ctx) (l : Nat) :
    c.copied l = if c.o.ownBits ≠ 0 ∧ (c.xSrc l c.o.a).invalid = true then xInvalid else c.xSrc l c.o.a := by
  have zero : c.o.ownBits.toNat = 0 ↔ c.o.ownBits = 0 := by rw [BitVec.toNat_eq]; rfl
  simp only [Ctx.copied, Bool.and_eq_true, bne_iff_ne, ne_eq, zero]

/-- The requests of XREF. -/
def Ctx.xrefRequests (c : Ctx) (i : Nat) : List Request :=
  (c.doers.filter c.asks).map fun l => c.request l (.xref i c.o.ownBits.toNat) (c.xSrc l c.o.a) {}

theorem xrefRequests_gid (c : Ctx) (i : Nat) : ∀ q ∈ c.xrefRequests i, q.gid = c.r.gid := by
  intro q hq
  obtain ⟨l, -, rfl⟩ := List.mem_map.1 hq
  rfl

/-- XREF ends with the copies made and the requests sent, from a state in which its lanes hold the copies. -/
theorem xref_goes {o : Op} {s : State} {c : Ctx} {i : BitVec 5} (hp : Plain .xref o s c) (hd : o.d = .x i) :
    ∃ u K, exec (.xref o) s = .next (c.movedOn (u.sendRequests (c.xrefRequests i.toNat))) ∧ K.logless = c.g.logless ∧
      Track c s u (fun l => if l ∈ c.doers ∧ c.asks l = false then (c.lane l).setX i.toNat (c.copied l) else c.lane l) K := by
  obtain ⟨-, -, -, -, -, rfl, -⟩ := ctxOf_facts hp.picked
  obtain ⟨K, track, hK⟩ := (Track.start hp.picked).setXs i.toNat c.asks c.copied c.doers (doers_nodup c)
  refine ⟨_, K, ?_, hK, track⟩
  have kept := (track.kept_of_logless hp.toIssues hK).of_logOnly (sendRequests_spec _ (xrefRequests_gid c i.toNat)).1
  have loop : ∀ l ∈ c.doers, ∀ u, (if (c.doers.filter c.asks).contains l then pure () else
      modify fun s => s.setX c.r.gid c.r.weave l (xNum c.o.d) (c.copied l) : Ex Unit) u =
      .ok ((), if c.asks l then u else u.setX c.r.gid c.r.weave l i.toNat (c.copied l)) := by
    intro l hl u
    simp only [List.contains_eq_mem, List.mem_filter, hl, true_and, Bool.decide_eq_true, hd, xNum]
    cases c.asks l <;> rfl
  refine issue_done hp.toIssues ?_
  rw [ex_bind (check_ok hp.slots rfl _)]
  refine (ex_bind (ex_forM_pure _ _ _ loop _)).trans ?_
  rw [ex_bind (ex_modify _ _), hd]
  exact finish_ok hp.toIssues kept _

/-- Settles O26: the copies are made lane by lane, the requests change nothing but the log and the bay, and the fibre moves on. -/
theorem xrefAsks : Obligations.XrefAsks := by
  intro o s c i hp hd
  obtain ⟨-, -, -, -, -, rfl, -⟩ := ctxOf_facts hp.picked
  obtain ⟨u, K, ran, hK, track⟩ := xref_goes hp hd
  obtain ⟨sent, asked⟩ := sendRequests_spec (k := c.r.gid) u (xrefRequests_gid c i.toNat)
  have kept := track.kept_of_logless hp.toIssues hK
  have lane : ∀ l, (c.movedOn (u.sendRequests (c.xrefRequests i.toNat))).lane c.r.gid c.r.weave l =
      if l ∈ c.doers ∧ c.asks l = false then (c.lane l).setX i.toNat (c.copied l) else c.lane l := fun l => by
    rw [movedOn_lane, sent.lane, track.lane_eq]
  refine ⟨_, ran, ?_, fun k hk => ?_, movedOn_fibre hp.picked (kept.of_logOnly sent), fun l hl => ?_, fun l hl => ?_⟩
  · rw [Ctx.movedOn, State.onWeave_mem, sent.mem, track.rest]
  · rw [Ctx.movedOn, State.onWeave_group_other _ _ _ hk, sent.others k hk, track.others k hk]
  · rw [lane, if_neg (fun h => hl h.1)]
  · dsimp only
    split
    · next h =>
      rw [lane, if_pos ⟨hl, Bool.eq_false_iff.2 fun yes => asks_iff.1 yes h⟩, copied_eq]
    · next h =>
      have yes := asks_iff.2 h
      rw [lane, if_neg (by simp [yes])]
      obtain ⟨op, hop⟩ := asked _ (List.mem_map_of_mem (List.mem_filter.2 ⟨hl, yes⟩))
      rw [track.bayOf hp.picked hK] at hop
      refine ⟨rfl, op, ?_⟩
      rw [State.bayAt, Ctx.movedOn, State.onWeave_bays, ← State.bayAt]
      exact hop

end Sys2Proof.Machine

/-! The directed roundings to FP32 (R52, R87, Table 36): toward zero a result is no larger than the exact magnitude, away from it no
smaller. -/
namespace Sys2Proof.Machine
open Sys2Proof

theorem lt_two_pow_bitLen (m : Nat) : m < 2 ^ bitLen m := by
  unfold bitLen
  split
  · simp_all
  · exact Nat.lt_log2_self

theorem two_pow_bitLen_le {m : Nat} (h : m ≠ 0) : 2 ^ bitLen m ≤ 2 * m := by
  rw [bitLen, if_neg h, Nat.pow_succ']
  exact Nat.mul_le_mul_left 2 (Nat.log2_self_le h)

/-- The directed mode: up or down. -/
def toward (up : Bool) : RMode := if up then .ru else .rd

/-- A magnitude cut at a place above its last one: what is left below it is rounded away where the direction is that of the
sign, else dropped. -/
theorem roundShift_toward_nat (up neg : Bool) (m k : Nat) : (roundShift (toward up) neg m (k + 1 : Nat)).1 =
    if up != neg && m % 2 ^ (k + 1) != 0 then m / 2 ^ (k + 1) + 1 else m / 2 ^ (k + 1) := by
  have pos : ¬((k + 1 : Nat) : Int) ≤ 0 := by omega
  rw [roundShift, if_neg pos]
  cases up <;> cases neg <;> simp [toward]

theorem roundShift_exact (mode : RMode) (neg : Bool) (m : Nat) {s : Int} (h : s ≤ 0) :
    (roundShift mode neg m s).1 = m * 2 ^ (-s).toNat := by rw [roundShift, if_pos h]

theorem cast_pow_toNat {s : Int} (h : 0 ≤ s) : ((2 ^ s.toNat : Nat) : ℚ) = 2 ^ s := by
  obtain ⟨n, rfl⟩ := Int.eq_ofNat_of_zero_le h
  simp

/-- A rounded magnitude against the exact one, in units of its last place. -/
theorem roundShift_toward (up neg : Bool) (m : Nat) (s : Int) : let r : ℚ := (roundShift (toward up) neg m s).1 * 2 ^ s
    (up = neg → r ≤ m) ∧ (up ≠ neg → m ≤ r) := by
  dsimp only
  by_cases hs : s ≤ 0
  · have exact : ((roundShift (toward up) neg m s).1 : ℚ) * 2 ^ s = m := by
      rw [roundShift_exact _ _ _ hs, Nat.cast_mul, cast_pow_toNat (by omega), mul_assoc, ← zpow_add₀ two_ne_zero]
      simp
    exact ⟨fun _ => exact.le, fun _ => exact.ge⟩
  · obtain ⟨k, rfl⟩ : ∃ k : Nat, s = (k + 1 : Nat) := ⟨s.toNat - 1, by omega⟩
    rw [roundShift_toward_nat]
    have split := Nat.div_add_mod m (2 ^ (k + 1))
    have below := Nat.mod_lt m (Nat.two_pow_pos (k + 1))
    rw [Nat.mul_comm] at split
    rw [zpow_natCast]
    constructor
    · intro e
      rw [if_neg (by simp [e])]
      exact_mod_cast Nat.div_mul_le_self m _
    · intro e
      split
      · have : m ≤ (m / 2 ^ (k + 1) + 1) * 2 ^ (k + 1) := by rw [Nat.add_mul, Nat.one_mul]; omega
        exact_mod_cast this
      · next h =>
        have : m % 2 ^ (k + 1) = 0 := by simpa [e] using h
        have : m ≤ m / 2 ^ (k + 1) * 2 ^ (k + 1) := by omega
        exact_mod_cast this

/-- A magnitude cut so that at most `p` bits are left. -/
theorem roundShift_toward_le (up neg : Bool) (m p : Nat) {s : Int} (h : (bitLen m : Int) - p ≤ s) :
    (roundShift (toward up) neg m s).1 ≤ 2 ^ p := by
  have big := lt_two_pow_bitLen m
  by_cases hs : s ≤ 0
  · rw [roundShift_exact _ _ _ hs]
    calc m * 2 ^ (-s).toNat ≤ 2 ^ bitLen m * 2 ^ (-s).toNat := Nat.mul_le_mul_right _ big.le
      _ = 2 ^ (bitLen m + (-s).toNat) := (pow_add ..).symm
      _ ≤ 2 ^ p := Nat.pow_le_pow_right two_pos (by omega)
  · obtain ⟨k, rfl⟩ : ∃ k : Nat, s = (k + 1 : Nat) := ⟨s.toNat - 1, by omega⟩
    rw [roundShift_toward_nat]
    have : m / 2 ^ (k + 1) < 2 ^ p := by
      rw [Nat.div_lt_iff_lt_mul (Nat.two_pow_pos _), ← pow_add]
      exact lt_of_lt_of_le big (Nat.pow_le_pow_right two_pos (by omega))
    split <;> omega

/-- A magnitude cut so that at least `p + 1` bits are left. -/
theorem le_roundShift_toward (up neg : Bool) {m : Nat} (hm : m ≠ 0) (p : Nat) {s : Int} (h : s + p + 1 ≤ bitLen m) :
    2 ^ p ≤ (roundShift (toward up) neg m s).1 := by
  have small := two_pow_bitLen_le hm
  by_cases hs : s ≤ 0
  · rw [roundShift_exact _ _ _ hs]
    have : 2 * 2 ^ p ≤ 2 * (m * 2 ^ (-s).toNat) := calc
      2 * 2 ^ p = 2 ^ (p + 1) := (Nat.pow_succ' ..).symm
      _ ≤ 2 ^ (bitLen m + (-s).toNat) := Nat.pow_le_pow_right two_pos (by omega)
      _ = 2 ^ bitLen m * 2 ^ (-s).toNat := pow_add ..
      _ ≤ 2 * m * 2 ^ (-s).toNat := Nat.mul_le_mul_right _ small
      _ = 2 * (m * 2 ^ (-s).toNat) := Nat.mul_assoc ..
    omega
  · obtain ⟨k, rfl⟩ : ∃ k : Nat, s = (k + 1 : Nat) := ⟨s.toNat - 1, by omega⟩
    rw [roundShift_toward_nat]
    have : 2 ^ p ≤ m / 2 ^ (k + 1) := by
      rw [Nat.le_div_iff_mul_le (Nat.two_pow_pos _), ← pow_add]
      have : 2 * 2 ^ (p + (k + 1)) ≤ 2 * m := by
        rw [← Nat.pow_succ']
        exact le_trans (Nat.pow_le_pow_right two_pos (by omega)) small
      omega
    split <;> omega

/-- The fields of an FP32 word. -/
theorem fdecode_fields (neg : Bool) {b f : Nat} (hb : b < 256) (hf : f < 2 ^ 23) :
    fdecode fmt32 ((if neg then 2 ^ 31 else 0) + b * 2 ^ 23 + f) =
      if b = 255 then if f = 0 then .inf neg else .nan (f < 2 ^ 22)
      else if b = 0 then .fin neg f (-149) else .fin neg (f + 2 ^ 23) (b - 150) := by
  have frac : ((if neg then 2 ^ 31 else 0) + b * 2 ^ 23 + f) % 2 ^ 23 = f := by split <;> omega
  have expo : ((if neg then 2 ^ 31 else 0) + b * 2 ^ 23 + f) / 2 ^ 23 % 2 ^ 8 = b := by split <;> omega
  have sign : (((if neg then 2 ^ 31 else 0) + b * 2 ^ 23 + f) / 2 ^ (23 + 8) % 2 == 1) = neg := by
    cases neg <;> simp <;> omega
  unfold fdecode
  simp only [fmt32] at *
  simp only [frac, expo, sign, beq_iff_eq]
  norm_num
  split
  · rfl
  · split
    · rfl
    · congr 1
      omega

/-- The place of the last bit of a magnitude rounded to FP32: 24 bits below its top, but not below 2^-149. -/
def lastPlace (m : Nat) (e : Int) : Int := max (e + bitLen m - 24) (-149)

/-- A rounded magnitude that has carried into a bit more, with its last place, brought back to 24 bits. -/
def carried (sig : Nat) (q : Int) : Nat × Int := if sig = 2 ^ 24 then (2 ^ 23, q + 1) else (sig, q)

/-- What a directed rounding of a magnitude leaves, as significand and last place. -/
def kept32 (up neg : Bool) (m : Nat) (e : Int) : Nat × Int :=
  carried (roundShift (toward up) neg m (lastPlace m e - e)).1 (lastPlace m e)

theorem carried_value (sig : Nat) (q : Int) : ((carried sig q).1 : ℚ) * 2 ^ (carried sig q).2 = sig * 2 ^ q := by
  unfold carried
  split
  · next h => rw [h, zpow_add_one₀ two_ne_zero]; push_cast; ring
  · rfl

/-- What is kept has at most 24 bits, and 24 of them unless its last place is the lowest one. -/
theorem kept32_bits (up neg : Bool) {m : Nat} (hm : m ≠ 0) (e : Int) : (kept32 up neg m e).1 < 2 ^ 24 ∧
    -149 ≤ (kept32 up neg m e).2 ∧ ((kept32 up neg m e).1 < 2 ^ 23 → (kept32 up neg m e).2 = -149) := by
  have most := roundShift_toward_le up neg m 24 (s := lastPlace m e - e) (by unfold lastPlace; omega)
  have least : lastPlace m e ≠ -149 → 2 ^ 23 ≤ (roundShift (toward up) neg m (lastPlace m e - e)).1 := fun h =>
    le_roundShift_toward up neg hm 23 (by unfold lastPlace at h ⊢; omega)
  have low : -149 ≤ lastPlace m e := by unfold lastPlace; omega
  unfold kept32 carried
  split
  · exact ⟨by norm_num, by dsimp only; omega, fun h => absurd h (by norm_num)⟩
  · refine ⟨by dsimp only; omega, low, fun h => ?_⟩
    by_contra hne
    exact absurd (least hne) (by dsimp only at h; omega)

/-- What is kept is no larger than the magnitude toward zero, no smaller away from it. -/
theorem kept32_value (up neg : Bool) (m : Nat) (e : Int) : let r : ℚ := (kept32 up neg m e).1 * 2 ^ (kept32 up neg m e).2
    (up = neg → r ≤ m * 2 ^ e) ∧ (up ≠ neg → m * 2 ^ e ≤ r) := by
  have cut := roundShift_toward up neg m (lastPlace m e - e)
  have pos : (0 : ℚ) < 2 ^ e := zpow_pos two_pos e
  have back : ((kept32 up neg m e).1 : ℚ) * 2 ^ (kept32 up neg m e).2 =
      (roundShift (toward up) neg m (lastPlace m e - e)).1 * 2 ^ (lastPlace m e - e) * 2 ^ e := by
    rw [kept32, carried_value, mul_assoc, ← zpow_add₀ two_ne_zero, sub_add_cancel]
  rw [back]
  exact ⟨fun h => mul_le_mul_of_nonneg_right (cut.1 h) pos.le, fun h => mul_le_mul_of_nonneg_right (cut.2 h) pos.le⟩

/-- The biased exponent of what is kept. -/
def biased32 (k : Nat × Int) : Nat := if k.1 < 2 ^ 23 then 0 else (k.2 + 150).toNat

theorem roundsToInf_toward (up neg : Bool) :
    (toward up == RMode.rn || toward up == RMode.ru && !neg || toward up == RMode.rd && neg) = (up != neg) := by
  cases up <;> cases neg <;> rfl

/-- A directed rounding to FP32 by its significand and last place. -/
theorem froundFin_toward (up neg : Bool) {m : Nat} (hm : m ≠ 0) (e : Int) : (froundFin fmt32 (toward up) neg m e).1 =
    if 255 ≤ biased32 (kept32 up neg m e) then if up != neg then infBits fmt32 neg else maxBits fmt32 neg
    else (if neg then 2 ^ 31 else 0) + biased32 (kept32 up neg m e) * 2 ^ 23 + (kept32 up neg m e).1 % 2 ^ 23 := by
  have place : (if e + bitLen m - 1 - ((fmt32.fracBits : Int) + 1 - 1) < 1 - fmt32.bias - fmt32.fracBits
      then (1 - fmt32.bias - fmt32.fracBits : Int) else e + bitLen m - 1 - ((fmt32.fracBits : Int) + 1 - 1)) = lastPlace m e := by
    unfold lastPlace
    split <;> simp only [fmt32] at * <;> omega
  unfold froundFin
  rw [if_neg hm]
  dsimp only
  rw [place, kept32, biased32, carried]
  generalize roundShift (toward up) neg m (lastPlace m e - e) = r
  generalize lastPlace m e = q
  have fields : fmt32.noInf = false ∧ fmt32.expBits = 8 ∧ fmt32.fracBits = 23 ∧ fmt32.bias = 127 := ⟨rfl, rfl, rfl, rfl⟩
  obtain ⟨noInf, expBits, fracBits, bias⟩ := fields
  have offset (x : Int) : x + 149 + 1 = x + 150 := by omega
  by_cases carry : r.1 = 16777216 <;>
    simp [noInf, expBits, fracBits, bias, carry, offset, ← roundsToInf_toward, apply_ite Prod.fst]

end Sys2Proof.Machine

/-! What an FP32 word, a bound and an X register stand for among the extended reals, and the rounding of a bound to FP32 (R49, R50,
R52). -/
namespace Sys2Proof.Machine
open Sys2Proof

/-- A rational among the extended reals. -/
noncomputable def ofRat (x : ℚ) : EReal := ((x : ℝ) : EReal)

theorem ofRat_le {x y : ℚ} : ofRat x ≤ ofRat y ↔ x ≤ y := by simp [ofRat]

theorem ofRat_lt {x y : ℚ} : ofRat x < ofRat y ↔ x < y := by simp [ofRat]

theorem ofRat_mono : Monotone ofRat := fun _ _ => ofRat_le.2

@[simp] theorem ofRat_zero : ofRat 0 = 0 := by simp [ofRat]

theorem ofRat_neg (x : ℚ) : ofRat (-x) = -ofRat x := by simp [ofRat]

theorem ofRat_add (x y : ℚ) : ofRat (x + y) = ofRat x + ofRat y := by simp [ofRat]

theorem ofRat_mul (x y : ℚ) : ofRat (x * y) = ofRat x * ofRat y := by simp [ofRat]

theorem ofRat_div (x y : ℚ) : ofRat (x / y) = ofRat x / ofRat y := by simp [ofRat, EReal.coe_div]

theorem ofRat_ne_top (x : ℚ) : ofRat x ≠ ⊤ := EReal.coe_ne_top _

theorem ofRat_ne_bot (x : ℚ) : ofRat x ≠ ⊥ := EReal.coe_ne_bot _

/-- What a bound stands for. -/
noncomputable def Bnd.ext : Bnd → EReal
  | .ninf => ⊥
  | .pinf => ⊤
  | .num m e => ofRat (m * 2 ^ e)

theorem fin_ext (n : Bool) (m : Nat) (e : Int) : (FVal.fin n m e).ext = ofRat (FVal.fin n m e).rat := rfl

/-- `y` bounds `x` from above or from below. -/
def Bounds (up : Bool) (y x : EReal) : Prop := if up then x ≤ y else y ≤ x

namespace Bounds

variable {up : Bool} {x y z : EReal}

theorem rfl (up : Bool) (x : EReal) : Bounds up x x := by cases up <;> exact le_refl x

theorem of_eq (h : y = x) : Bounds up y x := h ▸ rfl up x

theorem trans (a : Bounds up z y) (b : Bounds up y x) : Bounds up z x := by
  cases up
  · exact le_trans a b
  · exact le_trans b a

theorem neg (h : Bounds up y x) : Bounds (!up) (-y) (-x) := by
  cases up <;> exact EReal.neg_le_neg_iff.2 h

theorem ofRat_iff {a b : ℚ} : Bounds up (ofRat a) (ofRat b) ↔ if up then b ≤ a else a ≤ b := by
  cases up <;> exact ofRat_le

end Bounds

theorem bndOf32_ext (w : Word) : (bndOf32 w).ext = (fdecode fmt32 w.toNat).ext := by
  unfold bndOf32
  cases fdecode fmt32 w.toNat with
  | nan s => simp [Bnd.ext, FVal.ext, FVal.rat]
  | inf n => cases n <;> rfl
  | fin n m e => cases n <;> simp [Bnd.ext, fin_ext, FVal.rat]

/-- An X register holds a value where its words are no NaN and its bounds lie on both sides of it. -/
theorem holds_iff (x : XReg) (v : ℚ) : x.holds v ↔ x.invalid = false ∧
    ((fdecode fmt32 x.lo.toNat).isNaN = false ∧ Bounds false x.ival.1.ext (ofRat v)) ∧
    ((fdecode fmt32 x.hi.toNat).isNaN = false ∧ Bounds true x.ival.2.ext (ofRat v)) := by
  unfold XReg.holds XReg.ival
  rw [bndOf32_ext, bndOf32_ext]
  refine and_congr Iff.rfl (and_congr ?_ ?_)
  · cases fdecode fmt32 x.lo.toNat with
    | nan s => simp [FVal.isNaN]
    | inf n => cases n <;> simp [FVal.isNaN, Bounds, FVal.ext, ofRat_ne_top]
    | fin n m e => simp [FVal.isNaN, Bounds, fin_ext, ofRat_le]
  · cases fdecode fmt32 x.hi.toNat with
    | nan s => simp [FVal.isNaN]
    | inf n => cases n <;> simp [FVal.isNaN, Bounds, FVal.ext, ofRat_ne_bot]
    | fin n m e => simp [FVal.isNaN, Bounds, fin_ext, ofRat_le]

/-- A magnitude with a sign. -/
def signed (neg : Bool) (x : ℚ) : ℚ := if neg then -x else x

theorem signed_bounds {up neg : Bool} {x y : ℚ} (toZero : up = neg → y ≤ x) (away : up ≠ neg → x ≤ y) :
    Bounds up (ofRat (signed neg y)) (ofRat (signed neg x)) := by
  rw [Bounds.ofRat_iff]
  cases up <;> cases neg <;> simp_all [signed]

theorem fin_ext_signed (neg : Bool) (k : Nat) (q : Int) : (FVal.fin neg k q).ext = ofRat (signed neg (k * 2 ^ q)) := by
  cases neg <;> simp [fin_ext, FVal.rat, signed]

/-- The word of a directed rounding to FP32, and what it stands for. -/
theorem froundFin_bounds (up neg : Bool) {m : Nat} (hm : m ≠ 0) (e : Int) :
    let r := (froundFin fmt32 (toward up) neg m e).1
    r < 2 ^ 32 ∧ (fdecode fmt32 r).isNaN = false ∧ Bounds up (fdecode fmt32 r).ext (ofRat (signed neg (m * 2 ^ e))) := by
  obtain ⟨bits, low, lowest⟩ := kept32_bits up neg hm e
  obtain ⟨toZero, away⟩ := kept32_value up neg m e
  dsimp only
  rw [froundFin_toward up neg hm]
  generalize kept32 up neg m e = r at *
  obtain ⟨k, q⟩ := r
  dsimp only at *
  split
  · next big =>
    have top : 2 ^ 23 ≤ k ∧ 105 ≤ q := by unfold biased32 at big; dsimp only at big; split at big <;> omega
    split
    · next h =>
      have word : infBits fmt32 neg = (if neg then 2 ^ 31 else 0) + 255 * 2 ^ 23 + 0 := by cases neg <;> rfl
      rw [word, fdecode_fields neg (by norm_num) (by norm_num)]
      refine ⟨by split <;> norm_num, rfl, ?_⟩
      cases up <;> cases neg <;> simp_all [FVal.ext, Bounds]
    · next h =>
      have word : maxBits fmt32 neg = (if neg then 2 ^ 31 else 0) + 254 * 2 ^ 23 + (2 ^ 23 - 1) := by cases neg <;> rfl
      have same : up = neg := by simpa using h
      rw [word, fdecode_fields neg (by norm_num) (by norm_num)]
      refine ⟨by split <;> norm_num, rfl, ?_⟩
      rw [if_neg (by norm_num), if_neg (by norm_num), fin_ext_signed]
      refine signed_bounds (fun _ => le_trans ?_ (toZero same)) (absurd same)
      calc ((2 ^ 23 - 1 + 2 ^ 23 : Nat) : ℚ) * 2 ^ ((254 : Nat) - 150 : Int) ≤ 2 ^ 23 * 2 ^ (105 : Int) := by norm_num
        _ ≤ k * 2 ^ q := mul_le_mul (by exact_mod_cast top.1) (zpow_le_zpow_right₀ one_le_two top.2) (by positivity)
          (by positivity)
  · next under =>
    have small : biased32 (k, q) < 256 := by omega
    have exact : (if biased32 (k, q) = 0 then FVal.fin neg (k % 2 ^ 23) (-149)
        else .fin neg (k % 2 ^ 23 + 2 ^ 23) (biased32 (k, q) - 150)) = .fin neg k q := by
      unfold biased32
      dsimp only
      split
      · next h => rw [if_pos rfl, Nat.mod_eq_of_lt h, lowest h]
      · next h =>
        rw [if_neg (by omega)]
        congr 1 <;> omega
    rw [fdecode_fields neg small (Nat.mod_lt _ (by norm_num)), if_neg (show biased32 (k, q) ≠ 255 by omega), exact,
      fin_ext_signed]
    exact ⟨by split <;> omega, rfl, signed_bounds toZero away⟩

theorem lt_two_zpow_top (m : Nat) (e : Int) : (m : ℚ) * 2 ^ e < 2 ^ (e + bitLen m) := by
  rw [add_comm, zpow_add₀ two_ne_zero, zpow_natCast]
  exact mul_lt_mul_of_pos_right (by exact_mod_cast lt_two_pow_bitLen m) (by positivity)

theorem two_zpow_top_le {m : Nat} (hm : m ≠ 0) (e : Int) : (2 : ℚ) ^ (e + bitLen m - 1) ≤ m * 2 ^ e := by
  have h : (2 : ℚ) ^ bitLen m ≤ 2 * m := by exact_mod_cast two_pow_bitLen_le hm
  rw [show e + bitLen m - 1 = bitLen m + e - 1 by ring, zpow_sub_one₀ two_ne_zero, zpow_add₀ two_ne_zero, zpow_natCast,
    mul_inv_le_iff₀ two_pos]
  calc (2 : ℚ) ^ bitLen m * 2 ^ e ≤ 2 * m * 2 ^ e := mul_le_mul_of_nonneg_right h (by positivity)
    _ = m * 2 ^ e * 2 := by ring

/-- The magnitude that `bndTo32` rounds: one far out of the range of FP32 is replaced by a power of two as far out. -/
def clamped (m : Nat) (e : Int) : Nat × Int :=
  if 200 < e + bitLen m then (1, 200) else if e + bitLen m < -200 then (1, -300) else (m, e)

theorem froundFin_huge (up neg : Bool) : (froundFin fmt32 (toward up) neg 1 200).1 =
    if up != neg then infBits fmt32 neg else maxBits fmt32 neg := by cases up <;> cases neg <;> decide +kernel

theorem froundFin_tiny (up neg : Bool) : (froundFin fmt32 (toward up) neg 1 (-300)).1 =
    (if neg then 2 ^ 31 else 0) + 0 * 2 ^ 23 + if up != neg then 1 else 0 := by cases up <;> cases neg <;> decide +kernel

theorem froundFin_clamped (up neg : Bool) {m : Nat} (hm : m ≠ 0) (e : Int) :
    let r := (froundFin fmt32 (toward up) neg (clamped m e).1 (clamped m e).2).1
    r < 2 ^ 32 ∧ (fdecode fmt32 r).isNaN = false ∧ Bounds up (fdecode fmt32 r).ext (ofRat (signed neg (m * 2 ^ e))) := by
  dsimp only
  unfold clamped
  split
  · next big =>
    have all := froundFin_bounds up neg one_ne_zero 200
    refine ⟨all.1, all.2.1, ?_⟩
    by_cases same : up = neg
    · refine all.2.2.trans (signed_bounds (fun _ => ?_) (absurd same))
      calc ((1 : Nat) : ℚ) * 2 ^ (200 : Int) ≤ 2 ^ (e + bitLen m - 1) := by
            rw [Nat.cast_one, one_mul]; exact zpow_le_zpow_right₀ one_le_two (by omega)
        _ ≤ m * 2 ^ e := two_zpow_top_le hm e
    · have word : infBits fmt32 neg = (if neg then 2 ^ 31 else 0) + 255 * 2 ^ 23 + 0 := by cases neg <;> rfl
      rw [froundFin_huge, if_pos (by simpa using same), word, fdecode_fields neg (by norm_num) (by norm_num)]
      cases up <;> cases neg <;> simp_all [FVal.ext, Bounds]
  · split
    · next small =>
      have below : (m : ℚ) * 2 ^ e ≤ 2 ^ (-149 : Int) :=
        (lt_two_zpow_top m e).le.trans (zpow_le_zpow_right₀ one_le_two (by omega))
      rw [froundFin_tiny, fdecode_fields neg (by norm_num) (by split <;> norm_num), if_neg (show 0 ≠ 255 by norm_num),
        if_pos rfl, fin_ext_signed]
      refine ⟨by split <;> split <;> norm_num, rfl, signed_bounds (fun same => ?_) (fun other => ?_)⟩
      · simp only [same, bne_self_eq_false, Bool.false_eq_true, if_false, Nat.cast_zero, zero_mul]
        positivity
      · simpa [other] using below
    · exact froundFin_bounds up neg hm e

/-- A word with a zero as +0 (R50) stands for what it stood for. -/
theorem normZero_fdecode {r : Nat} (h : r < 2 ^ 32) : let w := BitVec.ofNat 32 (if r == 2 ^ 31 then 0 else r)
    (fdecode fmt32 w.toNat).isNaN = (fdecode fmt32 r).isNaN ∧ (fdecode fmt32 w.toNat).ext = (fdecode fmt32 r).ext := by
  by_cases zero : r = 2 ^ 31
  · have pos : fdecode fmt32 0 = .fin false 0 (-149) := by decide +kernel
    have neg : fdecode fmt32 (2 ^ 31) = .fin true 0 (-149) := by decide +kernel
    simp only [zero, BEq.rfl, if_true, BitVec.toNat_ofNat, Nat.zero_mod, pos, neg]
    exact ⟨rfl, by rw [fin_ext_signed, fin_ext_signed]; simp [signed]⟩
  · have word : (BitVec.ofNat 32 (if r == 2 ^ 31 then 0 else r)).toNat = r := by
      rw [if_neg (by simpa using zero), BitVec.toNat_ofNat, Nat.mod_eq_of_lt h]
    simp only [word, and_self]

theorem signed_natAbs (m : Int) (x : ℚ) : signed (m < 0) (m.natAbs * x) = m * x := by
  unfold signed
  rw [Nat.cast_natAbs]
  by_cases h : m < 0
  · rw [if_pos (by simpa using h), abs_of_neg h]; push_cast; ring
  · rw [if_neg (by simpa using h), abs_of_nonneg (by omega)]

theorem bndTo32_num (up : Bool) {m : Int} (hm : m ≠ 0) (e : Int) : bndTo32 up (.num m e) =
    let r := (froundFin fmt32 (toward up) (m < 0) (clamped m.natAbs e).1 (clamped m.natAbs e).2).1
    BitVec.ofNat 32 (if r == 2 ^ 31 then 0 else r) := by
  rw [bndTo32]
  exact if_neg hm

/-- The word of a bound rounded to FP32 (R50, R52). -/
theorem bndTo32_bounds (up : Bool) (b : Bnd) :
    (fdecode fmt32 (bndTo32 up b).toNat).isNaN = false ∧ Bounds up (bndOf32 (bndTo32 up b)).ext b.ext := by
  rw [bndOf32_ext]
  cases b with
  | ninf =>
    have word : fdecode fmt32 (bndTo32 up .ninf).toNat = .inf true := by cases up <;> decide +kernel
    exact ⟨by rw [word]; rfl, .of_eq (by rw [word]; rfl)⟩
  | pinf =>
    have word : fdecode fmt32 (bndTo32 up .pinf).toNat = .inf false := by cases up <;> decide +kernel
    exact ⟨by rw [word]; rfl, .of_eq (by rw [word]; rfl)⟩
  | num m e =>
    by_cases hm : m = 0
    · have word : fdecode fmt32 (bndTo32 up (.num m e)).toNat = .fin false 0 (-149) := by
        rw [hm, show bndTo32 up (.num 0 e) = 0 from rfl]
        decide +kernel
      exact ⟨by rw [word]; rfl, .of_eq (by rw [word, fin_ext, Bnd.ext, hm]; simp [FVal.rat])⟩
    · rw [bndTo32_num up hm]
      obtain ⟨small, number, bound⟩ := froundFin_clamped up (m < 0) (Int.natAbs_ne_zero.2 hm) e
      obtain ⟨nan, ext⟩ := normZero_fdecode small
      rw [signed_natAbs] at bound
      exact ⟨nan.trans number, ext ▸ bound⟩

end Sys2Proof.Machine

/-! The interval operations on bounds against the exact operations on extended reals (R52, Table 23). -/
namespace Sys2Proof.Machine
open Sys2Proof

theorem bitLen_neg (m : Int) : bitLen (-m).natAbs = bitLen m.natAbs := by rw [Int.natAbs_neg]

theorem topOf_neg (m e : Int) : topOf (-m) e = topOf m e := by unfold topOf; rw [bitLen_neg]

theorem Bnd.neg_ext (b : Bnd) : b.neg.ext = -b.ext := by
  cases b with
  | ninf => simp [Bnd.neg, Bnd.ext]
  | pinf => simp [Bnd.neg, Bnd.ext]
  | num m e => simp [Bnd.neg, Bnd.ext, ← ofRat_neg]

/-- A rounding cut of `m * 2 ^ e`: the integer kept and its place. -/
def cutBnd (p : Nat) (up : Bool) (m e : Int) : Int × Int :=
  let s : Int := (bitLen m.natAbs : Int) - p
  if s ≤ 0 then (m, e) else ((if up then -((-m) / 2 ^ s.toNat) else m / 2 ^ s.toNat), e + s)

theorem cutBnd_bounds (p : Nat) (up : Bool) (m e : Int) : let r := cutBnd p up m e
    Bounds up (Bnd.num r.1 r.2).ext (Bnd.num m e).ext := by
  dsimp only
  unfold cutBnd
  dsimp only
  split
  · exact .rfl up _
  · next h =>
    obtain ⟨k, hk⟩ : ∃ k : Nat, (bitLen m.natAbs : Int) - p = k := ⟨_, (Int.toNat_of_nonneg (by omega)).symm⟩
    rw [hk, Int.toNat_natCast, Bnd.ext, Bnd.ext, Bounds.ofRat_iff, add_comm, zpow_add₀ two_ne_zero, zpow_natCast, ← mul_assoc]
    have pos : (0 : ℚ) < 2 ^ e := zpow_pos two_pos e
    have below (n : Int) : ((n / 2 ^ k : Int) : ℚ) * 2 ^ k ≤ n := by
      exact_mod_cast Int.ediv_mul_le n (by positivity)
    cases up
    · exact mul_le_mul_of_nonneg_right (below m) pos.le
    · refine mul_le_mul_of_nonneg_right ?_ pos.le
      have := below (-m)
      push_cast at this
      simp only [if_true]
      push_cast
      linarith

/-- Rounding a positive magnitude down. -/
theorem roundBnd_pos (p : Nat) (up : Bool) {m : Int} (hm : 0 < m) (e : Int) : roundBnd p up m e =
    if topOf m e - 1 < -stageExp then if up then .num 1 (-stageExp) else .num 0 0
    else if stageExp < topOf (cutBnd p up m e).1 (cutBnd p up m e).2 - 1 then
      if up then .pinf else .num (2 ^ p - 1) (stageExp - p + 1)
    else .num (cutBnd p up m e).1 (cutBnd p up m e).2 := by
  have ne : m ≠ 0 := by omega
  have nonneg : ¬ m < 0 := by omega
  unfold roundBnd
  rw [if_neg ne]
  simp only [nonneg, ite_false]
  cases up <;> simp [cutBnd]

theorem cutBnd_neg (p : Nat) (up : Bool) (m e : Int) :
    cutBnd p up (-m) e = (-(cutBnd p (!up) m e).1, (cutBnd p (!up) m e).2) := by
  unfold cutBnd
  rw [bitLen_neg]
  cases up <;> dsimp only <;> split <;> simp

theorem roundBnd_neg (p : Nat) (up : Bool) {m : Int} (hm : 0 < m) (e : Int) :
    roundBnd p up (-m) e = (roundBnd p (!up) m e).neg := by
  have ne : -m ≠ 0 := by omega
  have neg : -m < 0 := by omega
  have cut : (if (bitLen (-m).natAbs : Int) - p ≤ 0 then (-m, e) else
      ((if up then -((-(-m)) / 2 ^ ((bitLen (-m).natAbs : Int) - p).toNat)
        else (-m) / 2 ^ ((bitLen (-m).natAbs : Int) - p).toNat), e + ((bitLen (-m).natAbs : Int) - p))) = cutBnd p up (-m) e := rfl
  rw [roundBnd_pos p _ hm]
  unfold roundBnd
  rw [if_neg ne]
  dsimp only
  rw [cut, cutBnd_neg]
  dsimp only
  rw [topOf_neg, topOf_neg]
  cases up <;> simp only [neg, Bool.not_true, Bool.not_false, if_true] <;> split_ifs <;> simp_all [Bnd.neg]

theorem pow_top_le {m : Int} (hm : 0 < m) (e : Int) : (2 : ℚ) ^ (topOf m e - 1) ≤ m * 2 ^ e := by
  obtain ⟨n, rfl⟩ := Int.eq_ofNat_of_zero_le hm.le
  exact_mod_cast two_zpow_top_le (m := n) (by omega) e

theorem lt_pow_top {m : Int} (hm : 0 ≤ m) (e : Int) : (m : ℚ) * 2 ^ e < 2 ^ topOf m e := by
  obtain ⟨n, rfl⟩ := Int.eq_ofNat_of_zero_le hm
  exact_mod_cast lt_two_zpow_top n e

theorem cutBnd_pos {p : Nat} (hp : 0 < p) {m : Int} (hm : 0 < m) (e : Int) : 0 < (cutBnd p false m e).1 := by
  unfold cutBnd
  dsimp only
  split
  · exact hm
  · next h =>
    have least : 2 ^ bitLen m.natAbs ≤ 2 * m.natAbs := two_pow_bitLen_le (by omega)
    have fits : 2 ^ ((bitLen m.natAbs : Int) - p).toNat ≤ m.natAbs := by
      have := Nat.pow_le_pow_right (n := 2) two_pos (show ((bitLen m.natAbs : Int) - p).toNat + 1 ≤ bitLen m.natAbs by omega)
      rw [Nat.pow_succ'] at this
      omega
    rw [if_neg (by decide)]
    refine Int.le_ediv_of_mul_le (by positivity) ?_
    rw [zero_add, one_mul, ← Int.natAbs_of_nonneg hm.le]
    exact_mod_cast fits

theorem roundBnd_bounds_pos {p : Nat} (hp : 0 < p) (up : Bool) {m : Int} (hm : 0 < m) (e : Int) :
    Bounds up (roundBnd p up m e).ext (Bnd.num m e).ext := by
  rw [roundBnd_pos p up hm]
  have cut := cutBnd_bounds p up m e
  have pos : (0 : ℚ) ≤ m * 2 ^ e := by positivity
  split
  · next tiny =>
    cases up
    · rw [if_neg (by decide), Bnd.ext, Bnd.ext, Bounds.ofRat_iff]
      simpa using pos
    · rw [if_pos rfl, Bnd.ext, Bnd.ext, Bounds.ofRat_iff]
      simp only [if_true, Int.cast_one, one_mul]
      exact (lt_pow_top hm.le e).le.trans (zpow_le_zpow_right₀ one_le_two (by omega))
  · split
    · next huge =>
      cases up
      · refine Bounds.trans ?_ cut
        rw [if_neg (by decide), Bnd.ext, Bnd.ext, Bounds.ofRat_iff]
        have kept := cutBnd_pos hp hm e
        simp only [Bool.false_eq_true, if_false]
        push_cast
        refine le_trans ?_ (pow_top_le kept _)
        calc ((2 : ℚ) ^ p - 1) * 2 ^ (stageExp - p + 1) ≤ 2 ^ p * 2 ^ (stageExp - p + 1) :=
              mul_le_mul_of_nonneg_right (by linarith) (by positivity)
          _ = 2 ^ (stageExp + 1) := by rw [← zpow_natCast, ← zpow_add₀ two_ne_zero]; congr 1; ring
          _ ≤ _ := zpow_le_zpow_right₀ one_le_two (by omega)
      · simp [Bnd.ext, Bounds]
    · exact cut

/-- A bound rounded to `p` bits (R52, R71). -/
theorem roundBnd_bounds {p : Nat} (hp : 0 < p) (up : Bool) (m e : Int) :
    Bounds up (roundBnd p up m e).ext (Bnd.num m e).ext := by
  rcases lt_trichotomy m 0 with neg | zero | pos
  · obtain ⟨n, rfl⟩ : ∃ n, m = -n := ⟨-m, by omega⟩
    have h := (roundBnd_bounds_pos hp (!up) (m := n) (by omega) e).neg
    rw [roundBnd_neg p up (by omega), Bnd.neg_ext, show Bnd.num (-n) e = (Bnd.num n e).neg from rfl, Bnd.neg_ext]
    simpa using h
  · refine .of_eq ?_
    simp [roundBnd, zero, Bnd.ext]
  · exact roundBnd_bounds_pos hp up pos e

/-- A number as large as one of an X register. -/
def Bnd.single (b : Bnd) : Prop := ∀ m e, b = .num m e → m ≠ 0 → -149 ≤ e ∧ topOf m e ≤ 128

theorem bitLen_le {m p : Nat} (h : m < 2 ^ p) : bitLen m ≤ p := by
  by_cases zero : m = 0
  · simp [zero, bitLen]
  · have : 2 ^ bitLen m < 2 ^ (p + 1) := lt_of_le_of_lt (two_pow_bitLen_le zero) (by rw [Nat.pow_succ']; omega)
    have := (Nat.pow_lt_pow_iff_right Nat.one_lt_two).1 this
    omega

theorem fdecode_fin {b m : Nat} {n : Bool} {e : Int} (h : fdecode fmt32 b = .fin n m e) :
    m < 2 ^ 24 ∧ -149 ≤ e ∧ e ≤ 104 := by
  unfold fdecode at h
  simp only [fmt32, Bool.false_eq_true, if_false, beq_iff_eq] at h
  have frac := Nat.mod_lt b (show 2 ^ 23 > 0 by norm_num)
  have expo := Nat.mod_lt (b / 2 ^ 23) (show 2 ^ 8 > 0 by norm_num)
  split at h
  · split at h <;> exact absurd h (by simp)
  · split at h <;> (injection h with _ hm he; subst hm he; omega)

theorem bndOf32_single (w : Word) : (bndOf32 w).single := by
  intro m e h _
  unfold bndOf32 at h
  split at h
  · split at h <;> exact absurd h (by simp)
  · next n k d hw =>
    obtain ⟨small, low, high⟩ := fdecode_fin hw
    injection h with hm he
    have mag : m.natAbs = k := by subst hm; split <;> simp
    have := bitLen_le small
    unfold topOf
    rw [mag]
    omega
  · injection h with hm he
    omega

theorem shift_value {i j : Int} (k : Int) (h : j ≤ i) : ((k * 2 ^ (i - j).toNat : Int) : ℚ) * 2 ^ j = k * 2 ^ i := by
  have : ((2 ^ (i - j).toNat : Nat) : ℚ) = 2 ^ (i - j) := cast_pow_toNat (by omega)
  push_cast at this ⊢
  rw [this, mul_assoc, ← zpow_add₀ two_ne_zero]
  congr 2
  ring

theorem aligned_sum (m n e d : Int) :
    (Bnd.num (m * 2 ^ (e - min e d).toNat + n * 2 ^ (d - min e d).toNat) (min e d)).ext = (Bnd.num m e).ext + (Bnd.num n d).ext := by
  rw [Bnd.ext, Bnd.ext, Bnd.ext, ← ofRat_add, Int.cast_add, add_mul, shift_value m (by omega),
    shift_value n (by omega)]

/-- The infinity that a bound of an interval on one side cannot be. -/
def Bnd.Lies (up : Bool) (b : Bnd) : Prop := b ≠ if up then .ninf else .pinf

/-- The sum of two numbers of X registers at 424 bits: none is so small that only a sticky bit of it is kept. -/
theorem add_num (up : Bool) {m e n d : Int} (hm : m ≠ 0) (hn : n ≠ 0) (hx : (Bnd.num m e).single) (hy : (Bnd.num n d).single) :
    (Bnd.num m e).add 424 up (.num n d) =
      roundBnd 424 up (m * 2 ^ (e - min e d).toNat + n * 2 ^ (d - min e d).toNat) (min e d) := by
  obtain ⟨lowx, highx⟩ := hx m e rfl hm
  obtain ⟨lowy, highy⟩ := hy n d rfl hn
  have topx : e ≤ topOf m e := by unfold topOf; omega
  have topy : d ≤ topOf n d := by unfold topOf; omega
  have far : ¬ topOf m e < min d (topOf n d - (424 : Nat) - 4) := by omega
  have far' : ¬ topOf n d < min e (topOf m e - (424 : Nat) - 4) := by omega
  unfold Bnd.add
  dsimp only
  rw [if_neg hm, if_neg hn]
  by_cases swap : topOf m e < topOf n d
  · simp only [swap, if_true, far, if_false]
    rw [min_comm d e, add_comm]
  · simp only [swap, far', if_false]

theorem Bnd.zero_ext (e : Int) : (Bnd.num 0 e).ext = 0 := by simp [Bnd.ext]

theorem Bnd.num_ne_bot (m e : Int) : (Bnd.num m e).ext ≠ ⊥ := ofRat_ne_bot _

/-- The sum of two bounds of one side. -/
theorem add_bounds {up : Bool} {x y : Bnd} (hx : x.single) (hy : y.single) (sx : x.Lies up) (sy : y.Lies up) :
    Bounds up (x.add 424 up y).ext (x.ext + y.ext) := by
  cases x with
  | num m e =>
    cases y with
    | num n d =>
      by_cases hm : m = 0
      · rw [hm, Bnd.zero_ext, zero_add]
        exact roundBnd_bounds (by norm_num) up n d
      · by_cases hn : n = 0
        · rw [hn, Bnd.zero_ext, add_zero, Bnd.add, if_neg hm, if_pos rfl]
          exact roundBnd_bounds (by norm_num) up m e
        · rw [add_num up hm hn hx hy, ← aligned_sum]
          exact roundBnd_bounds (by norm_num) up _ _
    | ninf => exact .of_eq (by simp [Bnd.add, Bnd.ext])
    | pinf => exact .of_eq (EReal.add_top_of_ne_bot (Bnd.num_ne_bot m e)).symm
  | ninf => exact .of_eq (by simp [Bnd.add, Bnd.ext])
  | pinf =>
    refine .of_eq (EReal.top_add_of_ne_bot ?_).symm
    cases up <;> cases y <;> simp_all [Bnd.Lies, Bnd.ext, ofRat_ne_bot]

theorem num_pos_iff {m e : Int} : 0 < (Bnd.num m e).ext ↔ 0 < m := by
  rw [Bnd.ext, ← ofRat_zero, ofRat_lt, mul_pos_iff_of_pos_right (by positivity)]
  exact Int.cast_pos

theorem num_neg_iff {m e : Int} : (Bnd.num m e).ext < 0 ↔ m < 0 := by
  rw [Bnd.ext, ← ofRat_zero, ofRat_lt, ← not_le, mul_nonneg_iff_of_pos_right (by positivity), not_le]
  exact Int.cast_lt_zero

/-- The sign of a bound is that of what it stands for. -/
theorem sgn_eq (b : Bnd) : (b.sgn = 1 ∧ 0 < b.ext) ∨ (b.sgn = 0 ∧ b.ext = 0) ∨ (b.sgn = -1 ∧ b.ext < 0) := by
  cases b with
  | ninf => exact .inr (.inr ⟨rfl, EReal.bot_lt_zero⟩)
  | pinf => exact .inl ⟨rfl, EReal.zero_lt_top⟩
  | num m e =>
    rcases lt_trichotomy m 0 with h | h | h
    · exact .inr (.inr ⟨by simp [Bnd.sgn, h], num_neg_iff.2 h⟩)
    · exact .inr (.inl ⟨by simp [Bnd.sgn, h], by rw [h, Bnd.zero_ext]⟩)
    · exact .inl ⟨by simp [Bnd.sgn, h.ne', h.not_gt], num_pos_iff.2 h⟩

theorem sgn_pos_iff {b : Bnd} : 0 < b.sgn ↔ 0 < b.ext := by
  rcases sgn_eq b with ⟨h, k⟩ | ⟨h, k⟩ | ⟨h, k⟩ <;> simp [h, k, not_lt_of_gt]

theorem sgn_neg_iff {b : Bnd} : b.sgn < 0 ↔ b.ext < 0 := by
  rcases sgn_eq b with ⟨h, k⟩ | ⟨h, k⟩ | ⟨h, k⟩ <;> simp [h, k, not_lt_of_gt]

theorem sgn_zero_iff {b : Bnd} : b.sgn = 0 ↔ b.ext = 0 := by
  rcases sgn_eq b with ⟨h, k⟩ | ⟨h, k⟩ | ⟨h, k⟩ <;> simp [h, k, ne_of_gt, ne_of_lt]

/-- What an ordering says of two extended reals; strictness is not kept. -/
def Says (o : Ordering) (x y : EReal) : Prop :=
  match o with
  | .lt => x ≤ y
  | .eq => x = y
  | .gt => y ≤ x

theorem says_compare {a b : Int} {x y : EReal} (h : a < b → x ≤ y) (h' : b < a → y ≤ x) (e : a = b → x = y) :
    Says (compare a b) x y := by
  rcases lt_trichotomy a b with lt | eq | gt
  · rw [compare_lt_iff_lt.2 lt]; exact h lt
  · rw [compare_eq_iff_eq.2 eq]; exact e eq
  · rw [compare_gt_iff_gt.2 gt]; exact h' gt

theorem num_le_of_topOf_lt {m n e d : Int} (hm : 0 < m) (hn : 0 < n) (h : topOf m e < topOf n d) :
    (Bnd.num m e).ext ≤ (Bnd.num n d).ext := by
  refine ofRat_le.2 (le_trans (lt_pow_top hm.le e).le (le_trans ?_ (pow_top_le hn d)))
  exact zpow_le_zpow_right₀ one_le_two (by omega)

theorem num_neg_le_of_topOf_lt {m n e d : Int} (hm : m < 0) (hn : n < 0) (h : topOf m e < topOf n d) :
    (Bnd.num n d).ext ≤ (Bnd.num m e).ext := by
  have le := num_le_of_topOf_lt (m := -m) (n := -n) (e := e) (d := d) (by omega) (by omega) (by rwa [topOf_neg, topOf_neg])
  rw [show Bnd.num (-m) e = (Bnd.num m e).neg from rfl, show Bnd.num (-n) d = (Bnd.num n d).neg from rfl, Bnd.neg_ext,
    Bnd.neg_ext] at le
  exact EReal.neg_le_neg_iff.1 le

/-- Two numbers brought to the place of the lower one. -/
theorem says_aligned (m n e d : Int) :
    Says (compare (m * 2 ^ (e - min e d).toNat) (n * 2 ^ (d - min e d).toNat)) (Bnd.num m e).ext (Bnd.num n d).ext := by
  rw [Bnd.ext, Bnd.ext, ← shift_value m (min_le_left e d), ← shift_value n (min_le_right e d)]
  have le {a b : Int} (h : a < b) : ofRat (a * 2 ^ min e d) ≤ ofRat (b * 2 ^ min e d) :=
    ofRat_le.2 (mul_le_mul_of_nonneg_right (by exact_mod_cast h.le) (by positivity))
  exact says_compare le le fun h => by rw [h]

theorem sgn_nonpos_iff {b : Bnd} : b.sgn ≤ 0 ↔ b.ext ≤ 0 := by rw [← not_lt, ← not_lt, sgn_pos_iff]

theorem sgn_nonneg_iff {b : Bnd} : 0 ≤ b.sgn ↔ 0 ≤ b.ext := by rw [← not_lt, ← not_lt, sgn_neg_iff]

theorem sgn_range (b : Bnd) : -1 ≤ b.sgn ∧ b.sgn ≤ 1 := by
  rcases sgn_eq b with ⟨h, _⟩ | ⟨h, _⟩ | ⟨h, _⟩ <;> rw [h] <;> decide

theorem le_of_sgn_lt {x y : Bnd} (h : x.sgn < y.sgn) : x.ext ≤ y.ext := by
  have hx := sgn_range x
  have hy := sgn_range y
  by_cases low : x.sgn ≤ 0 ∧ 0 ≤ y.sgn
  · exact (sgn_nonpos_iff.1 low.1).trans (sgn_nonneg_iff.1 low.2)
  · omega

theorem says_cmp_num (m n e d : Int) : Says ((Bnd.num m e).cmp (.num n d)) (Bnd.num m e).ext (Bnd.num n d).ext := by
  have pos (k i : Int) : 0 < (Bnd.num k i).sgn ↔ 0 < k := sgn_pos_iff.trans num_pos_iff
  have neg (k i : Int) : (Bnd.num k i).sgn < 0 ↔ k < 0 := sgn_neg_iff.trans num_neg_iff
  unfold Bnd.cmp
  dsimp only
  split
  · next other => exact says_compare le_of_sgn_lt le_of_sgn_lt fun same => absurd same (by simpa using other)
  · next same =>
    have same : (Bnd.num m e).sgn = (Bnd.num n d).sgn := by simpa using same
    have posn : 0 < m → 0 < n := fun h => (pos n d).1 (same ▸ (pos m e).2 h)
    have negn : m < 0 → n < 0 := fun h => (neg n d).1 (same ▸ (neg m e).2 h)
    split
    · next zero => exact (sgn_zero_iff.1 zero).trans (sgn_zero_iff.1 (same ▸ zero)).symm
    · next ne =>
      have neg_of (h : ¬ 0 < m) : m < 0 := by
        have := (pos m e).not.2 h
        exact (neg m e).1 (by omega)
      split
      · next lt =>
        split
        · next h => exact num_le_of_topOf_lt h (posn h) lt
        · next h => exact num_neg_le_of_topOf_lt (neg_of h) (negn (neg_of h)) lt
      · split
        · next gt =>
          split
          · next h => exact num_le_of_topOf_lt (posn h) h gt
          · next h => exact num_neg_le_of_topOf_lt (negn (neg_of h)) (neg_of h) gt
        · exact says_aligned m n e d

/-- The order of bounds is that of what they stand for. -/
theorem says_cmp (x y : Bnd) : Says (x.cmp y) x.ext y.ext := by
  cases x with
  | num m e =>
    cases y with
    | num n d => exact says_cmp_num m n e d
    | ninf => exact bot_le
    | pinf => exact le_top
  | ninf =>
    cases y with
    | ninf => exact rfl
    | num n d => exact bot_le
    | pinf => exact bot_le
  | pinf =>
    cases y with
    | pinf => exact rfl
    | num n d => exact le_top
    | ninf => exact bot_le

theorem lower_ext (x y : Bnd) : (x.lower y).ext = min x.ext y.ext := by
  have h := says_cmp x y
  unfold Bnd.lower
  cases hc : x.cmp y <;> simp_all [Says]

theorem upper_ext (x y : Bnd) : (x.upper y).ext = max x.ext y.ext := by
  have h := says_cmp x y
  unfold Bnd.upper
  cases hc : x.cmp y <;> simp_all [Says]

end Sys2Proof.Machine

/-! Products and quotients of bounds, and their least and greatest over the corners of two intervals (R52, Table 23). -/
namespace Sys2Proof.Machine
open Sys2Proof

theorem sgn_ne_zero_iff {b : Bnd} : b.sgn ≠ 0 ↔ b.ext ≠ 0 := sgn_zero_iff.not

/-- The sign that an infinite product or quotient takes: that of equal or unequal signs. -/
theorem pinf_or_ninf {x y : Bnd} (hx : x.sgn ≠ 0) (hy : y.sgn ≠ 0) :
    (if x.sgn = y.sgn then Bnd.pinf else .ninf).ext = if 0 < x.ext ↔ 0 < y.ext then ⊤ else ⊥ := by
  simp only [← sgn_pos_iff]
  have := sgn_range x
  have := sgn_range y
  have same : x.sgn = y.sgn ↔ (0 < x.sgn ↔ 0 < y.sgn) := by omega
  simp only [same]
  split <;> rfl

/-- A product with an infinite factor and none that is zero. -/
theorem infinite_mul {x y : EReal} (hx : x = ⊤ ∨ x = ⊥) (hy : y ≠ 0) : x * y = if 0 < x ↔ 0 < y then ⊤ else ⊥ := by
  rcases lt_or_gt_of_ne hy with neg | pos
  · rcases hx with rfl | rfl
    · rw [EReal.top_mul_of_neg neg, if_neg (by simp [neg.le])]
    · rw [EReal.bot_mul_of_neg neg, if_pos (by simp [neg.le])]
  · rcases hx with rfl | rfl
    · rw [EReal.top_mul_of_pos pos, if_pos (by simp [pos])]
    · rw [EReal.bot_mul_of_pos pos, if_neg (by simp [pos])]

theorem mul_infinite {x y : EReal} (hx : x ≠ 0) (hy : y = ⊤ ∨ y = ⊥) : x * y = if 0 < x ↔ 0 < y then ⊤ else ⊥ := by
  rw [EReal.mul_comm, infinite_mul hy hx]
  simp only [iff_comm]

/-- A product rounded; zero times an infinity is zero (R52). -/
theorem mul_bounds {p : Nat} (hp : 0 < p) (up : Bool) (x y : Bnd) : Bounds up (x.mul p up y).ext (x.ext * y.ext) := by
  unfold Bnd.mul
  split
  · next zero =>
    refine .of_eq ?_
    have : x.ext = 0 ∨ y.ext = 0 := by simpa [sgn_zero_iff] using zero
    rcases this with h | h <;> rw [h, Bnd.zero_ext] <;> simp
  · next ne =>
    have ne : x.sgn ≠ 0 ∧ y.sgn ≠ 0 := by simpa using ne
    have signs := pinf_or_ninf ne.1 ne.2
    obtain ⟨hx, hy⟩ := And.intro (sgn_ne_zero_iff.1 ne.1) (sgn_ne_zero_iff.1 ne.2)
    cases x with
    | num m e =>
      cases y with
      | num n d =>
        have product : (Bnd.num (m * n) (e + d)).ext = (Bnd.num m e).ext * (Bnd.num n d).ext := by
          rw [Bnd.ext, Bnd.ext, Bnd.ext, ← ofRat_mul, zpow_add₀ two_ne_zero]
          push_cast
          congr 1
          ring
        rw [← product]
        exact roundBnd_bounds hp up _ _
      | ninf => exact .of_eq (signs.trans (mul_infinite hx (.inr rfl)).symm)
      | pinf => exact .of_eq (signs.trans (mul_infinite hx (.inl rfl)).symm)
    | ninf => exact .of_eq (signs.trans (infinite_mul (.inr rfl) hy).symm)
    | pinf => exact .of_eq (signs.trans (infinite_mul (.inl rfl) hy).symm)

/-- The scaled integer quotient of two numbers, rounded to an integer in a direction. -/
def quotient (up : Bool) (m n : Int) (k : Nat) : Int :=
  let a : Int := (if 0 < n then m else -m) * 2 ^ k
  if up then -((-a) / n.natAbs) else a / n.natAbs

theorem quotient_ratio (m : Int) {n : Int} (hn : n ≠ 0) (e d : Int) (k : Nat) :
    (((if 0 < n then m else -m) * 2 ^ k : Int) : ℚ) / n.natAbs * 2 ^ (e - d - k) = m * 2 ^ e / (n * 2 ^ d) := by
  have nz : (n : ℚ) ≠ 0 := by exact_mod_cast hn
  have sign : (((if 0 < n then m else -m : Int)) : ℚ) / n.natAbs = m / n := by
    rw [Nat.cast_natAbs]
    split
    · next pos => rw [abs_of_pos pos]
    · next neg => rw [abs_of_neg (by omega), Int.cast_neg, Int.cast_neg, neg_div_neg_eq]
  rw [zpow_sub₀ two_ne_zero, zpow_sub₀ two_ne_zero, zpow_natCast, Int.cast_mul, mul_div_right_comm, sign]
  push_cast
  field_simp

theorem quotient_bounds (up : Bool) (m : Int) {n : Int} (hn : n ≠ 0) (e d : Int) (k : Nat) :
    Bounds up (Bnd.num (quotient up m n k) (e - d - k)).ext ((Bnd.num m e).ext / (Bnd.num n d).ext) := by
  have floor (a : Int) : ((a / n.natAbs : Int) : ℚ) ≤ a / n.natAbs := by
    rw [← Rat.floor_intCast_div_natCast]
    exact Int.floor_le _
  have ratio := quotient_ratio m hn e d k
  rw [Bnd.ext, Bnd.ext, Bnd.ext, ← ofRat_div, Bounds.ofRat_iff, ← ratio, quotient]
  have place : (0 : ℚ) ≤ 2 ^ (e - d - k) := by positivity
  cases up
  · exact mul_le_mul_of_nonneg_right (floor _) place
  · refine mul_le_mul_of_nonneg_right ?_ place
    have := floor (-((if 0 < n then m else -m) * 2 ^ k))
    rw [Int.cast_neg, neg_div] at this
    simp only [if_true]
    push_cast at this ⊢
    linarith

theorem infinite_div {x : EReal} {n d : Int} (hx : x = ⊤ ∨ x = ⊥) (hy : (Bnd.num n d).ext ≠ 0) :
    x / (Bnd.num n d).ext = if 0 < x ↔ 0 < (Bnd.num n d).ext then ⊤ else ⊥ := by
  obtain ⟨q, hq⟩ : ∃ q, (Bnd.num n d).ext = ofRat q := ⟨_, rfl⟩
  have inverse : (ofRat q)⁻¹ = ofRat q⁻¹ := by simp [ofRat, EReal.coe_inv]
  rw [hq] at hy ⊢
  have nz : q ≠ 0 := fun h => hy (by rw [h, ofRat_zero])
  have pos (r : ℚ) : 0 < ofRat r ↔ 0 < r := by rw [← ofRat_zero, ofRat_lt]
  rw [EReal.div_eq_inv_mul, EReal.mul_comm, inverse, infinite_mul hx]
  · simp only [pos, inv_pos]
  · rw [← ofRat_zero]
    exact fun h => inv_ne_zero nz (le_antisymm (ofRat_le.1 h.le) (ofRat_le.1 h.ge))

/-- An infinite bound over an infinite one: zero lies on its inner side. -/
theorem infinite_quotient (up same : Bool) {q : EReal} (hq : q = 0) :
    Bounds up (if same then (if up then Bnd.pinf else .num 0 0) else if up then .num 0 0 else .ninf).ext q := by
  rw [hq]
  cases up <;> cases same <;> simp [Bounds, Bnd.ext]

/-- A quotient by a bound that is not zero, rounded. -/
theorem div_bounds {p : Nat} (hp : 0 < p) (up : Bool) (x : Bnd) {y : Bnd} (hy : y.ext ≠ 0) :
    Bounds up (x.div p up y).ext (x.ext / y.ext) := by
  unfold Bnd.div
  split
  · next zero => exact .of_eq (by rw [sgn_zero_iff.1 zero, Bnd.zero_ext, EReal.zero_div])
  · next ne =>
    have signs := pinf_or_ninf ne (sgn_ne_zero_iff.2 hy)
    cases x with
    | num m e =>
      cases y with
      | num n d =>
        have hn : n ≠ 0 := fun h => hy (by rw [h, Bnd.zero_ext])
        exact (roundBnd_bounds hp up _ _).trans (quotient_bounds up m hn e d _)
      | ninf => exact .of_eq ((Bnd.zero_ext 0).trans EReal.div_bot.symm)
      | pinf => exact .of_eq ((Bnd.zero_ext 0).trans EReal.div_top.symm)
    | ninf =>
      cases y with
      | num n d => exact .of_eq (signs.trans (infinite_div (.inr rfl) hy).symm)
      | ninf => exact infinite_quotient up true EReal.div_bot
      | pinf => exact infinite_quotient up false EReal.div_top
    | pinf =>
      cases y with
      | num n d => exact .of_eq (signs.trans (infinite_div (.inl rfl) hy).symm)
      | ninf => exact infinite_quotient up false EReal.div_bot
      | pinf => exact infinite_quotient up true EReal.div_top

end Sys2Proof.Machine

/-! Inclusion: the result of an interval operation holds the exact result (R51, R52, Table 23). -/
namespace Sys2Proof.Machine
open Sys2Proof

/-- An extended real lies between the bounds of an interval. -/
def Ival.Holds (a : Ival) (x : EReal) : Prop := a.1.ext ≤ x ∧ x ≤ a.2.ext

/-- What holds of both bounds of an interval. -/
def Ival.Ends (a : Ival) (p : Bnd → Prop) : Prop := p a.1 ∧ p a.2

/-- A product is bounded by one with an end of its first factor's interval. -/
theorem edge_mul (up : Bool) {l h x : EReal} (hx : l ≤ x ∧ x ≤ h) (y : EReal) :
    ∃ u, (u = l ∨ u = h) ∧ Bounds up (u * y) (x * y) := by
  obtain ⟨low, high⟩ := hx
  rcases le_total 0 y with pos | neg
  · cases up
    · exact ⟨l, .inl rfl, mul_le_mul_of_nonneg_right low pos⟩
    · exact ⟨h, .inr rfl, mul_le_mul_of_nonneg_right high pos⟩
  · cases up
    · exact ⟨h, .inr rfl, EReal.mul_le_mul_of_nonpos_right high neg⟩
    · exact ⟨l, .inl rfl, EReal.mul_le_mul_of_nonpos_right low neg⟩

/-- A product is bounded by a product of ends. -/
theorem corner_mul (up : Bool) {l h x k j y : EReal} (hx : l ≤ x ∧ x ≤ h) (hy : k ≤ y ∧ y ≤ j) :
    ∃ u v, (u = l ∨ u = h) ∧ (v = k ∨ v = j) ∧ Bounds up (u * v) (x * y) := by
  obtain ⟨u, hu, first⟩ := edge_mul up hx y
  obtain ⟨v, hv, second⟩ := edge_mul up hy u
  rw [EReal.mul_comm v, EReal.mul_comm y] at second
  exact ⟨u, v, hu, hv, second.trans first⟩

/-- The least and the greatest of the four corners hold what a corner bounds on each side. -/
theorem fourOf_holds {f : Bool → Bnd → Bnd → Bnd} {g : EReal → EReal → EReal} {a b : Ival} {z : EReal}
    (sound : ∀ up, b.Ends fun v => ∀ u, Bounds up (f up u v).ext (g u.ext v.ext))
    (corner : ∀ up, ∃ u v, (u = a.1.ext ∨ u = a.2.ext) ∧ (v = b.1.ext ∨ v = b.2.ext) ∧ Bounds up (g u v) z) :
    (fourOf f a b).Holds z := by
  have reach (up : Bool) : ∃ u v, (u = a.1 ∨ u = a.2) ∧ (v = b.1 ∨ v = b.2) ∧ Bounds up (f up u v).ext z := by
    obtain ⟨u, v, hu, hv, h⟩ := corner up
    rcases hu with rfl | rfl <;> rcases hv with rfl | rfl
    · exact ⟨a.1, b.1, .inl rfl, .inl rfl, ((sound up).1 a.1).trans h⟩
    · exact ⟨a.1, b.2, .inl rfl, .inr rfl, ((sound up).2 a.1).trans h⟩
    · exact ⟨a.2, b.1, .inr rfl, .inl rfl, ((sound up).1 a.2).trans h⟩
    · exact ⟨a.2, b.2, .inr rfl, .inr rfl, ((sound up).2 a.2).trans h⟩
  constructor
  · obtain ⟨u, v, hu, hv, h⟩ := reach false
    refine le_trans ?_ h
    simp only [fourOf, lower_ext]
    rcases hu with rfl | rfl <;> rcases hv with rfl | rfl <;> simp
  · obtain ⟨u, v, hu, hv, h⟩ := reach true
    refine le_trans h ?_
    simp only [fourOf, upper_ext]
    rcases hu with rfl | rfl <;> rcases hv with rfl | rfl <;> simp

/-- The inverses of an interval off zero. -/
theorem inv_holds {k j y : EReal} (hy : k ≤ y ∧ y ≤ j) (off : 0 < k ∨ j < 0) : j⁻¹ ≤ y⁻¹ ∧ y⁻¹ ≤ k⁻¹ := by
  have anti {x z : EReal} (hx : 0 < x) (h : x ≤ z) : z⁻¹ ≤ x⁻¹ :=
    EReal.inv_strictAntiOn.antitoneOn hx (lt_of_lt_of_le hx h) h
  have anti' {x z : EReal} (hz : z < 0) (h : x ≤ z) : z⁻¹ ≤ x⁻¹ := by
    have := anti (x := -z) (z := -x) (EReal.neg_pos.2 hz) (EReal.neg_le_neg_iff.2 h)
    rwa [EReal.inv_neg, EReal.inv_neg, EReal.neg_le_neg_iff] at this
  obtain ⟨low, high⟩ := hy
  rcases off with pos | neg
  · exact ⟨anti (pos.trans_le low) high, anti pos low⟩
  · exact ⟨anti' neg high, anti' (high.trans_lt neg) low⟩

section
variable {a b : Ival} {x y : EReal}

theorem mul_holds (hx : a.Holds x) (hy : b.Holds y) : (fourOf (Bnd.mul 424) a b).Holds (x * y) :=
  fourOf_holds (g := (· * ·)) (fun up => ⟨fun u => mul_bounds (by norm_num) up u _, fun u => mul_bounds (by norm_num) up u _⟩)
    fun up => corner_mul up hx hy

theorem div_holds (hx : a.Holds x) (hy : b.Holds y) (off : hasZero b = false) : (fourOf (Bnd.div 424) a b).Holds (x / y) := by
  have off : 0 < b.1.ext ∨ b.2.ext < 0 := by
    rw [← sgn_pos_iff, ← sgn_neg_iff]
    by_contra h
    simp only [hasZero, Bool.and_eq_false_iff, decide_eq_false_iff_not] at off
    omega
  have low : b.1.ext ≤ b.2.ext := hy.1.trans hy.2
  refine fourOf_holds (g := (· / ·)) (fun up => ⟨fun u => div_bounds (by norm_num) up u ?_,
    fun u => div_bounds (by norm_num) up u ?_⟩) fun up => ?_
  · rcases off with h | h
    · exact h.ne'
    · exact (low.trans_lt h).ne
  · rcases off with h | h
    · exact (h.trans_le low).ne'
    · exact h.ne
  · obtain ⟨u, v, hu, hv, h⟩ := corner_mul up hx (inv_holds hy off)
    rcases hv with rfl | rfl
    · exact ⟨u, b.2.ext, hu, .inr rfl, h⟩
    · exact ⟨u, b.1.ext, hu, .inl rfl, h⟩

theorem lower_holds (hx : a.Holds x) (hy : b.Holds y) : Ival.Holds (a.1.lower b.1, a.2.lower b.2) (min x y) := by
  unfold Ival.Holds
  rw [lower_ext, lower_ext]
  exact ⟨min_le_min hx.1 hy.1, min_le_min hx.2 hy.2⟩

theorem upper_holds (hx : a.Holds x) (hy : b.Holds y) : Ival.Holds (a.1.upper b.1, a.2.upper b.2) (max x y) := by
  unfold Ival.Holds
  rw [upper_ext, upper_ext]
  exact ⟨max_le_max hx.1 hy.1, max_le_max hx.2 hy.2⟩

theorem neg_holds (hx : a.Holds x) : Ival.Holds (a.2.neg, a.1.neg) (-x) := by
  unfold Ival.Holds
  rw [Bnd.neg_ext, Bnd.neg_ext]
  exact ⟨EReal.neg_le_neg_iff.2 hx.2, EReal.neg_le_neg_iff.2 hx.1⟩

end

/-- The interval of an X register: both bounds are numbers of FP32 or the infinity of their side. -/
structure Ival.Plain (a : Ival) : Prop where
  low  : a.1.single ∧ a.1.Lies false
  high : a.2.single ∧ a.2.Lies true

theorem Bnd.single.neg {b : Bnd} (h : b.single) : b.neg.single := by
  intro m e hb hm
  cases b with
  | ninf => exact absurd hb (by simp [Bnd.neg])
  | pinf => exact absurd hb (by simp [Bnd.neg])
  | num n d =>
    injection hb with hn hd
    subst hd
    obtain ⟨low, high⟩ := h n d rfl (by omega)
    exact ⟨low, by rwa [← hn, topOf_neg]⟩

theorem Bnd.Lies.neg {up : Bool} {b : Bnd} (h : b.Lies up) : b.neg.Lies (!up) := by
  cases up <;> cases b <;> simp_all [Bnd.Lies, Bnd.neg]

theorem add_holds {a b : Ival} {x y : EReal} (pa : a.Plain) (pb : b.Plain) (hx : a.Holds x) (hy : b.Holds y) :
    Ival.Holds (a.1.add 424 false b.1, a.2.add 424 true b.2) (x + y) :=
  ⟨(add_bounds pa.low.1 pb.low.1 pa.low.2 pb.low.2).trans (add_le_add hx.1 hy.1),
    (add_bounds pa.high.1 pb.high.1 pa.high.2 pb.high.2).trans (add_le_add hx.2 hy.2)⟩

theorem Ival.Plain.neg {a : Ival} (h : a.Plain) : Ival.Plain (a.2.neg, a.1.neg) :=
  ⟨⟨h.high.1.neg, h.high.2.neg⟩, ⟨h.low.1.neg, h.low.2.neg⟩⟩

theorem ivalOp_div (a b : Ival) : ivalOp 424 opDIV a b = if b.1.sgn = 0 && b.2.sgn = 0 then .error (.invalid 1)
    else if hasZero b then .ok (.ninf, .pinf) else .ok (fourOf (Bnd.div 424) a b) := rfl

theorem quot_holds {a b r : Ival} {x y : EReal} (op : ivalOp 424 opDIV a b = .ok r) (hx : a.Holds x) (hy : b.Holds y) :
    r.Holds (x / y) := by
  rw [ivalOp_div] at op
  split at op
  · exact absurd op (by simp)
  · split at op
    · rw [← Except.ok.inj op]
      exact ⟨bot_le, le_top⟩
    · next off => exact Except.ok.inj op ▸ div_holds hx hy (by simpa using off)

theorem ivalOp_abs (a b : Ival) : ivalOp 424 opABS a b = if 0 ≤ a.1.sgn then .ok a
    else if a.2.sgn ≤ 0 then .ok (a.2.neg, a.1.neg) else .ok (.num 0 0, a.1.neg.upper a.2) := rfl

theorem abs_holds {a b r : Ival} {x : ℚ} (op : ivalOp 424 opABS a b = .ok r) (hx : a.Holds (ofRat x)) :
    r.Holds (ofRat |x|) := by
  rw [ivalOp_abs] at op
  split at op
  · next nonneg =>
    have : 0 ≤ x := by rw [← ofRat_le, ofRat_zero]; exact (sgn_nonneg_iff.1 nonneg).trans hx.1
    rw [abs_of_nonneg this]
    exact Except.ok.inj op ▸ hx
  · split at op
    · next nonpos =>
      have : x ≤ 0 := by rw [← ofRat_le, ofRat_zero]; exact hx.2.trans (sgn_nonpos_iff.1 nonpos)
      rw [abs_of_nonpos this, ofRat_neg]
      exact Except.ok.inj op ▸ neg_holds hx
    · rw [← Except.ok.inj op]
      refine ⟨?_, ?_⟩
      · rw [Bnd.zero_ext, ← ofRat_zero, ofRat_le]
        exact abs_nonneg x
      · rw [upper_ext, Bnd.neg_ext]
        rcases abs_cases x with ⟨h, _⟩ | ⟨h, _⟩ <;> rw [h]
        · exact le_max_of_le_right hx.2
        · rw [ofRat_neg]
          exact le_max_of_le_left (EReal.neg_le_neg_iff.2 hx.1)

theorem holds_ival {x : XReg} {v : ℚ} (h : x.holds v) : x.ival.Holds (ofRat v) :=
  let ⟨_, ⟨_, low⟩, ⟨_, high⟩⟩ := (holds_iff x v).1 h
  ⟨low, high⟩

theorem holds_plain {x : XReg} {v : ℚ} (h : x.holds v) : x.ival.Plain := by
  obtain ⟨low, high⟩ := holds_ival h
  refine ⟨⟨bndOf32_single _, fun top => ?_⟩, ⟨bndOf32_single _, fun bot => ?_⟩⟩
  · rw [top] at low
    exact ofRat_ne_top v (top_le_iff.1 low)
  · rw [bot] at high
    exact ofRat_ne_bot v (le_bot_iff.1 high)

/-- An operation holds a value where the interval of the 424-bit operation does: rounding to FP32 widens it. -/
theorem xOp_holds {op : Nat} {a b : XReg} {v : ℚ} (inside : ∀ r, ivalOp 424 op a.ival b.ival = .ok r → r.Holds (ofRat v))
    (valid : (xOp op a b).invalid = false) : (xOp op a b).holds v := by
  unfold xOp at valid ⊢
  split at valid
  · exact absurd valid (by decide)
  · next sources =>
    rw [if_neg sources]
    split at valid
    · exact absurd valid (by decide)
    · next r op =>
      obtain ⟨low, high⟩ := inside r op
      obtain ⟨numLow, cutLow⟩ := bndTo32_bounds false r.1
      obtain ⟨numHigh, cutHigh⟩ := bndTo32_bounds true r.2
      exact (holds_iff _ v).2 ⟨rfl, ⟨numLow, cutLow.trans low⟩, ⟨numHigh, cutHigh.trans high⟩⟩

/-- Settles O24: the bounds of each operation, as extended reals, enclose the exact result, and each rounding goes outwards. -/
theorem intervalInclusion : Obligations.IntervalInclusion := by
  unfold Obligations.IntervalInclusion
  intro a b x y ha hb
  have hx := holds_ival ha
  have hy := holds_ival hb
  have px := holds_plain ha
  have py := holds_plain hb
  refine ⟨xOp_holds fun r op => ?_, xOp_holds fun r op => ?_, xOp_holds fun r op => ?_, fun nz => xOp_holds fun r op => ?_,
    xOp_holds fun r op => ?_, xOp_holds fun r op => abs_holds op hx, xOp_holds fun r op => ?_, xOp_holds fun r op => ?_⟩
  · rw [ofRat_add]
    exact Except.ok.inj op ▸ add_holds px py hx hy
  · rw [sub_eq_add_neg, ofRat_add, ofRat_neg]
    exact Except.ok.inj op ▸ add_holds px py.neg hx (neg_holds hy)
  · rw [ofRat_mul]
    exact Except.ok.inj op ▸ mul_holds hx hy
  · rw [ofRat_div]
    exact quot_holds op hx hy
  · rw [ofRat_neg]
    exact Except.ok.inj op ▸ neg_holds hx
  · rw [ofRat_mono.map_min]
    exact Except.ok.inj op ▸ lower_holds hx hy
  · rw [ofRat_mono.map_max]
    exact Except.ok.inj op ▸ upper_holds hx hy

end Sys2Proof.Machine

/-! The lapidary's queue, the copy engine's kicks, arrivals and storage reads (R70, R173, R178, R265). -/
namespace Sys2Proof.Machine
open Sys2Proof

/-- A request that comes first and breaks no share enters the queue (R70). -/
theorem lapidaryRequestEnter_goes {s : State} {bay : Nat} {q : Request} {rest : List Request}
    (first : (s.bayAt bay).lapWait = q :: rest) (room : (s.bayAt bay).lap.length < Config.lapidaryQueue)
    (admitted : s.sharesFull bay q = []) : ∃ t, exec (.lapidaryRequestEnter bay 0) s = .next t ∧ t.mem = s.mem ∧
      t.groups = s.groups ∧ (t.bayAt bay).lap = (s.bayAt bay).lap ++ [q] ∧ (t.bayAt bay).lapWait = rest := by
  have enters : s.canEnter bay 0 = true := by simp [State.canEnter, first, room, admitted]
  refine ⟨s.enterRequest bay 0, ?_, rfl, rfl, ?_⟩
  · exact if_pos enters
  · simp [State.enterRequest, State.onBay, first]

section
variable {y : Bay} {c : CopyRec} {cs : List CopyRec} {rest : List (List CopyRec)} {may : CopyRec → Bool}

/-- The core of the first kick starts next where no core before it in turn has a kick. -/
theorem nextCore_first (first : y.kicks = (c :: cs) :: rest) (core : c.core < 5) (hm : may c = true)
    (turn : ∀ i < 5, (y.turn + i) % 5 = c.core → ∀ j < i, ∀ k ∈ y.kicks, ∀ x ∈ k, x.core ≠ (y.turn + j) % 5) :
    y.nextCore may = some c.core := by
  have at_ : ∃ i, i < 5 ∧ (y.turn + i) % 5 = c.core := ⟨(c.core + 5 - y.turn % 5) % 5, by omega, by omega⟩
  obtain ⟨i, hi, here⟩ := at_
  rw [Bay.nextCore, List.find?_eq_some_iff_getElem]
  refine ⟨by simp [first, hm], i, by simpa using hi, by simpa using here, fun j hj => ?_⟩
  simp only [List.getElem_map, List.getElem_range, Bool.not_eq_true', List.any_eq_false]
  intro k hk
  simp only [Bool.not_eq_true, List.any_eq_false, Bool.and_eq_true, beq_iff_eq, not_and]
  exact fun x hx e => absurd e (turn i hi here j hj k hk x hx)

theorem popKick_first (first : y.kicks = (c :: cs) :: rest) (hm : may c = true) :
    popKick c.core may y.kicks = some (c, if cs = [] then rest else cs :: rest) := by
  rw [first]
  simp [popKick, hm]

theorem nextCore_none (stopping : ∀ k ∈ y.kicks, ∀ x ∈ k, may x = false) : y.nextCore may = none := by
  simp only [Bay.nextCore, List.find?_eq_none, List.any_eq_true, Bool.and_eq_true, not_exists, not_and]
  intro core _ k hk x hx _
  simp [stopping k hk x hx]

end

theorem copyRecordStart_refused {s : State} {bay k : Nat}
    (h : (s.bayAt bay).nextCore (fun c => !s.isStopping c.bent) ≠ some k) :
    exec (.copyRecordStart bay k) s = .refused (.notEnabled "COPY_RECORD_START") :=
  if_pos (by simpa using h)

theorem copyRecordStart_next {s : State} {bay k : Nat} {c : CopyRec} {kicks : List (List CopyRec)}
    (h : (s.bayAt bay).nextCore (fun c => !s.isStopping c.bent) = some k)
    (hp : popKick k (fun c => !s.isStopping c.bent) (s.bayAt bay).kicks = some (c, kicks)) :
    exec (.copyRecordStart bay k) s = .next (s.setBay bay { s.bayAt bay with
      kicks := kicks, started := (s.bayAt bay).started ++ [c], turn := (k + 1) % 5 }) := by
  rw [exec_copyRecordStart, execCopyRecordStart]
  simp [h, hp]

/-- The engine starts the first record of the kick whose core is on; none of a bent that stops (R173, R319). -/
theorem copyRecordStart_goes {s : State} {bay : Nat} {c : CopyRec} {cs : List CopyRec} {rest : List (List CopyRec)}
    (first : (s.bayAt bay).kicks = (c :: cs) :: rest) (core : c.core < 5)
    (turn : ∀ i < 5, ((s.bayAt bay).turn + i) % 5 = c.core → ∀ j < i, ∀ k ∈ (s.bayAt bay).kicks, ∀ x ∈ k,
      x.core ≠ ((s.bayAt bay).turn + j) % 5) :
    ((∀ k ∈ (s.bayAt bay).kicks, ∀ x ∈ k, s.isStopping x.bent = true) →
      ∀ k, exec (.copyRecordStart bay k) s = .refused (.notEnabled "COPY_RECORD_START")) ∧
    ((∀ k ∈ (s.bayAt bay).kicks, ∀ x ∈ k, s.isStopping x.bent = false) →
    (∀ k, k ≠ c.core → exec (.copyRecordStart bay k) s = .refused (.notEnabled "COPY_RECORD_START")) ∧
    ∃ t, exec (.copyRecordStart bay c.core) s = .next t ∧ t.mem = s.mem ∧ t.groups = s.groups ∧
      (t.bayAt bay).started = (s.bayAt bay).started ++ [c] ∧ (t.bayAt bay).turn = (c.core + 1) % 5 ∧
      (t.bayAt bay).kicks = if cs = [] then rest else cs :: rest) := by
  constructor
  · intro stopping k
    refine copyRecordStart_refused ?_
    rw [nextCore_none fun k hk x hx => by simp [stopping k hk x hx]]
    exact Option.some_ne_none k |>.symm
  · intro going
    have may : (!s.isStopping c.bent) = true := by
      rw [going (c :: cs) (by simp [first]) c List.mem_cons_self]
      rfl
    have next := nextCore_first (may := fun c => !s.isStopping c.bent) first core may turn
    refine ⟨fun k hk => copyRecordStart_refused ?_, _, copyRecordStart_next next (popKick_first first may), rfl, rfl, ?_⟩
    · rw [next]
      exact fun e => hk (Option.some.inj e).symm
    · simp

end Sys2Proof.Machine

/-! Bytes of typed stores read back; arrivals and storage reads (R165, R178, R265). -/
namespace Sys2Proof.Machine
open Sys2Proof

section
variable (t : Store)

theorem Store.get_put (off i : Nat) (b : Byte) : (t.put off b).get i = if i = off then b else t.get i := by
  obtain ⟨cells, fill⟩ := t
  cases fill with
  | none => exact tget_tput ..
  | some seed =>
    show tget _ (tins cells off b) i = _
    split
    · next h => rw [h, tget_tins_same]
    · next h => exact tget_tins_other _ _ _ h

theorem Store.get_putBytes_outside (bs : List Byte) (off i : Nat) (h : i < off ∨ off + bs.length ≤ i) :
    (t.putBytes off bs).get i = t.get i := by
  induction bs generalizing t off with
  | nil => rfl
  | cons b r ih =>
    simp only [List.length_cons] at h
    rw [Store.putBytes, ih _ _ (by omega), Store.get_put, if_neg (by omega)]

theorem Store.get_putBytes_inside (bs : List Byte) (off i : Nat) (h : i < bs.length) :
    (t.putBytes off bs).get (off + i) = bs[i] := by
  induction bs generalizing t off i with
  | nil => simp at h
  | cons b r ih =>
    cases i with
    | zero => rw [Store.putBytes, Store.get_putBytes_outside _ _ _ _ (by omega), Store.get_put]; simp
    | succ i =>
      simp only [List.length_cons, Nat.add_lt_add_iff_right] at h
      rw [Store.putBytes, show off + (i + 1) = off + 1 + i by omega, ih _ _ _ h, List.getElem_cons_succ]

theorem Store.putBytes_append (a b : List Byte) (off : Nat) :
    t.putBytes off (a ++ b) = (t.putBytes off a).putBytes (off + a.length) b := by
  induction a generalizing t off with
  | nil => rfl
  | cons x r ih => rw [List.cons_append, Store.putBytes, ih, Store.putBytes, List.length_cons]; congr 1; omega

theorem Store.bytes_putBytes (bs : List Byte) (off : Nat) : (t.putBytes off bs).bytes off bs.length = bs := by
  refine List.ext_getElem (by simp [Store.bytes]) fun i _ h => ?_
  simpa [Store.bytes] using Store.get_putBytes_inside t bs off i h

theorem Store.bytes_putBytes_apart (bs : List Byte) (off i n : Nat) (h : i + n ≤ off ∨ off + bs.length ≤ i) :
    (t.putBytes off bs).bytes i n = t.bytes i n := by
  refine List.map_congr_left fun k hk => Store.get_putBytes_outside t bs off (i + k) ?_
  have := List.mem_range.1 hk
  omega

/-- A word of an arrival word's bytes, as a number. -/
theorem fieldOf_bytes (off k n m : Nat) (h : k + n ≤ m) : fieldOf (t.bytes off m) k n = leNat (t.bytes (off + k) n) := by
  have part : ((t.bytes off m).drop k).take n = t.bytes (off + k) n := by
    refine List.ext_getElem (by simp [Store.bytes]; omega) fun i _ _ => ?_
    simp [Store.bytes, Nat.add_assoc]
  rw [fieldOf, part]

end

/-- An arrival at an armed word: its count modulo its target, its generation raised by the targets reached (R178). -/
theorem arrival_counts (t : Store) (off x y : Nat) : let u := t.putBytes (off + 4) (leBytes 4 x ++ leBytes 4 y)
    let word (t : Store) (i : Nat) : Nat := fieldOf (t.bytes off 16) (4 * i) 4
    word u 0 = word t 0 ∧ word u 1 = x % 256 ^ 4 ∧ word u 2 = y % 256 ^ 4 ∧ word u 3 = word t 3 := by
  have two : t.putBytes (off + 4) (leBytes 4 x ++ leBytes 4 y) =
      (t.putBytes (off + 4) (leBytes 4 x)).putBytes (off + 8) (leBytes 4 y) := by
    rw [Store.putBytes_append, length_leBytes]
  have hx : (leBytes 4 x).length = 4 := length_leBytes ..
  have hy : (leBytes 4 y).length = 4 := length_leBytes ..
  dsimp only
  rw [two]
  refine ⟨?_, ?_, ?_, ?_⟩ <;> rw [fieldOf_bytes _ _ _ _ _ (by omega)]
  · rw [fieldOf_bytes _ _ _ _ _ (by omega), Store.bytes_putBytes_apart _ _ _ _ _ (by omega),
      Store.bytes_putBytes_apart _ _ _ _ _ (by omega)]
  · have same := Store.bytes_putBytes t (leBytes 4 x) (off + 4)
    rw [hx] at same
    rw [Store.bytes_putBytes_apart _ _ _ _ _ (by omega), same, leNat_leBytes]
  · have same := Store.bytes_putBytes (t.putBytes (off + 4) (leBytes 4 x)) (leBytes 4 y) (off + 8)
    rw [hy] at same
    rw [same, leNat_leBytes]
  · rw [fieldOf_bytes _ _ _ _ _ (by omega), Store.bytes_putBytes_apart _ _ _ _ _ (by omega),
      Store.bytes_putBytes_apart _ _ _ _ _ (by omega)]

theorem fieldOf_lt (bs : List Byte) (off n : Nat) : fieldOf bs off n < 256 ^ n := by
  refine (leNat_lt _).trans_le (Nat.pow_le_pow_right (by norm_num) ?_)
  simp

theorem memoryDies_le (s : State) : s.memoryDies ≤ 8 := List.length_filter_le ..

theorem capacity_le (s : State) : s.capacity ≤ 2 ^ 48 :=
  (Nat.mul_le_mul_right _ (memoryDies_le s)).trans (by norm_num [Config.memoryDieBytes])

/-- A store to one piece of device memory. -/
theorem storeAt_phys_device (s : State) (bay : Nat) {pa n : Nat} (bs : List Byte) (a : Actor) (scope : Nat)
    (below : pa < 2 ^ 48) (inside : pa < s.capacity) (len : bs.length = n) :
    s.storeAt bay (.phys [(pa, n)]) bs a scope = { s.setMem pa bs hardware 7 false with
      past := s.recorded a scope false (s.cellsAt bay (.phys [(pa, n)]) bs.length) } := by
  have region : pa / 2 ^ 48 = 0 := Nat.div_eq_of_lt below
  have fine : s.physBad pa = none := by simp only [State.physBad, region, beq_self_eq_true, inside, if_true]
  have notRegister : (pa / 2 ^ 48 == 15 || (s.notifyPort pa).isSome) = false := by
    simp only [State.notifyPort, region]
    rfl
  have whole : bs.take n = bs := List.take_of_length_le len.le
  simp only [State.storeAt, List.foldl_cons, List.foldl_nil, State.physStore, fine, State.putPhys, notRegister, State.putMem,
    Option.isSome_none, Bool.false_eq_true, if_false, whole]

theorem arrival_goes {s : State} {gid : Nat} (off bytes : Nat) {g : Group} (a : Actor) (hg : s.group gid = some g) :
    let word (h : Group) (i : Nat) : Nat := fieldOf (h.data.bytes off 16) (4 * i) 4
    word g 0 ≠ 0 → word g 3 % 2 = 1 → ∃ h, (s.arrival gid off bytes a).group gid = some h ∧ word h 0 = word g 0 ∧
      word h 1 = (word g 1 + bytes) % word g 0 ∧ word h 2 = (word g 2 + (word g 1 + bytes) / word g 0) % 2 ^ 32 ∧
      word h 3 = word g 3 := by
  intro word target armed
  have small : (word g 1 + bytes) % word g 0 < 256 ^ 4 :=
    (Nat.mod_lt _ (Nat.pos_of_ne_zero target)).trans (fieldOf_lt (g.data.bytes off 16) 0 4)
  obtain ⟨w0, w1, w2, w3⟩ := arrival_counts g.data off ((word g 1 + bytes) % word g 0)
    ((word g 2 + (word g 1 + bytes) / word g 0) % 2 ^ 32)
  refine ⟨{ g with data := g.data.putBytes (off + 4) (leBytes 4 ((word g 1 + bytes) % word g 0) ++
    leBytes 4 ((word g 2 + (word g 1 + bytes) / word g 0) % 2 ^ 32)) }, ?_, w0, w1.trans (Nat.mod_eq_of_lt small),
    w2.trans (Nat.mod_mod _ _), w3⟩
  unfold State.arrival
  refine (State.onGroup_group_same ..).trans ?_
  show (s.group gid).map _ = _
  have odd : (fieldOf (g.data.bytes off 16) 12 4 % 2 == 1) = true := beq_iff_eq.2 armed
  have some_target : fieldOf (g.data.bytes off 16) 0 4 ≠ 0 := target
  have rest : word g 1 + bytes - (word g 1 + bytes) / word g 0 * word g 0 = (word g 1 + bytes) % word g 0 := by
    have := Nat.div_add_mod (word g 1 + bytes) (word g 0)
    rw [Nat.mul_comm] at this
    omega
  rw [hg, Option.map_some, ← rest]
  simp only [odd, if_true, some_target, if_false, word, Nat.mul_zero, Nat.mul_one, Nat.reduceMul]

/-- A storage read that succeeds (R265). -/
theorem stloadCompletion_goes {s : State} {idx pa : Nat} {c : StCmd} {q : QPair} {data : List Byte}
    (hc : s.stcmds[idx]? = some c) (peg : c.peg = none) (dst : c.dst = [(pa, c.bytes)]) (len : data.length = c.bytes)
    (inside : pa < s.capacity) (pair : tfind s.pairs c.qp = some q) :
    ∃ t, exec (.stloadCompletion idx 0 data) s = .next t ∧ memBytes t.mem pa c.bytes = data ∧
      (∀ a, a < pa ∨ pa + c.bytes ≤ a → memGet t.mem a = memGet s.mem a) ∧ t.stcmds = s.stcmds.eraseIdx idx ∧
      tfind t.pairs c.qp = some { q with free := q.free + 1 } := by
  have below : pa < 2 ^ 48 := inside.trans_le (capacity_le s)
  let u : State := { s with
    fresh := s.fresh + 1, stcmds := s.stcmds.eraseIdx idx, pairs := tmod s.pairs c.qp fun q => { q with free := q.free + 1 } }
  have padded : padTo c.bytes data = data := by simp [padTo, len]
  have runs : exec (.stloadCompletion idx 0 data) s = .next ((u.storeAt 0 (.phys c.dst) data (driveActor c.op) 10).edge 10 []
      [.actor (driveActor c.op)] [.actor (deviceActor c.op)]) := by
    rw [exec_stloadCompletion, execStloadCompletion]
    simp only [hc, peg, padded, if_true]
    rfl
  have stored := storeAt_phys_device u 0 data (driveActor c.op) 10 below inside len
  rw [← dst] at stored
  refine ⟨_, runs, ?_, fun a outside => ?_, ?_, ?_⟩
  · rw [State.edge, State.note_mem, stored, ← len]
    exact memBytes_memPutBytes data s.mem pa
  · rw [State.edge, State.note_mem, stored]
    exact memGet_memPutBytes_outside data s.mem pa a (by rwa [len])
  · rw [State.edge, State.note_stcmds, stored]
    rfl
  · rw [State.edge, State.note_pairs, stored]
    exact (tfind_tmod_same s.pairs c.qp fun q => { q with free := q.free + 1 }).trans (by rw [pair, Option.map_some])

end Sys2Proof.Machine

/-! Reclamation of the expression log: dead nodes freed, the counts of their children lowered (R61). -/
namespace Sys2Proof.Machine
open Sys2Proof

/-- A node whose count is lowered; a pinned one keeps its count. -/
def Node.lowered (n : Node) (c : Nat) : Node := if n.pinned then n else { n with refs := n.refs - c }

/-- A log in which the counts of some handles are lowered. -/
def lowerAll (ks : List Nat) (l : Table Node) : Table Node := ks.foldl (fun l k => tmod l k fun n => n.lowered 1) l

/-- A log without a node, and without the second slot of a pair. -/
def freeNode (l : Table Node) (h : Nat) (n : Node) : Table Node :=
  if n.op == opDOT || n.op == opL2 then tdel (tdel l h) (h + 1) else tdel l h

/-- What reclamation leaves of a log. -/
def reclaimNodes : Nat → Table Node → Table Node
  | 0, l => l
  | k + 1, l =>
    match l.find? fun p => p.2.dead with
    | none => l
    | some (h, n) => reclaimNodes k (lowerAll n.children (freeNode l h n))

theorem foldl_decRef (ks : List Nat) (g : Group) :
    ks.foldl (fun (g : Group) k => g.decRef k) g = { g with nodes := lowerAll ks g.nodes } := by
  induction ks generalizing g with
  | nil => rfl
  | cons k r ih => exact ih (g.decRef k)

theorem reclaim_nodes (k : Nat) (g : Group) : g.reclaim k = { g with nodes := reclaimNodes k g.nodes } := by
  induction k generalizing g with
  | zero => rfl
  | succ k ih =>
    unfold Group.reclaim reclaimNodes
    cases hd : g.nodes.find? fun p => p.2.dead with
    | none => rfl
    | some p =>
      dsimp only
      rw [foldl_decRef, ih]
      rfl

section
variable {l m r : Table Node}

/-- Every node of `m` is one of `l`, counts apart. -/
def Among (l m : Table Node) : Prop := ∀ p ∈ m, ∃ n, (p.1, n) ∈ l ∧ { p.2 with refs := n.refs } = n

theorem Among.refl (l : Table Node) : Among l l := fun p hp => ⟨p.2, hp, rfl⟩

theorem Among.trans (a : Among l m) (b : Among m r) : Among l r := fun p hp => by
  obtain ⟨n, hn, en⟩ := b p hp
  obtain ⟨k, hk, ek⟩ := a _ hn
  exact ⟨k, hk, by rw [← ek, ← en]⟩

theorem Among.of_subset (h : m ⊆ l) : Among l m := fun p hp => ⟨p.2, h hp, rfl⟩

theorem lowerAll_among (ks : List Nat) (l : Table Node) : Among l (lowerAll ks l) := by
  induction ks generalizing l with
  | nil => exact .refl l
  | cons k r ih =>
    refine Among.trans (fun p hp => ?_) (ih _)
    obtain ⟨q, hq, rfl⟩ := List.mem_map.1 hp
    refine ⟨q.2, ?_, ?_⟩
    · dsimp only
      split <;> exact hq
    · dsimp only
      unfold Node.lowered
      split
      · split <;> rfl
      · rfl

theorem freeNode_subset (l : Table Node) (h : Nat) (n : Node) : freeNode l h n ⊆ l := by
  unfold freeNode
  split
  · exact fun p hp => List.mem_of_mem_filter (List.mem_of_mem_filter hp)
  · exact fun p hp => List.mem_of_mem_filter hp

theorem reclaimNodes_among (k : Nat) (l : Table Node) : Among l (reclaimNodes k l) := by
  induction k generalizing l with
  | zero => exact .refl l
  | succ k ih =>
    unfold reclaimNodes
    split
    · exact .refl l
    · next h n _ =>
      have lowered : Among (freeNode l h n) _ := lowerAll_among n.children _
      exact ((Among.of_subset (freeNode_subset ..)).trans lowered).trans (ih _)

theorem lowerAll_length (ks : List Nat) (l : Table Node) : (lowerAll ks l).length = l.length := by
  induction ks generalizing l with
  | nil => rfl
  | cons k r ih => exact (ih _).trans (List.length_map ..)

theorem freeNode_length {h : Nat} {n : Node} (hn : (h, n) ∈ l) : (freeNode l h n).length < l.length := by
  have one : (tdel l h).length < l.length := List.length_filter_lt_length_iff_exists.2 ⟨_, hn, by simp⟩
  unfold freeNode
  split
  · exact (List.length_filter_le ..).trans_lt one
  · exact one

/-- Reclamation leaves no dead node. -/
theorem reclaimNodes_live (k : Nat) (l : Table Node) (enough : l.length ≤ k) : ∀ p ∈ reclaimNodes k l, p.2.dead = false := by
  induction k generalizing l with
  | zero =>
    rw [List.length_eq_zero_iff.1 (Nat.le_zero.1 enough)]
    exact fun p hp => absurd hp List.not_mem_nil
  | succ k ih =>
    unfold reclaimNodes
    cases hd : l.find? fun p => p.2.dead with
    | none => exact fun p hp => by simpa using List.find?_eq_none.1 hd p hp
    | some p =>
      refine ih _ ?_
      rw [lowerAll_length]
      have := freeNode_length (List.mem_of_find?_eq_some hd)
      omega

end

/-! What a key finds as reclamation goes on, where no key stands twice. -/
section
variable {l m : Table Node}

theorem tfind_lowerAll (ks : List Nat) (l : Table Node) (k : Nat) :
    tfind (lowerAll ks l) k = (tfind l k).map fun n => n.lowered (ks.count k) := by
  induction ks generalizing l with
  | nil =>
    rw [List.count_nil]
    have same : (fun n : Node => n.lowered 0) = id := funext fun n => by unfold Node.lowered; split <;> rfl
    rw [same, Option.map_id]
    rfl
  | cons j r ih =>
    refine (ih _).trans ?_
    by_cases h : j = k
    · subst h
      rw [tfind_tmod_same, List.count_cons_self]
      cases tfind l j with
      | none => rfl
      | some n =>
        unfold Node.lowered
        by_cases pinned : n.pinned
        · simp [pinned]
        · simp [pinned, Nat.sub_sub, Nat.add_comm]
    · rw [tfind_tmod_other _ _ (Ne.symm h), List.count_cons_of_ne h]

theorem tfind_freeNode (l : Table Node) (h : Nat) (n : Node) (k : Nat) : tfind (freeNode l h n) k =
    if k = h ∨ (n.op = opDOT ∨ n.op = opL2) ∧ k = h + 1 then none else tfind l k := by
  have first : tfind (tdel l h) k = if k = h then none else tfind l k := by
    split
    · next e => rw [e, tfind_tdel_same]
    · next e => exact tfind_tdel_other l e
  unfold freeNode
  by_cases pair : n.op = opDOT ∨ n.op = opL2
  · have test : (n.op == opDOT || n.op == opL2) = true := by simpa using pair
    rw [if_pos test]
    by_cases second : k = h + 1
    · rw [second, tfind_tdel_same, if_pos (.inr ⟨pair, rfl⟩)]
    · rw [tfind_tdel_other _ second, first]
      simp [second]
  · have test : ¬(n.op == opDOT || n.op == opL2) = true := by simpa using pair
    rw [if_neg test, first]
    simp [pair]

/-- No key stands twice. -/
def Keyed (l : Table Node) : Prop := (l.map Prod.fst).Nodup

theorem above_of_tsorted {lo : Option Nat} (h : tsorted lo l = true) {p : Nat × Node} (hp : p ∈ l) : above lo p.1 = true := by
  induction l generalizing lo with
  | nil => exact absurd hp List.not_mem_nil
  | cons q r ih =>
    rw [tsorted_cons, Bool.and_eq_true] at h
    rcases List.mem_cons.1 hp with rfl | later
    · exact h.1
    · have := ih h.2 later
      cases lo with
      | none => rfl
      | some b =>
        simp only [above, decide_eq_true_eq] at this h ⊢
        omega

theorem keyed_of_tsorted {lo : Option Nat} (h : tsorted lo l = true) : Keyed l := by
  induction l generalizing lo with
  | nil => exact List.nodup_nil
  | cons q r ih =>
    rw [tsorted_cons, Bool.and_eq_true] at h
    refine List.nodup_cons.2 ⟨fun again => ?_, ih h.2⟩
    obtain ⟨p, hp, e⟩ := List.mem_map.1 again
    have := above_of_tsorted h.2 hp
    simp [above, e] at this

theorem Keyed.tfind (h : Keyed l) {k : Nat} {n : Node} (hn : (k, n) ∈ l) : tfind l k = some n := by
  induction l with
  | nil => exact absurd hn List.not_mem_nil
  | cons p r ih =>
    obtain ⟨j, v⟩ := p
    obtain ⟨apart, rest⟩ := List.nodup_cons.1 h
    rcases List.mem_cons.1 hn with e | e
    · obtain ⟨rfl, rfl⟩ := Prod.mk.inj e
      exact if_pos rfl
    · have ne : k ≠ j := fun h => apart (List.mem_map.2 ⟨_, e, h⟩)
      exact (if_neg ne).trans (ih rest e)

theorem Keyed.sublist (h : Keyed l) (sub : m.Sublist l) : Keyed m := List.Nodup.sublist (sub.map _) h

theorem Keyed.freeNode (h : Keyed l) (j : Nat) (n : Node) : Keyed (freeNode l j n) := by
  unfold Machine.freeNode
  split
  · exact h.sublist (List.filter_sublist.trans List.filter_sublist)
  · exact h.sublist List.filter_sublist

theorem Keyed.lowerAll (h : Keyed l) (ks : List Nat) : Keyed (lowerAll ks l) := by
  induction ks generalizing l with
  | nil => exact h
  | cons k r ih =>
    refine ih ?_
    have keys : (tmod l k fun n => n.lowered 1).map Prod.fst = l.map Prod.fst := by
      rw [tmod, List.map_map]
      refine List.map_congr_left fun p _ => ?_
      dsimp only [Function.comp]
      split <;> rfl
    rw [Keyed, keys]
    exact h

/-- References to a handle that come from the nodes of `l` no longer in `m`. -/
def lostTo (l m : Table Node) (k : Nat) : Nat :=
  (l.map fun p => if (tfind m p.1).isNone then p.2.children.count k else 0).sum

theorem count_freed (l m : Table Node) (k : Nat) :
    ((l.filter fun p => (tfind m p.1).isNone).flatMap fun p => p.2.children).count k = lostTo l m k := by
  induction l with
  | nil => rfl
  | cons p r ih =>
    unfold lostTo at ih ⊢
    rw [List.map_cons, List.sum_cons, ← ih]
    by_cases gone : (tfind m p.1).isNone
    · simp only [List.filter_cons, gone, if_true, List.flatMap_cons, List.count_append]
    · simp only [List.filter_cons, gone, Bool.false_eq_true, if_false, Nat.zero_add]

theorem sum_of_key (h : Keyed l) {k c : Nat} {n : Node} (hn : (k, n) ∈ l) :
    (l.map fun p => if p.1 = k then c else 0).sum = c := by
  induction l with
  | nil => exact absurd hn List.not_mem_nil
  | cons p r ih =>
    obtain ⟨apart, rest⟩ := List.nodup_cons.1 h
    rw [List.map_cons, List.sum_cons]
    rcases List.mem_cons.1 hn with e | later
    · have none : (r.map fun p => if p.1 = k then c else 0) = r.map fun _ => 0 := List.map_congr_left fun q hq =>
        if_neg fun eq => apart (List.mem_map.2 ⟨q, hq, by rw [eq, ← e]⟩)
      rw [none, if_pos (by rw [← e])]
      simp
    · rw [if_neg fun eq => apart (List.mem_map.2 ⟨_, later, eq.symm⟩), ih rest later, Nat.zero_add]

/-- What is freed with a node: the node, and the second slot of its pair. -/
theorem lostTo_freeNode (h : Keyed l) {j : Nat} {n n0 : Node} (hn : (j, n0) ∈ l) (here : tfind m j = some n)
    (second : n.op = opDOT ∨ n.op = opL2 → ∀ k, (j + 1, k) ∈ l → k.children = []) (ks : List Nat) (k : Nat) :
    lostTo l (lowerAll ks (freeNode m j n)) k = lostTo l m k + n0.children.count k := by
  have total : lostTo l (lowerAll ks (freeNode m j n)) k =
      (l.map fun p => (if (tfind m p.1).isNone then p.2.children.count k else 0) +
        if p.1 = j then n0.children.count k else 0).sum := by
    refine congrArg List.sum (List.map_congr_left fun p hp => ?_)
    rw [tfind_lowerAll, Option.isNone_map, tfind_freeNode]
    by_cases own : p.1 = j
    · have same : p.2 = n0 := by
        have := h.tfind hn
        rw [← own, h.tfind hp] at this
        exact Option.some.inj this
      simp [own, here, same]
    · by_cases next : (n.op = opDOT ∨ n.op = opL2) ∧ p.1 = j + 1
      · have leaf := second next.1 p.2 (by rw [← next.2]; exact hp)
        simp [leaf, own]
      · simp only [own, next, or_self, if_false, Nat.add_zero]
  rw [total, List.sum_map_add, sum_of_key h hn]
  rfl

/-- How far reclamation has come: which nodes of `l` are left in `m`, with which counts, and which are freed. -/
structure Settled (l m : Table Node) : Prop where
  keyed : Keyed m
  kept  : ∀ k n, tfind m k = some n → ∃ n0, tfind l k = some n0 ∧ { n with refs := n0.refs } = n0 ∧
    n.refs = if n0.pinned then n0.refs else n0.refs - lostTo l m k
  freed : ∀ k n0, tfind l k = some n0 → tfind m k = none →
    if n0.op = opCONT then tfind m (k - 1) = none else n0.pinned = false ∧ n0.refs ≤ lostTo l m k

theorem lostTo_self (h : Keyed l) (k : Nat) : lostTo l l k = 0 := by
  have none : (l.map fun p => if (tfind l p.1).isNone then p.2.children.count k else 0) = l.map fun _ => 0 :=
    List.map_congr_left fun p hp => if_neg (by rw [h.tfind hp]; simp)
  rw [lostTo, none]
  simp

theorem Settled.start (h : Keyed l) : Settled l l where
  keyed := h
  kept k n hn := ⟨n, hn, rfl, by rw [lostTo_self h, Nat.sub_zero, ite_self]⟩
  freed k n0 hn gone := by rw [hn] at gone; exact absurd gone (Option.some_ne_none _)

theorem children_of_op {n : Node} (h : opABS < n.op) : n.children = [] := by
  have : n.isOp = false := by
    rw [Node.isOp, Bool.and_eq_false_iff]
    exact .inr (decide_eq_false (Nat.not_le.2 h))
  rw [Node.children, this]
  rfl

/-- Every pair has its second slot. -/
def Paired (l : Table Node) : Prop := ∀ p ∈ l, (p.2.op = opDOT ∨ p.2.op = opL2) → ∃ k, (p.1 + 1, k) ∈ l ∧ k.op = opCONT

theorem Settled.step (h : Keyed l) (pairs : Paired l) (s : Settled l m) {j : Nat} {n : Node} (hn : (j, n) ∈ m)
    (dead : n.dead = true) : Settled l (lowerAll n.children (freeNode m j n)) := by
  have here := s.keyed.tfind hn
  obtain ⟨n0, hn0, same, refs⟩ := s.kept j n here
  have zero : n.refs = 0 ∧ n.pinned = false ∧ n.op ≠ opCONT := by simpa [Node.dead, and_assoc] using dead
  have pinned : n0.pinned = false := by rw [← same]; exact zero.2.1
  have op : n0.op = n.op := by rw [← same]
  have children : n0.children = n.children := by rw [← same]; rfl
  have second : n.op = opDOT ∨ n.op = opL2 → ∀ k, (j + 1, k) ∈ l → k.op = opCONT := fun hop k hk => by
    obtain ⟨c, hc, cont⟩ := pairs _ (tfind_mem hn0) (by rwa [op])
    have := h.tfind hk
    rw [h.tfind hc] at this
    rwa [← Option.some.inj this]
  have lost (k : Nat) : lostTo l (lowerAll n.children (freeNode m j n)) k = lostTo l m k + n.children.count k := by
    rw [← children]
    exact lostTo_freeNode h (tfind_mem hn0) here (fun hop k hk => children_of_op (by rw [second hop k hk]; decide)) _ k
  have gone (k : Nat) : tfind (lowerAll n.children (freeNode m j n)) k = none ↔
      (k = j ∨ (n.op = opDOT ∨ n.op = opL2) ∧ k = j + 1) ∨ tfind m k = none := by
    rw [tfind_lowerAll, Option.map_eq_none_iff, tfind_freeNode]
    split <;> simp_all
  refine ⟨(s.keyed.freeNode j n).lowerAll _, fun k x hx => ?_, fun k x hx none => ?_⟩
  · rw [tfind_lowerAll, tfind_freeNode, Option.map_eq_some_iff] at hx
    obtain ⟨y, hy, rfl⟩ := hx
    split at hy
    · exact absurd hy (by simp)
    · obtain ⟨y0, hy0, same, refs⟩ := s.kept k y hy
      have kind : y.pinned = y0.pinned := by rw [← same]
      refine ⟨y0, hy0, ?_, ?_⟩
      · rw [← same]
        unfold Node.lowered
        split <;> rfl
      · rw [lost, Node.lowered, kind]
        split
        · next pin => rw [refs, if_pos pin]
        · next pin =>
          rw [if_neg pin] at refs
          exact (congrArg (· - _) refs).trans (Nat.sub_sub ..)
  · rcases (gone k).1 none with (rfl | ⟨pair, rfl⟩) | before
    · obtain rfl : x = n0 := by rw [hn0] at hx; exact (Option.some.inj hx).symm
      rw [if_neg (by rw [op]; exact zero.2.2)]
      rw [if_neg (by simp [pinned]), zero.1] at refs
      exact ⟨pinned, by rw [lost]; omega⟩
    · rw [if_pos (second pair x (tfind_mem hx))]
      exact (gone _).2 (.inl (.inl rfl))
    · have old := s.freed k x hx before
      split
      · next cont =>
        rw [if_pos cont] at old
        exact (gone _).2 (.inr old)
      · next cont =>
        rw [if_neg cont] at old
        exact ⟨old.1, by rw [lost]; omega⟩

theorem reclaimNodes_settled (h : Keyed l) (pairs : Paired l) (k : Nat) (s : Settled l m) :
    Settled l (reclaimNodes k m) := by
  induction k generalizing m with
  | zero => exact s
  | succ k ih =>
    unfold reclaimNodes
    cases hd : m.find? fun p => p.2.dead with
    | none => exact s
    | some p => exact ih (s.step h pairs (List.mem_of_find?_eq_some hd) (by simpa using List.find?_some hd))

end

section
variable {l m : Table Node} {p : Nat × Node}

theorem Settled.refs_of_kept (s : Settled l m) (h : Keyed l) (hp : p ∈ l) {n : Node} (hn : tfind m p.1 = some n) :
    n.refs = if p.2.pinned then p.2.refs else p.2.refs - lostTo l m p.1 := by
  obtain ⟨n0, hn0, -, refs⟩ := s.kept p.1 n hn
  rw [h.tfind hp] at hn0
  rwa [Option.some.inj hn0]

theorem Settled.refs_of_freed (s : Settled l m) (h : Keyed l) (hp : p ∈ l) (hn : tfind m p.1 = none) :
    if p.2.op = opCONT then (tfind m (p.1 - 1)).isNone = true else p.2.pinned = false ∧ p.2.refs ≤ lostTo l m p.1 := by
  have := s.freed p.1 p.2 (h.tfind hp) hn
  rwa [Option.isNone_iff_eq_none]

end

theorem logReclaim_next {s : State} {gid : Nat} {g : Group} (hg : s.group gid = some g)
    (some_dead : ∃ p ∈ g.nodes, p.2.dead = true) :
    exec (.logReclaim gid) s = .next (s.setGroup { g with nodes := reclaimNodes g.nodes.length g.nodes }) := by
  rw [exec_logReclaim, execLogReclaim]
  simp only [hg]
  refine (if_pos (by simpa using some_dead)).trans ?_
  rw [Group.reclaimAll, reclaim_nodes]

end Sys2Proof.Machine

/-! What a read by the hardware leaves as it was: groups but for marks, and the entries that dies hold (R167, R306 to R311). -/
namespace Sys2Proof.Machine
open Sys2Proof

/-- The held entries of every die, and where its fault queue is, are as before. -/
structure SameHeld (s t : State) : Prop where
  held : ∀ k, (t.die k).held = (s.die k).held
  fqcb : ∀ k, (t.die k).fqcb = (s.die k).fqcb

section
variable {s t u : State}

theorem SameHeld.of_dies (h : t.dies = s.dies) : SameHeld s t := by
  have die (k : Nat) : t.die k = s.die k := congrArg (tget ({} : Die) · k) h
  exact ⟨fun k => by rw [die], fun k => by rw [die]⟩

theorem SameHeld.refl (s : State) : SameHeld s s := .of_dies rfl

theorem SameHeld.trans (a : SameHeld s t) (b : SameHeld t u) : SameHeld s u :=
  ⟨fun k => (b.held k).trans (a.held k), fun k => (b.fqcb k).trans (a.fqcb k)⟩

theorem SameHeld.setDie {j : Nat} {d : Die} (held : d.held = (s.die j).held) (fqcb : d.fqcb = (s.die j).fqcb) :
    SameHeld s (s.setDie j d) := by
  have die (k : Nat) : (s.setDie j d).die k = if k = j then d else s.die k := by
    split
    · next h => rw [h, State.setDie_die_same]
    · next h => exact State.setDie_die_other _ _ h
  constructor <;> intro k <;> rw [die] <;> split
  · next h => rw [h, held]
  · rfl
  · next h => rw [h, fqcb]
  · rfl

theorem Stored.sameHeld (a : Stored s t) : SameHeld s t where
  held k := by
    have := congrArg Die.held (a.die k)
    exact this
  fqcb k := by
    have := congrArg Die.fqcb (a.die k)
    exact this

end

section
variable (s : State)

theorem addTlb_sameHeld (k : Nat) (es : List TlbEntry) (ps : List PtrEntry) : SameHeld s (s.addTlb k es ps) := by
  unfold State.addTlb
  dsimp only
  split
  · exact .refl s
  · exact .setDie rfl rfl

theorem rememberRoot_sameHeld (k : Nat) (r : Nat × Nat × Nat) : SameHeld s (s.rememberRoot k r) := by
  unfold State.rememberRoot
  dsimp only
  split
  · exact .refl s
  · exact .setDie rfl rfl

theorem useGranule_dies (va : DWord) (acc : Access) (l : Leaf) : (s.useGranule va acc l).dies = s.dies := by
  unfold State.useGranule
  generalize freeBytes 4096 s.fresh = bs
  dsimp only
  split
  · rfl
  · split
    · rfl
    · split
      · rfl
      · split <;> rfl

theorem groupLeaf_dies (va : DWord) (l : Leaf) : (s.groupLeaf va l).1.dies = s.dies := by
  unfold State.groupLeaf
  dsimp only
  split
  · rfl
  · split
    · rfl
    · split <;> (try split) <;> exact choose_dies ..

theorem pickSource_dies (l : List Source) : (s.pickSource l).2.dies = s.dies := by
  unfold State.pickSource
  split
  · rfl
  · exact choose_dies ..

theorem endWalk_dies (asid : Nat) (va : DWord) (w : Walk) (root : Option (Nat × Nat × Nat)) :
    (s.endWalk asid va w root).1.dies = s.dies := by
  unfold State.endWalk
  split
  · rfl
  · exact groupLeaf_dies ..

theorem choosePage_sameHeld (a : Agent) (space : Nat) (va : DWord) : SameHeld s (s.choosePage a space va).1 := by
  unfold State.choosePage
  split
  · exact .refl s
  · dsimp only
    have h := pickSource_dies s (s.stale a space va (s.walkSpace space va))
    split <;> rename_i hp <;> rw [hp] at h
    · exact .of_dies ((endWalk_dies ..).trans h)
    · exact .of_dies ((endWalk_dies ..).trans h)
    · exact (SameHeld.of_dies h).trans (addTlb_sameHeld ..)

theorem keepWalk_sameHeld (a : Agent) (va : DWord) (acc : Access) (c : Chosen) : SameHeld s (s.keepWalk a va acc c) := by
  have kept := ((touch_stored s c.leaf acc).sameHeld.trans (addTlb_sameHeld ..)).trans
    (SameHeld.of_dies (useGranule_dies ((s.touch c.leaf acc).remember a c.asid va c.path c.leaf) va acc c.leaf))
  unfold State.keepWalk
  dsimp only
  split
  · exact kept.trans (rememberRoot_sameHeld ..)
  · exact kept

theorem useChosen_sameHeld (a : Agent) (va : DWord) (acc : Access) (c : Chosen) : SameHeld s (s.useChosen a va acc c).1 := by
  unfold State.useChosen
  split
  · exact .setDie rfl rfl
  · exact .refl s
  · dsimp only
    split
    · exact keepWalk_sameHeld ..
    · exact .refl s

theorem settlePage_sameHeld (memo : Memo) (a : Agent) (space : Nat) (va : DWord) :
    SameHeld s (s.settlePage memo a space va).1 := by
  unfold State.settlePage
  dsimp only
  split
  · exact .refl s
  · exact choosePage_sameHeld ..

theorem pageAt_sameHeld (memo : Memo) (a : Agent) (space : Nat) (va : DWord) (acc : Access) :
    SameHeld s (s.pageAt memo a space va acc).1 := by
  have settled := settlePage_sameHeld s memo a space va
  unfold State.pageAt
  dsimp only
  split
  · exact settled
  · exact settled.trans (useChosen_sameHeld ..)

end

/-- What a read by the hardware leaves as it was. -/
structure Looked (s t : State) : Prop where
  rest   : OnlyTranslated s t
  groups : t.unmarkedGroups = s.unmarkedGroups
  held   : SameHeld s t

namespace Looked

variable {s t u : State}

theorem refl (s : State) : Looked s s := ⟨.refl s, rfl, .refl s⟩

theorem trans (a : Looked s t) (b : Looked t u) : Looked s u :=
  ⟨a.rest.trans b.rest, b.groups.trans a.groups, a.held.trans b.held⟩

/-- A change of the open choices, the free values and the record alone. -/
theorem of_past {o : List Nat} {n : Nat} {p : List Ev} (s : State) : Looked s { s with oracle := o, fresh := n, past := p } :=
  ⟨⟨rfl, id⟩, rfl, .of_dies rfl⟩

/-- A fold each of whose steps is a read. -/
theorem foldl {β ι : Type} (st : β → State) {f : β → ι → β} (h : ∀ b i, Looked (st b) (st (f b i))) (l : List ι) (b : β) :
    Looked (st b) (st (l.foldl f b)) := by
  induction l generalizing b with
  | nil => exact .refl _
  | cons i r ih => exact (h b i).trans (ih _)

variable (a : Looked s t)
include a

theorem bays : t.bays = s.bays := by
  have := congrArg State.bays a.rest.rest
  exact this

theorem bents : t.bents = s.bents := by
  have := congrArg State.bents a.rest.rest
  exact this

theorem cores : t.cores = s.cores := by
  have := congrArg State.cores a.rest.rest
  exact this

theorem bayAt (k : Nat) : t.bayAt k = s.bayAt k := congrArg (tget ({} : Bay) · k) a.bays

theorem coreAt (k : Nat) : t.coreAt k = s.coreAt k := congrArg (tget ({} : Core) · k) a.cores

/-- A group is where it was, on the core where it was. -/
theorem group {k : Nat} {g : Group} (hg : s.group k = some g) :
    ∃ h, t.group k = some h ∧ h.mapLanes Lane.unmarked = g.mapLanes Lane.unmarked := group_of_unmarked a.groups hg

theorem bayOf (k : Nat) : t.bayOf k = s.bayOf k := by
  unfold State.bayOf State.bentOf State.bent
  rw [a.bents]
  cases hg : s.group k with
  | none => rw [group_none_of_unmarked a.groups hg]
  | some g =>
    obtain ⟨h, hh, e⟩ := a.group hg
    have : h.bent = g.bent := by
      have := congrArg Group.bent (Group.bare_of_unmarked e)
      exact this
    rw [hh, Option.bind_some, Option.bind_some, this]

theorem coreOf (k : Nat) : t.coreOf k = s.coreOf k := by
  unfold State.coreOf
  rw [a.bayOf]
  cases hg : s.group k with
  | none => rw [group_none_of_unmarked a.groups hg]
  | some g =>
    obtain ⟨h, hh, e⟩ := a.group hg
    have : h.core = g.core := by
      have := congrArg Group.core (Group.bare_of_unmarked e)
      exact this
    rw [hh]
    dsimp only
    rw [this]

end Looked

section
variable (s : State)

theorem choose_looked (n : Nat) : Looked s (s.choose n).2 := by
  unfold State.choose
  split
  · exact .refl s
  · exact .of_past s

theorem pageAt_looked (memo : Memo) (a : Agent) (space : Nat) (va : DWord) (acc : Access) :
    Looked s (s.pageAt memo a space va acc).1 :=
  ⟨pageAt_translated .., pageAt_groups .., pageAt_sameHeld ..⟩

theorem spanAt_looked (memo : Memo) (a : Agent) (space : Nat) (acc : Access) (va : DWord) (n k : Nat) :
    Looked s (s.spanAt memo a space acc va n k).1 := by
  induction k generalizing s memo va n with
  | zero => exact .refl s
  | succ k ih =>
    unfold State.spanAt
    dsimp only
    split
    · exact pageAt_looked ..
    · exact (pageAt_looked ..).trans (ih ..)

theorem physLoad_looked (pa n : Nat) : Looked s (s.physLoad pa n).1 := by
  unfold State.physLoad
  split
  · exact .refl s
  · split
    · exact .refl s
    · split
      · exact .of_past s
      · exact .refl s

theorem loadAt_looked (gid bay : Nat) (l : Loc) (n : Nat) : Looked s (s.loadAt gid bay l n).1 := by
  cases l with
  | phys segs =>
    exact Looked.foldl (β := State × List Byte) (·.1) (fun b sg => physLoad_looked b.1 sg.1 sg.2) segs (s, [])
  | data k o => exact .refl s
  | wst o => exact .refl s
  | cst o => exact .refl s

theorem loadPart_looked (a : Actor) (fibre : DWord) (scope batch : Nat) (cells : List (ByteAt × Byte)) :
    Looked s (s.loadPart a fibre scope batch cells).1 := by
  unfold State.loadPart
  dsimp only
  split
  · exact .of_past s
  · exact (choose_looked ..).trans (.of_past _)

theorem loadWeak_looked (a : Actor) (fibre : DWord) (scope gid : Nat) (l : Loc) (n chunk : Nat) :
    Looked s (s.loadWeak a fibre scope gid l n chunk).1 := by
  have loaded := loadAt_looked s gid (s.bayOf gid) l n
  unfold State.loadWeak
  dsimp only
  split
  · exact loaded
  · exact loaded.trans (Looked.foldl (β := State × List Byte) (·.1) (fun b p => by exact loadPart_looked ..) _ (_, []))

theorem dotNow_looked (memo : Memo) (gid : Nat) (a : Actor) (n k : Node) : Looked s (s.dotNow memo gid a n k).1 := by
  unfold State.dotNow
  dsimp only
  split
  · have found := spanAt_looked s memo (s.engineOf gid) (s.spaceOf gid) .engineRead
      (pairOf n.left (BitVec.ofNat 32 (bitsAt n.right 0 25))) (rowBytes (bitsAt n.aux 16 4) (bitsAt n.aux 0 16))
      (rowBytes (bitsAt n.aux 16 4) (bitsAt n.aux 0 16) / 4096 + 2)
    split
    · exact found.trans ((loadWeak_looked ..).trans (loadWeak_looked ..))
    · exact found
  · exact .refl s

theorem runRequest_looked (q : Request) : Looked s (s.runRequest q).1 := by
  unfold State.runRequest
  dsimp only
  split
  · exact .refl s
  · next order _ =>
    let node (h : Nat) : Option Node := tfind (((s.group q.gid).map (·.nodes)).getD []) h
    split <;> refine Looked.foldl (β := State × Memo × List (Nat × Option (Int × Int)) × Option Found) (·.1)
      (fun b h => ?_) _ (s, [], [], none)
    all_goals
      have looked := dotNow_looked b.1 b.2.1 q.gid (b.1.requestActor q.gid q.op) ((node h).getD (nodeOf opDOT 0 0 0))
        ((node (h + 1)).getD (nodeOf opCONT 0 0 0))
      split
      · exact .refl _
      · split <;> rename_i hp <;> rw [hp] at looked <;> exact looked

theorem enginePlace_looked (memo : Memo) (gid bent space : Nat) (va : DWord) (n : Nat) (acc : Access) :
    Looked s (s.enginePlace memo gid bent space va n acc).1 := by
  unfold State.enginePlace
  split
  · exact spanAt_looked ..
  · exact .refl s

end

end Sys2Proof.Machine

/-! The last row of a copy record (R175). -/
namespace Sys2Proof.Machine
open Sys2Proof

/-- A projection that no step of a fold changes. -/
theorem foldl_projected {β ι γ : Type} {π : β → γ} {x : γ} {f : β → ι → β} {l : List ι}
    (h : ∀ b, π b = x → ∀ i ∈ l, π (f b i) = x) (b : β) (hb : π b = x) : π (l.foldl f b) = x := by
  induction l generalizing b with
  | nil => exact hb
  | cons i r ih => exact ih (fun b hb j hj => h b hb j (List.mem_cons_of_mem _ hj)) _ (h b hb i List.mem_cons_self)

section
variable (s : State)

theorem physLoad_quiet {pa n : Nat} (below : pa < 3 * 2 ^ 48) (fine : s.physBad pa = none) :
    s.physLoad pa n = (s, .ok (memBytes s.mem pa n)) := by
  have region : pa / 2 ^ 48 < 3 := Nat.div_lt_of_lt_mul (by omega)
  unfold State.physLoad
  rw [fine]
  dsimp only
  rw [if_neg (by simp only [beq_iff_eq]; omega), if_neg (by simp only [beq_iff_eq]; omega)]

/-- A load of plain memory or of a typed store changes nothing. -/
theorem loadAt_quiet (gid bay : Nat) {l : Loc} (n : Nat) (quiet : l.quiet s) : (s.loadAt gid bay l n).1 = s := by
  cases l with
  | phys segs =>
    refine foldl_projected (β := State × List Byte) (π := (·.1)) (x := s) (fun b hb sg hsg => ?_) (s, []) rfl
    show (b.1.physLoad sg.1 sg.2).1 = s
    rw [hb, physLoad_quiet s (quiet sg hsg).1 (quiet sg hsg).2]
  | data k o => rfl
  | wst o => rfl
  | cst o => rfl

theorem loadWeak_quiet (a : Actor) (fibre : DWord) (scope gid : Nat) {l : Loc} (n chunk : Nat) (quiet : l.quiet s)
    (closed : s.oracle = []) :
    s.loadWeak a fibre scope gid l n chunk = (s, (s.loadAt gid (s.bayOf gid) l n).2) := by
  unfold State.loadWeak
  dsimp only
  rw [closed, List.isEmpty_nil, if_pos rfl]
  exact Prod.ext (loadAt_quiet s gid (s.bayOf gid) n quiet) rfl

/-- What a store writes does not depend on who makes it. -/
theorem storeAt_mem_actor (bay : Nat) (l : Loc) (bs : List Byte) (a : Actor) (scope : Nat) :
    (s.storeAt bay l bs a scope).mem = (s.storeAt bay l bs).mem := by
  cases l <;> rfl

theorem physStore_bays (pa : Nat) (bs : List Byte) (a : Actor) (scope : Nat) (reads : Bool) :
    (s.physStore pa bs a scope reads).1.bays = s.bays := by
  unfold State.physStore
  split
  · rfl
  · exact (putPhys_stored ..).bays

theorem onBay_started (j k : Nat) (f : Bay → Bay) (h : (f (s.bayAt j)).started = (s.bayAt j).started) :
    ((s.onBay j f).bayAt k).started = (s.bayAt k).started := by
  unfold State.onBay
  by_cases e : k = j
  · rw [e, State.setBay_bayAt_same, h]
  · rw [State.setBay_bayAt_other _ _ e]

theorem storeAt_started (bay : Nat) (l : Loc) (bs : List Byte) (a : Actor) (scope k : Nat) :
    ((s.storeAt bay l bs a scope).bayAt k).started = (s.bayAt k).started := by
  cases l with
  | phys segs =>
    have bays := foldl_projected (β := State × List Byte) (π := fun b => b.1.bays) (x := s.bays) (l := segs)
      (f := fun acc sg => ((acc.1.physStore sg.1 (acc.2.take sg.2)).1, acc.2.drop sg.2))
      (fun b hb sg _ => (physStore_bays ..).trans hb) (s, bs) rfl
    have same : (s.storeAt bay (.phys segs) bs a scope).bays = s.bays := bays
    rw [State.bayAt, same, ← State.bayAt]
  | data j o =>
    have same : (s.storeAt bay (.data j o) bs a scope).bays = s.bays := State.onGroup_bays ..
    rw [State.bayAt, same, ← State.bayAt]
  | wst o => exact onBay_started s bay k (fun y => { y with w := y.w.putBytes o bs }) rfl
  | cst o => exact onBay_started s bay k (fun y => { y with c := y.c.putBytes o bs }) rfl

end

/-- The last row of a record, read whole and then written. -/
theorem copyRowsFrom_last {s u v : State} {c : CopyRec} {p q : Loc} {m n : Memo}
    (src : s.enginePlace [] c.gid c.bent (copySrcSpace c.bytes) (BitVec.ofNat 64 (copySrc c.bytes + c.row * copySrcStride c.bytes))
      (copyBytes c.bytes) .engineRead = (u, m, .ok p))
    (dst : u.enginePlace m c.gid c.bent (copyDstSpace c.bytes) (BitVec.ofNat 64 (copyDst c.bytes + c.row * copyDstStride c.bytes))
      (copyBytes c.bytes) .engineWrite = (v, n, .ok q)) (quiet : p.quiet v) (closed : v.oracle = []) :
    s.copyRowsFrom [] c 1 c.row = ((v.storeAt (v.bayOf c.gid) q (v.loadAt c.gid (v.bayOf c.gid) p (copyBytes c.bytes)).2
      (v.opActor c.gid c.op) (engineScope (copyDstSpace c.bytes))).countDie (socketOf c.gid) 7 (copyBytes c.bytes), .done) := by
  unfold State.copyRowsFrom
  dsimp only
  rw [src]
  dsimp only
  rw [dst]
  dsimp only
  rw [loadWeak_quiet v _ _ _ _ _ _ quiet closed]
  rfl

theorem copyRecordComplete_goes {s u v : State} {bay idx : Nat} {c : CopyRec} {p q : Loc} {m n : Memo}
    (started : (s.bayAt bay).started[idx]? = some c) (here : bay = s.bayOf c.gid) (last : c.row + 1 = copyRows c.bytes)
    (noWord : copyAW c.bytes = false) (noPeg : copyPV c.bytes = false) (noEntry : c.entries = [])
    (noneHeld : ∀ e ∈ (s.die (socketOf c.gid)).held, e.who ≠ .copy c.gid c.bytes)
    (src : s.enginePlace [] c.gid c.bent (copySrcSpace c.bytes) (BitVec.ofNat 64 (copySrc c.bytes + c.row * copySrcStride c.bytes))
      (copyBytes c.bytes) .engineRead = (u, m, .ok p))
    (dst : u.enginePlace m c.gid c.bent (copyDstSpace c.bytes) (BitVec.ofNat 64 (copyDst c.bytes + c.row * copyDstStride c.bytes))
      (copyBytes c.bytes) .engineWrite = (v, n, .ok q)) (quiet : p.quiet v) (closed : v.oracle = []) :
    ∃ t, exec (.copyRecordComplete bay idx) s = .next t ∧
      t.mem = (v.storeAt bay q (v.loadAt c.gid bay p (copyBytes c.bytes)).2).mem ∧
      (t.bayAt bay).started = (s.bayAt bay).started.eraseIdx idx := by
  have looked : Looked s v := by
    have first := enginePlace_looked s [] c.gid c.bent (copySrcSpace c.bytes)
      (BitVec.ofNat 64 (copySrc c.bytes + c.row * copySrcStride c.bytes)) (copyBytes c.bytes) .engineRead
    have second := enginePlace_looked u m c.gid c.bent (copyDstSpace c.bytes)
      (BitVec.ofNat 64 (copyDst c.bytes + c.row * copyDstStride c.bytes)) (copyBytes c.bytes) .engineWrite
    rw [src] at first
    rw [dst] at second
    exact first.trans second
  have same : v.bayOf c.gid = bay := (looked.bayOf c.gid).trans here.symm
  have free : s.engineWaits (socketOf c.gid) c.entries (.copy c.gid c.bytes) = false := by
    simp only [State.engineWaits, noEntry, List.isEmpty_nil, Bool.not_true, Bool.false_or, List.any_eq_false, beq_iff_eq]
    exact noneHeld
  have rows := copyRowsFrom_last src dst quiet closed
  rw [same] at rows
  have runs : exec (.copyRecordComplete bay idx) s = .next (((v.storeAt bay q (v.loadAt c.gid bay p (copyBytes c.bytes)).2
      (v.opActor c.gid c.op) (engineScope (copyDstSpace c.bytes))).countDie (socketOf c.gid) 7 (copyBytes c.bytes)).onBay bay
        fun y => { y with started := y.started.eraseIdx idx }) := by
    rw [exec_copyRecordComplete, execCopyRecordComplete]
    simp only [started, free, noWord, noPeg, Bool.false_eq_true, if_false, show copyRows c.bytes - c.row = 1 by omega, rows]
  refine ⟨_, runs, ?_, ?_⟩
  · rw [State.onBay_mem, State.countDie_mem, storeAt_mem_actor]
  · have kept : ((v.storeAt bay q (v.loadAt c.gid bay p (copyBytes c.bytes)).2 (v.opActor c.gid c.op)
        (engineScope (copyDstSpace c.bytes))).countDie (socketOf c.gid) 7 (copyBytes c.bytes)).bays = _ := State.countDie_bays ..
    rw [State.onBay, State.setBay_bayAt_same]
    dsimp only
    rw [State.bayAt, kept, ← State.bayAt, storeAt_started, looked.bayAt]

end Sys2Proof.Machine

/-! Lanes taken out of a fibre (R19, R22, R25): the new fibre is in the weave, which is otherwise as it was but for slots. -/
namespace Sys2Proof.Machine
open Sys2Proof

/-- A fibre but for its slot in the table. -/
def Fibre.slotless (f : Fibre) : Fibre := { f with slot := none }

/-- `w` is `v` but for the slots of its fibres. -/
structure Reslotted (v w : Weave) : Prop where
  fibres : w.fibres.map Fibre.slotless = v.fibres.map Fibre.slotless
  lanes  : w.lanes = v.lanes

namespace Reslotted

variable {u v w : Weave}

theorem refl (v : Weave) : Reslotted v v := ⟨rfl, rfl⟩

theorem trans (a : Reslotted u v) (b : Reslotted v w) : Reslotted u w := ⟨b.fibres.trans a.fibres, b.lanes.trans a.lanes⟩

theorem mem (a : Reslotted v w) {x : Fibre} (hx : x ∈ w.fibres) : ∃ y ∈ v.fibres, y.slotless = x.slotless := by
  have : x.slotless ∈ v.fibres.map Fibre.slotless := a.fibres ▸ List.mem_map_of_mem hx
  exact List.mem_map.1 this

theorem symm (a : Reslotted v w) : Reslotted w v := ⟨a.fibres.symm, a.lanes.symm⟩

theorem onFibre (v : Weave) (i : Nat) (o : Option Nat) : Reslotted v (v.onFibre i fun x => { x with slot := o }) := by
  refine ⟨?_, rfl⟩
  unfold Weave.onFibre
  dsimp only
  generalize v.fibres = l
  induction l with
  | nil => rfl
  | cons x r ih =>
    unfold changeFibre
    split
    · next h =>
      obtain rfl : x.id = i := by simpa using h
      rfl
    · rw [List.map_cons, List.map_cons, ih]

theorem spillOne (v : Weave) (keep : List Nat) : Reslotted v (v.spillOne keep) := by
  unfold Weave.spillOne
  split
  · exact onFibre ..
  · exact refl v

theorem makeRoom (v : Weave) (keep : List Nat) (n k : Nat) : Reslotted v (v.makeRoom keep n k) := by
  induction k generalizing v with
  | zero => exact refl v
  | succ k ih =>
    unfold Weave.makeRoom
    split
    · exact refl v
    · exact (spillOne v keep).trans (ih _)

theorem refill (v : Weave) (k : Nat) : Reslotted v (v.refill k) := by
  induction k generalizing v with
  | zero => exact refl v
  | succ k ih =>
    unfold Weave.refill
    split
    · exact (onFibre ..).trans (ih _)
    · exact refl v

end Reslotted

theorem mem_insertFibre {f x : Fibre} {l : List Fibre} : x ∈ insertFibre f l ↔ x = f ∨ x ∈ l := by
  induction l with
  | nil => simp [insertFibre]
  | cons y r ih =>
    unfold insertFibre
    split
    · simp
    · rw [List.mem_cons, ih, List.mem_cons]
      exact or_left_comm

/-- A weave with a fibre inserted. -/
def Weave.insert (v : Weave) (f : Fibre) : Weave := { v with fibres := insertFibre { f with slot := v.freeSlot } v.fibres }

/-- One new fibre: it takes a free identifier, and room is made for it. -/
theorem addFibres_one (v : Weave) (cause : Nat) (gone : Bool) (n : Fibre) : v.addFibres cause gone [n] =
    (((if gone then { v with fibres := v.fibres.filter fun f => f.id != cause } else v).makeRoom
      (if gone then [v.freeId [] cause] else [cause, v.freeId [] cause]) 1 Config.fibreSlots).insert
        { n with id := v.freeId [] cause, slot := none }).refill Config.fibreSlots := by
  cases gone <;> rfl

/-- `w` has a fibre more than `v`, which is `n` but for its identifier, and is `v` otherwise but for slots. -/
structure Joined (n : Fibre) (v w : Weave) : Prop where
  new   : ∃ x ∈ w.fibres, ∃ i, x.slotless = { n with id := i, slot := none }
  old   : ∀ x ∈ w.fibres, (∃ i, x.slotless = { n with id := i, slot := none }) ∨ ∃ y ∈ v.fibres, y.slotless = x.slotless
  lanes : w.lanes = v.lanes

theorem addFibres_joined (v : Weave) (cause : Nat) (gone : Bool) (n : Fibre) : Joined n v (v.addFibres cause gone [n]) := by
  rw [addFibres_one]
  generalize hu : (if gone then { v with fibres := v.fibres.filter fun f => f.id != cause } else v : Weave) = u
  have sub : u.fibres ⊆ v.fibres ∧ u.lanes = v.lanes := by
    subst hu
    split
    · exact ⟨fun x hx => List.mem_of_mem_filter hx, rfl⟩
    · exact ⟨fun x hx => hx, rfl⟩
  have room := Reslotted.makeRoom u (if gone then [v.freeId [] cause] else [cause, v.freeId [] cause]) 1 Config.fibreSlots
  generalize u.makeRoom _ 1 Config.fibreSlots = r at room ⊢
  have back := Reslotted.refill (r.insert { n with id := v.freeId [] cause, slot := none }) Config.fibreSlots
  refine ⟨?_, fun x hx => ?_, back.lanes.trans (room.lanes.trans sub.2)⟩
  · obtain ⟨x, hx, e⟩ := back.symm.mem (mem_insertFibre.2 (.inl rfl))
    exact ⟨x, hx, v.freeId [] cause, e⟩
  · obtain ⟨y, hy, e⟩ := back.mem hx
    rcases mem_insertFibre.1 hy with rfl | hy
    · exact .inl ⟨v.freeId [] cause, e.symm⟩
    · obtain ⟨z, hz, e'⟩ := room.mem hy
      exact .inr ⟨z, sub.1 hz, e'.trans e⟩

theorem mem_changeFibre_of {i : Nat} {f : Fibre → Fibre} {l : List Fibre} {x : Fibre} (hx : x ∈ changeFibre i f l) :
    x ∈ l ∨ ∃ y ∈ l, x = { f y with id := i } := by
  induction l with
  | nil => exact absurd hx List.not_mem_nil
  | cons y r ih =>
    unfold changeFibre at hx
    split at hx
    · rcases List.mem_cons.1 hx with rfl | later
      · exact .inr ⟨y, List.mem_cons_self, rfl⟩
      · exact .inl (List.mem_cons_of_mem _ later)
    · rcases List.mem_cons.1 hx with rfl | later
      · exact .inl List.mem_cons_self
      · rcases ih later with old | ⟨z, hz, e⟩
        · exact .inl (List.mem_cons_of_mem _ old)
        · exact .inr ⟨z, List.mem_cons_of_mem _ hz, e⟩

theorem keeping_halts {f : Fibre} (h : f.halts = []) (m : DWord) : (f.keeping m).halts = [] := by
  unfold Fibre.keeping
  rw [h]
  dsimp only
  split
  · unfold Fibre.replayed Fibre.complete
    dsimp only
    split <;> split <;> rfl
  · rfl

/-- Some lanes taken out of a fibre of a weave in which no halt waits. -/
theorem partAll_joined (v : Weave) (f : Fibre) (m : DWord) (change : Fibre → Fibre) (halts : ∀ x ∈ v.fibres, x.halts = []) :
    ∃ w, Joined (change (f.only m)) w (v.partAll f [(m, change)]) ∧ w.lanes = v.lanes ∧ ∀ x ∈ w.fibres, x.halts = [] := by
  unfold Weave.partAll
  dsimp only
  split
  · exact ⟨v, addFibres_joined .., rfl, halts⟩
  · refine ⟨_, addFibres_joined .., rfl, fun x hx => ?_⟩
    rcases mem_changeFibre_of hx with old | ⟨y, hy, rfl⟩
    · exact halts x old
    · exact keeping_halts (halts y hy) _

end Sys2Proof.Machine

/-! The answer of one request of the lapidary (R19, R73 to R75). -/
namespace Sys2Proof.Machine
open Sys2Proof

/-- How far an answer to a lane of group `k` has come: memory as in `u`, no gauge on the group's core, and its weave `w`. -/
structure Answering (k w : Nat) (u t : State) (v : Weave) : Prop where
  mem    : t.mem = u.mem
  gauges : (t.coreAt (t.coreOf k)).gauges = []
  weave  : ∃ h, t.group k = some h ∧ h.weave w = v

namespace Answering

variable {k w : Nat} {u t t' : State} {v : Weave}

theorem logOnly (a : Answering k w u t v) (b : LogOnly k t t') : Answering k w u t' v where
  mem := b.mem.trans a.mem
  gauges := by rw [b.coreOf, b.gauges, a.gauges]
  weave := by
    obtain ⟨h, hh, e⟩ := a.weave
    obtain ⟨h', hh', e'⟩ := b.group hh
    exact ⟨h', hh', (LogOnly.weave_of_logless e' w).trans e⟩

theorem onWeave (a : Answering k w u t v) (f : Weave → Weave) : Answering k w u (t.onWeave k w f) (f v) where
  mem := (State.onWeave_mem ..).trans a.mem
  gauges := by
    obtain ⟨h, hh, -⟩ := a.weave
    have core := (WeavesOnly.onGroup t k (f := fun g => g.setWeave w (f (g.weave w))) fun _ => rfl).coreOf hh
    have same : (t.onWeave k w f).coreOf k = t.coreOf k := core
    rw [same, State.coreAt, State.onWeave_cores, ← State.coreAt, a.gauges]
  weave := by
    obtain ⟨h, hh, e⟩ := a.weave
    refine ⟨h.setWeave w (f (h.weave w)), ?_, ?_⟩
    · rw [State.onWeave_group_same, hh, Option.map_some]
    · rw [Group.setWeave_weave_same, e]

theorem onLane (a : Answering k w u t v) (l : Nat) (f : Lane → Lane) :
    Answering k w u (t.onLane k w l f) (v.setLane l (f (v.lane l))) := a.onWeave fun v => v.setLane l (f (v.lane l))

theorem reweave (a : Answering k w u t v) (f : Weave → Weave) : Answering k w u (t.reweave k w f) (f v).reage :=
  ((a.onWeave fun v => (f v).reage).logOnly (.countCore ..)).logOnly (.countCore ..)

theorem lane (a : Answering k w u t v) (l : Nat) : t.lane k w l = v.lane l := by
  obtain ⟨h, hh, e⟩ := a.weave
  rw [State.lane, hh]
  exact congrArg (Weave.lane · l) e

theorem settleHalts (a : Answering k w u t v) (calm : ∀ f ∈ v.fibres, f.halts = []) : t.settleHalts k w = t := by
  obtain ⟨h, hh, e⟩ := a.weave
  exact settleHalts_calm hh (e ▸ calm)

theorem gaugeEvents (a : Answering k w u t v) {r : FibreRef} (hr : r.gid = k) (pc : DWord) (b : Bool) (evs : List LaneEvent) :
    t.gaugeEvents r pc b evs = (t, []) := by
  unfold State.gaugeEvents
  rw [hr, a.gauges]
  rfl

/-- A read has run: the weave is that of the state read in, but for marks. -/
theorem start {s : State} {g : Group} (looked : Looked s u) (hg : s.group k = some g) (calm : (s.coreAt (s.coreOf k)).gauges = []) :
    ∃ v, Answering k w u u v ∧ v.fibres = (g.weave w).fibres := by
  obtain ⟨h, hh, e⟩ := looked.group hg
  refine ⟨h.weave w, ⟨rfl, ?_, h, hh, rfl⟩, Group.fibres_of_unmarked e w⟩
  rw [looked.coreOf, looked.coreAt, calm]

end Answering

section
variable {q : Request} {u t : State} {v : Weave} {bay : Nat}

theorem answered_logOnly (s : State) (q : Request) (k : Nat) : LogOnly k s (s.answered q) := .note ..

theorem dropRequest_logOnly (s : State) (bay : Nat) (q : Request) : LogOnly q.gid s (s.dropRequest bay q) :=
  (LogOnly.onGroup s (f := fun g => q.roots.foldl (fun g h => g.decRef h) g)
    fun g => g.foldl_logless (fun _ _ => rfl) q.roots).trans
    (.onBay _ bay fun y => { y with lap := y.lap.erase q })

theorem countStages_logOnly (s : State) (q : Request) (x : Verdict) (k : Nat) : LogOnly k s (s.countStages q x) :=
  (LogOnly.countDie ..).trans (.countDie ..)

theorem setX_answering (a : Answering q.gid q.weave u t v) (d : Nat) (x : XReg) :
    Answering q.gid q.weave u (t.setX q.gid q.weave q.lane d x) (v.setLane q.lane ((v.lane q.lane).setX d x)) :=
  (a.logOnly (.onGroup t (f := fun g => (g.incRef x.handle.toNat).decRef ((t.lane q.gid q.weave q.lane).xAt d).handle.toNat)
    fun _ => rfl)).onLane q.lane fun y => y.setX d x

theorem setX_xAt (y : Lane) (d : Nat) (x : XReg) : (y.setX d x).xAt d = x := tget_tput_same ..

/-- An XREF's interval lands in its register with its node (R75). -/
theorem xrefAnswer_goes {s : State} {g : Group} {idx : Nat} (work : s.workOn bay idx = some q) (hg : s.group q.gid = some g)
    (calm : (s.coreAt (s.coreOf q.gid)).gauges = []) {d n : Nat} {lo hi : Word} {m ran : Nat} (kind : q.kind = .xref d n)
    (ends : s.runRequest q = (u, .refined (some (lo, hi)) m ran)) :
    ∃ t, exec (.xrefAnswer bay idx) s = .next t ∧ t.mem = u.mem ∧
      (t.lane q.gid q.weave q.lane).xAt d = { lo := lo, hi := hi, handle := q.a.handle, exact := lo == hi, opq := q.a.opq } := by
  have looked := runRequest_looked s q
  rw [ends] at looked
  obtain ⟨v, a, -⟩ := Answering.start (w := q.weave) looked hg calm
  let x : XReg := { lo := lo, hi := hi, handle := q.a.handle, exact := lo == hi, opq := q.a.opq }
  have a := (((((setX_answering a d x).logOnly (answered_logOnly _ q _)).logOnly (dropRequest_logOnly _ bay q)).logOnly
    (enterRequests_logOnly bay 64 _)).logOnly (countStages_logOnly _ q (.refined (some (lo, hi)) m ran) _))
  have quiet := a.gaugeEvents (r := s.requestFibre q) rfl q.pc false [(q.lane, 6, BitVec.ofNat 64 (m + 0))]
  refine ⟨_, ?_, a.mem, ?_⟩
  · rw [exec_xrefAnswer, execXrefAnswer, work]
    dsimp only
    rw [kind, ends]
    exact congrArg (fun p : State × List (Nat × Nat × Nat) =>
      Host.Outcome.next (p.2.foldl (fun t h => t.applyHalt q.gid q.weave h) p.1)) quiet
  · rw [a.lane, Weave.setLane_lane_same, setX_xAt]

/-! A decision (R19, R67, R68, R74). -/

theorem laneBit_getLsbD (l i : Nat) : (laneBit l).getLsbD i = (decide (i < 64) && decide (i = l)) := by
  unfold laneBit
  rw [BitVec.getLsbD_shiftLeft, show (1 : DWord) = 1#64 from rfl, BitVec.getLsbD_one, Bool.eq_iff_iff]
  simp only [Bool.and_eq_true, Bool.not_eq_true', decide_eq_true_eq, decide_eq_false_iff_not]
  omega

theorem and_laneBit {m : DWord} {l : Nat} (h : m.getLsbD l = true) : m &&& laneBit l = laneBit l := by
  refine BitVec.eq_of_getLsbD_eq fun i hi => ?_
  rw [BitVec.getLsbD_and, laneBit_getLsbD]
  by_cases e : i = l
  · rw [e, h, Bool.true_and]
  · simp [e]

theorem laneBit_ne_zero {m : DWord} {l : Nat} (h : m.getLsbD l = true) : laneBit l ≠ 0 := fun zero => by
  have := laneBit_getLsbD l l
  rw [zero, decide_eq_true (BitVec.lt_of_getLsbD h)] at this
  exact absurd this (by simp)

/-- One lane of a refining fibre that its decision lets go on. -/
theorem complete_only {f : Fibre} {l : Nat} (holds : f.lanes.getLsbD l = true) (st : f.st = .refining) (replay : f.replay = 0)
    (halts : f.halts = []) : let x := (f.only (laneBit l)).complete
    x.lanes = laneBit l ∧ x.st = .ready ∧ x.pc = f.pc + BitVec.ofNat 64 f.len ∧ x.halts = [] := by
  have part : f.only (laneBit l) = { f with lanes := laneBit l, parent := f.id } := by
    simp [Fibre.only, Fibre.keeping, replay, halts, and_laneBit holds]
  rw [part]
  simp [Fibre.complete, st, Fibre.settled, halts]

theorem answerAll_one (kind : (q.kind != .topk) = true) (x : Verdict) : u.answerAll bay [(q, x)] =
    ((((((u.answered q).dropRequest bay q).tellAnswer (q, x)).answerLanes
      ((((u.answered q).dropRequest bay q).tellAnswer (q, x)).requestFibre q) [(q, x)]).onBay bay
        fun y => { y with answered := some ((((u.answered q).dropRequest bay q).tellAnswer (q, x)).answerLanes
          ((((u.answered q).dropRequest bay q).tellAnswer (q, x)).requestFibre q) [(q, x)]).cycle }).enterRequests bay 64) := by
  have topk : (q.kind == .topk) = false := by simpa using kind
  simp [State.answerAll, kind, topk, List.distinct]

theorem answerLanes_one (r : FibreRef) (o : Ordering) (n : Nat) : t.answerLanes r [(q, .decided o n)] =
    (t.onLane q.gid q.weave q.lane fun y => y.decide q.kind o).leave { r := r, done := maskOf [q.lane] } := rfl

theorem tellAnswer_calm (a : Answering q.gid q.weave u t v) (o : Ordering) (n : Nat) :
    t.tellAnswer (q, .decided o n) = t.countStages q (.decided o n) := by
  have quiet := (a.logOnly (countStages_logOnly t q (.decided o n) q.gid)).gaugeEvents (r := t.requestFibre q) rfl q.pc false
    [(q.lane, 6, BitVec.ofNat 64 (n + 0))]
  exact congrArg (fun p : State × List (Nat × Nat × Nat) => p.1.keepHalts (t.requestFibre q) p.2) quiet

/-- A weave in which a lane that has left a refining fibre goes on at the next instruction. -/
def Weave.goesOn (v : Weave) (l : Nat) (f : Fibre) : Prop :=
  ∃ x ∈ v.fibres, x.lanes = laneBit l ∧ x.st = .ready ∧ x.pc = f.pc + BitVec.ofNat 64 f.len

theorem mem_reage {v : Weave} {x : Fibre} (hx : x ∈ v.reage.fibres) : ∃ y ∈ v.fibres, x = { y with aged := x.aged } := by
  obtain ⟨y, hy, rfl⟩ := List.mem_map.1 hx
  refine ⟨y, hy, ?_⟩
  split <;> rfl

theorem reage_mem {v : Weave} {y : Fibre} (hy : y ∈ v.fibres) : ∃ x ∈ v.reage.fibres, x = { y with aged := x.aged } := by
  refine ⟨_, List.mem_map_of_mem hy, ?_⟩
  split <;> rfl

theorem reage_goesOn {l : Nat} {f : Fibre} (h : v.goesOn l f) : v.reage.goesOn l f := by
  obtain ⟨y, hy, lanes, st, pc⟩ := h
  obtain ⟨x, hx, e⟩ := reage_mem hy
  rw [e] at hx
  exact ⟨_, hx, lanes, st, pc⟩

/-- One lane's decision: the lane leaves the refining fibre and goes on; no halt waits in the weave then either. -/
theorem partAll_goesOn {f : Fibre} {l : Nat} (holds : f.lanes.getLsbD l = true) (st : f.st = .refining) (replay : f.replay = 0)
    (here : f ∈ v.fibres) (calm : ∀ x ∈ v.fibres, x.halts = []) : let w := v.partAll f [(laneBit l, Fibre.complete)]
    w.goesOn l f ∧ (∀ x ∈ w.fibres, x.halts = []) ∧ w.lanes = v.lanes := by
  obtain ⟨lanes, ready, pc, halts⟩ := complete_only holds st replay (calm f here)
  obtain ⟨w, joined, same, calm'⟩ := partAll_joined v f (laneBit l) Fibre.complete calm
  dsimp only
  refine ⟨?_, fun x hx => ?_, joined.lanes.trans same⟩
  · obtain ⟨x, hx, i, e⟩ := joined.new
    exact ⟨x, hx, (congrArg Fibre.lanes e).trans lanes, (congrArg Fibre.st e).trans ready, (congrArg Fibre.pc e).trans pc⟩
  · rcases joined.old x hx with ⟨i, e⟩ | ⟨y, hy, e⟩
    · exact (congrArg Fibre.halts e).trans halts
    · exact (congrArg Fibre.halts e).symm.trans (calm' y hy)

/-- Some lanes of a fibre of a weave that have completed its instruction, as a fibre of their own. -/
def Weave.release (v : Weave) (i : Nat) (m : DWord) : Weave :=
  match v.fibre i with
  | some f => v.partAll f [(m, Fibre.complete)]
  | none => v

theorem leave_next (r : FibreRef) {m : DWord} (hm : m ≠ 0) : t.leave { r := r, done := m } =
    (t.reweave r.gid r.weave fun v => v.release r.fid m).settleHalts r.gid r.weave := by
  unfold State.leave
  dsimp only
  rw [if_neg hm]
  rfl

/-- A lane that a decision lets go on leaves its fibre. -/
theorem leave_answering (a : Answering q.gid q.weave u t v) {f : Fibre} {r : FibreRef} (hr : r = ⟨q.gid, q.weave, f.id⟩)
    (found : v.fibre f.id = some f) (holds : f.lanes.getLsbD q.lane = true) (st : f.st = .refining) (replay : f.replay = 0)
    (calm : ∀ x ∈ v.fibres, x.halts = []) :
    ∃ w, Answering q.gid q.weave u (t.leave { r := r, done := maskOf [q.lane] }) w ∧ w.goesOn q.lane f ∧ w.lanes = v.lanes := by
  subst hr
  have mask : maskOf [q.lane] = laneBit q.lane := by simp [maskOf]
  obtain ⟨goes, calm', lanes⟩ := partAll_goesOn holds st replay (List.mem_of_find?_eq_some found) calm
  have released : v.release f.id (laneBit q.lane) = v.partAll f [(laneBit q.lane, Fibre.complete)] := by
    rw [Weave.release, found]
  have b := a.reweave fun v => v.release f.id (laneBit q.lane)
  rw [released] at b
  have still : ∀ x ∈ (v.partAll f [(laneBit q.lane, Fibre.complete)]).reage.fibres, x.halts = [] := fun x hx => by
    obtain ⟨y, hy, e⟩ := mem_reage hx
    exact (congrArg Fibre.halts e).trans (calm' y hy)
  rw [mask, leave_next _ (laneBit_ne_zero holds), b.settleHalts still]
  exact ⟨_, b, reage_goesOn goes, lanes⟩

theorem requestFibre_eq (a : Answering q.gid q.weave u t v) {f : Fibre}
    (found : v.fibres.find? (fun x => x.lanes.getLsbD q.lane) = some f) : t.requestFibre q = ⟨q.gid, q.weave, f.id⟩ := by
  obtain ⟨h, hh, e⟩ := a.weave
  unfold State.requestFibre
  rw [hh, Option.map_some, Option.getD_some, e]
  dsimp only
  rw [found]
  rfl

/-- The answer of a decided request: its lane's predicates are written, and the lane goes on. -/
theorem answerAll_decides (a : Answering q.gid q.weave u u v) (kind : (q.kind != .topk) = true) {f : Fibre}
    (found : v.fibres.find? (fun x => x.lanes.getLsbD q.lane) = some f) (st : f.st = .refining) (replay : f.replay = 0)
    (ids : (v.fibres.map (·.id)).Nodup) (calm : ∀ x ∈ v.fibres, x.halts = []) (o : Ordering) (n : Nat) :
    ∃ w, Answering q.gid q.weave u (u.answerAll bay [(q, .decided o n)]) w ∧ w.goesOn q.lane f ∧
      w.lane q.lane = (v.lane q.lane).decide q.kind o := by
  have left := (a.logOnly (answered_logOnly u q _)).logOnly (dropRequest_logOnly _ bay q)
  have told := left.logOnly (countStages_logOnly _ q (.decided o n) _)
  rw [← tellAnswer_calm left] at told
  have decided := told.onLane q.lane fun y => y.decide q.kind o
  have holds : f.lanes.getLsbD q.lane = true := by
    have := List.find?_some found
    exact this
  have here := fibre_of_nodup ids (List.mem_of_find?_eq_some found)
  obtain ⟨w, b, goes, lanes⟩ := leave_answering decided (requestFibre_eq told found) here holds st replay calm
  rw [answerAll_one kind, answerLanes_one]
  refine ⟨w, (b.logOnly (.onBay ..)).logOnly (enterRequests_logOnly ..), goes, ?_⟩
  rw [Weave.lane, lanes, ← Weave.lane, Weave.setLane_lane_same]

theorem lapidaryAnswer_next {s : State} {idx : Nat} (work : s.workOn bay idx = some q)
    (first : (s.bayAt bay).answered ≠ some s.cycle) (kind : q.kind.isXref = false) {o : Ordering} {n : Nat}
    (ends : s.runRequest q = (u, .decided o n)) :
    exec (.lapidaryAnswer bay [idx]) s = .next (u.answerAll bay [(q, .decided o n)]) := by
  have fresh : ((s.bayAt bay).answered == some s.cycle) = false := by simpa using first
  rw [exec_lapidaryAnswer, execLapidaryAnswer]
  simp only [fresh, Bool.false_eq_true, if_false, List.distinct, State.verdicts, work, ends, kind, Verdict.told]
  rfl

/-- A decided request of a lane whose fibre refines: the lane is written by its decision and goes on. -/
theorem lapidaryAnswer_goes {s : State} {g : Group} {idx : Nat} (work : s.workOn bay idx = some q) (hg : s.group q.gid = some g)
    (noGauge : (s.coreAt (s.coreOf q.gid)).gauges = []) (first : (s.bayAt bay).answered ≠ some s.cycle)
    (sort : q.kind.isXref = false ∧ (q.kind != .topk) = true) {o : Ordering} {n : Nat} {f : Fibre}
    (ends : s.runRequest q = (u, .decided o n)) (found : (g.weave q.weave).fibres.find? (fun x => x.lanes.getLsbD q.lane) = some f)
    (st : f.st = .refining) (replay : f.replay = 0) (ids : ((g.weave q.weave).fibres.map (·.id)).Nodup)
    (calm : ∀ x ∈ (g.weave q.weave).fibres, x.halts = []) :
    ∃ t, exec (.lapidaryAnswer bay [idx]) s = .next t ∧ (t.mem = u.mem ∧ ∃ h, t.group q.gid = some h ∧
        ∃ x ∈ (h.weave q.weave).fibres, x.lanes = laneBit q.lane ∧ x.st = .ready ∧ x.pc = f.pc + BitVec.ofNat 64 f.len) ∧
      t.lane q.gid q.weave q.lane = (u.lane q.gid q.weave q.lane).decide q.kind o := by
  have looked := runRequest_looked s q
  rw [ends] at looked
  obtain ⟨v, a, same⟩ := Answering.start (w := q.weave) looked hg noGauge
  rw [← same] at found ids calm
  obtain ⟨w, b, goes, lane⟩ := answerAll_decides (bay := bay) a sort.2 found st replay ids calm o n
  obtain ⟨h, hh, e⟩ := b.weave
  refine ⟨_, lapidaryAnswer_next work first sort.1 ends, ⟨b.mem, h, hh, ?_⟩, ?_⟩
  · rw [e]
    exact goes
  · rw [b.lane, lane, a.lane]

end

/-! A read that misses a page (R76, R311, R312). -/

theorem postHeld_nowhere {s : State} {k : Nat} (h : (s.die k).fqcb = 0) (n : Nat) : s.postHeld k n = s := by
  cases n with
  | zero => rfl
  | succ n =>
    unfold State.postHeld
    dsimp only
    split
    · rfl
    · rw [h]
      rfl

/-- A state in which an entry more is held. -/
def State.hold (s : State) (k : Nat) (e : FaultEntry) : State :=
  ({ s with fresh := s.fresh + 1 }.setDie k { s.die k with held := (s.die k).held ++ [{ e with taken := s.fresh }] }).countCore
    (({ s with fresh := s.fresh + 1 }.setDie k
      { s.die k with held := (s.die k).held ++ [{ e with taken := s.fresh }] }).coreOf e.gid) 12 1

theorem hold_die (s : State) (k : Nat) (e : FaultEntry) :
    (s.hold k e).die k = { s.die k with held := (s.die k).held ++ [{ e with taken := s.fresh }] } := by
  rw [State.hold, State.die, State.countCore_dies, ← State.die, State.setDie_die_same]

/-- An entry of a die without a fault queue is held. -/
theorem takeEntry_held {s : State} {k : Nat} (h : (s.die k).fqcb = 0) (e : FaultEntry) :
    ((s.takeEntry k e).die k).held = (s.die k).held ++ [{ e with taken := s.fresh }] := by
  have nowhere : ((s.hold k e).die k).fqcb = 0 := by rw [hold_die]; exact h
  have taken : s.takeEntry k e = ((s.hold k e).syncHeld k).syncTable e.gid := by
    refine Eq.trans (b := (((s.hold k e).postHeld k ((s.die k).held.length + 1)).syncHeld k).syncTable e.gid) rfl ?_
    rw [postHeld_nowhere nowhere]
  rw [taken, (syncTable_stored ..).sameHeld.held, (syncHeld_stored ..).sameHeld.held, hold_die]

/-- The entry of a request's read that misses a page. -/
def Request.entry (q : Request) (va : DWord) (kind hint : Nat) : FaultEntry :=
  { va := va, mask := laneBit q.lane, pc := q.pc, gid := q.gid, weave := q.weave, engine := true, slot := q.slot
    hint := hint, access := 4, kind := kind, who := .request q.gid q.weave q.lane, taken := 0 }

/-- A read of a request that misses a page leaves an entry of the engine. -/
theorem lapidaryTranslationFault_holds {s u : State} {bay idx : Nat} {q : Request} {va : DWord} {kd h : Nat}
    (work : s.workOn bay idx = some q) (ends : s.runRequest q = (u, .faulted (.late [(va, kd, h)])))
    (nowhere : (s.die (socketOf q.gid)).fqcb = 0) :
    ∃ t e, exec (.lapidaryTranslationFault bay idx) s = .next t ∧
        (t.die (socketOf q.gid)).held = (s.die (socketOf q.gid)).held ++ [e] ∧ e.va = va ∧ e.kind = kd ∧ e.gid = q.gid ∧
        e.engine = true ∧ e.mask = laneBit q.lane ∧ e.who = .request q.gid q.weave q.lane := by
  have looked := runRequest_looked s q
  rw [ends] at looked
  have runs : exec (.lapidaryTranslationFault bay idx) s = .next (u.takeEntry (socketOf q.gid) (q.entry va kd h)) := by
    rw [exec_lapidaryTranslationFault, execLapidaryTranslationFault, work]
    dsimp only
    rw [ends]
    rfl
  have held := takeEntry_held ((looked.held.fqcb _).trans nowhere) (q.entry va kd h)
  rw [looked.held.held] at held
  exact ⟨_, _, runs, held, rfl, rfl, rfl, rfl, rfl, rfl⟩

end Sys2Proof.Machine

/-! The lapidary, reclamation, the copy engine, arrivals and storage reads go on (O57). -/
namespace Sys2Proof.Machine
open Sys2Proof

/-- Settles O57: each event by the lemma about it: the answers of the lapidary by following the weave of the lane (`Answering`),
reclamation by what each key finds as it goes on (`Settled`), reads by what they leave as it was (`Looked`). -/
theorem bayEngines : Obligations.BayEngines := by
  unfold Obligations.BayEngines
  refine ⟨fun s bay q rest first room admitted => lapidaryRequestEnter_goes first room admitted,
    fun s u bay idx q g work hg noGauge fresh => ⟨fun o n f i ends found st replay ids calm => ?_, ?_, ?_⟩,
    fun s gid g hg own some_dead => ?_,
    fun s bay c cs rest first core turn => copyRecordStart_goes first core turn,
    fun s u v bay idx c p q m n started here last noWord noPeg noEntry noneHeld src dst quiet closed =>
      copyRecordComplete_goes started here last noWord noPeg noEntry noneHeld src dst quiet closed,
    fun s gid off bytes g a hg => arrival_goes off bytes a hg,
    fun s idx pa c q data hc peg dst len inside pair => stloadCompletion_goes hc peg dst len inside pair⟩
  case refine_1 =>
    have goes (sort : q.kind.isXref = false ∧ (q.kind != .topk) = true) :=
      lapidaryAnswer_goes work hg noGauge fresh sort ends found st replay ids calm
    constructor
    · intro cond kind
      obtain ⟨t, runs, done, lane⟩ := goes (by rw [kind]; exact ⟨rfl, rfl⟩)
      exact ⟨t, runs, done, lane.trans (by rw [kind]; rfl)⟩
    · intro j kind
      obtain ⟨t, runs, done, lane⟩ := goes (by rw [kind]; exact ⟨rfl, rfl⟩)
      exact ⟨t, runs, done, lane.trans (by rw [kind]; rfl)⟩
  case refine_2 => exact fun d n lo hi m ran kind ends => xrefAnswer_goes work hg noGauge kind ends
  case refine_3 => exact fun va kd h ends nowhere => lapidaryTranslationFault_holds work ends nowhere
  case refine_4 =>
    refine ⟨_, { g with nodes := reclaimNodes g.nodes.length g.nodes }, logReclaim_next hg some_dead, rfl, ?_, rfl, fun p hp => ?_, fun sorted pairs => ?_⟩
    · rw [← own]
      exact tfind_tins_same ..
    · exact ⟨reclaimNodes_live _ _ le_rfl p hp, reclaimNodes_among _ _ p hp⟩
    · have keyed := keyed_of_tsorted sorted
      have settled := reclaimNodes_settled keyed pairs g.nodes.length (.start keyed)
      intro freed lost p hp
      have count : lost p.1 = lostTo g.nodes (reclaimNodes g.nodes.length g.nodes) p.1 := count_freed ..
      rw [count]
      split
      · next n found => exact settled.refs_of_kept keyed hp found
      · next gone => exact settled.refs_of_freed keyed hp gone

end Sys2Proof.Machine

/-! Fields of words and the rows of the instructions: what the decoder and the encoder both speak of (R101 to R120). -/
namespace Sys2Proof

/-! Fields of a word. -/

theorem bitsAt_eq {w : Nat} (v : BitVec w) (lo n : Nat) : bitsAt v lo n = v.toNat / 2 ^ lo % 2 ^ n := by
  rw [bitsAt, Nat.shiftRight_eq_div_pow]

theorem bitsAt_lt {w : Nat} (v : BitVec w) (lo n : Nat) : bitsAt v lo n < 2 ^ n := Nat.mod_lt _ (Nat.two_pow_pos n)

theorem bitsAt_ofNat (x lo n : Nat) (h : lo + n ≤ 32) : bitsAt (BitVec.ofNat 32 x) lo n = x / 2 ^ lo % 2 ^ n := by
  rw [bitsAt_eq, BitVec.toNat_ofNat, ← Nat.add_sub_cancel' (show lo ≤ 32 by omega), pow_add, Nat.mod_mul_right_div_self]
  exact Nat.mod_mod_of_dvd _ (pow_dvd_pow 2 (by omega))

theorem ofNat_bitsAt {w : Nat} (v : BitVec w) (lo n : Nat) : (BitVec.ofNat n (bitsAt v lo n)).toNat = bitsAt v lo n := by
  rw [BitVec.toNat_ofNat, Nat.mod_eq_of_lt (bitsAt_lt v lo n)]

/-- A flag in a bit of a word adds that bit's weight. -/
theorem flag_weight {w : Nat} (v : BitVec w) (lo c : Nat) :
    (if (bitsAt v lo 1 == 1) = true then c else 0) = bitsAt v lo 1 * c := by
  obtain h | h : bitsAt v lo 1 = 0 ∨ bitsAt v lo 1 = 1 := by have := bitsAt_lt v lo 1; omega
  all_goals simp [h]

theorem lowWord_pairOf (a b : Word) : lowWord (pairOf a b) = a := by
  rw [lowWord, pairOf]
  exact BitVec.setWidth_append_eq_right

theorem highWord_pairOf (a b : Word) : highWord (pairOf a b) = b := by
  apply BitVec.eq_of_getLsbD_eq
  intro i hi
  simp only [highWord, pairOf, BitVec.getLsbD_setWidth, BitVec.getLsbD_ushiftRight, BitVec.getLsbD_append, hi]
  simp

theorem pairOf_words (v : DWord) : pairOf (lowWord v) (highWord v) = v := by
  apply BitVec.eq_of_getLsbD_eq
  intro i hi
  simp only [highWord, pairOf, lowWord, BitVec.getLsbD_append, BitVec.getLsbD_setWidth, BitVec.getLsbD_ushiftRight]
  split
  · next h => simp [h]
  · next h => simp [show i - 32 < 32 by omega, show 32 + (i - 32) = i by omega]

/-- The words of a literal (R111). -/
def litWords : Option DWord → List Word
  | none => []
  | some v => [lowWord v, highWord v]

/-! Answers of the decoder. -/

theorem lowestCause_eq_none {l : List Nat} : lowestCause l = none ↔ l = [] := by
  cases l with
  | nil => simp [lowestCause]
  | cons c t =>
    simp only [lowestCause, reduceCtorEq, iff_false]
    split <;> simp

theorem answer_eq_ok {cs : List Nat} {x : Option Instr} {i : Instr} : answer cs x = .ok i ↔ cs = [] ∧ x = some i := by
  rw [← lowestCause_eq_none]
  unfold answer
  cases lowestCause cs <;> cases x <;> simp

/-! The row of an instruction: its major form, whether it is the base row, and its operands. -/

/-- `i` is the instruction of a row with operands `o`. -/
structure Instr.Is (i : Instr) (m : Major) (isBase : Bool) (o : Op) : Prop where
  major : i.major = some (m, isBase)
  op    : i.op = some o

variable {i : Instr} {m : Major} {o : Op} {isBase joiner : Bool}

theorem Instr.is_ofExt : (Instr.ofExt m o).Is m false o := by cases m <;> exact ⟨rfl, rfl⟩

theorem Instr.is_of_ofBase (h : Instr.ofBase m o = some i) : i.Is m true o := by
  cases m <;> cases h <;> exact ⟨rfl, rfl⟩

theorem Instr.Is.ofExt (h : i.Is m false o) : Instr.ofExt m o = i := by
  obtain ⟨hm, ho⟩ := h
  cases i <;> cases hm <;> cases ho <;> rfl

theorem Instr.Is.ofBase (h : i.Is m true o) : Instr.ofBase m o = some i := by
  obtain ⟨hm, ho⟩ := h
  cases i <;> cases hm <;> cases ho <;> rfl

theorem Instr.Is.wf_iff (h : i.Is m isBase o) :
    i.wf joiner = true ↔ m.shape isBase o = true ∧ m.lateCauses joiner o = [] := by
  simp [Instr.wf, h.major, h.op]

theorem Instr.Is.encode (h : i.Is m isBase o) : encode i = encodeOp m o := by
  simp [Sys2Proof.encode, h.major, h.op]

theorem Instr.is_of_wf (h : i.wf joiner = true) : ∃ m isBase o, i.Is m isBase o := by
  unfold Instr.wf at h
  split at h
  · next m b o hm ho => exact ⟨m, b, o, hm, ho⟩
  · cases h

/-! Opcodes (Tables 45 to 47). -/

theorem Major.code_bounds (m : Major) : m.code.1 < 127 ∧ m.code.2 < 64 := by cases m <;> decide

theorem majorOfOpc_code {opc op : Nat} {m : Major} (h : majorOfOpc opc op = some m) : m.code = (opc, 0) := by
  unfold majorOfOpc at h
  split at h
  case h_118 =>
    cases h
    split <;> rfl
  all_goals cases h <;> rfl

theorem majorOfGroup_code {opc sub : Nat} {m : Major} (h : majorOfGroup opc sub = some m) : m.code = (opc, sub) := by
  unfold majorOfGroup at h
  split at h <;> cases h <;> rfl

theorem majorOfOpc_of_layout {l : Layout} (h : m.layout = some l) : majorOfOpc m.code.1 0 = some m := by
  cases m <;> cases h <;> rfl

theorem Major.sub_of_layout {l : Layout} (h : m.layout = some l) : m.code.2 = 0 := by
  cases m <;> cases h <;> rfl

/-- The major form that the opcode fields of an extended form name. -/
def majorAt (opc sub op : Nat) : Option Major :=
  if isGroupOpc opc then majorOfGroup opc sub else if sub == 0 then majorOfOpc opc op else none

theorem majorAt_code {opc sub op : Nat} (h : majorAt opc sub op = some m) : m.code = (opc, sub) := by
  unfold majorAt at h
  split at h
  · exact majorOfGroup_code h
  · split at h
    · next hs => rw [majorOfOpc_code h, eq_of_beq hs]
    · cases h

theorem majorAt_of_modOk {mod : BitVec 16} {aIsX : Bool} (h : m.modOk mod aIsX = true) :
    majorAt m.code.1 m.code.2 (bitsAt mod 0 2) = some m := by
  cases m
  case topkClr | topkIns | topkRd =>
    simp only [Major.modOk, Bool.and_eq_true, beq_iff_eq] at h
    simp [h, majorAt, Major.code, isGroupOpc, majorOfOpc]
  all_goals rfl

end Sys2Proof

/-! Extended forms (R112 to R117): what the decoder takes from their words is what the encoder puts there. -/
namespace Sys2Proof

variable {i : Instr} {m : Major} {o : Op} {isBase joiner : Bool} {w0 w1 w2 : Word} {lit : Option DWord}

/-! One slot. -/

theorem spec_opndOf {raw : Nat} (h : raw < 256) : (opndOf raw).spec = raw := by
  unfold opndOf
  split_ifs <;> simp only [Opnd.spec, BitVec.toNat_ofNat] <;> omega

theorem opndOf_spec {x : Opnd} (hn : x ≠ .none) (hi : x ≠ .imm) : opndOf x.spec = x := by
  cases x with
  | none => exact absurd rfl hn
  | imm => exact absurd rfl hi
  | g i | x i | a i | p i | q i | k i => clear hn hi; revert i; decide

theorem opndOf_isReg (raw : Nat) : opndOf raw ≠ .none ∧ opndOf raw ≠ .imm := by
  unfold opndOf
  split_ifs <;> simp

theorem Opnd.spec_lt (x : Opnd) : x.spec < 256 := by
  cases x <;> simp only [Opnd.spec] <;> omega

/-- What the checks of a slot let through: an operand that the slot accepts, with its own specifier in the slot. -/
theorem slotCause_eq_nil {l : List Cls} {isImm : Bool} {raw : Nat} (h : raw < 256) :
    slotCause l (extOpnd l isImm raw) raw = [] ↔
      slotOk l (extOpnd l isImm raw) = true ∧ (extOpnd l isImm raw).spec = raw := by
  cases isImm with
  | true => simp [extOpnd, slotCause, slotOk, Opnd.fits, Opnd.spec, @eq_comm _ 0]
  | false =>
    cases l with
    | nil => simp [extOpnd, slotCause, slotOk, Opnd.spec, @eq_comm _ 0]
    | cons t r =>
      obtain ⟨hn, hi⟩ := opndOf_isReg raw
      have reg : slotCause (t :: r) (opndOf raw) raw = (if (opndOf raw).fits (t :: r) then [] else [5]) ∧
          slotOk (t :: r) (opndOf raw) = (opndOf raw).fits (t :: r) := by
        generalize opndOf raw = x at hn hi
        cases x with
        | none => exact absurd rfl hn
        | imm => exact absurd rfl hi
        | _ => exact ⟨rfl, rfl⟩
      simp [extOpnd, reg, spec_opndOf h]

/-- An operand that its slot accepts is read back from its specifier. -/
theorem extOpnd_spec {l : List Cls} {x : Opnd} {isImm : Bool} (hs : slotOk l x = true) (hi : isImm = (x == .imm)) :
    extOpnd l isImm x.spec = x := by
  subst hi
  cases l with
  | nil => cases x <;> simp_all [extOpnd, slotOk, Opnd.fits]
  | cons t r =>
    by_cases h : x = .imm
    · simp [h, extOpnd]
    · have hn : x ≠ .none := by rintro rfl; cases hs
      simp [extOpnd, h, opndOf_spec hn h]

/-! The slot of the immediate (R116). -/

theorem Op.immSlot_lt (o : Op) : o.immSlot < 4 := by
  unfold Op.immSlot
  split_ifs <;> decide

/-- With at most one immediate, the number of its slot names it. -/
theorem Op.immSlot_names (h : o.oneImm = true) :
    (o.immSlot == 1) = (o.a == .imm) ∧ (o.immSlot == 2) = (o.b == .imm) ∧ (o.immSlot == 3) = (o.c == .imm) := by
  unfold Op.oneImm at h
  unfold Op.immSlot
  cases ha : o.a == .imm <;> cases hb : o.b == .imm <;> cases hc : o.c == .imm <;> simp_all

/-! The decoder of an extended form, taken apart: the operands it reads, and the causes it finds. -/

/-- The operands in the words of an extended form of a major form. -/
def extOp (m : Major) (w0 w1 w2 : Word) (lit : Option DWord) : Op :=
  let mod := BitVec.ofNat 16 (bitsAt w0 16 16)
  let s := m.slots mod
  let lsel := bitsAt w2 8 2
  { form := if lit == none then .ext else .extLit
    un := bitsAt w0 2 1 == 1
    mod := mod
    d := extOpnd s.1 false (bitsAt w1 0 8)
    a := extOpnd s.2.1 (lsel == 1) (bitsAt w1 8 8)
    b := extOpnd s.2.2.1 (lsel == 2) (bitsAt w1 16 8)
    c := extOpnd s.2.2.2 (lsel == 3) (bitsAt w1 24 8)
    imm22 := BitVec.ofNat 22 (bitsAt w2 10 22)
    lit := lit
    scope := BitVec.ofNat 4 (bitsAt w2 4 4)
    neg := bitsAt w2 3 1 == 1
    pred := BitVec.ofNat 3 (bitsAt w2 0 3) }

/-- Whether the operand in slot A is an X register. -/
def Op.aIsX (o : Op) : Bool := match o.a with
  | .x _ => true
  | _ => false

/-- The causes of the slots: ATOM without a result has its own check of D (R207). -/
def Major.slotCauses (m : Major) (o : Op) (w1 : Word) : List Nat :=
  let s := m.slots o.mod
  (if m == .atom && bitsAt o.mod 7 1 == 1 && bitsAt w1 0 8 != 0 then [5] else slotCause s.1 o.d (bitsAt w1 0 8)) ++
  slotCause s.2.1 o.a (bitsAt w1 8 8) ++ slotCause s.2.2.1 o.b (bitsAt w1 16 8) ++ slotCause s.2.2.2 o.c (bitsAt w1 24 8)

/-- The causes of the other fields, LSEL being the slot of the immediate. -/
def Major.fieldCauses (m : Major) (o : Op) (lsel : Nat) : List Nat :=
  let isScoped := bitsAt o.mod 15 1 == 1
  (if m.modOk o.mod o.aIsX then [] else [4]) ++
  ((if m.scopes then
    (if (isScoped && m.scopeOk o.mod o.scope.toNat) || (!isScoped && o.scope == 0) then [] else [6])
   else if o.scope == 0 then [] else [4]) ++
  ((if m.own != .none || ((o.lit == none) != (lsel == 0)) || o.imm22 == 0 then [] else [4]) ++
  ((if o.lit != none && ((lsel == 0 && m.own == .none) || m == .trap || m == .sysc) then [8] else []) ++
  (if m == .dist && o.c == .k 127 then [5] else []))))

theorem decodeExt_eq (joiner : Bool) (w0 w1 w2 : Word) (lit : Option DWord) :
    decodeExt joiner w0 w1 w2 lit =
      match majorAt (bitsAt w0 3 7) (bitsAt w0 10 6) (bitsAt (BitVec.ofNat 16 (bitsAt w0 16 16)) 0 2) with
      | none => .error 2
      | some m =>
        let o := extOp m w0 w1 w2 lit
        answer (m.slotCauses o w1 ++ m.fieldCauses o (bitsAt w2 8 2) ++ m.lateCauses joiner o) (Instr.ofExt m o) := by
  unfold decodeExt majorAt Major.slotCauses Major.fieldCauses
  simp only [List.append_assoc]
  rfl

/-- A form with its literal, as the decoder of extended forms gives it. -/
def Op.extForm (o : Op) : Prop := o.form = if o.lit == none then .ext else .extLit

/-- Every slot holds an operand that it accepts. -/
def Major.slotsOk (m : Major) (o : Op) : Prop :=
  let s := m.slots o.mod
  slotOk s.1 o.d = true ∧ slotOk s.2.1 o.a = true ∧ slotOk s.2.2.1 o.b = true ∧ slotOk s.2.2.2 o.c = true

/-- The bytes of word 1 are the specifiers of the operands (Table 43). -/
def Op.specsIn (o : Op) (w1 : Word) : Prop :=
  o.d.spec = bitsAt w1 0 8 ∧ o.a.spec = bitsAt w1 8 8 ∧ o.b.spec = bitsAt w1 16 8 ∧ o.c.spec = bitsAt w1 24 8

theorem causeUnless_eq_nil {b : Bool} {n : Nat} : (if b = true then [] else [n]) = [] ↔ b = true := by simp

theorem causeIf_eq_nil {b : Bool} {n : Nat} : (if b = true then [n] else []) = [] ↔ (!b) = true := by simp

/-- The shape of an extended form is that its slots fit and its fields show no cause. The decoder lets IMM22 pass also beside a
literal without a slot (`own`), which it refuses by cause 8. -/
theorem extShape_iff (hf : o.extForm) :
    m.extShape o = true ↔ o.oneImm = true ∧ m.slotsOk o ∧ m.fieldCauses o o.immSlot = [] := by
  have isLit : (o.form == .ext) = (o.lit == none) ∧ (o.form == .extLit) = !(o.lit == none) := by
    rw [hf]
    cases o.lit <;> exact ⟨rfl, rfl⟩
  have own : ∀ ownNone noLit noImm trap sysc zero : Bool,
      ((!ownNone || (!(noLit == noImm)) || zero) = true ∧ (!(!noLit && (noImm && ownNone || trap || sysc))) = true) ↔
        ((!ownNone || (noLit && !noImm) || zero) = true ∧ (!(!noLit && (noImm && ownNone || trap || sysc))) = true) := by decide
  have scope : ∀ (uses a b : Bool), (if uses = true then (if a = true then [] else [6]) else if b = true then [] else [4]) = [] ↔
      (if uses = true then a else b) = true := by decide
  have same := own (m.own == .none) (o.lit == none) (o.immSlot == 0) (m == .trap) (m == .sysc) (o.imm22 == 0)
  unfold Major.extShape Major.fieldCauses Major.slotsOk
  simp only [isLit, bne, List.append_eq_nil_iff, causeUnless_eq_nil, causeIf_eq_nil, scope]
  simp only [Bool.and_eq_true, and_assoc, Op.aIsX]
  tauto

theorem extOpnd_eq_imm {l : List Cls} {isImm : Bool} {raw : Nat} : extOpnd l isImm raw = .imm ↔ isImm = true := by
  cases isImm with
  | true => simp [extOpnd]
  | false =>
    have := (opndOf_isReg raw).2
    simp only [extOpnd, Bool.false_eq_true, if_false, iff_false]
    split_ifs <;> simp [this]

theorem extOp_immSlot : (extOp m w0 w1 w2 lit).immSlot = bitsAt w2 8 2 := by
  have := bitsAt_lt w2 8 2
  simp only [Op.immSlot, extOp, beq_iff_eq, extOpnd_eq_imm]
  split_ifs <;> omega

theorem extOp_oneImm : (extOp m w0 w1 w2 lit).oneImm = true := by
  simp [Op.oneImm, extOp, extOpnd_eq_imm]
  omega

/-- ATOM without a result has no use for D: its own check of D says no more than the slot's. -/
theorem atomCause_eq_nil {isBad : Bool} {l : List Cls} {x : Opnd} {raw : Nat} (h : isBad = true → slotCause l x raw ≠ []) :
    (if isBad = true then [5] else slotCause l x raw) = [] ↔ slotCause l x raw = [] := by
  cases isBad with
  | false => simp
  | true => simpa using h rfl

theorem slotCauses_eq_nil :
    m.slotCauses (extOp m w0 w1 w2 lit) w1 = [] ↔
      m.slotsOk (extOp m w0 w1 w2 lit) ∧ (extOp m w0 w1 w2 lit).specsIn w1 := by
  have byte (k : Nat) : bitsAt w1 k 8 < 256 := bitsAt_lt w1 k 8
  have bad : (m == .atom && bitsAt (extOp m w0 w1 w2 lit).mod 7 1 == 1 && bitsAt w1 0 8 != 0) = true →
      slotCause (m.slots (extOp m w0 w1 w2 lit).mod).1 (extOp m w0 w1 w2 lit).d (bitsAt w1 0 8) ≠ [] := by
    intro h
    simp only [Bool.and_eq_true, beq_iff_eq, bne_iff_ne] at h
    obtain ⟨⟨rfl, noResult⟩, raw⟩ := h
    have unused : (Major.atom.slots (extOp .atom w0 w1 w2 lit).mod).1 = [] := by simp [Major.slots, noResult]
    have none : (extOp .atom w0 w1 w2 lit).d = .none := by
      show extOpnd (Major.atom.slots (extOp .atom w0 w1 w2 lit).mod).1 false _ = _
      rw [unused]
      rfl
    simp [none, slotCause, raw]
  unfold Major.slotCauses Major.slotsOk Op.specsIn
  simp only [List.append_eq_nil_iff]
  rw [atomCause_eq_nil bad]
  simp only [extOp, slotCause_eq_nil (byte _)]
  tauto

theorem extOp_extForm : (extOp m w0 w1 w2 lit).extForm := rfl

/-- The decoder of extended forms finds no cause just where the operands that it has read have the shape of the form, show
no later cause, and stand in word 1 by their specifiers. -/
theorem extCauses_eq_nil :
    m.slotCauses (extOp m w0 w1 w2 lit) w1 ++ m.fieldCauses (extOp m w0 w1 w2 lit) (bitsAt w2 8 2) ++
        m.lateCauses joiner (extOp m w0 w1 w2 lit) = [] ↔
      m.extShape (extOp m w0 w1 w2 lit) = true ∧ m.lateCauses joiner (extOp m w0 w1 w2 lit) = [] ∧
        (extOp m w0 w1 w2 lit).specsIn w1 := by
  rw [extShape_iff extOp_extForm, extOp_immSlot]
  simp only [List.append_eq_nil_iff, slotCauses_eq_nil, extOp_oneImm]
  tauto

/-! The words. -/

/-- Word 0 of an extended form (Table 43). -/
def extWord0 (m : Major) (o : Op) : Word := BitVec.ofNat 32 (wordLow m o + m.code.2 * 2 ^ 10 + o.mod.toNat * 2 ^ 16)

/-- Word 1 of an extended form (Table 43). -/
def extWord1 (o : Op) : Word :=
  BitVec.ofNat 32 (o.d.spec + o.a.spec * 2 ^ 8 + o.b.spec * 2 ^ 16 + o.c.spec * 2 ^ 24)

/-- Word 2 of an extended form (Table 43). -/
def extWord2 (o : Op) : Word :=
  BitVec.ofNat 32 (o.pred.toNat + (if o.neg then 8 else 0) + o.scope.toNat * 2 ^ 4 + o.immSlot * 2 ^ 8 +
    o.imm22.toNat * 2 ^ 10)

theorem encodeExt_eq (m : Major) (o : Op) : encodeExt m o = extWord0 m o :: extWord1 o :: extWord2 o :: litWords o.lit := by
  unfold encodeExt
  cases o.lit <;> rfl

theorem extWord0_extOp (hc : m.code = (bitsAt w0 3 7, bitsAt w0 10 6)) (hl : (extOp m w0 w1 w2 lit).form.len = bitsAt w0 0 2) :
    extWord0 m (extOp m w0 w1 w2 lit) = w0 := by
  have un : (if (extOp m w0 w1 w2 lit).un = true then 4 else 0) = bitsAt w0 2 1 * 4 := flag_weight w0 2 4
  have mod : (extOp m w0 w1 w2 lit).mod.toNat = bitsAt w0 16 16 := ofNat_bitsAt w0 16 16
  rw [extWord0, wordLow, hl, hc, un, mod]
  apply BitVec.eq_of_toNat_eq
  simp only [BitVec.toNat_ofNat, bitsAt_eq]
  have := w0.isLt
  omega

theorem extWord1_of_specsIn (h : o.specsIn w1) : extWord1 o = w1 := by
  obtain ⟨hd, ha, hb, hc⟩ := h
  unfold extWord1
  rw [hd, ha, hb, hc]
  apply BitVec.eq_of_toNat_eq
  simp only [BitVec.toNat_ofNat, bitsAt_eq]
  have := w1.isLt
  omega

theorem extWord2_extOp : extWord2 (extOp m w0 w1 w2 lit) = w2 := by
  have neg : (if (extOp m w0 w1 w2 lit).neg = true then 8 else 0) = bitsAt w2 3 1 * 8 := flag_weight w2 3 8
  have pred : (extOp m w0 w1 w2 lit).pred.toNat = bitsAt w2 0 3 := ofNat_bitsAt w2 0 3
  have scope : (extOp m w0 w1 w2 lit).scope.toNat = bitsAt w2 4 4 := ofNat_bitsAt w2 4 4
  have imm : (extOp m w0 w1 w2 lit).imm22.toNat = bitsAt w2 10 22 := ofNat_bitsAt w2 10 22
  rw [extWord2, extOp_immSlot, neg, pred, scope, imm]
  apply BitVec.eq_of_toNat_eq
  simp only [BitVec.toNat_ofNat, bitsAt_eq]
  have := w2.isLt
  omega

/-- The row of an extended form, and its words. -/
theorem wf_encode_of_ext (hx : m.extShape o = true) (hc : m.lateCauses joiner o = []) (hf : o.extForm) :
    (Instr.ofExt m o).wf joiner = true ∧
      encode (Instr.ofExt m o) = extWord0 m o :: extWord1 o :: extWord2 o :: litWords o.lit := by
  rw [Instr.is_ofExt.wf_iff, Instr.is_ofExt.encode, ← encodeExt_eq]
  unfold Op.extForm at hf
  cases hl : o.lit <;> simp [hl] at hf <;> simp [Major.shape, Op.litShape, encodeOp, hf, hl, hx, hc]

/-- What the decoder of extended forms answers is well-formed, and its encoding is the words it was read from. -/
theorem encode_of_decodeExt (hl : bitsAt w0 0 2 = if lit == none then 1 else 2) (h : decodeExt joiner w0 w1 w2 lit = .ok i) :
    i.wf joiner = true ∧ encode i = w0 :: w1 :: w2 :: litWords lit := by
  rw [decodeExt_eq] at h
  split at h
  · cases h
  · next m hm =>
    obtain ⟨causes, e⟩ := answer_eq_ok.mp h
    cases e
    obtain ⟨shape, late, specs⟩ := extCauses_eq_nil.mp causes
    have len : (extOp m w0 w1 w2 lit).form.len = bitsAt w0 0 2 := by
      rw [hl]
      cases lit <;> rfl
    have words := wf_encode_of_ext shape late extOp_extForm
    rwa [extWord0_extOp (majorAt_code hm) len, extWord1_of_specsIn specs, extWord2_extOp] at words

/-! The operands read back from the words. -/

theorem Form.len_lt (f : Form) : f.len < 4 := by cases f <;> decide

theorem fields_extWord0 (m : Major) (o : Op) :
    bitsAt (extWord0 m o) 0 2 = o.form.len ∧ (bitsAt (extWord0 m o) 2 1 == 1) = o.un ∧ bitsAt (extWord0 m o) 3 7 = m.code.1 ∧
      bitsAt (extWord0 m o) 10 6 = m.code.2 ∧ bitsAt (extWord0 m o) 16 16 = o.mod.toNat := by
  have len := o.form.len_lt
  have mod := o.mod.isLt
  obtain ⟨code, sub⟩ := m.code_bounds
  unfold extWord0 wordLow
  simp (disch := decide) only [bitsAt_ofNat]
  cases o.un <;> simp <;> omega

theorem fields_extWord1 (o : Op) :
    bitsAt (extWord1 o) 0 8 = o.d.spec ∧ bitsAt (extWord1 o) 8 8 = o.a.spec ∧ bitsAt (extWord1 o) 16 8 = o.b.spec ∧
      bitsAt (extWord1 o) 24 8 = o.c.spec := by
  have hd := o.d.spec_lt
  have ha := o.a.spec_lt
  have hb := o.b.spec_lt
  have hc := o.c.spec_lt
  unfold extWord1
  simp (disch := decide) only [bitsAt_ofNat]
  omega

theorem fields_extWord2 (o : Op) :
    bitsAt (extWord2 o) 0 3 = o.pred.toNat ∧ (bitsAt (extWord2 o) 3 1 == 1) = o.neg ∧
      bitsAt (extWord2 o) 4 4 = o.scope.toNat ∧ bitsAt (extWord2 o) 8 2 = o.immSlot ∧
      bitsAt (extWord2 o) 10 22 = o.imm22.toNat := by
  have pred := o.pred.isLt
  have scope := o.scope.isLt
  have slot := o.immSlot_lt
  have imm := o.imm22.isLt
  unfold extWord2
  simp (disch := decide) only [bitsAt_ofNat]
  cases o.neg <;> simp <;> omega

/-- The operands that the decoder of extended forms reads in the words of some operands are those operands. -/
theorem extOp_words (hf : o.extForm) (hi : o.oneImm = true) (hs : m.slotsOk o) :
    extOp m (extWord0 m o) (extWord1 o) (extWord2 o) o.lit = o := by
  obtain ⟨-, un, -, -, mod⟩ := fields_extWord0 m o
  obtain ⟨d, a, b, c⟩ := fields_extWord1 o
  obtain ⟨pred, neg, scope, slot, imm⟩ := fields_extWord2 o
  obtain ⟨isA, isB, isC⟩ := Op.immSlot_names hi
  obtain ⟨okD, okA, okB, okC⟩ := hs
  have notD : false = (o.d == .imm) := by
    simp only [Op.oneImm, Bool.and_eq_true] at hi
    simpa using hi.1.1
  unfold extOp
  simp only [un, mod, d, a, b, c, pred, neg, scope, slot, imm, isA, isB, isC, BitVec.ofNat_toNat, BitVec.setWidth_eq, extOpnd_spec okD notD,
    extOpnd_spec okA rfl, extOpnd_spec okB rfl, extOpnd_spec okC rfl]
  rw [← show o.form = _ from hf]

/-- The words of a well-formed extended form are read as the instruction that they encode. -/
theorem decodeExt_words (hf : o.extForm) (hx : m.extShape o = true) (hc : m.lateCauses joiner o = []) :
    decodeExt joiner (extWord0 m o) (extWord1 o) (extWord2 o) o.lit = .ok (Instr.ofExt m o) := by
  obtain ⟨hi, hs, fields⟩ := (extShape_iff hf).mp hx
  have modOk : m.modOk o.mod o.aIsX = true := causeUnless_eq_nil.mp (List.append_eq_nil_iff.mp fields).1
  obtain ⟨-, -, opc, sub, mod⟩ := fields_extWord0 m o
  have specs : o.specsIn (extWord1 o) := by
    obtain ⟨d, a, b, c⟩ := fields_extWord1 o
    exact ⟨d.symm, a.symm, b.symm, c.symm⟩
  have same := extOp_words hf hi hs
  have causes := (extCauses_eq_nil (m := m) (w0 := extWord0 m o) (w1 := extWord1 o) (w2 := extWord2 o) (lit := o.lit)
    (joiner := joiner)).mpr (by rw [same]; exact ⟨hx, hc, specs⟩)
  rw [decodeExt_eq, opc, sub, mod, BitVec.ofNat_toNat, BitVec.setWidth_eq, majorAt_of_modOk modOk]
  dsimp only
  rw [same] at causes ⊢
  exact answer_eq_ok.mpr ⟨causes, rfl⟩

end Sys2Proof

/-! Base forms (R105 to R111): one word in one of three layouts, with or without a literal after it. -/
namespace Sys2Proof

variable {i : Instr} {m : Major} {o : Op} {joiner : Bool} {w : Word} {lit : Option DWord}

/-- A form with its literal, as the decoder of base forms gives it. -/
def Op.baseForm (o : Op) : Prop := o.form = if o.lit == none then .base else .baseLit

theorem Op.baseForm.len (hf : o.baseForm) : o.form.len = if o.lit == none then 0 else 3 := by
  rw [show o.form = _ from hf]
  cases o.lit <;> rfl

/-- The words of a base form. -/
theorem encodeOp_base (hf : o.baseForm) : encodeOp m o = encodeBaseWord m o :: litWords o.lit := by
  unfold Op.baseForm at hf
  cases hl : o.lit <;> simp [hl] at hf <;> simp [encodeOp, hf, hl, litWords]

/-- The row of a base form: the base row, or the extended row where a literal follows. -/
def rowOf (m : Major) (o : Op) : Option Instr := if o.lit == none then Instr.ofBase m o else some (Instr.ofExt m o)

theorem Instr.is_of_rowOf (h : rowOf m o = some i) : i.Is m (o.lit == none) o := by
  unfold rowOf at h
  split at h
  · next e => rw [e]; exact Instr.is_of_ofBase h
  · next e => cases h; rw [eq_false_of_ne_true e]; exact Instr.is_ofExt

theorem Instr.Is.rowOf (h : i.Is m (o.lit == none) o) : rowOf m o = some i := by
  unfold Sys2Proof.rowOf
  split
  · next e => rw [e] at h; exact h.ofBase
  · next e => rw [eq_false_of_ne_true e] at h; rw [h.ofExt]

/-! One field of a B3 form (R106). -/

theorem Opnd.field_lt (x : Opnd) : x.field < 64 := by
  cases x <;> simp only [Opnd.field] <;> omega

/-- What the checks of a base field let through: a register of the class that the field names, by its number. -/
theorem baseCause_eq_nil {l : List Cls} {v : Nat} (h : v < 64) :
    baseCause l v = [] ↔ baseSlotOk l (baseOpnd l v) = true ∧ (baseOpnd l v).field = v := by
  unfold baseCause baseOpnd
  cases he : l.isEmpty
  case true => simp [baseSlotOk, he, Opnd.field, @eq_comm _ 0]
  cases hx : l.contains .x
  case true => simp only [baseSlotOk, Opnd.field, hx]; simp
  cases hg : (l.contains .g || l.contains .g2)
  case true => simp only [baseSlotOk, Opnd.field, hx, hg]; simpa using h
  cases hp : l.contains .p
  case true =>
    rw [Bool.or_eq_false_iff] at hg
    simp only [baseSlotOk, Opnd.field, hx, hg, hp]; simp
  simp [baseSlotOk, he]

/-- A register that its field names is read back from its number. -/
theorem baseOpnd_field {l : List Cls} {x : Opnd} (h : baseSlotOk l x = true) : baseOpnd l x.field = x := by
  have used : x ≠ .none → l.isEmpty = false := by
    intro hn
    cases l with
    | nil => cases x <;> simp_all [baseSlotOk]
    | cons => rfl
  unfold baseOpnd
  cases x with
  | none => simp_all [baseSlotOk]
  | x k | g k | p k =>
    rw [used (by simp)]
    simp only [baseSlotOk, Bool.and_eq_true, Bool.not_eq_true'] at h
    simp only [h, Opnd.field, BitVec.ofNat_toNat, BitVec.setWidth_eq, Bool.false_eq_true, if_false, if_true, Bool.or_false]
  | imm | a k | q k | k k => cases h

theorem baseOpnd_ne_imm (l : List Cls) (v : Nat) : baseOpnd l v ≠ .imm := by
  unfold baseOpnd
  split_ifs <;> simp

/-! FN (Table 52). -/

theorem Major.modFn_lt (m : Major) (mod : BitVec 16) : m.modFn mod < 8 := by
  unfold Major.modFn
  split <;> exact bitsAt_lt _ _ 3

theorem Major.mod_of_fnMod {fn : Nat} {mod : BitVec 16} (hm : m ≠ .iset) (h : m.fnMod fn = some mod) :
    mod = BitVec.ofNat 16 fn := by
  unfold Major.fnMod at h
  split at h
  case h_11 => exact absurd rfl hm
  all_goals simp_all

theorem Major.modFn_of_fnMod {fn : Nat} {mod : BitVec 16} (hf : fn < 8) (h : m.fnMod fn = some mod) : m.modFn mod = fn := by
  by_cases hm : m = .iset
  · subst hm
    obtain ⟨-, rfl⟩ : fn < 6 ∧ BitVec.ofNat 16 fn <<< 5 = mod := by simpa [Major.fnMod] using h
    show bitsAt _ 5 3 = fn
    rw [bitsAt_eq, BitVec.toNat_shiftLeft, BitVec.toNat_ofNat]
    omega
  · rw [Major.mod_of_fnMod hm h]
    have other : ∀ mod, m.modFn mod = bitsAt mod 0 3 := by
      intro mod
      unfold Major.modFn
      split
      · exact absurd rfl hm
      · rfl
    rw [other, bitsAt_eq, BitVec.toNat_ofNat]
    omega

/-! B3 forms (R105 to R107, R111). -/

/-- The operands in the word of a B3 form of a major form, which BAR is not: its word holds a barrier's number. -/
def b3Op (m : Major) (w : Word) (lit : Option DWord) : Op :=
  let ib := bitsAt w 31 1 == 1
  let mod := (m.fnMod (bitsAt w 28 3)).getD 0
  let s := m.baseSlots mod
  { form := if lit == none then .base else .baseLit
    un := bitsAt w 2 1 == 1
    mod := mod
    d := baseOpnd s.1 (bitsAt w 10 6)
    a := baseOpnd s.2.1 (bitsAt w 16 6)
    b := if ib then .imm else baseOpnd s.2.2 (bitsAt w 22 6)
    imm22 := if ib && lit == none then (BitVec.ofNat 6 (bitsAt w 22 6)).signExtend 22 else 0
    lit := lit }

/-- Whether a literal stands after a word that has no place for it. -/
def Major.b3Stray (m : Major) (w : Word) (lit : Option DWord) : Bool :=
  lit != none && !(bitsAt w 31 1 == 1 && bitsAt w 22 6 == 0 && m.baseImm)

/-- The causes of the fields of a B3 form. -/
def Major.b3Causes (m : Major) (w : Word) : List Nat :=
  let ib := bitsAt w 31 1 == 1
  let s := m.baseSlots ((m.fnMod (bitsAt w 28 3)).getD 0)
  (if (m.fnMod (bitsAt w 28 3)).isSome then [] else [4]) ++
  (if ib && !m.baseImm then [4] else []) ++
  baseCause s.1 (bitsAt w 10 6) ++ baseCause s.2.1 (bitsAt w 16 6) ++
  (if ib then [] else baseCause s.2.2 (bitsAt w 22 6))

theorem decodeB3_eq (hm : m ≠ .bar) :
    decodeB3 joiner m w lit =
      if m.b3Stray w lit then .error 3
      else answer (m.b3Causes w ++ m.lateCauses joiner (b3Op m w lit)) (rowOf m (b3Op m w lit)) := by
  unfold decodeB3
  rw [if_neg (by simpa using hm)]
  rfl

/-- What field B of a B3 form holds: the immediate's low bits, or the register's number. -/
def Op.fieldB (o : Op) : Nat := if o.b = .imm then (o.imm22.setWidth 6).toNat else o.b.field

/-- The fields of a B3 form's word are those of the operands (Table 42). -/
def Op.b3In (o : Op) (m : Major) (w : Word) : Prop :=
  o.d.field = bitsAt w 10 6 ∧ o.a.field = bitsAt w 16 6 ∧ o.fieldB = bitsAt w 22 6 ∧ m.modFn o.mod = bitsAt w 28 3

/-- What stands in slot B of a B3 form: an immediate that fits its field or is a literal, or a register. -/
def Major.b3SlotB (m : Major) (o : Op) : Prop :=
  if o.b = .imm then m.baseImm = true ∧ o.imm22 = if o.form == .base then (o.imm22.setWidth 6).signExtend 22 else 0
  else o.form = .base ∧ baseSlotOk (m.baseSlots o.mod).2.2 o.b = true ∧ o.imm22 = 0

theorem b3Shape_iff (hm : m ≠ .bar) :
    m.b3Shape o = true ↔ (o.scope = 0 ∧ o.neg = false ∧ o.pred = 7 ∧ o.c = .none) ∧ m.fnMod (m.modFn o.mod) = some o.mod ∧
      baseSlotOk (m.baseSlots o.mod).1 o.d = true ∧ baseSlotOk (m.baseSlots o.mod).2.1 o.a = true ∧ m.b3SlotB o := by
  unfold Major.b3Shape Major.b3SlotB
  split
  · exact absurd rfl hm
  · simp only [Bool.and_eq_true, beq_iff_eq, Bool.not_eq_true']
    split_ifs <;> simp_all [and_assoc]

theorem setWidth_signExtend_self {n : Nat} (x : BitVec n) {k : Nat} (h : n ≤ k) : (x.signExtend k).setWidth n = x := by
  apply BitVec.eq_of_getLsbD_eq
  intro i hi
  simp only [BitVec.getLsbD_setWidth, BitVec.getLsbD_signExtend, hi, show i < k by omega, decide_true, Bool.true_and, if_true]

/-- The checks of field B let through what may stand in slot B, as the field holds it. -/
theorem b3SlotB_iff :
    (m.b3Stray w lit = false ∧ (bitsAt w 31 1 == 1 && !m.baseImm) = false ∧
        (if (bitsAt w 31 1 == 1) = true then [] else baseCause (m.baseSlots (b3Op m w lit).mod).2.2 (bitsAt w 22 6)) = []) ↔
      m.b3SlotB (b3Op m w lit) ∧ (b3Op m w lit).fieldB = bitsAt w 22 6 := by
  have bound : bitsAt w 22 6 < 64 := bitsAt_lt w 22 6
  unfold Major.b3Stray Major.b3SlotB Op.fieldB
  cases hib : bitsAt w 31 1 == 1 with
  | true =>
    have isB : (b3Op m w lit).b = .imm := by simp [b3Op, hib]
    cases lit with
    | none =>
      have imm : (b3Op m w none).imm22 = (BitVec.ofNat 6 (bitsAt w 22 6)).signExtend 22 := by simp [b3Op, hib]
      have form : (b3Op m w none).form = .base := rfl
      simp [isB, imm, form, setWidth_signExtend_self, Nat.mod_eq_of_lt bound]
    | some v =>
      have imm : (b3Op m w (some v)).imm22 = 0 := by simp [b3Op]
      have form : (b3Op m w (some v)).form = .baseLit := rfl
      simp [isB, imm, form, @eq_comm _ 0, and_comm]
  | false =>
    have isB : (b3Op m w lit).b = baseOpnd (m.baseSlots (b3Op m w lit).mod).2.2 (bitsAt w 22 6) := by simp [b3Op, hib]
    have reg : (b3Op m w lit).b ≠ .imm := isB ▸ baseOpnd_ne_imm _ _
    rw [if_neg reg, if_neg reg, isB]
    cases lit with
    | none =>
      have imm : (b3Op m w none).imm22 = 0 := by simp [b3Op, hib]
      have form : (b3Op m w none).form = .base := rfl
      simp [imm, form, baseCause_eq_nil bound]
    | some v =>
      have form : (b3Op m w (some v)).form = .baseLit := rfl
      simp [form]

/-- The checks of FN let through the modes that it has. -/
theorem b3Fn_iff :
    (m.fnMod (bitsAt w 28 3)).isSome = true ↔
      m.fnMod (m.modFn (b3Op m w lit).mod) = some (b3Op m w lit).mod ∧ m.modFn (b3Op m w lit).mod = bitsAt w 28 3 := by
  constructor
  · intro h
    obtain ⟨mod, hmod⟩ := Option.isSome_iff_exists.mp h
    have := Major.modFn_of_fnMod (bitsAt_lt w 28 3) hmod
    simp [b3Op, hmod, this]
  · rintro ⟨h, e⟩
    rw [← e, h]
    rfl

/-- The decoder of B3 forms finds nothing wrong just where the operands that it has read have the shape of the form and stand
in the word's fields. -/
theorem b3Causes_eq_nil (hm : m ≠ .bar) :
    (m.b3Stray w lit = false ∧ m.b3Causes w = []) ↔ m.b3Shape (b3Op m w lit) = true ∧ (b3Op m w lit).b3In m w := by
  have bound (k : Nat) : bitsAt w k 6 < 64 := bitsAt_lt w k 6
  have slots : m.baseSlots ((m.fnMod (bitsAt w 28 3)).getD 0) = m.baseSlots (b3Op m w lit).mod := rfl
  have slotB := b3SlotB_iff (m := m) (w := w) (lit := lit)
  have fn := b3Fn_iff (m := m) (w := w) (lit := lit)
  have isD : baseOpnd (m.baseSlots (b3Op m w lit).mod).1 (bitsAt w 10 6) = (b3Op m w lit).d := rfl
  have isA : baseOpnd (m.baseSlots (b3Op m w lit).mod).2.1 (bitsAt w 16 6) = (b3Op m w lit).a := rfl
  have blank : (b3Op m w lit).scope = 0 ∧ (b3Op m w lit).neg = false ∧ (b3Op m w lit).pred = 7 ∧ (b3Op m w lit).c = .none :=
    ⟨rfl, rfl, rfl, rfl⟩
  rw [b3Shape_iff hm]
  unfold Major.b3Causes Op.b3In
  simp only [List.append_eq_nil_iff, causeUnless_eq_nil, causeIf_eq_nil, Bool.not_eq_true', slots,
    baseCause_eq_nil (bound _), isD, isA]
  tauto

theorem wordLow_lt (m : Major) (o : Op) : wordLow m o < 2 ^ 10 := by
  have len := o.form.len_lt
  obtain ⟨code, -⟩ := m.code_bounds
  unfold wordLow
  split_ifs <;> omega

/-- The low bits of a word by their fields (Table 40). -/
theorem wordLow_eq (hc : m.code.1 = bitsAt w 3 7) (hl : o.form.len = bitsAt w 0 2) (hu : o.un = (bitsAt w 2 1 == 1)) :
    wordLow m o = bitsAt w 0 10 := by
  rw [wordLow, hc, hl, hu, flag_weight]
  simp only [bitsAt_eq]
  omega

/-- The low fields of a word whose other fields begin at bit 10. -/
theorem fields_low (m : Major) (o : Op) (x : Nat) :
    bitsAt (BitVec.ofNat 32 (wordLow m o + x * 2 ^ 10)) 0 2 = o.form.len ∧
      (bitsAt (BitVec.ofNat 32 (wordLow m o + x * 2 ^ 10)) 2 1 == 1) = o.un ∧
      bitsAt (BitVec.ofNat 32 (wordLow m o + x * 2 ^ 10)) 3 7 = m.code.1 := by
  have len := o.form.len_lt
  obtain ⟨code, -⟩ := m.code_bounds
  unfold wordLow
  simp (disch := decide) only [bitsAt_ofNat]
  cases o.un <;> simp <;> omega

/-- A field of a word beyond the low bits. -/
theorem bitsAt_high (m : Major) (o : Op) (x k n : Nat) (h : k + n ≤ 22) :
    bitsAt (BitVec.ofNat 32 (wordLow m o + x * 2 ^ 10)) (10 + k) n = x / 2 ^ k % 2 ^ n := by
  have low := wordLow_lt m o
  rw [bitsAt_ofNat _ _ _ (by omega), pow_add, ← Nat.div_div_eq_div_mul]
  congr 2
  omega

/-- A word from its low bits and the rest of it. -/
theorem ofNat_low_high {x : Nat} (hl : wordLow m o = bitsAt w 0 10) (hx : x = bitsAt w 10 22) :
    BitVec.ofNat 32 (wordLow m o + x * 2 ^ 10) = w := by
  apply BitVec.eq_of_toNat_eq
  rw [hl, hx, BitVec.toNat_ofNat]
  simp only [bitsAt_eq]
  have := w.isLt
  omega

/-- The fields of a B3 form from bit 10 on. -/
def b3High (m : Major) (o : Op) : Nat :=
  o.d.field + o.a.field * 2 ^ 6 + o.fieldB * 2 ^ 12 + m.modFn o.mod * 2 ^ 18 + if o.b = .imm then 2 ^ 21 else 0

theorem Op.fieldB_lt (o : Op) : o.fieldB < 64 := by
  unfold Op.fieldB
  split
  · exact BitVec.isLt _
  · exact o.b.field_lt

theorem encodeBaseWord_b3 (hm : m ≠ .bar) (hl : m.layout = some .b3) :
    encodeBaseWord m o = BitVec.ofNat 32 (wordLow m o + b3High m o * 2 ^ 10) := by
  unfold encodeBaseWord b3High Op.fieldB
  simp only [hl]
  rw [if_neg (by simpa using hm)]
  congr 1
  simp only [beq_iff_eq]
  split_ifs <;> omega

/-- The row of a base form, and its words. -/
theorem wf_encode_of_base (hr : rowOf m o = some i) (hf : o.baseForm) (hs : m.shape (o.lit == none) o = true)
    (hc : m.lateCauses joiner o = []) : i.wf joiner = true ∧ encode i = encodeBaseWord m o :: litWords o.lit := by
  have is := Instr.is_of_rowOf hr
  rw [is.wf_iff, is.encode, encodeOp_base hf]
  exact ⟨⟨hs, hc⟩, rfl⟩

theorem b3Op_baseForm : (b3Op m w lit).baseForm := rfl

theorem shape_b3 (hm : m ≠ .bar) (hl : m.layout = some .b3) (hf : o.baseForm) :
    m.shape (o.lit == none) o = true ↔ m.b3Shape o = true := by
  unfold Op.baseForm at hf
  cases h : o.lit with
  | none => simp_all [Major.shape, Op.litShape]
  | some v =>
    have form : o.form = .baseLit := by rw [hf, h]; rfl
    have isImm : m.b3Shape o = true → o.b = .imm := by
      intro hs
      obtain ⟨-, -, -, -, slotB⟩ := (b3Shape_iff hm).mp hs
      unfold Major.b3SlotB at slotB
      split at slotB
      · assumption
      · simp [form] at slotB
    simpa [Major.shape, Op.litShape, form, h, hl, hm] using isImm

theorem word_b3Op (hm : m ≠ .bar) (hl : m.layout = some .b3) (hc : m.code.1 = bitsAt w 3 7)
    (hf : (b3Op m w lit).form.len = bitsAt w 0 2) (hin : (b3Op m w lit).b3In m w) :
    encodeBaseWord m (b3Op m w lit) = w := by
  rw [encodeBaseWord_b3 hm hl]
  apply ofNat_low_high (wordLow_eq hc hf rfl)
  obtain ⟨d, a, b, fn⟩ := hin
  have isImm : ((b3Op m w lit).b = .imm) ↔ (bitsAt w 31 1 == 1) = true := by
    have := baseOpnd_ne_imm (m.baseSlots (b3Op m w lit).mod).2.2 (bitsAt w 22 6)
    simp only [b3Op] at this ⊢
    split_ifs <;> simp_all
  rw [b3High, d, a, b, fn]
  simp only [isImm]
  rw [flag_weight]
  simp only [bitsAt_eq]
  have := w.isLt
  omega

/-- What the decoder of B3 forms answers is well-formed, and its encoding is the words it was read from. -/
theorem encode_of_decodeB3 (hm : m ≠ .bar) (hl : m.layout = some .b3) (hc : m.code.1 = bitsAt w 3 7)
    (hlen : bitsAt w 0 2 = if lit == none then 0 else 3) (h : decodeB3 joiner m w lit = .ok i) :
    i.wf joiner = true ∧ encode i = w :: litWords lit := by
  rw [decodeB3_eq hm] at h
  split at h
  · cases h
  · next stray =>
    obtain ⟨causes, row⟩ := answer_eq_ok.mp h
    obtain ⟨fields, late⟩ := List.append_eq_nil_iff.mp causes
    obtain ⟨shape, hin⟩ := (b3Causes_eq_nil (lit := lit) hm).mp ⟨eq_false_of_ne_true stray, fields⟩
    have len : (b3Op m w lit).form.len = bitsAt w 0 2 := b3Op_baseForm.len.trans hlen.symm
    have words := wf_encode_of_base row b3Op_baseForm ((shape_b3 hm hl b3Op_baseForm).mpr shape) late
    rwa [word_b3Op hm hl hc len hin] at words

theorem fields_b3 (hm : m ≠ .bar) (hl : m.layout = some .b3) :
    bitsAt (encodeBaseWord m o) 10 6 = o.d.field ∧ bitsAt (encodeBaseWord m o) 16 6 = o.a.field ∧
      bitsAt (encodeBaseWord m o) 22 6 = o.fieldB ∧ bitsAt (encodeBaseWord m o) 28 3 = m.modFn o.mod ∧
      (bitsAt (encodeBaseWord m o) 31 1 == 1) = (o.b == .imm) := by
  have d := o.d.field_lt
  have a := o.a.field_lt
  have b := o.fieldB_lt
  have fn := m.modFn_lt o.mod
  rw [encodeBaseWord_b3 hm hl, bitsAt_high m o _ 0 6 (by decide), bitsAt_high m o _ 6 6 (by decide),
    bitsAt_high m o _ 12 6 (by decide), bitsAt_high m o _ 18 3 (by decide), bitsAt_high m o _ 21 1 (by decide), b3High]
  refine ⟨?_, ?_, ?_, ?_, ?_⟩
  case refine_5 =>
    rw [Bool.eq_iff_iff, beq_iff_eq, beq_iff_eq]
    split_ifs <;> simp_all <;> omega
  all_goals split_ifs <;> omega

theorem Op.eq_of_fields {o p : Op} (form : o.form = p.form) (un : o.un = p.un) (mod : o.mod = p.mod) (d : o.d = p.d)
    (a : o.a = p.a) (b : o.b = p.b) (c : o.c = p.c) (imm22 : o.imm22 = p.imm22) (lit : o.lit = p.lit)
    (scope : o.scope = p.scope) (neg : o.neg = p.neg) (pred : o.pred = p.pred) : o = p := by
  cases o
  cases p
  simp_all

/-- The operands that the decoder of B3 forms reads in the word of some operands are those operands. -/
theorem b3Op_word (hm : m ≠ .bar) (hl : m.layout = some .b3) (hf : o.baseForm) (hs : m.b3Shape o = true) :
    b3Op m (encodeBaseWord m o) o.lit = o := by
  obtain ⟨-, un, -⟩ := fields_low m o (b3High m o)
  rw [← encodeBaseWord_b3 hm hl] at un
  obtain ⟨d, a, b, fn, isImm⟩ := fields_b3 (o := o) hm hl
  obtain ⟨⟨scope, neg, pred, c⟩, mod, okD, okA, slotB⟩ := (b3Shape_iff hm).mp hs
  have isMod : (b3Op m (encodeBaseWord m o) o.lit).mod = o.mod := by simp [b3Op, fn, mod]
  have isD : (b3Op m (encodeBaseWord m o) o.lit).d = o.d := by
    show baseOpnd (m.baseSlots (b3Op m (encodeBaseWord m o) o.lit).mod).1 _ = _
    rw [isMod, d, baseOpnd_field okD]
  have isA : (b3Op m (encodeBaseWord m o) o.lit).a = o.a := by
    show baseOpnd (m.baseSlots (b3Op m (encodeBaseWord m o) o.lit).mod).2.1 _ = _
    rw [isMod, a, baseOpnd_field okA]
  have isB : (b3Op m (encodeBaseWord m o) o.lit).b = o.b ∧ (b3Op m (encodeBaseWord m o) o.lit).imm22 = o.imm22 := by
    show (if (bitsAt (encodeBaseWord m o) 31 1 == 1) = true then Opnd.imm
        else baseOpnd (m.baseSlots (b3Op m (encodeBaseWord m o) o.lit).mod).2.2 _) = _ ∧
      (if (bitsAt (encodeBaseWord m o) 31 1 == 1 && o.lit == none) = true then _ else 0) = _
    rw [isMod, b, isImm]
    unfold Op.fieldB
    unfold Major.b3SlotB at slotB
    split at slotB
    · next hi =>
      obtain ⟨-, imm⟩ := slotB
      have form : (o.form == .base) = (o.lit == none) := by
        rw [show o.form = _ from hf]
        cases o.lit <;> rfl
      rw [form] at imm
      simp only [hi, beq_self_eq_true, if_true, Bool.true_and, BitVec.ofNat_toNat, BitVec.setWidth_eq, true_and]
      exact imm.symm
    · next hi =>
      obtain ⟨-, okB, imm⟩ := slotB
      simp [hi, baseOpnd_field okB, imm]
  exact Op.eq_of_fields hf.symm un isMod isD isA isB.1 c.symm isB.2 rfl scope.symm neg.symm pred.symm

/-- The words of a well-formed B3 form are read as the instruction that they encode. -/
theorem decodeB3_word (hm : m ≠ .bar) (hl : m.layout = some .b3) (hr : rowOf m o = some i) (hf : o.baseForm)
    (hs : m.b3Shape o = true) (hc : m.lateCauses joiner o = []) :
    decodeB3 joiner m (encodeBaseWord m o) o.lit = .ok i := by
  have same := b3Op_word hm hl hf hs
  obtain ⟨d, a, b, fn, -⟩ := fields_b3 (o := o) hm hl
  have ok := (b3Causes_eq_nil (w := encodeBaseWord m o) (lit := o.lit) hm).mpr
    (by rw [same]; exact ⟨hs, d.symm, a.symm, b.symm, fn.symm⟩)
  rw [decodeB3_eq hm, same, if_neg (by simp [ok.1])]
  exact answer_eq_ok.mpr ⟨by rw [ok.2, hc]; rfl, hr⟩

/-! BAR (R138): the number of a barrier where other B3 forms have their fields. -/

/-- The fields of BAR from bit 10 on. -/
def barHigh (o : Op) : Nat := o.imm22.toNat * 2 ^ 12 + 2 ^ 21

theorem encodeBaseWord_bar : encodeBaseWord .bar o = BitVec.ofNat 32 (wordLow .bar o + barHigh o * 2 ^ 10) := by
  have sum : wordLow .bar o + barHigh o * 2 ^ 10 = wordLow .bar o + o.imm22.toNat * 2 ^ 22 + 2 ^ 31 := by
    unfold barHigh
    omega
  rw [sum]
  simp [encodeBaseWord, Major.layout]

/-- The operands in the word of BAR. -/
def barOp (w : Word) : Op := { form := .base, un := bitsAt w 2 1 == 1, imm22 := BitVec.ofNat 22 (bitsAt w 22 6) }

theorem decodeB3_bar : decodeB3 joiner .bar w lit =
    if lit != none then .error 3
    else answer ((if bitsAt w 31 1 == 1 && bitsAt w 28 3 == 0 && bitsAt w 16 6 == 0 && bitsAt w 10 6 == 0 then [] else [4]) ++
      Major.lateCauses .bar joiner (barOp w)) (Instr.ofBase .bar (barOp w)) := rfl

theorem barShape_barOp (h : Major.lateCauses .bar joiner (barOp w) = []) : Major.b3Shape .bar (barOp w) = true := by
  have own : Major.ownOk .bar (barOp w) = true := by
    simp only [Major.lateCauses, List.append_eq_nil_iff] at h
    obtain ⟨⟨⟨⟨⟨⟨⟨-, own⟩, -⟩, -⟩, -⟩, -⟩, -⟩, -⟩ := h
    exact causeUnless_eq_nil.mp own
  have number : (BitVec.ofNat 22 (bitsAt w 22 6)).toNat < 16 := by
    have : (barOp w).ownBits.toNat < 16 := by simpa [Major.ownOk] using own
    have wide : (barOp w).ownBits = (BitVec.ofNat 22 (bitsAt w 22 6)).setWidth 64 := rfl
    rw [wide, BitVec.toNat_setWidth] at this
    omega
  simpa [Major.b3Shape, barOp] using number

theorem word_barOp (hc : Major.bar.code.1 = bitsAt w 3 7) (hlen : bitsAt w 0 2 = 0)
    (hz : (bitsAt w 31 1 == 1 && bitsAt w 28 3 == 0 && bitsAt w 16 6 == 0 && bitsAt w 10 6 == 0) = true) :
    encodeBaseWord .bar (barOp w) = w := by
  rw [encodeBaseWord_bar]
  apply ofNat_low_high (wordLow_eq (o := barOp w) hc hlen.symm rfl)
  simp only [barHigh, barOp, BitVec.toNat_ofNat]
  simp only [Bool.and_eq_true, beq_iff_eq] at hz
  simp only [bitsAt_eq] at hz ⊢
  have := w.isLt
  omega

theorem encode_of_decodeBar (hc : Major.bar.code.1 = bitsAt w 3 7)
    (hlen : bitsAt w 0 2 = if lit == none then 0 else 3) (h : decodeB3 joiner .bar w lit = .ok i) :
    i.wf joiner = true ∧ encode i = w :: litWords lit := by
  rw [decodeB3_bar] at h
  cases lit with
  | some v => cases h
  | none =>
    rw [if_neg (by simp)] at h
    obtain ⟨causes, row⟩ := answer_eq_ok.mp h
    obtain ⟨fields, late⟩ := List.append_eq_nil_iff.mp causes
    have shape : Major.shape .bar true (barOp w) = true := barShape_barOp late
    have words := wf_encode_of_base (m := .bar) (o := barOp w) row rfl shape late
    rwa [word_barOp hc hlen (causeUnless_eq_nil.mp fields)] at words

/-- The words of a well-formed BAR are read as it. -/
theorem decodeBar_word (hr : Instr.ofBase .bar o = some i) (hl : o.lit = none) (hs : Major.b3Shape .bar o = true)
    (hc : Major.lateCauses .bar joiner o = []) : decodeB3 joiner .bar (encodeBaseWord .bar o) none = .ok i := by
  have shape : (o.scope = 0 ∧ o.neg = false ∧ o.pred = 7 ∧ o.c = .none) ∧
      o.form = .base ∧ o.mod = 0 ∧ o.d = .none ∧ o.a = .none ∧ o.b = .none ∧ o.imm22.toNat < 16 := by
    simpa [Major.b3Shape, and_assoc] using hs
  obtain ⟨⟨scope, neg, pred, c⟩, form, mod, d, a, b, number⟩ := shape
  obtain ⟨-, un, -⟩ := fields_low .bar o (barHigh o)
  have fields := bitsAt_high .bar o (barHigh o)
  rw [← encodeBaseWord_bar] at un fields
  have number : bitsAt (encodeBaseWord .bar o) 22 6 = o.imm22.toNat := by
    rw [fields 12 6 (by decide), barHigh]
    omega
  have blank : bitsAt (encodeBaseWord .bar o) 31 1 = 1 ∧ bitsAt (encodeBaseWord .bar o) 28 3 = 0 ∧
      bitsAt (encodeBaseWord .bar o) 16 6 = 0 ∧ bitsAt (encodeBaseWord .bar o) 10 6 = 0 := by
    rw [fields 21 1 (by decide), fields 18 3 (by decide), fields 6 6 (by decide), fields 0 6 (by decide), barHigh]
    omega
  have same : barOp (encodeBaseWord .bar o) = o :=
    Op.eq_of_fields form.symm un mod.symm d.symm a.symm b.symm c.symm (by simp [barOp, number]) hl.symm scope.symm neg.symm pred.symm
  rw [decodeB3_bar, same, if_neg (by simp)]
  exact answer_eq_ok.mpr ⟨by simp [hc, blank], hr⟩

end Sys2Proof

/-! Branches and memory accesses in base form (R108, R110, R111), and the decoder as a whole. -/
namespace Sys2Proof

variable {i : Instr} {m : Major} {o : Op} {joiner : Bool} {w : Word} {lit : Option DWord}

/-- The operands in the word of a BJ form. -/
def bjOp (w : Word) (lit : Option DWord) : Op :=
  { form := if lit == none then .base else .baseLit
    un := bitsAt w 2 1 == 1
    imm22 := (BitVec.ofNat 18 (bitsAt w 14 18)).signExtend 22
    lit := lit
    neg := bitsAt w 13 1 == 1
    pred := BitVec.ofNat 3 (bitsAt w 10 3) }

theorem bjOp_baseForm : (bjOp w lit).baseForm := rfl

theorem decodeBJ_eq : decodeBJ joiner m w lit =
    if lit != none && (m == .ret || bitsAt w 14 18 != 0) then .error 3
    else answer ((if m == .ret && bitsAt w 14 18 != 0 then [4] else []) ++ m.lateCauses joiner (bjOp w lit))
      (rowOf m (bjOp w lit)) := rfl

/-- A displacement is 0 just where its field is. -/
theorem bjDisp_iff {d : Nat} (hd : d < 2 ^ 18) : (BitVec.ofNat 18 d).signExtend 22 = 0#22 ↔ d = 0 := by
  constructor
  · intro h
    have := congrArg (BitVec.setWidth 18) h
    rw [setWidth_signExtend_self _ (by decide)] at this
    have := congrArg BitVec.toNat this
    rw [BitVec.toNat_ofNat, Nat.mod_eq_of_lt hd] at this
    simpa using this
  · rintro rfl
    rfl

/-- A displacement stands neither in RET nor beside a literal. -/
theorem bjCauses_eq_nil :
    ((lit != none && (m == .ret || bitsAt w 14 18 != 0)) = false ∧ (m == .ret && bitsAt w 14 18 != 0) = false) ↔
      m.bjShape (bjOp w lit) = true := by
  have disp := bjDisp_iff (bitsAt_lt w 14 18)
  cases lit with
  | none =>
    have form : (bjOp w none).form = .base := rfl
    have fits : (bjOp w none).imm22 = ((bjOp w none).imm22.setWidth 18).signExtend 22 := by
      simp [bjOp, setWidth_signExtend_self]
    by_cases hm : m = .ret
    · simp [Major.bjShape, hm, bjOp, disp]
    · simpa [Major.bjShape, form, hm, bjOp] using fits
  | some v =>
    simp [Major.bjShape, bjOp, disp]
    tauto

/-- The fields of a BJ form from bit 10 on. -/
def bjHigh (o : Op) : Nat := o.pred.toNat + (if o.neg then 2 ^ 3 else 0) + (o.imm22.setWidth 18).toNat * 2 ^ 4

theorem encodeBaseWord_bj (hl : m.layout = some .bj) :
    encodeBaseWord m o = BitVec.ofNat 32 (wordLow m o + bjHigh o * 2 ^ 10) := by
  unfold encodeBaseWord bjHigh
  simp only [hl]
  congr 1
  split_ifs <;> omega

theorem shape_bj (hl : m.layout = some .bj) (hf : o.baseForm) : m.shape (o.lit == none) o = true ↔ m.bjShape o = true := by
  unfold Op.baseForm at hf
  cases h : o.lit <;> simp_all [Major.shape, Op.litShape]

theorem encode_of_decodeBJ (hl : m.layout = some .bj) (hc : m.code.1 = bitsAt w 3 7)
    (hlen : bitsAt w 0 2 = if lit == none then 0 else 3) (h : decodeBJ joiner m w lit = .ok i) :
    i.wf joiner = true ∧ encode i = w :: litWords lit := by
  rw [decodeBJ_eq] at h
  split at h
  · cases h
  · next stray =>
    obtain ⟨causes, row⟩ := answer_eq_ok.mp h
    obtain ⟨disp, late⟩ := List.append_eq_nil_iff.mp causes
    have shape : m.bjShape (bjOp w lit) = true :=
      bjCauses_eq_nil.mp ⟨eq_false_of_ne_true stray, by simpa using disp⟩
    have len : (bjOp w lit).form.len = bitsAt w 0 2 := bjOp_baseForm.len.trans hlen.symm
    have word : encodeBaseWord m (bjOp w lit) = w := by
      rw [encodeBaseWord_bj hl]
      apply ofNat_low_high (wordLow_eq hc len rfl)
      have neg : (if (bjOp w lit).neg = true then 2 ^ 3 else 0) = bitsAt w 13 1 * 2 ^ 3 := flag_weight w 13 (2 ^ 3)
      have pred : (bjOp w lit).pred.toNat = bitsAt w 10 3 := ofNat_bitsAt w 10 3
      have imm : ((bjOp w lit).imm22.setWidth 18).toNat = bitsAt w 14 18 := by
        rw [bjOp, setWidth_signExtend_self _ (by decide), ofNat_bitsAt]
      rw [bjHigh, neg, pred, imm]
      simp only [bitsAt_eq]
      have := w.isLt
      omega
    have words := wf_encode_of_base row bjOp_baseForm ((shape_bj hl bjOp_baseForm).mpr shape) late
    rwa [word] at words

theorem bjOp_word (hl : m.layout = some .bj) (hf : o.baseForm) (hs : m.bjShape o = true) :
    bjOp (encodeBaseWord m o) o.lit = o := by
  obtain ⟨-, un, -⟩ := fields_low m o (bjHigh o)
  have fields := bitsAt_high m o (bjHigh o)
  rw [← encodeBaseWord_bj hl] at un fields
  have hp := o.pred.isLt
  have hi := (o.imm22.setWidth 18).isLt
  have pred : bitsAt (encodeBaseWord m o) 10 3 = o.pred.toNat := by
    rw [fields 0 3 (by decide), bjHigh]
    split_ifs <;> omega
  have neg : (bitsAt (encodeBaseWord m o) 13 1 == 1) = o.neg := by
    rw [fields 3 1 (by decide), bjHigh, Bool.eq_iff_iff, beq_iff_eq]
    split_ifs <;> simp_all <;> omega
  have disp : bitsAt (encodeBaseWord m o) 14 18 = (o.imm22.setWidth 18).toNat := by
    rw [fields 4 18 (by decide), bjHigh]
    split_ifs <;> omega
  have shape : (o.scope = 0 ∧ o.mod = 0 ∧ o.d = .none ∧ o.a = .none ∧ o.b = .none ∧ o.c = .none) ∧
      o.imm22 = (o.imm22.setWidth 18).signExtend 22 := by
    simp only [Major.bjShape, Bool.and_eq_true, beq_iff_eq, and_assoc] at hs
    obtain ⟨scope, mod, d, a, b, c, imm⟩ := hs
    refine ⟨⟨scope, mod, d, a, b, c⟩, ?_⟩
    split at imm
    · split at imm
      · rw [eq_of_beq imm]; rfl
      · exact eq_of_beq imm
    · simp only [Bool.and_eq_true, beq_iff_eq] at imm
      rw [imm.2]; rfl
  obtain ⟨⟨scope, mod, d, a, b, c⟩, imm⟩ := shape
  refine Op.eq_of_fields hf.symm un mod.symm d.symm a.symm b.symm c.symm ?_ rfl scope.symm neg (by simp [bjOp, pred])
  rw [bjOp, disp, BitVec.ofNat_toNat, BitVec.setWidth_eq, ← imm]

theorem decodeBJ_word (hl : m.layout = some .bj) (hr : rowOf m o = some i) (hf : o.baseForm)
    (hs : m.bjShape o = true) (hc : m.lateCauses joiner o = []) :
    decodeBJ joiner m (encodeBaseWord m o) o.lit = .ok i := by
  have same := bjOp_word hl hf hs
  obtain ⟨stray, disp⟩ := bjCauses_eq_nil.mpr (same.symm ▸ hs)
  rw [decodeBJ_eq, same, if_neg (by simp [stray]), disp]
  exact answer_eq_ok.mpr ⟨hc, hr⟩

/-! BM forms (R110, R111). -/

/-- The operands in the word of a BM form. -/
def bmOp (w : Word) (lit : Option DWord) : Op :=
  let sel := bitsAt w 31 1 == 1
  let fn := bitsAt w 28 3
  { form := if lit == none then .base else .baseLit
    un := bitsAt w 2 1 == 1
    mod := BitVec.ofNat 16 (if sel then fn else fn + 4096)
    d := .g (BitVec.ofNat 6 (bitsAt w 10 6))
    a := .a (BitVec.ofNat 4 (bitsAt w 22 4))
    b := if sel then .none else .g (BitVec.ofNat 6 (bitsAt w 16 6))
    imm22 := if sel then BitVec.ofNat 22 (bitsAt w 16 6 * baseSize fn) else 0
    lit := lit }

/-- Whether a literal stands after a word that has no place for it. -/
def bmStray (w : Word) (lit : Option DWord) : Bool := lit != none && !(bitsAt w 31 1 == 1 && bitsAt w 16 6 == 0)

theorem decodeBM_eq : decodeBM joiner m w lit =
    if bmStray w lit then .error 3
    else answer ((if bitsAt w 28 3 < 6 && bitsAt w 26 2 == 0 then [] else [4]) ++ m.lateCauses joiner (bmOp w lit))
      (rowOf m (bmOp w lit)) := rfl

/-- The bytes of a base access fit the byte offset of a field (R110). -/
theorem baseSize_bounds (ty : Nat) : 1 ≤ baseSize ty ∧ baseSize ty ≤ 8 := by
  unfold baseSize
  split <;> decide

/-- MOD of a BM form: the access type, and IX where an index register stands in place of an offset. -/
theorem bmMod_fields {ty : Nat} (h : ty < 8) :
    (bitsAt (BitVec.ofNat 16 ty) 0 3 = ty ∧ bitsAt (BitVec.ofNat 16 ty) 12 1 = 0) ∧
      bitsAt (BitVec.ofNat 16 (ty + 4096)) 0 3 = ty ∧ bitsAt (BitVec.ofNat 16 (ty + 4096)) 12 1 = 1 := by
  simp only [bitsAt_eq, BitVec.toNat_ofNat]
  omega

/-- An index register in place of an offset (R110). -/
def Op.bmIndexed (o : Op) : Prop :=
  o.mod = BitVec.ofNat 16 (bitsAt o.mod 0 3 + 4096) ∧ o.form = .base ∧ (∃ k, o.b = .g k) ∧ o.imm22 = 0

/-- An offset in bytes, a multiple of the access size, or a literal in its place (R110, R111). -/
def Op.bmOffset (o : Op) : Prop :=
  o.mod = BitVec.ofNat 16 (bitsAt o.mod 0 3) ∧ o.b = .none ∧
    if o.form = .base then o.imm22.toNat % baseSize (bitsAt o.mod 0 3) = 0 ∧ o.imm22.toNat / baseSize (bitsAt o.mod 0 3) < 64
    else o.imm22 = 0

/-- Whether an operand is a G register. -/
def Opnd.isG : Opnd → Bool
  | .g _ => true
  | _ => false

/-- Whether an operand is an A register. -/
def Opnd.isA : Opnd → Bool
  | .a _ => true
  | _ => false

theorem Opnd.isG_iff {x : Opnd} : x.isG = true ↔ ∃ k, x = .g k := by cases x <;> simp [Opnd.isG]

theorem Opnd.isA_iff {x : Opnd} : x.isA = true ↔ ∃ k, x = .a k := by cases x <;> simp [Opnd.isA]

theorem bmShape_eq : Major.bmShape o =
    (o.scope == 0 && !o.neg && o.pred == 7 && o.c == .none && bitsAt o.mod 0 3 < 6 && o.d.isG && o.a.isA &&
      (if o.mod == BitVec.ofNat 16 (bitsAt o.mod 0 3 + 4096) then o.form == .base && o.b.isG && o.imm22 == 0
       else o.mod == BitVec.ofNat 16 (bitsAt o.mod 0 3) && o.b == .none &&
        (if o.form == .base then
          o.imm22.toNat % baseSize (bitsAt o.mod 0 3) == 0 && o.imm22.toNat / baseSize (bitsAt o.mod 0 3) < 64
        else o.imm22 == 0))) := rfl

theorem bmMod_apart {ty : Nat} (h : ty < 8) : BitVec.ofNat 16 (ty + 4096) ≠ BitVec.ofNat 16 ty := by
  intro e
  obtain ⟨⟨-, offset⟩, -, indexed⟩ := bmMod_fields h
  rw [e, offset] at indexed
  cases indexed

theorem bmShape_iff :
    Major.bmShape o = true ↔ (o.scope = 0 ∧ o.neg = false ∧ o.pred = 7 ∧ o.c = .none) ∧ bitsAt o.mod 0 3 < 6 ∧
      (∃ k, o.d = .g k) ∧ (∃ k, o.a = .a k) ∧ (o.bmIndexed ∨ o.bmOffset) := by
  have slot : (if (o.mod == BitVec.ofNat 16 (bitsAt o.mod 0 3 + 4096)) = true then o.form == .base && o.b.isG && o.imm22 == 0
      else o.mod == BitVec.ofNat 16 (bitsAt o.mod 0 3) && o.b == .none &&
        (if (o.form == .base) = true then
          o.imm22.toNat % baseSize (bitsAt o.mod 0 3) == 0 && o.imm22.toNat / baseSize (bitsAt o.mod 0 3) < 64
        else o.imm22 == 0)) = true ↔ o.bmIndexed ∨ o.bmOffset := by
    unfold Op.bmIndexed Op.bmOffset
    by_cases h : o.mod = BitVec.ofNat 16 (bitsAt o.mod 0 3 + 4096)
    · have other : o.mod ≠ BitVec.ofNat 16 (bitsAt o.mod 0 3) := fun e =>
        bmMod_apart (bitsAt_lt o.mod 0 3) (h.symm.trans e)
      rw [if_pos (beq_iff_eq.mpr h)]
      simp only [Bool.and_eq_true, beq_iff_eq, Opnd.isG_iff, and_assoc, eq_true h, eq_false other, true_and, false_and, or_false]
    · rw [if_neg (by simpa using h)]
      simp only [h, false_and, false_or, Bool.and_eq_true, beq_iff_eq, and_assoc]
      split_ifs <;> simp
  rw [bmShape_eq, Bool.and_eq_true, slot]
  simp only [Bool.and_eq_true, beq_iff_eq, Bool.not_eq_true', decide_eq_true_eq, Opnd.isG_iff, Opnd.isA_iff, and_assoc]

/-- A literal stands beside an offset that is 0, never beside an index register: what the slots of a BM form hold. -/
theorem bmStray_iff : bmStray w lit = false ↔ (bmOp w lit).bmIndexed ∨ (bmOp w lit).bmOffset := by
  have off : bitsAt w 16 6 < 64 := bitsAt_lt w 16 6
  obtain ⟨⟨ty, -⟩, tyIx, -⟩ := bmMod_fields (bitsAt_lt w 28 3)
  have apart := bmMod_apart (bitsAt_lt w 28 3)
  obtain ⟨size, small⟩ := baseSize_bounds (bitsAt w 28 3)
  unfold Op.bmIndexed Op.bmOffset bmStray
  cases sel : bitsAt w 31 1 == 1 with
  | true =>
    have mod : (bmOp w lit).mod = BitVec.ofNat 16 (bitsAt w 28 3) := by simp [bmOp, sel]
    have imm : (bmOp w lit).imm22 = BitVec.ofNat 22 (bitsAt w 16 6 * baseSize (bitsAt w 28 3)) := by simp [bmOp, sel]
    have b : (bmOp w lit).b = .none := by simp [bmOp, sel]
    have nat : bitsAt w 16 6 * baseSize (bitsAt w 28 3) % 2 ^ 22 = bitsAt w 16 6 * baseSize (bitsAt w 28 3) :=
      Nat.mod_eq_of_lt (by nlinarith)
    rw [mod, ty, imm, b, BitVec.toNat_ofNat, nat, Nat.mul_mod_left, Nat.mul_div_cancel _ size]
    cases lit with
    | none => simp [bmOp, off, apart.symm]
    | some v =>
      have zero : BitVec.ofNat 22 (bitsAt w 16 6 * baseSize (bitsAt w 28 3)) = 0#22 ↔ bitsAt w 16 6 = 0 := by
        rw [← BitVec.toNat_inj, BitVec.toNat_ofNat, nat, BitVec.toNat_ofNat, Nat.zero_mod, Nat.mul_eq_zero]
        omega
      simp [bmOp, apart.symm, zero]
  | false =>
    have mod : (bmOp w lit).mod = BitVec.ofNat 16 (bitsAt w 28 3 + 4096) := by simp [bmOp, sel]
    have b : (bmOp w lit).b = .g (BitVec.ofNat 6 (bitsAt w 16 6)) := by simp [bmOp, sel]
    have imm : (bmOp w lit).imm22 = 0 := by simp [bmOp, sel]
    rw [mod, tyIx, imm, b]
    cases lit <;> simp [bmOp, apart]

theorem bmOp_type : bitsAt (bmOp w lit).mod 0 3 = bitsAt w 28 3 := by
  obtain ⟨⟨ty, -⟩, tyIx, -⟩ := bmMod_fields (bitsAt_lt w 28 3)
  cases sel : bitsAt w 31 1 == 1 <;> simp [bmOp, sel, ty, tyIx]

theorem bmCauses_eq_nil :
    (bmStray w lit = false ∧ (decide (bitsAt w 28 3 < 6) && bitsAt w 26 2 == 0) = true) ↔
      Major.bmShape (bmOp w lit) = true ∧ bitsAt w 26 2 = 0 := by
  have blank : (bmOp w lit).scope = 0 ∧ (bmOp w lit).neg = false ∧ (bmOp w lit).pred = 7 ∧ (bmOp w lit).c = .none :=
    ⟨rfl, rfl, rfl, rfl⟩
  have isD : ∃ k, (bmOp w lit).d = .g k := ⟨_, rfl⟩
  have isA : ∃ k, (bmOp w lit).a = .a k := ⟨_, rfl⟩
  rw [bmShape_iff, bmOp_type, bmStray_iff]
  simp only [Bool.and_eq_true, decide_eq_true_eq, beq_iff_eq]
  exact ⟨fun ⟨slot, type, zero⟩ => ⟨⟨blank, type, isD, isA, slot⟩, zero⟩,
    fun ⟨⟨_, type, _, _, slot⟩, zero⟩ => ⟨slot, type, zero⟩⟩

/-- The fields of a BM form from bit 10 on. -/
def bmHigh (o : Op) : Nat :=
  o.d.field + (if bitsAt o.mod 12 1 = 1 then o.b.field else o.imm22.toNat / baseSize (bitsAt o.mod 0 3)) * 2 ^ 6 +
    o.a.field * 2 ^ 12 + bitsAt o.mod 0 3 * 2 ^ 18 + if bitsAt o.mod 12 1 = 1 then 0 else 2 ^ 21

theorem encodeBaseWord_bm (hl : m.layout = some .bm) :
    encodeBaseWord m o = BitVec.ofNat 32 (wordLow m o + bmHigh o * 2 ^ 10) := by
  unfold encodeBaseWord bmHigh
  simp only [hl, beq_iff_eq]
  congr 1
  split_ifs <;> omega

theorem bmOp_baseForm : (bmOp w lit).baseForm := rfl

theorem shape_bm (hl : m.layout = some .bm) (hf : o.baseForm) :
    m.shape (o.lit == none) o = true ↔ Major.bmShape o = true := by
  unfold Op.baseForm at hf
  cases h : o.lit with
  | none => simp_all [Major.shape, Op.litShape]
  | some v =>
    have form : o.form = .baseLit := by rw [hf, h]; rfl
    have isOffset : Major.bmShape o = true → bitsAt o.mod 12 1 = 0 := by
      intro hs
      obtain ⟨-, -, -, -, ⟨-, isBase, -⟩ | ⟨mod, -⟩⟩ := bmShape_iff.mp hs
      · simp [form] at isBase
      · rw [mod]
        exact (bmMod_fields (bitsAt_lt o.mod 0 3)).1.2
    simpa [Major.shape, Op.litShape, form, h, hl] using isOffset

theorem bmOp_indexed : (bitsAt (bmOp w lit).mod 12 1 = 1) ↔ ¬ (bitsAt w 31 1 == 1) = true := by
  obtain ⟨⟨-, offset⟩, -, indexed⟩ := bmMod_fields (bitsAt_lt w 28 3)
  cases sel : bitsAt w 31 1 == 1 <;> simp [bmOp, sel, offset, indexed]

theorem word_bmOp (hl : m.layout = some .bm) (hc : m.code.1 = bitsAt w 3 7) (hf : (bmOp w lit).form.len = bitsAt w 0 2)
    (hz : bitsAt w 26 2 = 0) : encodeBaseWord m (bmOp w lit) = w := by
  rw [encodeBaseWord_bm hl]
  apply ofNat_low_high (wordLow_eq hc hf rfl)
  have d : (bmOp w lit).d.field = bitsAt w 10 6 := ofNat_bitsAt w 10 6
  have a : (bmOp w lit).a.field = bitsAt w 22 4 := ofNat_bitsAt w 22 4
  have off : (if bitsAt (bmOp w lit).mod 12 1 = 1 then (bmOp w lit).b.field
      else (bmOp w lit).imm22.toNat / baseSize (bitsAt w 28 3)) = bitsAt w 16 6 := by
    obtain ⟨size, small⟩ := baseSize_bounds (bitsAt w 28 3)
    have bound := bitsAt_lt w 16 6
    simp only [bmOp_indexed]
    cases sel : bitsAt w 31 1 == 1 with
    | true =>
      have nat : bitsAt w 16 6 * baseSize (bitsAt w 28 3) % 2 ^ 22 = bitsAt w 16 6 * baseSize (bitsAt w 28 3) :=
        Nat.mod_eq_of_lt (by nlinarith)
      simp only [bmOp, sel, if_true, not_true, if_false, BitVec.toNat_ofNat, nat, Nat.mul_div_cancel _ size]
    | false => simpa [bmOp, sel, Opnd.field] using bound
  have sel : (if bitsAt (bmOp w lit).mod 12 1 = 1 then 0 else 2 ^ 21) = bitsAt w 31 1 * 2 ^ 21 := by
    simp only [bmOp_indexed, ite_not]
    exact flag_weight w 31 _
  rw [bmHigh, bmOp_type, d, a, off, sel]
  simp only [bitsAt_eq] at hz ⊢
  have := w.isLt
  omega

theorem encode_of_decodeBM (hl : m.layout = some .bm) (hc : m.code.1 = bitsAt w 3 7)
    (hlen : bitsAt w 0 2 = if lit == none then 0 else 3) (h : decodeBM joiner m w lit = .ok i) :
    i.wf joiner = true ∧ encode i = w :: litWords lit := by
  rw [decodeBM_eq] at h
  split at h
  · cases h
  · next stray =>
    obtain ⟨causes, row⟩ := answer_eq_ok.mp h
    obtain ⟨fields, late⟩ := List.append_eq_nil_iff.mp causes
    obtain ⟨shape, blank⟩ := (bmCauses_eq_nil (lit := lit)).mp ⟨eq_false_of_ne_true stray, causeUnless_eq_nil.mp fields⟩
    have len : (bmOp w lit).form.len = bitsAt w 0 2 := bmOp_baseForm.len.trans hlen.symm
    have words := wf_encode_of_base row bmOp_baseForm ((shape_bm hl bmOp_baseForm).mpr shape) late
    rwa [word_bmOp hl hc len blank] at words

/-- Whether an index register stands in a BM form is what bit 12 of MOD says. -/
theorem bm_ix_iff (hs : o.bmIndexed ∨ o.bmOffset) : (bitsAt o.mod 12 1 = 1 ↔ o.bmIndexed) ∧ (bitsAt o.mod 12 1 ≠ 1 ↔ o.bmOffset) := by
  obtain ⟨⟨-, offset⟩, -, indexed⟩ := bmMod_fields (bitsAt_lt o.mod 0 3)
  have isIx : o.bmIndexed → bitsAt o.mod 12 1 = 1 := fun h => by rw [h.1, indexed]
  have isOff : o.bmOffset → bitsAt o.mod 12 1 ≠ 1 := fun h => by rw [h.1, offset]; decide
  exact ⟨⟨fun h => hs.resolve_right fun k => isOff k h, isIx⟩, ⟨fun h => hs.resolve_left fun k => h (isIx k), isOff⟩⟩

theorem bmOp_word (hl : m.layout = some .bm) (hf : o.baseForm) (hs : Major.bmShape o = true) :
    bmOp (encodeBaseWord m o) o.lit = o ∧ bitsAt (encodeBaseWord m o) 26 2 = 0 := by
  obtain ⟨⟨scope, neg, pred, c⟩, type, ⟨kd, d⟩, ⟨ka, a⟩, slot⟩ := bmShape_iff.mp hs
  obtain ⟨-, un, -⟩ := fields_low m o (bmHigh o)
  have fields := bitsAt_high m o (bmHigh o)
  rw [← encodeBaseWord_bm hl] at un fields
  obtain ⟨size, small⟩ := baseSize_bounds (bitsAt o.mod 0 3)
  have hd := kd.isLt
  have ha := ka.isLt
  obtain ⟨off, hoff⟩ : ∃ off, off = if bitsAt o.mod 12 1 = 1 then o.b.field else o.imm22.toNat / baseSize (bitsAt o.mod 0 3) := ⟨_, rfl⟩
  have small : off < 64 := by
    rw [hoff]
    split_ifs with ix
    · exact o.b.field_lt
    · obtain ⟨-, -, imm⟩ := (bm_ix_iff slot).2.mp ix
      split_ifs at imm
      · exact imm.2
      · simp [imm]
  have high : bmHigh o = kd.toNat + off * 2 ^ 6 + ka.toNat * 2 ^ 12 + bitsAt o.mod 0 3 * 2 ^ 18 +
      if bitsAt o.mod 12 1 = 1 then 0 else 2 ^ 21 := by
    rw [bmHigh, d, a, hoff]
    rfl
  have isD : bitsAt (encodeBaseWord m o) 10 6 = kd.toNat := by
    rw [fields 0 6 (by decide), high]
    split_ifs <;> omega
  have isOff : bitsAt (encodeBaseWord m o) 16 6 = off := by
    rw [fields 6 6 (by decide), high]
    split_ifs <;> omega
  have isA : bitsAt (encodeBaseWord m o) 22 4 = ka.toNat := by
    rw [fields 12 4 (by decide), high]
    split_ifs <;> omega
  have isZero : bitsAt (encodeBaseWord m o) 26 2 = 0 := by
    rw [fields 16 2 (by decide), high]
    split_ifs <;> omega
  have isFn : bitsAt (encodeBaseWord m o) 28 3 = bitsAt o.mod 0 3 := by
    rw [fields 18 3 (by decide), high]
    split_ifs <;> omega
  have sel : (bitsAt (encodeBaseWord m o) 31 1 == 1) = !(bitsAt o.mod 12 1 == 1) := by
    rw [fields 21 1 (by decide), high, Bool.eq_iff_iff, beq_iff_eq]
    split_ifs <;> simp_all <;> omega
  refine ⟨?_, isZero⟩
  obtain ⟨mod, isB, imm⟩ : (bmOp (encodeBaseWord m o) o.lit).mod = o.mod ∧ (bmOp (encodeBaseWord m o) o.lit).b = o.b ∧
      (bmOp (encodeBaseWord m o) o.lit).imm22 = o.imm22 := by
    by_cases ix : bitsAt o.mod 12 1 = 1
    · obtain ⟨mod, -, ⟨k, b⟩, imm⟩ := (bm_ix_iff slot).1.mp ix
      rw [if_pos ix, b] at hoff
      have number : BitVec.ofNat 6 off = k := by rw [hoff]; simp [Opnd.field]
      simp only [bmOp, sel, ix, isFn, isOff, number, b, imm]
      exact ⟨mod.symm, rfl, rfl⟩
    · obtain ⟨mod, b, imm⟩ := (bm_ix_iff slot).2.mp ix
      rw [if_neg ix] at hoff
      have bytes : BitVec.ofNat 22 (off * baseSize (bitsAt o.mod 0 3)) = o.imm22 := by
        split_ifs at imm
        · rw [hoff, Nat.div_mul_cancel (Nat.dvd_of_mod_eq_zero imm.1), BitVec.ofNat_toNat, BitVec.setWidth_eq]
        · rw [hoff, imm]
          simp
      simp only [bmOp, sel, ix, isFn, isOff, b, beq_iff_eq, Bool.not_eq_true', beq_eq_false_iff_ne, ne_eq, not_false_eq_true,
        if_true, bytes, and_true]
      exact mod.symm
  exact Op.eq_of_fields hf.symm un mod (by rw [d]; simp [bmOp, isD]) (by rw [a]; simp [bmOp, isA]) isB c.symm imm rfl scope.symm
    neg.symm pred.symm

theorem decodeBM_word (hl : m.layout = some .bm) (hr : rowOf m o = some i) (hf : o.baseForm)
    (hs : Major.bmShape o = true) (hc : m.lateCauses joiner o = []) :
    decodeBM joiner m (encodeBaseWord m o) o.lit = .ok i := by
  obtain ⟨same, zero⟩ := bmOp_word hl hf hs
  obtain ⟨stray, fields⟩ := bmCauses_eq_nil.mpr ⟨same.symm ▸ hs, zero⟩
  rw [decodeBM_eq, same, if_neg (by simp [stray]), fields]
  exact answer_eq_ok.mpr ⟨hc, hr⟩

/-! The decoder as a whole. -/

/-- The decoder of a layout. -/
def decodeBase (joiner : Bool) (m : Major) (w : Word) (lit : Option DWord) : Layout → Except Nat Instr
  | .b3 => decodeB3 joiner m w lit
  | .bj => decodeBJ joiner m w lit
  | .bm => decodeBM joiner m w lit

theorem encode_of_decodeBase {l : Layout} (hl : m.layout = some l) (hc : m.code.1 = bitsAt w 3 7)
    (hlen : bitsAt w 0 2 = if lit == none then 0 else 3) (h : decodeBase joiner m w lit l = .ok i) :
    i.wf joiner = true ∧ encode i = w :: litWords lit := by
  cases l with
  | b3 =>
    by_cases hm : m = .bar
    · subst hm
      exact encode_of_decodeBar hc hlen h
    · exact encode_of_decodeB3 hm hl hc hlen h
  | bj => exact encode_of_decodeBJ hl hc hlen h
  | bm => exact encode_of_decodeBM hl hc hlen h

/-- The word and the literal of a well-formed base form are read as the instruction that they encode. -/
theorem decodeBase_word {l : Layout} (hl : m.layout = some l) (hr : rowOf m o = some i) (hf : o.baseForm)
    (hs : m.shape (o.lit == none) o = true) (hc : m.lateCauses joiner o = []) :
    decodeBase joiner m (encodeBaseWord m o) o.lit l = .ok i := by
  cases l with
  | b3 =>
    by_cases hm : m = .bar
    · subst hm
      cases hlit : o.lit with
      | some v => simp [Major.shape, hlit, Op.litShape, show o.form = .baseLit by rw [hf, hlit]; rfl, Major.layout] at hs
      | none =>
        rw [rowOf, hlit] at hr
        have shape : Major.b3Shape .bar o = true := by
          simp only [Major.shape, Bool.and_eq_true, hlit, beq_self_eq_true, if_true, Major.layout] at hs
          exact hs.2.2
        exact decodeBar_word hr hlit shape hc
    · exact decodeB3_word hm hl hr hf ((shape_b3 hm hl hf).mp hs) hc
  | bj => exact decodeBJ_word hl hr hf ((shape_bj hl hf).mp hs) hc
  | bm => exact decodeBM_word hl hr hf ((shape_bm hl hf).mp hs) hc

variable {w0 w1 w2 w3 w4 : Word}

theorem decode_ext (hop : bitsAt w0 3 7 ≠ 127) (hlen : bitsAt w0 0 2 = 1) :
    decode joiner w0 w1 w2 w3 w4 = decodeExt joiner w0 w1 w2 none := by
  simp [decode, hop, hlen]

theorem decode_extLit (hop : bitsAt w0 3 7 ≠ 127) (hlen : bitsAt w0 0 2 = 2) :
    decode joiner w0 w1 w2 w3 w4 = decodeExt joiner w0 w1 w2 (some (pairOf w3 w4)) := by
  simp [decode, hop, hlen]

/-- The decoder of base forms, with the literal that may follow. -/
def decodeWord (joiner : Bool) (w : Word) (lit : Option DWord) : Except Nat Instr :=
  match majorOfOpc (bitsAt w 3 7) 0 with
  | none => .error 3
  | some m => match m.layout with
    | none => .error 3
    | some l => decodeBase joiner m w lit l

theorem decode_base (hop : bitsAt w0 3 7 ≠ 127) (h1 : bitsAt w0 0 2 ≠ 1) (h2 : bitsAt w0 0 2 ≠ 2) :
    decode joiner w0 w1 w2 w3 w4 = decodeWord joiner w0 (if bitsAt w0 0 2 == 3 then some (pairOf w1 w2) else none) := by
  simp only [decode, beq_iff_eq, hop, h1, h2, if_false, decodeWord]
  cases majorOfOpc (bitsAt w0 3 7) 0 with
  | none => rfl
  | some m =>
    cases h : m.layout with
    | none => simp [h]
    | some l => cases l <;> simp [h, decodeBase]

theorem decodeWord_ok {lit : Option DWord} (h : decodeWord joiner w lit = .ok i) :
    ∃ m l, m.layout = some l ∧ m.code.1 = bitsAt w 3 7 ∧ decodeBase joiner m w lit l = .ok i := by
  unfold decodeWord at h
  split at h
  · cases h
  · next m hm =>
    split at h
    · cases h
    · next l hl => exact ⟨m, l, hl, by rw [majorOfOpc_code hm], h⟩

theorem decodeWord_of_layout {l : Layout} {lit : Option DWord} (hl : m.layout = some l) (hc : bitsAt w 3 7 = m.code.1) :
    decodeWord joiner w lit = decodeBase joiner m w lit l := by
  simp only [decodeWord, hc, majorOfOpc_of_layout hl, hl]

/-- What the decoder answers is well-formed, and its encoding is the first of the words it was read from. -/
theorem encode_of_decode (h : decode joiner w0 w1 w2 w3 w4 = .ok i) :
    i.wf joiner = true ∧ encode i = [w0, w1, w2, w3, w4].take (encode i).length := by
  have hop : bitsAt w0 3 7 ≠ 127 := by
    intro hop
    simp [decode, hop] at h
  by_cases h1 : bitsAt w0 0 2 = 1
  · obtain ⟨wf, e⟩ := encode_of_decodeExt (by simp [h1]) (decode_ext hop h1 ▸ h)
    exact ⟨wf, by rw [e]; rfl⟩
  by_cases h2 : bitsAt w0 0 2 = 2
  · obtain ⟨wf, e⟩ := encode_of_decodeExt (by simp [h2]) (decode_extLit hop h2 ▸ h)
    exact ⟨wf, by rw [e, litWords, lowWord_pairOf, highWord_pairOf]; rfl⟩
  rw [decode_base hop h1 h2] at h
  obtain ⟨m, l, hl, hc, hd⟩ := decodeWord_ok h
  by_cases h3 : bitsAt w0 0 2 = 3
  · simp only [h3, beq_self_eq_true, if_true] at hd
    obtain ⟨wf, e⟩ := encode_of_decodeBase hl hc (by simp [h3]) hd
    exact ⟨wf, by rw [e, litWords, lowWord_pairOf, highWord_pairOf]; rfl⟩
  · have h0 : bitsAt w0 0 2 = 0 := by
      have := bitsAt_lt w0 0 2
      omega
    simp only [h0] at hd
    obtain ⟨wf, e⟩ := encode_of_decodeBase hl hc (by simp [h0]) hd
    exact ⟨wf, by rw [e]; rfl⟩

/-- A shape is that of an extended form or that of a base form. -/
theorem forms_of_shape {isBase : Bool} (h : m.shape isBase o = true) :
    (isBase = false ∧ o.extForm ∧ m.extShape o = true) ∨
      (isBase = (o.lit == none) ∧ o.baseForm ∧ ∃ l, m.layout = some l) := by
  unfold Major.shape Op.litShape at h
  unfold Op.extForm Op.baseForm
  have layout : m.layout = none ∨ ∃ l, m.layout = some l := by cases m.layout <;> simp
  cases hf : o.form <;> cases isBase <;> simp [hf] at h
  case ext.false | extLit.false => exact .inl ⟨rfl, by simp [h.1], h.2⟩
  case base.true | baseLit.false =>
    obtain ⟨lit, shape⟩ := h
    refine .inr ⟨by revert lit; cases o.lit <;> simp, by simp [lit], layout.resolve_left fun none => ?_⟩
    simp [none] at shape

/-- The low fields of the word of a base form. -/
theorem fields_encodeBaseWord {l : Layout} (hl : m.layout = some l) :
    bitsAt (encodeBaseWord m o) 0 2 = o.form.len ∧ bitsAt (encodeBaseWord m o) 3 7 = m.code.1 := by
  have word : ∃ x, encodeBaseWord m o = BitVec.ofNat 32 (wordLow m o + x * 2 ^ 10) := by
    cases l with
    | b3 =>
      by_cases hm : m = .bar
      · subst hm
        exact ⟨_, encodeBaseWord_bar⟩
      · exact ⟨_, encodeBaseWord_b3 hm hl⟩
    | bj => exact ⟨_, encodeBaseWord_bj hl⟩
    | bm => exact ⟨_, encodeBaseWord_bm hl⟩
  obtain ⟨x, word⟩ := word
  obtain ⟨len, -, code⟩ := fields_low m o x
  rw [word]
  exact ⟨len, code⟩

theorem opc_ne (hc : bitsAt w 3 7 = m.code.1) : bitsAt w 3 7 ≠ 127 := by
  have := m.code_bounds.1
  omega

/-- The words of a well-formed extended form are read as the instruction that they encode. -/
theorem decodeWords_ext (hf : o.extForm) (hx : m.extShape o = true) (hc : m.lateCauses joiner o = []) :
    decodeWords joiner (extWord0 m o :: extWord1 o :: extWord2 o :: litWords o.lit) = .ok (Instr.ofExt m o) := by
  obtain ⟨len, -, code, -⟩ := fields_extWord0 m o
  have read := decodeExt_words hf hx hc
  rw [show o.form = _ from hf] at len
  unfold decodeWords
  cases hl : o.lit with
  | none =>
    rw [hl] at len read
    exact (decode_ext (opc_ne code) len).trans read
  | some v =>
    rw [hl] at len read
    have pair : pairOf (lowWord v) (highWord v) = v := pairOf_words v
    refine (decode_extLit (opc_ne code) len).trans ?_
    simpa [litWords, pair] using read

/-- The words of a well-formed base form are read as the instruction that they encode. -/
theorem decodeWords_base {l : Layout} (hl : m.layout = some l) (is : i.Is m (o.lit == none) o) (hf : o.baseForm)
    (hs : m.shape (o.lit == none) o = true) (hc : m.lateCauses joiner o = []) :
    decodeWords joiner (encodeBaseWord m o :: litWords o.lit) = .ok i := by
  obtain ⟨len, code⟩ := fields_encodeBaseWord (o := o) hl
  have read := (decodeWord_of_layout hl code).trans (decodeBase_word hl is.rowOf hf hs hc)
  rw [show o.form = _ from hf] at len
  unfold decodeWords
  cases hlit : o.lit with
  | none =>
    rw [hlit] at len read
    refine (decode_base (opc_ne code) (by simp [len, Form.len]) (by simp [len, Form.len])).trans ?_
    simpa [len, Form.len] using read
  | some v =>
    rw [hlit] at len read
    have pair : pairOf (lowWord v) (highWord v) = v := pairOf_words v
    refine (decode_base (opc_ne code) (by simp [len, Form.len]) (by simp [len, Form.len])).trans ?_
    simpa [len, Form.len, litWords, pair] using read

/-- The words of a well-formed instruction are read as that instruction. -/
theorem decode_of_encode (h : i.wf joiner = true) : decodeWords joiner (encode i) = .ok i := by
  obtain ⟨m, isBase, o, is⟩ := Instr.is_of_wf h
  obtain ⟨shape, late⟩ := is.wf_iff.mp h
  obtain ⟨rfl, form, ext⟩ | ⟨rfl, form, l, hl⟩ := forms_of_shape shape
  · obtain ⟨-, words⟩ := wf_encode_of_ext ext late form
    rw [is.ofExt] at words
    rw [words, decodeWords_ext form ext late, is.ofExt]
  · rw [is.encode, encodeOp_base form]
    exact decodeWords_base hl is form shape late

/-- Settles O2: the fields of the words are the operands, which the checks of the decoder let through just where they have the
shape of the form. -/
theorem decodeOfEncode : Obligations.DecodeOfEncode := by
  unfold Obligations.DecodeOfEncode
  exact fun joiner i h => decode_of_encode h

/-- Settles O3: an instruction that the checks let through has the shape of its form, and the fields of its words are all
their bits. -/
theorem wordsHaveOneMeaning : Obligations.WordsHaveOneMeaning := by
  unfold Obligations.WordsHaveOneMeaning
  exact fun joiner w0 w1 w2 w3 w4 i h => encode_of_decode h

end Sys2Proof

/-! Traps at issue (R120, R201, R299, R302, R356): what ends an instruction before it has any effect. -/
namespace Sys2Proof.Machine
open Sys2Proof

variable {m : Major} {o : Op} {s : State} {c : Ctx}

/-- The state after a trap that an instruction takes as it issues, in the lanes that run, or at a replay those of the replay
mask (log entry 27). -/
def Ctx.trapped (c : Ctx) (s : State) (cls cause : Nat) (info : List Byte) : State :=
  ({ s with cur := none }).takeTrap c.r c.act cls cause info []

theorem ex_bind_error {α β : Type} {x : Ex α} {s t : State} (h : x s = .error t) (f : α → Ex β) : (x >>= f) s = .error t := by
  show Except.bind (x s) _ = _
  rw [h]; rfl

theorem issue_error {k : Ctx → Ex Unit} {t : State} (hi : Issues m o s c) (e : k c { s with cur := none } = .error t) :
    issue m o s k = .next t := by
  rw [issue_free m o s k hi, e]; rfl

/-- No gauge watches where an instruction issues at once: its trap is all that happens. -/
theorem trap_ends {α : Type} (hi : Issues m o s c) (cls cause : Nat) (info : List Byte) :
    (c.trap cls cause info : Ex α) { s with cur := none } = .error (c.trapped s cls cause info) := by
  have quiet : ({ s with cur := none } : State).pcEvents c.r c.f.pc (c.act ||| c.f.pcDue) = { s with cur := none } := by
    have none : (({ s with cur := none } : State).coreAt (({ s with cur := none } : State).coreOf c.r.gid)).gauges = [] := hi.gauges
    simp [State.pcEvents, State.gaugeEvents, none]
  unfold Ctx.trap Ctx.trapped
  rw [quiet]

/-! Causes 9 and 11 (R120). -/

/-- An instruction whose first act is the check of its slots, with no cause of its own. -/
def ChecksFirst (mk : Op → Instr) (m : Major) : Prop :=
  ∀ o s, ∃ rest : Ctx → Unit → Ex Unit, exec (mk o) s = issue m o s fun c => c.check [] >>= rest c

theorem checksFirst_listed : ∀ p ∈ [(Instr.iadd, Major.iadd), (Instr.iaddExt, Major.iadd), (Instr.imul, Major.imul),
    (Instr.and, Major.and), (Instr.shl, Major.shl), (Instr.sel, Major.sel), (Instr.fadd, Major.fadd), (Instr.ffma, Major.ffma),
    (Instr.dfma, Major.dfma), (Instr.xadd, Major.xadd), (Instr.ld, Major.ld)], ChecksFirst p.1 p.2 := by
  simp only [List.forall_mem_cons, List.not_mem_nil, false_imp_iff, implies_true, and_true]
  exact ⟨fun _ _ => ⟨_, exec_iadd⟩, fun _ _ => ⟨_, exec_iaddExt⟩, fun _ _ => ⟨_, exec_imul⟩, fun _ _ => ⟨_, exec_and⟩,
    fun _ _ => ⟨_, exec_shl⟩, fun _ _ => ⟨_, exec_sel⟩, fun _ _ => ⟨_, exec_fadd⟩, fun _ _ => ⟨_, exec_ffma⟩,
    fun _ _ => ⟨_, exec_dfma⟩, fun _ _ => ⟨_, exec_xadd⟩, fun _ _ => ⟨_, exec_ld⟩⟩

theorem check_refuses {own : List Nat} {n : Nat} (hi : Issues m o s c) (low : lowestCause (c.each.flatMap (slotRefusals c) ++ own) = some n) :
    c.check own { s with cur := none } = .error (c.trapped s 1 n (wordsInfo (encodeOp m o))) := by
  obtain ⟨-, -, -, -, rfl, rfl, -⟩ := ctxOf_facts hi.picked
  rw [Ctx.check, Ctx.refuse, low]
  exact trap_ends hi 1 n _

theorem ChecksFirst.refused {mk : Op → Instr} {n : Nat} (h : ChecksFirst mk m) (hi : Issues m o s c)
    (low : lowestCause (c.each.flatMap (slotRefusals c)) = some n) :
    exec (mk o) s = .next (c.trapped s 1 n (wordsInfo (encodeOp m o))) := by
  obtain ⟨rest, e⟩ := h o s
  rw [e]
  exact issue_error hi (ex_bind_error (check_refuses hi (by rwa [List.append_nil])) _)

/-! PRIV (R356). -/

theorem siteOp_priv {acc : Access} {isPriv : Ctx → Bool} {own : Ctx → List Nat} {bad : State → Site → Op → Vals → List Nat → List Nat}
    {align : Op → Vals → Option (DWord × Nat)} {act : State → Site → Op → Nat → Vals → Done} (hi : Issues m o s c)
    (user : c.priv = false) (needs : isPriv c = true) :
    siteOp m acc isPriv own bad align act o s = .next (c.trapped s 2 0 (wordsInfo (encodeOp m o))) := by
  obtain ⟨-, -, -, -, rfl, rfl, -⟩ := ctxOf_facts hi.picked
  have refused : c.privileged { s with cur := none } = .error (c.trapped s 2 0 (wordsInfo (encodeOp c.m c.o))) := by
    rw [Ctx.privileged, user]
    exact trap_ends hi 2 0 _
  refine issue_error hi ?_
  rw [needs]
  exact ex_bind_error refused _

/-- A privileged instruction, whatever its operands. -/
def PrivilegedAlways (mk : Op → Instr) (m : Major) : Prop :=
  ∀ o s, ∃ acc own bad align act, exec (mk o) s = siteOp m acc always own bad align act o s

theorem PrivilegedAlways.refused {mk : Op → Instr} (h : PrivilegedAlways mk m) (hi : Issues m o s c) (user : c.priv = false) :
    exec (mk o) s = .next (c.trapped s 2 0 (wordsInfo (encodeOp m o))) := by
  obtain ⟨acc, own, bad, align, act, e⟩ := h o s
  rw [e]
  exact siteOp_priv hi user rfl

theorem privilegedAlways_listed : ∀ p ∈ [(Instr.mtsr, Major.mtsr), (Instr.tlbi, Major.tlbi), (Instr.eret, Major.eret),
    (Instr.hread, Major.hread), (Instr.hwrite, Major.hwrite), (Instr.hstep, Major.hstep), (Instr.hrun, Major.hrun),
    (Instr.hstat, Major.hstat), (Instr.gauge, Major.gauge), (Instr.sample, Major.sample)], PrivilegedAlways p.1 p.2 := by
  simp only [List.forall_mem_cons, List.not_mem_nil, false_imp_iff, implies_true, and_true]
  exact ⟨fun _ _ => ⟨_, _, _, _, _, exec_mtsr⟩, fun _ _ => ⟨_, _, _, _, _, exec_tlbi⟩, fun _ _ => ⟨_, _, _, _, _, exec_eret⟩,
    fun _ _ => ⟨_, _, _, _, _, exec_hread⟩, fun _ _ => ⟨_, _, _, _, _, exec_hwrite⟩, fun _ _ => ⟨_, _, _, _, _, exec_hstep⟩,
    fun _ _ => ⟨_, _, _, _, _, exec_hrun⟩, fun _ _ => ⟨_, _, _, _, _, exec_hstat⟩, fun _ _ => ⟨_, _, _, _, _, exec_gauge⟩,
    fun _ _ => ⟨_, _, _, _, _, exec_sample⟩⟩

theorem low_bits {w : Nat} (v : BitVec w) (n : Nat) : bitsAt v 0 n = v.toNat % 2 ^ n := rfl

theorem regUser_iff {i : Nat} : regUser i = true ↔ 0x10 ≤ i ∧ i ≤ 0x12 := by simp [regUser]

/-- MFSR needs privilege for a register that is not marked U: one that its own field names, or that a lane's register does
(R356, Table 176). -/
theorem mfsrPriv_iff : c.mfsrPriv = true ↔
    (c.o.mod.getLsbD 12 = false ∧ ¬ (0x10 ≤ c.o.ownBits.toNat % 2 ^ 12 ∧ c.o.ownBits.toNat % 2 ^ 12 ≤ 0x12)) ∨
      (c.o.mod.getLsbD 12 = true ∧
        ∃ v ∈ c.peekOf [1], ¬ (0x10 ≤ v.2.b.toNat % 2 ^ 12 ∧ v.2.b.toNat % 2 ^ 12 ≤ 0x12)) := by
  unfold Ctx.mfsrPriv regIndex
  cases ix : c.o.mod.getLsbD 12 with
  | false => simp [low_bits, ← regUser_iff]
  | true => simp [low_bits, ← regUser_iff]

/-- CNTR needs privilege but for a read of the own core or die (R356). -/
theorem cntrPriv_iff : c.cntrPriv = true ↔
    bitsAt c.o.mod 0 2 ≠ 0 ∨ (c.o.a = .imm ∧ (c.regVals 0).a.getLsbD 13 = false) ∨
      (c.o.a ≠ .imm ∧ ∃ v ∈ c.peekOf [0], v.2.a.getLsbD 13 = false) := by
  have self : ∀ v : DWord, (lowWord v)[13] = v[13] := fun v => by simp [lowWord]
  unfold Ctx.cntrPriv dbgOp
  by_cases h : c.o.a = .imm <;> simp [h, self]

/-! ALIGN (R201). -/

theorem bestOf_head {α : Type} {before : α → α → Bool} {x : α} {r : List α} (h : ∀ y ∈ r, before y x = false) :
    bestOf before (x :: r) = some x := by
  unfold bestOf
  split
  · rfl
  · next y hy => rw [if_neg (by simp [h y (bestOf_mem hy)])]

theorem doers_ascending : c.doers.Pairwise (· < ·) := by
  have writers : c.writers.Pairwise (· < ·) := List.Pairwise.filter _ List.pairwise_lt_range
  unfold Ctx.doers
  split
  · exact writers.sublist (List.take_sublist 1 _)
  · exact writers

/-- A lane that acts has its registers as operands where there are no streams. -/
theorem valsIn_plain {l : Nat} (hl : l ∈ c.doers) (t : State) (slots : List Nat) :
    Gather.valsIn { st := t, ins := c.plainLanes } l slots = some (c.regVals l) := by
  have found : c.plainLanes.find? (fun i => i.lane == l) = some { lane := l, vals := c.regVals l, q := (c.lane l).q } := by
    have self : c.doers.find? (fun k => k == l) = some l := by
      obtain ⟨k, hk⟩ := Option.isSome_iff_exists.mp ((List.find?_isSome (p := fun k => k == l)).mpr ⟨l, hl, beq_self_eq_true l⟩)
      rw [hk, eq_of_beq (List.find?_some (p := fun k => k == l) hk)]
    rw [Ctx.plainLanes, List.find?_map]
    exact congrArg _ self
  simp [Gather.valsIn, found]

/-- The lanes whose memory operand is misaligned. -/
theorem memAlign_plain (u : MemUse) (t : State) (ea : Nat → DWord) (he : ∀ l, u.ea l (c.regVals l) = some (ea l)) :
    c.memAlign u { st := t, ins := c.plainLanes } =
      (c.doers.filter fun l => (ea l).toNat % u.align != 0).map fun l => (l, ea l, u.align) := by
  rw [Ctx.memAlign, ← List.filterMap_eq_map, List.filterMap_filter]
  refine List.filterMap_congr fun l hl => ?_
  simp [valsIn_plain hl, he]

/-- The lowest misaligned lane traps before any lane's access (R201, R299). -/
theorem ready_misaligned (hp : Plain m o s c) (later : Bool) (u : MemUse) (ea : Nat → DWord)
    (he : ∀ l, u.ea l (c.regVals l) = some (ea l)) {l : Nat} {rest : List Nat}
    (bad : c.doers.filter (fun k => (ea k).toNat % u.align != 0) = l :: rest) :
    c.ready later (some u) { s with cur := none } =
      .error (c.trapped s 3 0 (leBytes 8 (ea l).toNat ++ leBytes 4 u.align)) := by
  have first : ∀ y ∈ rest.map (fun k => (k, ea k, u.align)), decide (y.1 < l) = false := by
    have ascending := (doers_ascending (c := c)).filter (fun k => (ea k).toNat % u.align != 0)
    rw [bad, List.pairwise_cons] at ascending
    intro y hy
    obtain ⟨k, hk, rfl⟩ := List.mem_map.mp hy
    simpa using (ascending.1 k hk).le
  have streams : c.doers.flatMap c.streamAlign = [] := by
    rw [List.flatMap_eq_nil_iff]
    intro k _
    simp [Ctx.streamAlign, usesIn_nil hp.streams]
  have traps : c.aligned (c.doers.flatMap c.streamAlign ++ c.memAlign u (c.readied later { s with cur := none }))
      { s with cur := none } = .error (c.trapped s 3 0 (leBytes 8 (ea l).toNat ++ leBytes 4 u.align)) := by
    rw [readied_plain hp.streams, memAlign_plain u _ ea he, bad, streams, List.nil_append, List.map_cons, Ctx.aligned,
      bestOf_head first]
    exact trap_ends hp.toIssues 3 0 _
  have stops : c.readyWith later (c.memAlign u) { s with cur := none } =
      .error (c.trapped s 3 0 (leBytes 8 (ea l).toNat ++ leBytes 4 u.align)) := by
    rw [Ctx.readyWith, ex_bind (ex_get _)]
    exact ex_bind_error traps _
  exact ex_bind_error stops _

/-- The address of a lane's access of `n` bytes, as the statements give it (Table 92). -/
def Ctx.accessAddr (c : Ctx) (n l : Nat) : DWord := ((operandOf c n n .load).ea l (c.regVals l)).getD 0

theorem memUse_global (n : Nat) (acc : Access) (hs : bitsAt c.o.mod 4 2 = 0) (l : Nat) :
    (c.memUse n n acc).ea l (c.regVals l) = some (c.accessAddr n l) := by
  have scaled : ∀ (x : DWord) (k : Nat), x <<< k = x * BitVec.ofNat 64 (2 ^ k) := by
    intro x k
    apply BitVec.eq_of_toNat_eq
    simp [BitVec.toNat_mul, Nat.shiftLeft_eq]
  simp only [Ctx.memUse, Ctx.memAddr, Ctx.accessAddr, operandOf, memSpace, hs, if_true, Option.getD_some, sext32, scaled]

/-- A load or store whose checks pass and that then makes its memory operand ready. -/
theorem issue_misaligned {n : Nat} {later : Bool} {acc : Access} {own : Ctx → List Nat} {rest : Ctx → Gather → Ex Unit}
    (hp : Plain m o s c) (passes : own c = []) (hs : bitsAt o.mod 4 2 = 0) {l : Nat} {ls : List Nat}
    (bad : c.doers.filter (fun k => (c.accessAddr n k).toNat % n != 0) = l :: ls) :
    issue m o s (fun c => c.check (own c) >>= fun _ => c.ready later (some (c.memUse n n acc)) >>= rest c) =
      .next (c.trapped s 3 0 (leBytes 8 (c.accessAddr n l).toNat ++ leBytes 4 n)) := by
  obtain ⟨-, -, -, -, rfl, rfl, -⟩ := ctxOf_facts hp.picked
  refine issue_error hp.toIssues ?_
  rw [ex_bind (check_ok hp.slots passes _)]
  exact ex_bind_error (ready_misaligned hp later _ _ (memUse_global _ acc hs) bad) _

theorem ld_misaligned (hp : Plain .ld o s c) (hs : bitsAt o.mod 4 2 = 0) {l : Nat} {ls : List Nat}
    (bad : c.doers.filter (fun k => (c.accessAddr (typeSize (bitsAt o.mod 0 4)) k).toNat % typeSize (bitsAt o.mod 0 4) != 0) = l :: ls) :
    ldOp o s = .next (c.trapped s 3 0
      (leBytes 8 (c.accessAddr (typeSize (bitsAt o.mod 0 4)) l).toNat ++ leBytes 4 (typeSize (bitsAt o.mod 0 4)))) :=
  issue_misaligned (own := fun _ => []) hp rfl hs bad

theorem st_misaligned (hp : Plain .st o s c) (hs : bitsAt o.mod 4 2 = 0) (scope : s.isSealed c.r.gid = true → o.scope.toNat < 8)
    {l : Nat} {ls : List Nat}
    (bad : c.doers.filter (fun k => (c.accessAddr (typeSize (bitsAt o.mod 0 4)) k).toNat % typeSize (bitsAt o.mod 0 4) != 0) = l :: ls) :
    stOp o s = .next (c.trapped s 3 0
      (leBytes 8 (c.accessAddr (typeSize (bitsAt o.mod 0 4)) l).toNat ++ leBytes 4 (typeSize (bitsAt o.mod 0 4)))) := by
  refine issue_misaligned (own := fun c => (if memSpace o == 1 || (o.mod.getLsbD 8 && memSpace o == 3) then [11] else []) ++
    c.sealedScope (memSpace o)) hp ?_ hs bad
  obtain ⟨-, -, -, -, -, hop, hs0, -⟩ := ctxOf_facts hp.picked
  have allowed : (c.s0.isSealed c.r.gid && decide (8 ≤ c.o.scope.toNat)) = false := by
    rw [hs0, hop]
    cases sealed : s.isSealed c.r.gid with
    | false => rfl
    | true => simpa using scope sealed
  have global : memSpace o = 0 := hs
  simp only [Ctx.sealedScope, global]
  simpa using allowed

/-- Settles O48: each instruction's first checks, in their order, end it in its trap (`trap_ends`), the slots by `ChecksFirst`,
privilege by `siteOp_priv`, and the addresses by `issue_misaligned`. -/
theorem causesTrap : Obligations.CausesTrap := by
  unfold Obligations.CausesTrap
  refine ⟨fun p hp o s c n hi low => (checksFirst_listed p hp).refused hi low,
    fun p hp o s c hi user => (privilegedAlways_listed p hp).refused hi user,
    fun o s c hi user named => ?_, fun o s c hi user other => ?_, fun p hp o s c l rest hp' bad global scope => ?_⟩
  case refine_1 =>
    obtain ⟨-, -, -, -, -, isOp, -⟩ := ctxOf_facts hi.picked
    exact siteOp_priv hi user (mfsrPriv_iff.mpr (isOp ▸ named))
  case refine_2 =>
    obtain ⟨-, -, -, -, -, isOp, -⟩ := ctxOf_facts hi.picked
    exact siteOp_priv hi user (cntrPriv_iff.mpr (isOp ▸ other))
  case refine_3 =>
    simp only [List.mem_cons, List.not_mem_nil, or_false] at hp
    obtain rfl | rfl | rfl | rfl := hp
    · exact ld_misaligned hp' global bad
    · exact ld_misaligned hp' global bad
    · exact st_misaligned hp' global scope bad
    · exact st_misaligned hp' global scope bad

end Sys2Proof.Machine
